-- ==== Sys2Proof/Word.lean ====
section
/-! DEFINITION. The byte of the Share Line and of the configuration memory. -/

namespace Sys2Proof

/-- One byte of a frame, of a stored record or of the configuration image (13_frame_and_record_layouts.md). -/
abbrev Byte := BitVec 8

end Sys2Proof
end

