-- ==== Sys2Proof/Syntax.lean ====
section
/-! DEFINITION. The commands of the ZT640: one constructor per row of spec/opcode_table.json, with the
operands the rules give the event (notes/assumptions/5.md). -/

namespace Sys2Proof

/-- A node number, 0 to 31 (00_scope.md, "Node number"). -/
abbrev Node := Fin 32

/-- One of the three energy mains (00_scope.md, "The setting"). -/
inductive Main where
  | m0 | m1 | m2
  deriving DecidableEq, Repr

/-- The kind of a claim line (00_scope.md, "Claim lines"). -/
inductive ClaimKind where
  | shortfall | surplus
  deriving DecidableEq, Repr

/-- A claim line: one pair of a main and a kind (00_scope.md, "Claim lines"). -/
structure ClaimLine where
  main : Main
  kind : ClaimKind
  deriving DecidableEq, Repr

/-- The two fuels of a boiler (R95, R110). -/
inductive Fuel where
  | gas | backup
  deriving DecidableEq, Repr

/-- The status of a sample on the Field Port (R61, R123, R137). -/
inductive SampleStatus where
  | ok | bad
  deriving DecidableEq, Repr

/-- How the nonvolatile write of a commit ended (R164). -/
inductive WriteResult where
  | whole | error
  deriving DecidableEq, Repr

/-- The two read slots of the Record Store (R166). -/
inductive ReadSlotId where
  | a | b
  deriving DecidableEq, Repr

/-- The level of a STANDBY REQUEST (R175). -/
inductive StandbyLevel where
  | listen | deep
  deriving DecidableEq, Repr

/-- The inbound message kinds of the Field Port (R170). -/
inductive FieldKind where
  | heatSample | demand | gasMeasure | heatOut | capability | level | flareStatus | fuelStatus
  | exportEnergy | schedule | timeSet | standbyRequest | resume | resetWarning
  deriving DecidableEq, Repr

/-- Why an inbound message is discarded (R170): its CRC or its kind is bad, or the role does not use its kind. -/
inductive DiscardReason where
  | bad
  | unused (kind : FieldKind)
  deriving DecidableEq, Repr

/-- The commands: the rows of spec/opcode_table.json in the table's order. -/
inductive Instr where
  | powerOnReset
  | pinReset
  /-- The five strap pins, and what the configuration memory answers (`none`: it does not answer) (R172). -/
  | loadComplete (strap : Node) (image : Option (List Byte))
  | listenOnlyHelloTimer
  | nodeStatusTimer
  /-- The microseconds for which the line has been quiet at this instant (R2). -/
  | lineAttemptStart (quietUs : Nat)
  | frameSentWhole
  | collision
  | backoffExpiry
  /-- The bytes heard, from the start delimiter on (R12, R182). -/
  | frameReceived (bytes : List Byte)
  | clashTimerExpiry
  | stateDelivered
  | helloDelivered
  | claimDelivered
  | leaveDelivered
  | timeDelivered
  | wakeDelivered
  | readDelivered
  | recordFrameDiscarded
  | meteringSecond
  | entryGoesStale (node : Node)
  | entryGoesAbsent (node : Node)
  | holdMinuteCheck
  | syncTimerExpiry
  | timeTimerExpiry
  | roundExpiry
  | dwellExpiry (line : ClaimLine)
  | undoDwellExpiry (line : ClaimLine)
  | fuelStatus (fuel : Fuel)
  | changeoverTimeout
  | flareStatus (position : Nat)
  | flareTimeout
  /-- A level in per mille (R61). -/
  | level (status : SampleStatus) (value : Nat)
  | levelLost
  /-- A take in SU (R46). -/
  | capability (su : Nat)
  | gasMeasure (su : Nat)
  | heatOut (su : Nat)
  | demand (su : Nat)
  /-- Flow in 0.1 kg/s, supply and return temperature in 0.01 °C (R137). -/
  | heatSample (status : SampleStatus) (flow supply return_ : Nat)
  /-- A day number and 48 commitments in SU (R121). -/
  | schedule (day : Nat) (entries : List Nat)
  /-- Signed whole kWh since the previous sample (R123). -/
  | exportEnergy (status : SampleStatus) (kwh : Int)
  | timeSet (day sec : Nat)
  | commitEnd (result : WriteResult)
  | recordPlace (slot : ReadSlotId)
  | fieldMessageDiscarded (reason : DiscardReason)
  | fieldLinkLost
  | standbyRequest (level : StandbyLevel) (clearWake : Bool)
  | resume
  | resetWarning
  | readyTimerExpiry
  | returnTimerExpiry
  | supplyLowAsserted
  | supplyLowReleased
  deriving DecidableEq, Repr

end Sys2Proof
end

