-- ==== Sys2Proof/Decode.lean ====
section
/-! DEFINITION. The decoder asked of a block: spec/opcode_table.json gives no row any bits, so no word spells
a command (notes/assumptions/4.md). -/

namespace Sys2Proof

/-- The command a word of the table's bits spells: none. -/
def decodeTableWord (_nbits _w : Nat) : Option Instr := none

end Sys2Proof
end

