-- ==== Sys2Proof/Config.lean ====
section
/-! DEFINITION. The free values: what the manual leaves open although the machine goes on. -/

namespace Sys2Proof

/-- The free value number `n`: 64 bits about which nothing is known (notes/assumptions/7.md).
`State.freeNext` counts the numbers drawn. -/
opaque Config.freeValue : Nat → BitVec 64

end Sys2Proof
end

