-- ==== Sys2Proof/Machine/State.lean ====
section
/-! DEFINITION. The state of one ZT640 station, block by block (00_scope.md, "Blocks and how they work
together"), the reasons a step can stop, and the state after a power-on reset. -/

namespace Sys2Proof.Machine

/-! ### Small types -/

/-- A count-down timer in metering seconds: `none` is stopped, `some 0` has expired and waits for its
expiry command (notes/assumptions/2.md). -/
abbrev Timer := Option Nat

/-- One value for each of the six claim lines. -/
structure Six (α : Type) where
  shortfall0 : α
  surplus0 : α
  shortfall1 : α
  surplus1 : α
  shortfall2 : α
  surplus2 : α
  deriving DecidableEq, Repr

/-- One value for each of the three mains. -/
structure Three (α : Type) where
  m0 : α
  m1 : α
  m2 : α
  deriving DecidableEq, Repr

/-- A position of the time value: a day number and a second of day (10_the_day_clock.md). -/
structure TimePos where
  day : Nat
  sec : Nat
  deriving DecidableEq, Repr

/-- The seven roles (00_scope.md). UNCONFIGURED is the absence of a role. -/
inductive Role where
  | producer | holder | boiler | consumer | turbine | townheat | exportTie
  deriving DecidableEq, Repr

/-- The seven node modes (R173, R174). -/
inductive Mode where
  | loading | listenOnly | listenIn | active | standbyListen | standbyDeep | leaving
  deriving DecidableEq, Repr

/-- The modes a STATE carries (01_the_share_line.md). -/
inductive PeerMode where
  | active | standbyListen | listenIn
  deriving DecidableEq, Repr

/-- Severity, from the mildest (R180). -/
inductive Severity where
  | none | advisory | degraded | failed
  deriving DecidableEq, Repr

/-- The nine fault kinds (R180). -/
inductive FaultKind where
  | fieldLinkLost | levelLost | flareTimeout | changeoverTimeout | storeFault | lineTxFail
  | numberClash | configStep | timeFree
  deriving DecidableEq, Repr

/-- One entry of the fault list: the kind and the Day Clock's value at its raise (R180). -/
structure FaultEntry where
  kind : FaultKind
  raised : TimePos
  deriving DecidableEq, Repr

/-- The reset causes (R173). -/
inductive ResetCause where
  | powerOn | pin | pinAfterWarning
  deriving DecidableEq, Repr

/-- The load outcomes (R172). -/
inductive LoadOutcome where
  | ok | readFailure | badCrc | recordMissing | numberMismatch | thresholdsUnordered
  deriving DecidableEq, Repr

/-- The edge of a CLAIM frame (R9). -/
inductive Edge where
  | release | assert
  deriving DecidableEq, Repr

/-- The fuel mode field of an OFFER record (13_frame_and_record_layouts.md). -/
inductive FuelField where
  | none | unknown | gas | backup | changeover
  deriving DecidableEq, Repr

/-- The time quality, from the lowest (R153). -/
inductive Quality where
  | unset | free | synced
  deriving DecidableEq, Repr

/-- The bands of a holder, NONE first and then from the lowest (R61, R62). -/
inductive Band where
  | none | emptyGuard | low | normal | high | flare
  deriving DecidableEq, Repr

/-- The reasons of a LEAVE (01_the_share_line.md). -/
inductive LeaveReason where
  | deepStandby | resetWarning | unconfigured
  deriving DecidableEq, Repr

/-- The eight frame kinds (13_frame_and_record_layouts.md). -/
inductive FrameKind where
  | hello | state | claim | leave | time | wake | read | record
  deriving DecidableEq, Repr

/-- The status of a RECORD (R166). -/
inductive RecordStatus where
  | ok | trimmed | none | busy
  deriving DecidableEq, Repr

/-- The two kinds of stored record (11_the_record_store.md). -/
inductive RecordKind where
  | bill | settle
  deriving DecidableEq, Repr

/-- The verdict on a settlement period (R126). -/
inductive Verdict where
  | within | under | over
  deriving DecidableEq, Repr

/-! ### The configuration (R172, R185) -/

/-- The action of a ladder step (R90). -/
inductive Action where
  | none | fuelBackup | fuelGas
  | raise (amount : Nat)
  | shed | flareStep
  | wake (role : Role)
  deriving DecidableEq, Repr

/-- A ladder step as it stands after R91: its action, its dwell and the mark "replaced". -/
structure Step where
  action : Action
  dwell : Nat
  replaced : Bool
  deriving DecidableEq, Repr

/-- The configured mask of a line and the steps of its ladder (R82, R90). -/
structure LineConfig where
  masked : Bool
  steps : List Step
  deriving DecidableEq, Repr

/-- The configuration the blocks have taken at the end of LOADING, after clamping. Role `none` is
UNCONFIGURED. Fields the role does not use keep the value 0 of the unconfigured station. -/
structure StationConfig where
  role : Option Role
  /-- The configuration tag: the CRC-16 of a loaded image (R172, R182). -/
  tag : Nat
  main : Main
  period : Nat
  fallbackSetpoint : Nat
  rampStep : Nat
  min : Nat
  max : Nat
  capacity : Nat
  minClass : Nat
  headClass : Nat
  t1 : Nat
  t2 : Nat
  t3 : Nat
  t4 : Nat
  drawMax : Nat
  absorbMax : Nat
  changeoverLimit : Nat
  electricCapacity : Nat
  steamRate : Nat
  guaranteedMin : Nat
  heatCapacity : Nat
  efficiency : Nat
  lines : Six LineConfig
  wakeSet : Six Bool
  tariff : List Nat
  tolerance : Nat
  deriving DecidableEq, Repr

/-! ### Line Interface Unit (01_the_share_line.md) -/

/-- A main record as a STATE carries it (R50). -/
inductive StateRecord where
  | offer (main : Main) (offer measured : Nat) (fuel : FuelField)
  | want (main : Main) (min max minClass headClass : Nat)
  | holder (main : Main) (level : Nat) (band : Band) (draw absorb : Nat)
  deriving DecidableEq, Repr

/-- The fields an enqueue request names (R7). The own claim set, mode, severity and reset cause are
filled at each attempt (R11). -/
inductive TxBody where
  /-- Role `none` is UNCONFIGURED; mains as the bits of the HELLO layout. -/
  | hello (role : Option Role) (mains period tag : Nat)
  | state (role : Role) (period : Nat) (records : List StateRecord) (extras : Option (Nat × Nat))
  | claim (line : ClaimLine) (edge : Edge)
  | leave (reason : LeaveReason)
  | time (pos : TimePos) (quality : Quality)
  /-- The selector of a ladder's WAKE: a role and a main (R97). -/
  | wake (role : Role) (main : Main)
  /-- Status, record kind code, body, and the read slot it answers for (`none`: a BUSY answer) (R166, R167). -/
  | record (status : RecordStatus) (kind : Nat) (body : List Byte) (slot : Option ReadSlotId)
  deriving DecidableEq, Repr

/-- An entry of the transmit queue. `sending` holds the frame's bytes while its attempt is in progress;
`noRetry` marks an entry that a mode entry wants removed if its attempt collides (R17). -/
structure TxEntry where
  body : TxBody
  collisions : Nat
  sending : Option (List Byte)
  noRetry : Bool
  deriving DecidableEq, Repr

/-- A good frame in the receive queue (R12, R14). -/
structure Frame where
  sender : Nat
  kind : FrameKind
  payload : List Byte
  deriving DecidableEq, Repr

structure LineUnit where
  /-- Transmit queue, oldest first (R7). -/
  tx : List TxEntry
  /-- Receive queue, oldest first (R14). -/
  rx : List Frame
  /-- The backoff wait running, in microseconds (R4). -/
  backoff : Option Nat
  /-- Consecutive-drop count (R5). -/
  drops : Nat
  /-- Last edge sent of each line (R9). -/
  lastEdge : Six Edge
  /-- Clash timer (R13). -/
  clash : Timer
  deriving DecidableEq, Repr

/-! ### Peer Table (02_the_peer_table.md) -/

/-- A main record as a peer entry keeps it: of a HOLDER record the main and the limits. -/
inductive MainRecord where
  | offer (main : Main) (offer measured : Nat) (fuel : FuelField)
  | want (main : Main) (min max minClass headClass : Nat)
  | holder (main : Main) (draw absorb : Nat)
  deriving DecidableEq, Repr

/-- The extras a peer entry keeps (R22). -/
inductive Extras where
  | none
  | tie (gap : Nat)
  | turbine (capacity : Nat)
  deriving DecidableEq, Repr

/-- A PRESENT entry of the Peer Table (R19). -/
structure PeerEntry where
  role : Role
  mains : Three Bool
  period : Nat
  /-- `none` is UNKNOWN. -/
  tag : Option Nat
  mode : PeerMode
  severity : Severity
  claims : Six Bool
  records : List MainRecord
  extras : Extras
  age : Nat
  stale : Bool
  /-- `none` is UNKNOWN. -/
  cause : Option ResetCause
  deriving DecidableEq, Repr

/-- The own entry of the Peer Table, PRESENT from the end of LOADING (R19). It is no register: the blocks hold
its values (R20, R35), `Machine.ownEntry` reads them. Its HOLDER record carries level and band (R60). -/
structure OwnEntry where
  /-- `none` is UNCONFIGURED. -/
  role : Option Role
  mains : Three Bool
  period : Nat
  /-- `none` is UNKNOWN. -/
  tag : Option Nat
  mode : Mode
  severity : Severity
  claims : Six Bool
  records : List StateRecord
  extras : Option (Nat × Nat)
  age : Nat
  stale : Bool
  cause : ResetCause
  deriving DecidableEq, Repr

/-! ### Share Engine (03_the_share_computation.md) -/

/-- The result of a round for one main (R41, R43). -/
structure MainResult where
  supply : Nat
  /-- The short tier 1 to 8, or NONE. -/
  shortTier : Option Nat
  unallocated : Nat
  excess : Nat
  deriving DecidableEq, Repr

structure ShareEngine where
  roundTimer : Timer
  roundCount : Nat
  results : Three MainResult
  grant : Nat
  minGrant : Nat
  setpoint : Nat
  /-- The station is in fallback (R52, R53). -/
  fallback : Bool
  shortfallCount : Nat
  excessCount : Nat
  capability : Option Nat
  /-- Latest GAS MEASURE or HEAT OUT value (R49). -/
  measured : Option Nat
  deriving DecidableEq, Repr

/-! ### Holder Unit (04_holders_and_the_flare.md) -/

/-- A ladder's flare request: its line, and whether it is an undo (R67). -/
structure FlareRequest where
  line : ClaimLine
  undo : Bool
  deriving DecidableEq, Repr

/-- A flare move in flight; `requester = none` is the floor (R67, R70). -/
structure FlareMove where
  target : Nat
  requester : Option FlareRequest
  timer : Nat
  deriving DecidableEq, Repr

structure HolderUnit where
  level : Nat
  band : Band
  levelTimer : Timer
  /-- `none` is UNKNOWN (R66). -/
  position : Option Nat
  move : Option FlareMove
  waiting : List FlareRequest
  deriving DecidableEq, Repr

/-! ### Claim Unit and Response Ladders (05_claim_lines.md, 06_response_ladders.md) -/

structure LineState where
  own : Bool
  /-- Source set: node numbers, strictly rising (R75). -/
  sources : List Nat
  pending : Bool
  deriving DecidableEq, Repr

/-- The state of a ladder; UNWINDING is given by its two phases. -/
inductive LadderState where
  | idle | stepping | dwell | top | undoInFlight | undoDwell
  deriving DecidableEq, Repr

/-- The outcome of a ladder's action (R95). -/
inductive ActionOutcome where
  | completed | superseded | timedOut
  deriving DecidableEq, Repr

structure Ladder where
  state : LadderState
  taken : Nat
  dwell : Timer
  outcome : Option ActionOutcome
  deriving DecidableEq, Repr

/-! ### Fuel Unit (07_boiler_fuel_changeover.md) -/

/-- The fuel mode (R107). -/
inductive FuelMode where
  | unknown | gas | backup | toBackup | toGas
  deriving DecidableEq, Repr

/-- The changeover in flight with its joined requesters (R108). -/
structure Changeover where
  target : Fuel
  timer : Nat
  joined : List ClaimLine
  deriving DecidableEq, Repr

/-- The recorded target with its waiting requesters (R109). -/
structure RecordedTarget where
  target : Fuel
  waiting : List ClaimLine
  deriving DecidableEq, Repr

structure FuelUnit where
  mode : FuelMode
  lastReported : Option Fuel
  flight : Option Changeover
  recorded : Option RecordedTarget
  deriving DecidableEq, Repr

/-! ### Records, Export Unit and Metering Unit (08, 09) -/

/-- The flags of a record (R129, R144, 13_frame_and_record_layouts.md). -/
structure RecordFlags where
  short : Bool
  powerFail : Bool
  partialStart : Bool
  resetDuring : Bool
  timeStepped : Bool
  gap : Bool
  noSchedule : Bool
  deriving DecidableEq, Repr

/-- A BILL record (R144). -/
structure BillRecord where
  seq : Nat
  start : TimePos
  length : Nat
  band : Nat
  quality : Quality
  works : Nat
  purchased : Nat
  peak : Nat
  missing : Nat
  reverse : Nat
  overRange : Nat
  flags : RecordFlags
  deriving DecidableEq, Repr

/-- A SETTLE record (R129). -/
structure SettleRecord where
  seq : Nat
  start : TimePos
  length : Nat
  commitment : Nat
  energyC : Nat
  energyE : Int
  deviation : Int
  tolerance : Nat
  penalty : Nat
  verdict : Verdict
  quality : Quality
  missing : Nat
  flags : RecordFlags
  deriving DecidableEq, Repr

/-- A record of the store. -/
inductive StoreRecord where
  | bill (r : BillRecord)
  | settle (r : SettleRecord)
  deriving DecidableEq, Repr

/-- A schedule slot that is not empty: its day and its 48 entries, `none` being NONE (R120). -/
structure DaySchedule where
  day : Nat
  entries : List (Option Nat)
  deriving DecidableEq, Repr

/-- The open settlement period (R122). -/
structure Period where
  start : TimePos
  planned : Nat
  commitment : Nat
  energyC : Nat
  energyE : Int
  missing : Nat
  quality : Quality
  flags : RecordFlags
  deriving DecidableEq, Repr

/-- The last SCHEDULE outcome (R121). -/
inductive ScheduleOutcome where
  | none | accepted
  | partly (refused : Nat)
  | refusedWrongDay
  deriving DecidableEq, Repr

structure TieUnit where
  slotA : Option DaySchedule
  slotB : Option DaySchedule
  openPeriod : Option Period
  mark : Bool
  gap : Nat
  lastSchedule : ScheduleOutcome
  lastVerdict : Option (Verdict × Nat)
  deriving DecidableEq, Repr

structure TurbineUnit where
  gapUsed : Nat
  capacitySum : Nat
  share : Nat
  baseMin : Nat
  baseMax : Nat
  deriving DecidableEq, Repr

/-- A held HEAT SAMPLE (R137). -/
structure HeatSample where
  flow : Nat
  supply : Nat
  return_ : Nat
  overRange : Bool
  deriving DecidableEq, Repr

/-- The open billing interval (R142). -/
structure Interval where
  start : TimePos
  planned : Nat
  band : Nat
  works : Nat
  purchased : Nat
  peak : Nat
  missing : Nat
  reverse : Nat
  overRange : Nat
  quality : Quality
  flags : RecordFlags
  deriving DecidableEq, Repr

structure MeteringUnit where
  demand : Option Nat
  held : Option HeatSample
  fraction : Nat
  heatBackup : Nat
  heatTotal : Nat
  worksRem : Nat
  purchRem : Nat
  minuteAcc : Nat
  openInterval : Option Interval
  heldSeconds : Nat
  holdCheckDue : Bool
  deriving DecidableEq, Repr

/-! ### Day Clock (10_the_day_clock.md) -/

/-- A hold: the clamp point and the reference time (R157). -/
structure Hold where
  point : TimePos
  reference : TimePos
  deriving DecidableEq, Repr

structure DayClock where
  trim : Int
  trimAcc : Nat
  secondLength : Nat
  time : TimePos
  quality : Quality
  syncTimer : Timer
  pendingStep : Option TimePos
  hold : Option Hold
  spanStart : Option TimePos
  timeTimer : Timer
  /-- The time value at the last reset (R131, R149). -/
  resetTime : TimePos
  deriving DecidableEq, Repr

/-! ### Record Store (11_the_record_store.md) -/

/-- A BUSY read slot (R166). `lastSent = none` while its first answer is being decided; `inQueue` while
its RECORD is in the transmit queue; `taken` numbers the READs in the order they were taken. -/
structure ReadSlot where
  next : Nat
  left : Nat
  status : RecordStatus
  waiting : Bool
  inQueue : Bool
  lastSent : Option Nat
  taken : Nat
  deriving DecidableEq, Repr

structure RecordUnit where
  /-- Records by slot number 0 to 1023, slot numbers strictly rising (R160). -/
  slots : List (Nat × StoreRecord)
  nextSeq : Nat
  newest : Nat
  /-- Hold queue in commit order (R162). -/
  holdQueue : List StoreRecord
  /-- The head's commit is in flight (R164). -/
  inFlight : Bool
  firstHandOver : Bool
  slotA : Option ReadSlot
  slotB : Option ReadSlot
  reads : Nat
  deriving DecidableEq, Repr

/-! ### NODE STATUS (R54, R74, R89, R105, R118, R132, R134, R150, R159, R169, R170 to R180) -/

/-- The state of the local link (R171). -/
inductive LinkState where
  | up | lost
  deriving DecidableEq, Repr

/-- The last standby outcome (R175). -/
inductive StandbyOutcome where
  | none | waiting | taken | refused
  deriving DecidableEq, Repr

/-- The wake latch: a set of causes (R177). -/
structure WakeLatch where
  wakeFrame : Bool
  resume : Bool
  claimRise : Six Bool
  deriving DecidableEq, Repr

/-- One main computed in NODE STATUS; grant, minimum grant and setpoint where the station wants (R54). -/
structure ShareStatus where
  main : Main
  want : Option (Nat × Nat × Nat)
  result : MainResult
  deriving DecidableEq, Repr

/-- The holder's part of NODE STATUS (R74). -/
structure HolderStatus where
  level : Nat
  band : Band
  draw : Nat
  absorb : Nat
  position : Option Nat
  moveTarget : Option Nat
  deriving DecidableEq, Repr

/-- One claim line in NODE STATUS (R89). -/
structure LineStatus where
  own : Bool
  or : Bool
  members : Nat
  masked : Bool
  pending : Bool
  deriving DecidableEq, Repr

/-- One ladder in NODE STATUS: the action in flight is a step number and whether it is an undo (R105). -/
structure LadderStatus where
  state : LadderState
  taken : Nat
  stepCount : Nat
  action : Option (Nat × Bool)
  dwellLeft : Timer
  outcome : Option ActionOutcome
  replaced : List Bool
  deriving DecidableEq, Repr

/-- The boiler's part of NODE STATUS (R118). -/
structure FuelStatus where
  mode : FuelMode
  lastReported : Option Fuel
  flight : Option (Fuel × Nat)
  recorded : Option Fuel
  joined : Nat
  waiting : Nat
  deriving DecidableEq, Repr

/-- The tie's part of NODE STATUS (R132). -/
structure TieStatus where
  start : Option TimePos
  planned : Nat
  commitment : Nat
  energyC : Nat
  energyE : Int
  missing : Nat
  flags : Option RecordFlags
  gap : Nat
  todayEntries : Nat
  tomorrowEntries : Nat
  lastSchedule : ScheduleOutcome
  lastVerdict : Option (Verdict × Nat)
  deriving DecidableEq, Repr

/-- The town heat station's part of NODE STATUS (R150). -/
structure MeterStatus where
  demand : Option Nat
  fraction : Nat
  heatBackup : Nat
  heatTotal : Nat
  held : Option HeatSample
  interval : Option Interval
  worksRem : Nat
  purchRem : Nat
  deriving DecidableEq, Repr

/-- The Day Clock's part of NODE STATUS (R159). -/
structure ClockStatus where
  time : TimePos
  quality : Quality
  syncLeft : Timer
  trim : Int
  trimAcc : Nat
  pendingStep : Option TimePos
  hold : Option Hold
  spanStart : Option TimePos
  deriving DecidableEq, Repr

/-- The Record Store's part of NODE STATUS: a read slot as its next number and the count left (R169). -/
structure StoreStatus where
  oldest : Option Nat
  newest : Nat
  nextSeq : Nat
  held : Nat
  inFlight : Option Nat
  slotA : Option (Nat × Nat)
  slotB : Option (Nat × Nat)
  storeFault : Bool
  deriving DecidableEq, Repr

/-- NODE STATUS, by named fields (the spec gives its message no byte layout). -/
structure NodeStatus where
  mode : Mode
  severity : Severity
  faults : List FaultEntry
  link : LinkState
  loadOutcome : LoadOutcome
  cause : ResetCause
  lastStandby : StandbyOutcome
  latch : WakeLatch
  shares : List ShareStatus
  lines : Six LineStatus
  ladders : Six LadderStatus
  holder : Option HolderStatus
  fuel : Option FuelStatus
  tie : Option TieStatus
  turbine : Option TurbineUnit
  meter : Option MeterStatus
  clock : ClockStatus
  store : StoreStatus
  deriving DecidableEq, Repr

/-- The outbound messages of the Field Port (R170). -/
inductive FieldOut where
  | setpoint (main : Main) (value : Nat)
  | fuelCommand (target : Fuel)
  | flareCommand (position : Nat)
  | resetReady
  | nodeStatus (status : NodeStatus)
  deriving DecidableEq, Repr

/-! ### Field Port and Mode Controller (12) -/

structure FieldPort where
  link : LinkState
  linkTimer : Timer
  statusTimer : Timer
  /-- The messages sent so far, oldest first: the model's own record (notes/assumptions/29.md). -/
  out : List FieldOut
  deriving DecidableEq, Repr

/-- A waiting standby request (R175). -/
structure StandbyRequest where
  level : StandbyLevel
  clearWake : Bool
  deriving DecidableEq, Repr

structure ModeController where
  mode : Mode
  node : Node
  config : StationConfig
  /-- The outcome of the latest load; before a load since the reset, OK (notes/assumptions/6.md). -/
  loadOutcome : LoadOutcome
  rememberedTag : Option Nat
  cause : ResetCause
  warning : Bool
  waitingRequest : Option StandbyRequest
  lastStandby : StandbyOutcome
  latch : WakeLatch
  faults : List FaultEntry
  helloTimer : Timer
  readyTimer : Timer
  returnTimer : Timer
  supplyLow : Bool
  deriving DecidableEq, Repr

/-! ### The machine -/

/-- The state of the station, the commands waiting, and the count of free values drawn. -/
structure State where
  liu : LineUnit
  /-- PRESENT peer entries by node number, strictly rising (R19). -/
  peers : List (Nat × PeerEntry)
  se : ShareEngine
  hu : HolderUnit
  cu : Six LineState
  rl : Six Ladder
  fu : FuelUnit
  tie : TieUnit
  turbine : TurbineUnit
  mu : MeteringUnit
  dc : DayClock
  rs : RecordUnit
  fp : FieldPort
  mc : ModeController
  /-- How many free values have been drawn (notes/assumptions/7.md). -/
  freeNext : Nat
  /-- The commands waiting, first in first out. -/
  pending : List Instr
  deriving DecidableEq, Repr

/-- The spec names no condition that stops the part: its faults are entries of the fault list (R180).
No command raises a `Fault`. -/
inductive Fault
  deriving DecidableEq, Repr

/-- Why a command has no meaning. -/
inductive Refusal where
  /-- A command not modelled, by its mnemonic. No meaning raises it. Safe. -/
  | notModelled (mnemonic : String)
  /-- An operand outside what the message can carry (WellFormed.lean): raised by SCHEDULE, EXPORT_ENERGY
  and TIME_SET. Safe: the hardware never sees such a message (notes/assumptions/28.md). -/
  | illFormed
  deriving DecidableEq, Repr

/-! ### Reset -/

/-- The same value on all six lines. -/
def Six.all {α : Type} (x : α) : Six α := ⟨x, x, x, x, x, x⟩

/-- The configuration of an UNCONFIGURED station (R90, R172): no role, no steps. That every line is unmasked and
the wake set empty until an image gives them (R88) is notes/assumptions/6.md. -/
def StationConfig.unconfigured : StationConfig where
  role := none
  tag := 0
  main := .m0
  period := 0
  fallbackSetpoint := 0
  rampStep := 0
  min := 0
  max := 0
  capacity := 0
  minClass := 0
  headClass := 0
  t1 := 0
  t2 := 0
  t3 := 0
  t4 := 0
  drawMax := 0
  absorbMax := 0
  changeoverLimit := 0
  electricCapacity := 0
  steamRate := 0
  guaranteedMin := 0
  heatCapacity := 0
  efficiency := 0
  lines := Six.all ⟨false, []⟩
  wakeSet := Six.all false
  tariff := []
  tolerance := 0

/-- R18, which does not list the backoff wait of R4: none runs after a reset (notes/assumptions/6.md). -/
def LineUnit.reset : LineUnit := ⟨[], [], none, 0, Six.all .release, none⟩

/-- R59; the setpoint before the end of LOADING: notes/assumptions/6.md. -/
def ShareEngine.reset : ShareEngine where
  roundTimer := none
  roundCount := 0
  results := ⟨⟨0, none, 0, 0⟩, ⟨0, none, 0, 0⟩, ⟨0, none, 0, 0⟩⟩
  grant := 0
  minGrant := 0
  setpoint := 0
  fallback := true
  shortfallCount := 0
  excessCount := 0
  capability := none
  measured := none

/-- R73. -/
def HolderUnit.reset : HolderUnit := ⟨0, .none, none, none, none, []⟩

/-- R88. -/
def LineState.reset : LineState := ⟨false, [], false⟩

/-- R104. -/
def Ladder.reset : Ladder := ⟨.idle, 0, none, none⟩

/-- R117. -/
def FuelUnit.reset : FuelUnit := ⟨.unknown, none, none, none⟩

/-- R131, power-on column. -/
def TieUnit.reset : TieUnit := ⟨none, none, none, false, 0, .none, none⟩

/-- R45, R134: base want 0 and 0 until the first delivery (notes/assumptions/6.md). -/
def TurbineUnit.reset : TurbineUnit := ⟨0, 0, 0, 0, 0⟩

/-- R148, power-on column; the sums behind the purchased fraction: notes/assumptions/6.md. -/
def MeteringUnit.reset : MeteringUnit := ⟨none, none, 0, 0, 0, 0, 0, 0, none, 0, false⟩

/-- R159, power-on column. -/
def DayClock.reset : DayClock := ⟨0, 0, 32768, ⟨0, 0⟩, .unset, none, none, none, none, none, ⟨0, 0⟩⟩

/-- R160, R169: a blank store at power-on (notes/assumptions/6.md). -/
def RecordUnit.blank : RecordUnit := ⟨[], 1, 0, [], false, true, none, none, 0⟩

/-- R171. -/
def FieldPort.reset : FieldPort := ⟨.up, none, none, []⟩

/-- R173: power-on; straps, SUPPLY LOW and the load outcome: notes/assumptions/6.md. -/
def ModeController.reset : ModeController where
  mode := .loading
  node := 0
  config := .unconfigured
  loadOutcome := .ok
  rememberedTag := none
  cause := .powerOn
  warning := false
  waitingRequest := none
  lastStandby := .none
  latch := ⟨false, false, Six.all false⟩
  faults := []
  helloTimer := none
  readyTimer := none
  returnTimer := none
  supplyLow := false

/-- The machine right after a power-on reset: LOADING, nothing queued. -/
def State.reset : State where
  liu := .reset
  peers := []
  se := .reset
  hu := .reset
  cu := Six.all .reset
  rl := Six.all .reset
  fu := .reset
  tie := .reset
  turbine := .reset
  mu := .reset
  dc := .reset
  rs := .blank
  fp := .reset
  mc := .reset
  freeNext := 0
  pending := []

end Sys2Proof.Machine
end

