-- ==== Sys2Proof/Machine/Ops.lean ====
section
/-! DEFINITION. The shared operations: claim lines and mains, timers, keyed lists and source sets,
positions of the time value, free values, one update per block, and sending on the Field Port. -/

namespace Sys2Proof.Machine

/-! ### Claim lines and mains -/

/-- The six claim lines in the bit order of the own claim set (13_frame_and_record_layouts.md). -/
def allLines : List ClaimLine :=
  [⟨.m0, .shortfall⟩, ⟨.m0, .surplus⟩, ⟨.m1, .shortfall⟩, ⟨.m1, .surplus⟩, ⟨.m2, .shortfall⟩, ⟨.m2, .surplus⟩]

/-- The three mains. -/
def allMains : List Main := [.m0, .m1, .m2]

/-- The number of a main. -/
def mainNumber : Main → Nat
  | .m0 => 0
  | .m1 => 1
  | .m2 => 2

/-- The main of a number, above 2 none (R183). -/
def mainOfNumber : Nat → Option Main
  | 0 => some .m0
  | 1 => some .m1
  | 2 => some .m2
  | _ => none

/-- The place of a line in the claim-set order. -/
def lineNumber (l : ClaimLine) : Nat :=
  2 * mainNumber l.main + (match l.kind with | .shortfall => 0 | .surplus => 1)

/-- The value of a line. -/
def Six.get {α : Type} (x : Six α) : ClaimLine → α
  | ⟨.m0, .shortfall⟩ => x.shortfall0
  | ⟨.m0, .surplus⟩ => x.surplus0
  | ⟨.m1, .shortfall⟩ => x.shortfall1
  | ⟨.m1, .surplus⟩ => x.surplus1
  | ⟨.m2, .shortfall⟩ => x.shortfall2
  | ⟨.m2, .surplus⟩ => x.surplus2

/-- The six values with the one of a line replaced. -/
def Six.set {α : Type} (x : Six α) (l : ClaimLine) (v : α) : Six α :=
  match l with
  | ⟨.m0, .shortfall⟩ => { x with shortfall0 := v }
  | ⟨.m0, .surplus⟩ => { x with surplus0 := v }
  | ⟨.m1, .shortfall⟩ => { x with shortfall1 := v }
  | ⟨.m1, .surplus⟩ => { x with surplus1 := v }
  | ⟨.m2, .shortfall⟩ => { x with shortfall2 := v }
  | ⟨.m2, .surplus⟩ => { x with surplus2 := v }

/-- Six values from a function of the line. -/
def Six.build {α : Type} (f : ClaimLine → α) : Six α :=
  ⟨f ⟨.m0, .shortfall⟩, f ⟨.m0, .surplus⟩, f ⟨.m1, .shortfall⟩, f ⟨.m1, .surplus⟩, f ⟨.m2, .shortfall⟩,
    f ⟨.m2, .surplus⟩⟩

/-- The value of a main. -/
def Three.get {α : Type} (x : Three α) : Main → α
  | .m0 => x.m0
  | .m1 => x.m1
  | .m2 => x.m2

/-- The three values with the one of a main replaced. -/
def Three.set {α : Type} (x : Three α) (m : Main) (v : α) : Three α :=
  match m with
  | .m0 => { x with m0 := v }
  | .m1 => { x with m1 := v }
  | .m2 => { x with m2 := v }

/-! ### Timers -/

/-- One metering second off a running timer; an expired or stopped timer stays (R151). -/
def tick : Timer → Timer
  | some (n + 1) => some n
  | some 0 => some 0
  | none => none

/-- The timer has expired. -/
def expired (t : Timer) : Bool := t == some 0

/-! ### Keyed lists and sets of node numbers -/

/-- The value listed under a key. -/
def assocGet {α : Type} (k : Nat) : List (Nat × α) → Option α
  | [] => none
  | (a, x) :: rest => if a = k then some x else assocGet k rest

/-- The list with a value under a key, keys kept strictly rising. -/
def assocPut {α : Type} (k : Nat) (v : α) : List (Nat × α) → List (Nat × α)
  | [] => [(k, v)]
  | (a, x) :: rest =>
    if k < a then (k, v) :: (a, x) :: rest
    else if k = a then (k, v) :: rest
    else (a, x) :: assocPut k v rest

/-- The list without a key. -/
def assocErase {α : Type} (k : Nat) : List (Nat × α) → List (Nat × α)
  | [] => []
  | (a, x) :: rest => if a = k then assocErase k rest else (a, x) :: assocErase k rest

/-- The set with a number added, numbers kept strictly rising. -/
def setAdd (n : Nat) : List Nat → List Nat
  | [] => [n]
  | a :: rest => if n < a then n :: a :: rest else if n = a then a :: rest else a :: setAdd n rest

/-- The set without a number. -/
def setRemove (n : Nat) : List Nat → List Nat
  | [] => []
  | a :: rest => if a = n then setRemove n rest else a :: setRemove n rest

/-- The list with the first element that meets `p` changed by `f`. -/
def changeFirst {α : Type} (p : α → Bool) (f : α → α) : List α → List α
  | [] => []
  | x :: rest => if p x then f x :: rest else x :: changeFirst p f rest

/-- The list without the first element that meets `p`. -/
def removeFirst {α : Type} (p : α → Bool) : List α → List α
  | [] => []
  | x :: rest => if p x then rest else x :: removeFirst p rest

/-- The least number of a list. -/
def leastOf : List Nat → Option Nat
  | [] => none
  | a :: rest => match leastOf rest with
    | none => some a
    | some b => some (Nat.min a b)

/-- The sum of a list. -/
def sumOf : List Nat → Nat
  | [] => 0
  | a :: rest => a + sumOf rest

/-! ### Positions of the time value -/

/-- A position as a count of seconds: day × 86400 + second of day (10_the_day_clock.md). -/
def posNumber (p : TimePos) : Nat := p.day * 86400 + p.sec

/-- The next second: 86399 is followed by 0 of the next day, day 65535 by day 0 (R152). -/
def nextSecond (p : TimePos) : TimePos :=
  if p.sec < 86399 then ⟨p.day, p.sec + 1⟩ else ⟨(p.day + 1) % 65536, 0⟩

/-- The day after a day (08_export_tie_and_settlement.md). -/
def nextDay (d : Nat) : Nat := (d + 1) % 65536

/-- The seconds of the whole range of the time value. -/
def timeCycle : Nat := 65536 * 86400

/-- The seconds by which the time value advanced from `a` to `b` (day 65535 is followed by day 0). -/
def secondsFrom (a b : TimePos) : Nat := (posNumber b + timeCycle - posNumber a) % timeCycle

/-- The length of a span of at most `limit` seconds from its start to its close (R129, R144). A close that
does not lie within the span gives 0 (notes/assumptions/32.md). -/
def spanLength (limit : Nat) (start close : TimePos) : Nat :=
  let n := secondsFrom start close
  if n ≤ limit then n else 0

/-- Addition that saturates at 65535 (R124, R138). -/
def saturate16 (n : Nat) : Nat := Nat.min n 65535

/-! ### One update per block -/

def State.setLiu (s : State) (x : LineUnit) : State := { s with liu := x }
def State.setPeers (s : State) (x : List (Nat × PeerEntry)) : State := { s with peers := x }
def State.setSe (s : State) (x : ShareEngine) : State := { s with se := x }
def State.setHu (s : State) (x : HolderUnit) : State := { s with hu := x }
def State.setCu (s : State) (x : Six LineState) : State := { s with cu := x }
def State.setRl (s : State) (x : Six Ladder) : State := { s with rl := x }
def State.setFu (s : State) (x : FuelUnit) : State := { s with fu := x }
def State.setTie (s : State) (x : TieUnit) : State := { s with tie := x }
def State.setTurbine (s : State) (x : TurbineUnit) : State := { s with turbine := x }
def State.setMu (s : State) (x : MeteringUnit) : State := { s with mu := x }
def State.setDc (s : State) (x : DayClock) : State := { s with dc := x }
def State.setRs (s : State) (x : RecordUnit) : State := { s with rs := x }
def State.setFp (s : State) (x : FieldPort) : State := { s with fp := x }
def State.setMc (s : State) (x : ModeController) : State := { s with mc := x }

/-- One line of the Claim Unit replaced. -/
def setLine (l : ClaimLine) (x : LineState) (s : State) : State := s.setCu (s.cu.set l x)

/-- One ladder replaced. -/
def setLadder (l : ClaimLine) (x : Ladder) (s : State) : State := s.setRl (s.rl.set l x)

/-! ### Free values (notes/assumptions/7.md) -/

/-- The free value the next draw gives. -/
def freeNumber (s : State) : Nat := (Config.freeValue s.freeNext).toNat

/-- The state after one draw. -/
def drawn (s : State) : State := { s with freeNext := s.freeNext + 1 }

/-- The order of a list that a free number gives: every order is given by some number. -/
def permute {α : Type} (n : Nat) : Nat → List α → List α
  | 0, l => l
  | k + 1, l =>
    match l[n % l.length]? with
    | none => l
    | some x => x :: permute (n / l.length) k (l.eraseIdx (n % l.length))

/-- A list in the order in which its events are taken: the spec lets them come in any order
(notes/assumptions/8.md). A list of at most one event needs no choice. -/
def freeOrder {α : Type} (l : List α) (s : State) : List α :=
  if l.length ≤ 1 then l else permute (freeNumber s) l.length l

/-- The state after an order has been chosen for a list. -/
def orderDrawn {α : Type} (l : List α) (s : State) : State := if l.length ≤ 1 then s else drawn s

/-! ### Sending on the Field Port -/

/-- A message is handed to the Field Port, which sends it whether the link is UP or LOST (R170). -/
def sendField (m : FieldOut) (s : State) : State := s.setFp { s.fp with out := s.fp.out ++ [m] }

end Sys2Proof.Machine
end

