-- ==== Sys2Proof/Machine/Operands.lean ====
section
/-! DEFINITION. Operand forms: how a value received is held within its range, how multi-byte fields are
written and read, the code tables of 13_frame_and_record_layouts.md, and the CRC-16. -/

namespace Sys2Proof.Machine

/-! ### Ranges -/

/-- A value held within a range: below `lo` held as `lo`, above `hi` held as `hi`. -/
def clamp (lo hi n : Nat) : Nat := Nat.max lo (Nat.min n hi)

/-- A power value above 20000 SU is held as 20000 (R22, R45, R46, R49, R106, R121, R136). -/
def holdPower (n : Nat) : Nat := Nat.min n 20000

/-- A round period is held within 2 to 10 s (R22, R36). -/
def holdPeriod (n : Nat) : Nat := clamp 2 10 n

/-- A priority class above 3 is held as 3 (R183; of the image: notes/assumptions/33.md). -/
def holdClass (n : Nat) : Nat := Nat.min n 3

/-- A per-mille value above 1000 is held as 1000 (R60, R61, R106). -/
def holdPerMille (n : Nat) : Nat := Nat.min n 1000

/-- A quotient rounded up; a divisor of 0 is taken as 1 (notes/assumptions/34.md). -/
def ceilDiv (a b : Nat) : Nat := (a + (Nat.max b 1 - 1)) / Nat.max b 1

/-! ### Multi-byte fields, most significant byte first (13) -/

def byte1 (n : Nat) : List Byte := [BitVec.ofNat 8 n]
def byte2 (n : Nat) : List Byte := [BitVec.ofNat 8 (n / 256), BitVec.ofNat 8 n]
def byte4 (n : Nat) : List Byte := byte2 (n / 65536) ++ byte2 n

/-- A signed four-byte field, two's complement (13). -/
def byte4s (n : Int) : List Byte := byte4 (BitVec.ofInt 32 n).toNat

/-- The byte at an offset; a byte that is not there reads as 0 and is never relied on. -/
def at1 (l : List Byte) (i : Nat) : Nat := (l.getD i 0).toNat
def at2 (l : List Byte) (i : Nat) : Nat := at1 l i * 256 + at1 l (i + 1)
def at4 (l : List Byte) (i : Nat) : Nat := at2 l i * 65536 + at2 l (i + 2)

/-- A signed two-byte field, two's complement (13). -/
def at2s (l : List Byte) (i : Nat) : Int := if at2 l i < 32768 then at2 l i else (at2 l i : Int) - 65536

/-- Bit `k` of a number. -/
def bitOf (n k : Nat) : Bool := n.testBit k

/-! ### CRC-16 (R182): generator x^16 + x^12 + x^5 + 1, register all ones at the start, not inverted -/

def crcBit (c : BitVec 16) : BitVec 16 :=
  if c.msb then (c <<< 1) ^^^ 0x1021#16 else c <<< 1

/-- One byte, most significant bit first. -/
def crcByte (c : BitVec 16) (b : Byte) : BitVec 16 :=
  let c0 := c ^^^ ((b.zeroExtend 16) <<< 8)
  crcBit (crcBit (crcBit (crcBit (crcBit (crcBit (crcBit (crcBit c0)))))))

/-- The CRC-16 of a list of bytes. -/
def crc16 (bytes : List Byte) : Nat := (bytes.foldl crcByte 0xFFFF#16).toNat

/-! ### Codes (13) -/

def roleCode : Role → Nat
  | .producer => 0
  | .holder => 1
  | .boiler => 2
  | .consumer => 3
  | .turbine => 4
  | .townheat => 5
  | .exportTie => 6

def roleOfCode : Nat → Option Role
  | 0 => some .producer
  | 1 => some .holder
  | 2 => some .boiler
  | 3 => some .consumer
  | 4 => some .turbine
  | 5 => some .townheat
  | 6 => some .exportTie
  | _ => none

def peerModeOfCode : Nat → Option PeerMode
  | 1 => some .active
  | 2 => some .standbyListen
  | 3 => some .listenIn
  | _ => none

/-- The mode byte of a STATE. A STATE is sent in these three modes alone (notes/assumptions/34.md). -/
def modeCode : Mode → Nat
  | .active => 1
  | .standbyListen => 2
  | .listenIn => 3
  | .loading | .listenOnly | .standbyDeep | .leaving => 0

def severityCode : Severity → Nat
  | .none => 0
  | .advisory => 1
  | .degraded => 2
  | .failed => 3

def severityOfCode : Nat → Option Severity
  | 0 => some .none
  | 1 => some .advisory
  | 2 => some .degraded
  | 3 => some .failed
  | _ => none

def fuelCode : FuelField → Nat
  | .none => 0
  | .unknown => 1
  | .gas => 2
  | .backup => 3
  | .changeover => 4

/-- A fuel mode above 4 is taken as UNKNOWN (R183). -/
def fuelOfCode : Nat → FuelField
  | 0 => .none
  | 2 => .gas
  | 3 => .backup
  | 4 => .changeover
  | _ => .unknown

def bandCode : Band → Nat
  | .none => 0
  | .emptyGuard => 1
  | .low => 2
  | .normal => 3
  | .high => 4
  | .flare => 5

def causeCode : ResetCause → Nat
  | .powerOn => 1
  | .pin => 2
  | .pinAfterWarning => 3

def causeOfCode : Nat → Option ResetCause
  | 1 => some .powerOn
  | 2 => some .pin
  | 3 => some .pinAfterWarning
  | _ => none

def qualityCode : Quality → Nat
  | .unset => 0
  | .free => 1
  | .synced => 2

def qualityOfCode : Nat → Option Quality
  | 0 => some .unset
  | 1 => some .free
  | 2 => some .synced
  | _ => none

def reasonCode : LeaveReason → Nat
  | .deepStandby => 1
  | .resetWarning => 2
  | .unconfigured => 3

def edgeCode : Edge → Nat
  | .release => 0
  | .assert => 1

def statusCode : RecordStatus → Nat
  | .ok => 0
  | .trimmed => 1
  | .none => 2
  | .busy => 3

def recordKindCode : RecordKind → Nat
  | .bill => 1
  | .settle => 2

def recordKindOfCode : Nat → Option RecordKind
  | 1 => some .bill
  | 2 => some .settle
  | _ => none

def verdictCode : Verdict → Nat
  | .within => 0
  | .under => 1
  | .over => 2

def frameKindCode : FrameKind → Nat
  | .hello => 1
  | .state => 2
  | .claim => 3
  | .leave => 4
  | .time => 5
  | .wake => 6
  | .read => 7
  | .record => 8

def frameKindOfCode : Nat → Option FrameKind
  | 1 => some .hello
  | 2 => some .state
  | 3 => some .claim
  | 4 => some .leave
  | 5 => some .time
  | 6 => some .wake
  | 7 => some .read
  | 8 => some .record
  | _ => none

/-- The claim line of a code, in the bit order of the own claim set. -/
def lineOfCode : Nat → Option ClaimLine
  | 0 => some ⟨.m0, .shortfall⟩
  | 1 => some ⟨.m0, .surplus⟩
  | 2 => some ⟨.m1, .shortfall⟩
  | 3 => some ⟨.m1, .surplus⟩
  | 4 => some ⟨.m2, .shortfall⟩
  | 5 => some ⟨.m2, .surplus⟩
  | _ => none

def boolBit (b : Bool) (k : Nat) : Nat := if b then 2 ^ k else 0

/-- A claim set as a byte; bits 6 and 7 are zero (13). -/
def claimSetByte (c : Six Bool) : Nat :=
  boolBit c.shortfall0 0 + boolBit c.surplus0 1 + boolBit c.shortfall1 2 + boolBit c.surplus1 3 +
    boolBit c.shortfall2 4 + boolBit c.surplus2 5

/-- A claim set from a byte; bits 6 and 7 are not read (R183). -/
def claimSetOfByte (n : Nat) : Six Bool := Six.build fun l => bitOf n (lineNumber l)

/-- The mains byte of a HELLO: bit m set for main m (13). -/
def mainsByte (m : Three Bool) : Nat := boolBit m.m0 0 + boolBit m.m1 1 + boolBit m.m2 2

/-- Mains from a byte; bits 3 to 7 are not read (R183). -/
def mainsOfByte (n : Nat) : Three Bool := ⟨bitOf n 0, bitOf n 1, bitOf n 2⟩

/-! ### The mains of the station -/

/-- The mains of a configured role (R15, 00_scope.md): a BOILER's are its gas main and main 2, an EXPORT
TIE has none. -/
def stationMains (c : StationConfig) : Three Bool :=
  let none3 : Three Bool := ⟨false, false, false⟩
  match c.role with
  | some .producer | some .holder | some .consumer => none3.set c.main true
  | some .boiler => (none3.set c.main true).set .m2 true
  | some .turbine | some .townheat => none3.set .m2 true
  | some .exportTie | none => none3

/-- The want main of the role, if it wants (R45). -/
def wantMain (c : StationConfig) : Option Main :=
  match c.role with
  | some .consumer | some .boiler => some c.main
  | some .turbine | some .townheat => some .m2
  | some .producer | some .holder | some .exportTie | none => none

/-- The record kind the role keeps (11_the_record_store.md). -/
def keptKind (c : StationConfig) : Option RecordKind :=
  match c.role with
  | some .townheat => some .bill
  | some .exportTie => some .settle
  | some .producer | some .holder | some .boiler | some .consumer | some .turbine | none => none

/-- The station is a HOLDER on main 0 or 1, which drives a flare (R66). -/
def hasFlare (c : StationConfig) : Bool := c.role == some .holder && c.main != .m2

/-- The message kinds a role uses (R170). -/
def roleUses (c : StationConfig) : FieldKind → Bool
  | .heatSample | .demand => c.role == some .townheat
  | .gasMeasure => c.role == some .producer && c.main != .m2
  | .heatOut => (c.role == some .producer && c.main == .m2) || c.role == some .boiler
  | .capability => c.role == some .consumer || c.role == some .boiler
  | .level => c.role == some .holder
  | .flareStatus => hasFlare c
  | .fuelStatus => c.role == some .boiler
  | .exportEnergy | .schedule | .timeSet => c.role == some .exportTie
  | .standbyRequest | .resume => c.role.isSome
  | .resetWarning => true

end Sys2Proof.Machine
end

