-- ==== Sys2Proof/Machine/Flags.lean ====
section
/-! DEFINITION. Flags: the fault list and severity (R180), the fallback that FAILED enters (R52), time
quality, and the flag bits of a record (13_frame_and_record_layouts.md). -/

namespace Sys2Proof.Machine

/-! ### Fallback entry (R52) -/

/-- The want main's setpoint output is set to the fallback setpoint and sent, whether the station was in
fallback or not (R52). -/
def enterFallback (s : State) : State :=
  match wantMain s.mc.config with
  | some m =>
    sendField (.setpoint m s.mc.config.fallbackSetpoint)
      (s.setSe { s.se with fallback := true, setpoint := s.mc.config.fallbackSetpoint })
  | none => s.setSe { s.se with fallback := true }

/-! ### The fault list (R180) -/

/-- The severity of a fault kind (R180). -/
def faultSeverity : FaultKind → Severity
  | .fieldLinkLost => .failed
  | .levelLost | .flareTimeout | .changeoverTimeout | .storeFault | .lineTxFail | .numberClash => .degraded
  | .configStep | .timeFree => .advisory

/-- A fault of a kind is present. -/
def faultPresent (k : FaultKind) (faults : List FaultEntry) : Bool := faults.any fun e => e.kind == k

/-- The graver of two severities, ordered FAILED, DEGRADED, ADVISORY, NONE (R180). -/
def graver (a b : Severity) : Severity := if severityCode a < severityCode b then b else a

/-- The severity of a fault list: the gravest present, NONE while it is empty (R180). -/
def listSeverity : List FaultEntry → Severity
  | [] => .none
  | e :: rest => graver (faultSeverity e.kind) (listSeverity rest)

/-- The station's severity (R180). -/
def severity (s : State) : Severity := listSeverity s.mc.faults

/-- The fault list after a raise: a kind present keeps its entry, another is added at the tail with the
Day Clock's value. The list holds up to 8 entries and is never full (R180; notes/assumptions/34.md). -/
def faultsRaised (k : FaultKind) (now : TimePos) (faults : List FaultEntry) : List FaultEntry :=
  if faultPresent k faults then faults
  else if faults.length < 8 then faults ++ [⟨k, now⟩]
  else faults

/-- The fault list after a clear (R180). -/
def faultsCleared (k : FaultKind) (faults : List FaultEntry) : List FaultEntry :=
  faults.filter fun e => e.kind != k

/-- A fault is raised; severity becoming FAILED in ACTIVE enters fallback (R52, R180). -/
def raiseFault (k : FaultKind) (s : State) : State :=
  let t := s.setMc { s.mc with faults := faultsRaised k s.dc.time s.mc.faults }
  if s.mc.mode = .active ∧ severity s ≠ .failed ∧ severity t = .failed then enterFallback t else t

/-- A fault is cleared. Severity leaving FAILED does not by itself leave fallback (R53, R180). -/
def clearFault (k : FaultKind) (s : State) : State :=
  s.setMc { s.mc with faults := faultsCleared k s.mc.faults }

/-! ### Time quality -/

/-- The lower of two qualities; the order from lowest is UNSET, FREE, SYNCED (R124, R138). -/
def lowerQuality (a b : Quality) : Quality := if qualityCode b < qualityCode a then b else a

/-! ### Record flags -/

/-- No flag set. -/
def noFlags : RecordFlags := ⟨false, false, false, false, false, false, false⟩

/-- The flags field of a stored record (13). -/
def flagBits (f : RecordFlags) : Nat :=
  boolBit f.short 0 + boolBit f.powerFail 1 + boolBit f.partialStart 2 + boolBit f.resetDuring 3 +
    boolBit f.timeStepped 4 + boolBit f.gap 5 + boolBit f.noSchedule 6

/-- The flags of a record. -/
def recordFlags : StoreRecord → RecordFlags
  | .bill r => r.flags
  | .settle r => r.flags

/-- The sequence number of a record. -/
def recordSeq : StoreRecord → Nat
  | .bill r => r.seq
  | .settle r => r.seq

/-- A record with its sequence number given (R160). -/
def withSeq (n : Nat) : StoreRecord → StoreRecord
  | .bill r => .bill { r with seq := n }
  | .settle r => .settle { r with seq := n }

/-- A record flagged GAP (R162, R163). -/
def withGap : StoreRecord → StoreRecord
  | .bill r => .bill { r with flags := { r.flags with gap := true } }
  | .settle r => .settle { r with flags := { r.flags with gap := true } }

end Sys2Proof.Machine
end

