-- ==== Sys2Proof/Machine/Codec.lean ====
section
/-! DEFINITION. Frames and stored records as bytes (13_frame_and_record_layouts.md): what the LIU builds at
the start of an attempt (R1, R11), what makes a frame heard a good frame (R12, R182), and how a good frame
is read (R183). -/

namespace Sys2Proof.Machine

/-! ### Building -/

/-- A main record of a STATE, 9 bytes. -/
def recordBytes : StateRecord → List Byte
  | .offer m o r f => byte1 1 ++ byte1 (mainNumber m) ++ byte2 o ++ byte2 r ++ byte1 (fuelCode f) ++ byte2 0
  | .want m lo hi c h => byte1 2 ++ byte1 (mainNumber m) ++ byte2 lo ++ byte2 hi ++ byte1 c ++ byte1 h ++ byte1 0
  | .holder m l b d a => byte1 3 ++ byte1 (mainNumber m) ++ byte2 l ++ byte1 (bandCode b) ++ byte2 d ++ byte2 a

/-- The role extras of a STATE: 4 bytes for EXPORT TIE and TURBINE, otherwise none. -/
def extrasBytes : Option (Nat × Nat) → List Byte
  | some (a, b) => byte2 a ++ byte2 b
  | none => []

/-- The kind of the frame an entry asks for. -/
def bodyKind : TxBody → FrameKind
  | .hello _ _ _ _ => .hello
  | .state _ _ _ _ => .state
  | .claim _ _ => .claim
  | .leave _ => .leave
  | .time _ _ => .time
  | .wake _ _ => .wake
  | .record _ _ _ _ => .record

/-- The station's own claim set as it stands (R11, R76). -/
def ownClaimSet (s : State) : Six Bool := Six.build fun l => (s.cu.get l).own

/-- The payload as it stands at the start of an attempt: the own claim set, mode and severity of a STATE and
the reset cause of a HELLO are filled here, all else is as requested (R11). -/
def payloadBytes (b : TxBody) (s : State) : List Byte :=
  match b with
  | .hello role mains period tag =>
    byte1 (match role with | some r => roleCode r | none => 7) ++ byte1 mains ++ byte1 period ++ byte2 tag ++
      byte1 (causeCode s.mc.cause)
  | .state role period records extras =>
    byte1 (roleCode role) ++ byte1 period ++ byte1 (modeCode s.mc.mode) ++ byte1 (severityCode (severity s)) ++
      byte1 (claimSetByte (ownClaimSet s)) ++ byte1 records.length ++ records.flatMap recordBytes ++
      extrasBytes extras
  | .claim line edge => byte1 (lineNumber line) ++ byte1 (edgeCode edge)
  | .leave reason => byte1 (reasonCode reason)
  | .time pos quality => byte2 pos.day ++ byte4 pos.sec ++ byte1 (qualityCode quality)
  | .wake role main => byte1 2 ++ byte1 (roleCode role) ++ byte1 (mainNumber main)
  | .record status kind body _ => byte1 (statusCode status) ++ byte1 kind ++ body

/-- Header and payload: start delimiter, sender, kind, payload length, payload (13). -/
def headerAndPayload (node kind : Nat) (payload : List Byte) : List Byte :=
  byte1 0xA5 ++ byte1 node ++ byte1 kind ++ byte1 payload.length ++ payload

/-- A whole frame with its CRC-16 over header and payload (R1, R182). -/
def frameBytes (node kind : Nat) (payload : List Byte) : List Byte :=
  headerAndPayload node kind payload ++ byte2 (crc16 (headerAndPayload node kind payload))

/-- The frame of an entry as it stands at the start of an attempt (R1, R11). -/
def attemptBytes (b : TxBody) (s : State) : List Byte :=
  frameBytes s.mc.node.val (frameKindCode (bodyKind b)) (payloadBytes b s)

/-! ### Stored record bodies -/

/-- The 34-byte body of a BILL record. -/
def billBytes (r : BillRecord) : List Byte :=
  byte4 r.seq ++ byte2 r.start.day ++ byte4 r.start.sec ++ byte2 r.length ++ byte1 r.band ++
    byte1 (qualityCode r.quality) ++ byte4 r.works ++ byte4 r.purchased ++ byte4 r.peak ++ byte2 r.missing ++
    byte2 r.reverse ++ byte2 r.overRange ++ byte2 (flagBits r.flags)

/-- The 40-byte body of a SETTLE record. -/
def settleBytes (r : SettleRecord) : List Byte :=
  byte4 r.seq ++ byte2 r.start.day ++ byte4 r.start.sec ++ byte2 r.length ++ byte2 r.commitment ++
    byte4 r.energyC ++ byte4s r.energyE ++ byte4s r.deviation ++ byte4 r.tolerance ++ byte4 r.penalty ++
    byte1 (verdictCode r.verdict) ++ byte1 (qualityCode r.quality) ++ byte2 r.missing ++ byte2 (flagBits r.flags)

/-- The body of a stored record. -/
def bodyBytes : StoreRecord → List Byte
  | .bill r => billBytes r
  | .settle r => settleBytes r

/-- The body length of a record kind (13). -/
def bodyLength : RecordKind → Nat
  | .bill => 34
  | .settle => 40

/-- The body served as a record of the station's own kind (R169). A body of the other kind, of a store moved
between stations, is cut to the length of the own kind or continued with free bytes
(notes/assumptions/22.md). -/
def servedBody (kind : RecordKind) (r : StoreRecord) (free : Nat) : List Byte :=
  let body := bodyBytes r
  if body.length < bodyLength kind then
    body ++ (List.range (bodyLength kind - body.length)).map fun i => BitVec.ofNat 8 (free / 256 ^ i)
  else body.take (bodyLength kind)

/-! ### Good frames (R12, R182) -/

/-- The payload length is allowed for the kind (13). For a STATE it is settled by the role and the record
count it carries; of a RECORD the length alone is tested, not that it matches the record kind
(notes/assumptions/12.md). -/
def lengthAllowed (kind : FrameKind) (payload : List Byte) : Bool :=
  match kind with
  | .hello => payload.length == 6
  | .state =>
    6 ≤ payload.length && at1 payload 5 ≤ 2 &&
      payload.length == 6 + 9 * at1 payload 5 + (if at1 payload 0 = 4 ∨ at1 payload 0 = 6 then 4 else 0)
  | .claim => payload.length == 2
  | .leave => payload.length == 1
  | .time => payload.length == 7
  | .wake => payload.length == 3
  | .read => payload.length == 7
  | .record => payload.length == 2 || payload.length == 36 || payload.length == 42

/-- The good frame that a run of bytes heard makes, if it passes the checks of R12 and R182: it begins with
the start delimiter, does not end before the length its header states, its CRC-16 matches, its kind is one
of the eight, its length is at most 48 and allowed, its sender is at most 31. Bytes beyond the stated length
are no part of it (notes/assumptions/12.md). -/
def goodFrame (bytes : List Byte) : Option Frame :=
  let len := at1 bytes 3
  if at1 bytes 0 = 0xA5 ∧ len + 6 ≤ bytes.length ∧ crc16 (bytes.take (4 + len)) = at2 bytes (4 + len) ∧
      len ≤ 48 ∧ at1 bytes 1 ≤ 31 then
    match frameKindOfCode (at1 bytes 2) with
    | some kind =>
      if lengthAllowed kind ((bytes.drop 4).take len) then some ⟨at1 bytes 1, kind, (bytes.drop 4).take len⟩
      else none
    | none => none
  else none

/-! ### Reading payloads (R183) -/

/-- A main record as it is read: one of unknown kind, of a main above 2 or of a band above 5 is discarded,
a fuel mode above 4 is UNKNOWN, classes and power fields are held in range, and a WANT whose min exceeds
its max is held with min equal to max (R183, R22). -/
def readRecord (b : List Byte) : Option MainRecord :=
  match mainOfNumber (at1 b 1) with
  | none => none
  | some m =>
    if at1 b 0 = 1 then some (.offer m (holdPower (at2 b 2)) (holdPower (at2 b 4)) (fuelOfCode (at1 b 6)))
    else if at1 b 0 = 2 then
      some (.want m (Nat.min (holdPower (at2 b 2)) (holdPower (at2 b 4))) (holdPower (at2 b 4))
        (holdClass (at1 b 6)) (holdClass (at1 b 7)))
    else if at1 b 0 = 3 ∧ at1 b 4 ≤ 5 then some (.holder m (holdPower (at2 b 5)) (holdPower (at2 b 7)))
    else none

/-- The main of a record. -/
def recordMain : MainRecord → Main
  | .offer m _ _ _ => m
  | .want m _ _ _ _ => m
  | .holder m _ _ => m

/-- Two records are of one kind on one main. -/
def sameKindAndMain : MainRecord → MainRecord → Bool
  | .offer m _ _ _, .offer n _ _ _ => m == n
  | .want m _ _ _ _, .want n _ _ _ _ => m == n
  | .holder m _ _, .holder n _ _ => m == n
  | _, _ => false

/-- Of two records of one kind on one main the first is kept (R22). -/
def acceptRecords : List MainRecord → List MainRecord
  | [] => []
  | r :: rest => r :: (acceptRecords rest).filter fun x => !sameKindAndMain r x

/-- The records of a STATE payload that are accepted, in order. A record that R183 discards does not count as the
first of its kind on its main under R22 (notes/assumptions/50.md). -/
def readRecords (p : List Byte) : List MainRecord :=
  acceptRecords ((List.range (at1 p 5)).filterMap fun i => readRecord ((p.drop (6 + 9 * i)).take 9))

/-- A STATE as it is read. -/
structure StateRead where
  role : Role
  period : Nat
  mode : PeerMode
  severity : Severity
  claims : Six Bool
  /-- The STATE carries at least one main record, accepted or not (R23, R183). -/
  carries : Bool
  records : List MainRecord
  extras : Extras
  deriving DecidableEq, Repr

/-- The extras of a STATE that an entry keeps: an EXPORT TIE's gap, a TURBINE's electric capacity (R22). -/
def readExtras (role : Role) (p : List Byte) : Extras :=
  match role with
  | .exportTie => .tie (holdPower (at2 p (6 + 9 * at1 p 5)))
  | .turbine => .turbine (holdPower (at2 p (6 + 9 * at1 p 5)))
  | .producer | .holder | .boiler | .consumer | .townheat => .none

/-- A STATE whose role, mode or severity is out of range is not read (R183). -/
def readState (p : List Byte) : Option StateRead :=
  match roleOfCode (at1 p 0), peerModeOfCode (at1 p 2), severityOfCode (at1 p 3) with
  | some role, some mode, some sev =>
    some ⟨role, holdPeriod (at1 p 1), mode, sev, claimSetOfByte (at1 p 4), at1 p 5 != 0, readRecords p,
      readExtras role p⟩
  | _, _, _ => none

/-- A HELLO with a configured role as it is read. -/
structure HelloRead where
  role : Role
  mains : Three Bool
  period : Nat
  tag : Nat
  cause : ResetCause
  deriving DecidableEq, Repr

/-- What a HELLO says: `unconfigured` (R25), a configured station, or nothing that is taken (R183). -/
inductive HelloKind where
  | unconfigured
  | configured (h : HelloRead)
  | discarded
  deriving DecidableEq, Repr

/-- A HELLO whose role or reset cause is out of range is discarded at the head, an UNCONFIGURED one too (R183); of one
of that role that reaches the Peer Table no other field is read (R25). -/
def readHello (p : List Byte) : HelloKind :=
  match causeOfCode (at1 p 5) with
  | none => .discarded
  | some cause =>
    if at1 p 0 = 7 then .unconfigured
    else match roleOfCode (at1 p 0) with
      | some role => .configured ⟨role, mainsOfByte (at1 p 1), holdPeriod (at1 p 2), at2 p 3, cause⟩
      | none => .discarded

/-- A CLAIM whose line exceeds 5 or whose edge exceeds 1 is discarded (R183). -/
def readClaim (p : List Byte) : Option (ClaimLine × Edge) :=
  match lineOfCode (at1 p 0) with
  | none => none
  | some l => if at1 p 1 = 0 then some (l, .release) else if at1 p 1 = 1 then some (l, .assert) else none

/-- A TIME whose quality exceeds 2 is discarded (R183). -/
def readTime (p : List Byte) : Option (TimePos × Quality) :=
  match qualityOfCode (at1 p 6) with
  | none => none
  | some q => some (⟨at2 p 0, at4 p 2⟩, q)

/-- The selector of a WAKE matches the station: its own node number, or its configured role with one of its
mains; any other selector kind, role or main matches no station (R15, R183). The third byte of a node selector,
which R183 lays out as 0, is not read: one that is not 0 matches by the node number alone, the model's own choice
(notes/assumptions/53.md). -/
def wakeMatches (p : List Byte) (s : State) : Bool :=
  if at1 p 0 = 1 then at1 p 1 == s.mc.node.val
  else if at1 p 0 = 2 then
    match roleOfCode (at1 p 1), mainOfNumber (at1 p 2) with
    | some r, some m => s.mc.config.role == some r && (stationMains s.mc.config).get m
    | _, _ => false
  else false

end Sys2Proof.Machine
end

