-- ==== Sys2Proof/Machine/Queue.lean ====
section
/-! DEFINITION. The transmit queue of the LIU: precedence, the mode filter, replacement, the full-queue rule
and selection (R7 to R10, R16). -/

namespace Sys2Proof.Machine

/-- Precedence from the highest, 0, to the lowest: CLAIM, LEAVE, RECORD, WAKE, TIME, HELLO, STATE (R7). -/
def precedence : TxBody → Nat
  | .claim _ _ => 0
  | .leave _ => 1
  | .record _ _ _ _ => 2
  | .wake _ _ => 3
  | .time _ _ => 4
  | .hello _ _ _ _ => 5
  | .state _ _ _ _ => 6

def isRecord : TxBody → Bool
  | .record _ _ _ _ => true
  | .claim _ _ | .leave _ | .wake _ _ | .time _ _ | .hello _ _ _ _ | .state _ _ _ _ => false

def isState : TxBody → Bool
  | .state _ _ _ _ => true
  | .claim _ _ | .leave _ | .wake _ _ | .time _ _ | .hello _ _ _ _ | .record _ _ _ _ => false

def isHello : TxBody → Bool
  | .hello _ _ _ _ => true
  | .claim _ _ | .leave _ | .wake _ _ | .time _ _ | .state _ _ _ _ | .record _ _ _ _ => false

/-- The entry asks for a CLAIM on a line. -/
def claimsLine (l : ClaimLine) : TxBody → Bool
  | .claim k _ => k == l
  | .leave _ | .wake _ _ | .time _ _ | .hello _ _ _ _ | .state _ _ _ _ | .record _ _ _ _ => false

/-- An entry that is not being sent is waiting (R8). -/
def isWaiting (e : TxEntry) : Bool := e.sending.isNone

/-- What each mode accepts for sending (R16, R17): LOADING nothing, STANDBY-DEEP the LEAVE of its entry
alone, LEAVING no HELLO and no STATE. -/
def acceptsRequest (mode : Mode) (b : TxBody) : Bool :=
  match mode with
  | .loading => false
  | .standbyDeep => b == .leave .deepStandby
  | .leaving => !isHello b && !isState b
  | .listenOnly | .listenIn | .active | .standbyListen => true

/-- A new waiting entry with collision count 0 (R7). -/
def newEntry (b : TxBody) : TxEntry := ⟨b, 0, none, false⟩

/-- An entry the full-queue rule may drop: waiting and not a RECORD (R10). -/
def isCandidate (e : TxEntry) : Bool := isWaiting e && !isRecord e.body

/-- The lowest precedence among the waiting candidates (R10). -/
def lowestCandidate (tx : List TxEntry) : Option Nat :=
  ((tx.filter isCandidate).map fun e => precedence e.body).foldl
    (fun acc p => match acc with | none => some p | some q => some (Nat.max p q)) none

/-- The full-queue rule (R10): the candidate of lowest precedence is dropped, the oldest of several; the new
entry only when its precedence is lower than that of every waiting candidate. -/
def placeFull (b : TxBody) (tx : List TxEntry) : List TxEntry :=
  match lowestCandidate tx with
  | none => tx
  | some p =>
    if p < precedence b then tx
    else removeFirst (fun e => isCandidate e && precedence e.body == p) tx ++ [newEntry b]

/-- A request that needs a place (R7, R10). -/
def placeEntry (b : TxBody) (tx : List TxEntry) : List TxEntry :=
  if tx.length < 4 then tx ++ [newEntry b] else placeFull b tx

/-- The collision count that the entry surviving a CLAIM replacement keeps. The spec does not state it: a
free value, 0 or the count it had; an eighth collision is never kept (R9; notes/assumptions/10.md). -/
def survivorCount (old free : Nat) : Nat :=
  if old = 0 ∨ 8 ≤ old then 0 else if free % 2 = 0 then 0 else old

/-- The draw that `survivorCount` takes. -/
def survivorDrawn (old : Nat) (s : State) : State := if old = 0 ∨ 8 ≤ old then s else drawn s

/-- A CLAIM request (R9): it replaces a waiting CLAIM for the line, and both go when its edge equals the last
edge sent; otherwise it needs a place. -/
def enqueueClaim (l : ClaimLine) (e : Edge) (s : State) : State :=
  let mine := fun (x : TxEntry) => isWaiting x && claimsLine l x.body
  match s.liu.tx.find? mine with
  | none => s.setLiu { s.liu with tx := placeEntry (.claim l e) s.liu.tx }
  | some old =>
    if e = s.liu.lastEdge.get l then s.setLiu { s.liu with tx := removeFirst mine s.liu.tx }
    else
      let t := survivorDrawn old.collisions s
      t.setLiu { t.liu with
        tx := changeFirst mine
          (fun x => { x with body := .claim l e, collisions := survivorCount old.collisions (freeNumber s) })
          t.liu.tx }

/-- A STATE request replaces a waiting STATE in its place, with collision count 0 (R8). -/
def placeState (b : TxBody) (tx : List TxEntry) : List TxEntry :=
  let mine := fun (x : TxEntry) => isWaiting x && isState x.body
  if tx.any mine then changeFirst mine (fun _ => newEntry b) tx else placeEntry b tx

/-- An enqueue request (R7 to R10, R16). A refused request is neither placed nor counted. -/
def enqueue (b : TxBody) (s : State) : State :=
  if acceptsRequest s.mc.mode b then
    match b with
    | .claim l e => enqueueClaim l e s
    | .state _ _ _ _ => s.setLiu { s.liu with tx := placeState b s.liu.tx }
    | .hello _ _ _ _ | .leave _ | .time _ _ | .wake _ _ | .record _ _ _ _ =>
      s.setLiu { s.liu with tx := placeEntry b s.liu.tx }
  else s

/-- The read service may place a RECORD: fewer than 4 entries and fewer than 2 RECORDs are queued, and the
mode accepts it (R10, R16, R166, R167). A slot whose RECORD the mode refuses stays BUSY
(notes/assumptions/21.md). -/
def recordRoom (s : State) : Bool :=
  s.liu.tx.length < 4 && (s.liu.tx.filter fun e => isRecord e.body).length < 2 &&
    acceptsRequest s.mc.mode (.record .none 0 [] none)

/-- Room for one RECORD only (R167). -/
def roomForOne (s : State) : Bool :=
  s.liu.tx.length == 3 || (s.liu.tx.filter fun e => isRecord e.body).length == 1

/-- The quiet gap in microseconds of a kind at a node number (R2). -/
def quietGap (b : TxBody) (node : Nat) : Nat :=
  (match b with
    | .claim _ _ | .leave _ => 96
    | .hello _ _ _ _ | .state _ _ _ _ | .time _ _ | .wake _ _ | .record _ _ _ _ => 160) + 32 * (node % 8)

/-- The highest precedence among the waiting entries (R7). -/
def highestWaiting (tx : List TxEntry) : Option Nat :=
  leastOf ((tx.filter isWaiting).map fun e => precedence e.body)

/-- The entry the LIU would select: of the highest precedence present, the one enqueued first (R7). -/
def isSelectable (p : Nat) (e : TxEntry) : Bool := isWaiting e && precedence e.body == p

def selectedEntry (tx : List TxEntry) : Option TxEntry :=
  match highestWaiting tx with
  | none => none
  | some p => tx.find? (isSelectable p)

/-- The entry being sent (R7). -/
def sendingEntry (tx : List TxEntry) : Option TxEntry := tx.find? fun e => !isWaiting e

/-- The backoff wait after collision `k`, in microseconds (R4). -/
def backoffTime (node k : Nat) : Nat := (node + 1) * 64 * k

end Sys2Proof.Machine
end

