-- ==== Sys2Proof/Machine/Share.lean ====
section
/-! DEFINITION. What the Share Engine and its neighbours hold as views of the state: ladder effects (R94),
base and effective want (R45, R47), offers (R49, R116), holder limits (R63), the own entry (R20); and the
rebuild of the effective want with the lowering of R48. -/

namespace Sys2Proof.Machine

/-! ### Ladder effects (R94) -/

/-- The steps of a line's ladder standing taken: steps 0 to taken count − 1 (R93). -/
def takenSteps (l : ClaimLine) (s : State) : List Step :=
  (s.mc.config.lines.get l).steps.take (s.rl.get l).taken

/-- The steps standing taken by the two ladders of a main. -/
def stepsOnMain (m : Main) (s : State) : List Step :=
  takenSteps ⟨m, .shortfall⟩ s ++ takenSteps ⟨m, .surplus⟩ s

/-- A SHED step stands taken on the main (R94). -/
def shedTaken (m : Main) (s : State) : Bool := (stepsOnMain m s).any fun x => x.action == .shed

/-- The amount a step raises. -/
def raiseAmount : Action → Nat
  | .raise n => n
  | .none | .fuelBackup | .fuelGas | .shed | .flareStep | .wake _ => 0

/-- The sum of the RAISE amounts standing taken on the main (R94). -/
def raiseSum (m : Main) (s : State) : Nat := sumOf ((stepsOnMain m s).map fun x => raiseAmount x.action)

/-! ### Wants (R45 to R47) -/

/-- The configured max, lowered by the capability value where that is lower (R45, R46, R115). -/
def gasMax (s : State) : Nat :=
  match s.se.capability with
  | some v => Nat.min s.mc.config.max v
  | none => s.mc.config.max

/-- The base gas want of a boiler by fuel mode: base min and base max (R115). -/
def boilerWant (s : State) : Nat × Nat :=
  match s.fu.mode with
  | .gas => (s.mc.config.min, gasMax s)
  | .toBackup | .toGas => (0, gasMax s / 2)
  | .backup | .unknown => (0, 0)

/-- The town's base want: the demand, with the guaranteed minimum held at the demand; 0 and 0 before the
first DEMAND (R45, R136). -/
def townWant (s : State) : Nat × Nat :=
  match s.mu.demand with
  | some d => (Nat.min s.mc.config.guaranteedMin d, d)
  | none => (0, 0)

/-- Base min and base max of the station's want (R45). -/
def baseWant (s : State) : Nat × Nat :=
  match s.mc.config.role with
  | some .consumer => (s.mc.config.min, gasMax s)
  | some .boiler => boilerWant s
  | some .turbine => (s.turbine.baseMin, s.turbine.baseMax)
  | some .townheat => townWant s
  | some .producer | some .holder | some .exportTie | none => (0, 0)

/-- Min class and headroom class of the want (R45). -/
def wantClasses (c : StationConfig) : Nat × Nat :=
  match c.role with
  | some .turbine => (1, 3)
  | some .townheat => (0, 2)
  | some .consumer | some .boiler | some .producer | some .holder | some .exportTie | none =>
    (c.minClass, c.headClass)

/-- The modes in which wants and offers are 0 (R47, R49). -/
def inStandby (mode : Mode) : Bool := mode == .standbyListen || mode == .standbyDeep

/-- The raised max of R47 from a base want held within 0 to 20000 (R45). -/
def raisedMax (baseMin baseMax : Nat) (shed : Bool) (raised : Nat) : Nat :=
  if shed then baseMin else if baseMax = 0 then 0 else baseMax + raised

/-- The effective want, min and max, on the want main (R47). -/
def effectiveWant (s : State) : Nat × Nat :=
  match wantMain s.mc.config with
  | none => (0, 0)
  | some m =>
    if inStandby s.mc.mode then (0, 0)
    else
      let lo := holdPower (baseWant s).1
      let hi := holdPower (baseWant s).2
      let top := Nat.min (raisedMax lo hi (shedTaken m s) (raiseSum m s)) s.mc.config.capacity
      (Nat.min lo top, top)

/-- The share values after a rebuild (R48): grant and minimum grant come down to the effective want, and
outside fallback the setpoint output comes down to the grant. -/
def seLowered (lo hi : Nat) (se : ShareEngine) : ShareEngine :=
  { se with
    grant := Nat.min se.grant hi
    minGrant := Nat.min se.minGrant lo
    setpoint := if se.fallback then se.setpoint else Nat.min se.setpoint (Nat.min se.grant hi) }

/-- The effective want is rebuilt (R47) and what the last round granted is lowered to it at once, with a
SETPOINT where the output falls (R48). -/
def rebuildWant (s : State) : State :=
  match wantMain s.mc.config with
  | none => s
  | some m =>
    let se' := seLowered (effectiveWant s).1 (effectiveWant s).2 s.se
    let t := s.setSe se'
    if se'.setpoint < s.se.setpoint then sendField (.setpoint m se'.setpoint) t else t

/-! ### Offers (R49, R116) -/

/-- The boiler's offer of heat by fuel mode and gas setpoint output (R116). -/
def boilerOffer (s : State) : Nat :=
  match s.fu.mode with
  | .gas => Nat.min (s.se.setpoint * s.mc.config.efficiency / 1000) s.mc.config.heatCapacity
  | .toBackup | .toGas => s.mc.config.heatCapacity / 2
  | .backup => s.mc.config.heatCapacity
  | .unknown => 0

/-- The station's offer; 0 in standby (R49). -/
def currentOffer (s : State) : Nat :=
  if inStandby s.mc.mode then 0
  else match s.mc.config.role with
    | some .producer => s.se.measured.getD 0
    | some .boiler => boilerOffer s
    | some .holder | some .consumer | some .turbine | some .townheat | some .exportTie | none => 0

/-- The measured out (R49). -/
def measuredOut (s : State) : Nat := s.se.measured.getD 0

/-- The fuel mode as broadcast (R107). -/
def broadcastFuel : FuelMode → FuelField
  | .unknown => .unknown
  | .gas => .gas
  | .backup => .backup
  | .toBackup | .toGas => .changeover

/-! ### Holder limits (R63, R65) -/

/-- Draw limit by band (R63). -/
def bandDraw (b : Band) (d : Nat) : Nat :=
  match b with
  | .none | .emptyGuard => 0
  | .low => d / 2
  | .normal | .high | .flare => d

/-- Absorb limit by band (R63). -/
def bandAbsorb (b : Band) (a : Nat) : Nat :=
  match b with
  | .none | .flare => 0
  | .emptyGuard | .low | .normal => a
  | .high => a / 2

/-- The draw limit: by band, 0 while LEVEL LOST is present (R63, R65). -/
def drawLimit (s : State) : Nat :=
  if faultPresent .levelLost s.mc.faults then 0 else bandDraw s.hu.band s.mc.config.drawMax

/-- The absorb limit (R63, R65). -/
def absorbLimit (s : State) : Nat :=
  if faultPresent .levelLost s.mc.faults then 0 else bandAbsorb s.hu.band s.mc.config.absorbMax

/-! ### The station's own records and entry (R20, R50) -/

/-- The main records of the station as they stand (R50). -/
def ownRecords (s : State) : List StateRecord :=
  let c := s.mc.config
  let want := StateRecord.want c.main (effectiveWant s).1 (effectiveWant s).2 (wantClasses c).1 (wantClasses c).2
  let want2 := StateRecord.want .m2 (effectiveWant s).1 (effectiveWant s).2 (wantClasses c).1 (wantClasses c).2
  match c.role with
  | some .consumer => [want]
  | some .turbine | some .townheat => [want2]
  | some .boiler => [want, .offer .m2 (currentOffer s) (measuredOut s) (broadcastFuel s.fu.mode)]
  | some .producer => [.offer c.main (currentOffer s) (measuredOut s) .none]
  | some .holder => [.holder c.main s.hu.level s.hu.band (drawLimit s) (absorbLimit s)]
  | some .exportTie | none => []

/-- The period's commitment a tie broadcasts; 0 while no period is open (R132). -/
def tieCommitment (s : State) : Nat :=
  match s.tie.openPeriod with
  | some p => p.commitment
  | none => 0

/-- The role extras of the station's STATE (R50). -/
def ownExtras (s : State) : Option (Nat × Nat) :=
  match s.mc.config.role with
  | some .exportTie => some (s.tie.gap, tieCommitment s)
  | some .turbine => some (s.mc.config.electricCapacity, s.mc.config.steamRate)
  | some .producer | some .holder | some .boiler | some .consumer | some .townheat | none => none

/-- A record as the Peer Table keeps it. -/
def keptRecord : StateRecord → MainRecord
  | .offer m o r f => .offer m o r f
  | .want m lo hi c h => .want m lo hi c h
  | .holder m _ _ d a => .holder m d a

/-- The own entry of the Peer Table, read from the blocks as they stand; age 0 and FRESH in every mode (R20,
R35). It is ABSENT in LOADING alone (R19). In LISTEN-ONLY its role is UNCONFIGURED and it has no records; its
tag and period there, and its reset cause in every mode, are the model's (notes/assumptions/40.md). -/
def ownEntry (s : State) : Option OwnEntry :=
  if s.mc.mode = .loading then none
  else
    some
      { role := s.mc.config.role, mains := stationMains s.mc.config, period := s.mc.config.period
        tag := s.mc.config.role.map fun _ => s.mc.config.tag, mode := s.mc.mode, severity := severity s
        claims := ownClaimSet s, records := ownRecords s, extras := ownExtras s
        age := 0, stale := false, cause := s.mc.cause }

/-! ### Setpoints in NODE STATUS and HELLO fields -/

/-- The HELLO the Mode Controller or the Share Engine requests of a configured station (R37, R174). -/
def configuredHello (c : StationConfig) : TxBody :=
  .hello c.role (mainsByte (stationMains c)) c.period c.tag

/-- The HELLO of LISTEN-ONLY: role UNCONFIGURED. The spec states none of its other fields, which no receiver
reads (R25): they are free (notes/assumptions/13.md). -/
def unconfiguredHello (free : Nat) : TxBody :=
  .hello none (free % 8) (free / 8 % 256) (free / 2048 % 65536)

end Sys2Proof.Machine
end

