-- ==== Sys2Proof/Machine/Completion.lean ====
section
/-! DEFINITION. A ladder's steps, and the completion of its action in flight (R93, R99, R101). -/

namespace Sys2Proof.Machine

/-- The configured steps of a line's ladder (R90). -/
def ladderSteps (l : ClaimLine) (s : State) : List Step := (s.mc.config.lines.get l).steps

/-- The dwell of step `k` of a ladder (R90). -/
def stepDwell (l : ClaimLine) (k : Nat) (s : State) : Nat :=
  match (ladderSteps l s)[k]? with
  | some st => st.dwell
  | none => 0

/-- The action in flight: the step number, and whether it is an undo (R93). -/
def actionInFlight (x : Ladder) : Option (Nat × Bool) :=
  match x.state with
  | .stepping => some (x.taken - 1, false)
  | .undoInFlight => some (x.taken, true)
  | .idle | .dwell | .top | .undoDwell => none

/-- The action in flight of a ladder completes, with whatever outcome: a take enters DWELL with the dwell of
the step just taken (R99), an undo enters UNDO DWELL with the dwell of the step just undone (R101). -/
def completeAction (l : ClaimLine) (o : ActionOutcome) (s : State) : State :=
  let x := s.rl.get l
  match x.state with
  | .stepping =>
    setLadder l { x with state := .dwell, dwell := some (stepDwell l (x.taken - 1) s), outcome := some o } s
  | .undoInFlight =>
    setLadder l { x with state := .undoDwell, dwell := some (stepDwell l x.taken s), outcome := some o } s
  | .idle | .dwell | .top | .undoDwell => s

/-- Several requesters complete with one outcome; their order does not matter, since a completion changes
its own ladder alone (R109). -/
def completeAll (ls : List ClaimLine) (o : ActionOutcome) (s : State) : State :=
  match ls with
  | [] => s
  | l :: rest => completeAll rest o (completeAction l o s)

end Sys2Proof.Machine
end

