-- ==== Sys2Proof/Machine/Fuel.lean ====
section
/-! DEFINITION. The Fuel Unit (07_boiler_fuel_changeover.md): requests, reports, the changeover timeout and
withdrawal. -/

namespace Sys2Proof.Machine

/-- The fuel mode of a changeover with a target (R107). -/
def toMode : Fuel → FuelMode
  | .gas => .toGas
  | .backup => .toBackup

/-- The settled fuel mode of a fuel (R107). -/
def settledMode : Fuel → FuelMode
  | .gas => .gas
  | .backup => .backup

/-- The fuel mode changes, and the Share Engine has it at once (R107). -/
def setFuelMode (m : FuelMode) (s : State) : State := rebuildWant (s.setFu { s.fu with mode := m })

/-- A changeover is started: FUEL COMMAND, the TO mode, the timer at the time limit, the joined requesters
(R108). -/
def startChangeover (f : Fuel) (joined : List ClaimLine) (s : State) : State :=
  let t := sendField (.fuelCommand f) s
  setFuelMode (toMode f) (t.setFu { t.fu with flight := some ⟨f, s.mc.config.changeoverLimit, joined⟩ })

/-- A requester joins the changeover in flight; a recorded target is cancelled and its waiting requesters are
superseded (R109). -/
def joinFlight (c : Changeover) (l : ClaimLine) (s : State) : State :=
  let t := s.setFu { s.fu with flight := some { c with joined := c.joined ++ [l] }, recorded := none }
  match s.fu.recorded with
  | none => t
  | some r => completeAll r.waiting .superseded t

/-- A request against the changeover in flight is recorded; the first such request supersedes the joined
requesters (R109). -/
def recordTarget (f : Fuel) (c : Changeover) (l : ClaimLine) (s : State) : State :=
  match s.fu.recorded with
  | some r => s.setFu { s.fu with recorded := some { r with waiting := r.waiting ++ [l] } }
  | none =>
    completeAll c.joined .superseded
      (s.setFu { s.fu with flight := some { c with joined := [] }, recorded := some ⟨f, [l]⟩ })

/-- The answer to a ladder's request for a fuel (R109). -/
def fuelRequest (f : Fuel) (l : ClaimLine) (s : State) : State :=
  match s.fu.flight with
  | none => if s.fu.mode = settledMode f then completeAction l .completed s else startChangeover f [l] s
  | some c => if c.target = f then joinFlight c l s else recordTarget f c l s

/-- The step that follows the end of a changeover: a recorded target is started with its waiting requesters
joined (R110 step 5, R112 step 4). -/
def startRecorded (r : RecordedTarget) (s : State) : State :=
  startChangeover r.target r.waiting (s.setFu { s.fu with recorded := none })

/-- A report of the target completes the changeover (R110). The settled mode is seen by the Share Engine only
when no recorded target stands. -/
def completeChangeover (f : Fuel) (c : Changeover) (s : State) : State :=
  let t := clearFault .changeoverTimeout
    (s.setFu { s.fu with flight := none, lastReported := some f, mode := settledMode f })
  let u := completeAll c.joined .completed t
  match s.fu.recorded with
  | none => rebuildWant u
  | some r => startRecorded r u

/-- A FUEL STATUS (R110, R111). -/
def fuelReport (f : Fuel) (s : State) : State :=
  match s.fu.flight with
  | none => setFuelMode (settledMode f) (s.setFu { s.fu with lastReported := some f })
  | some c =>
    if c.target = f then completeChangeover f c s else s.setFu { s.fu with lastReported := some f }

/-- The mode a timed-out changeover leaves: the last reported fuel, or UNKNOWN (R112). -/
def modeAfterTimeout (s : State) : FuelMode :=
  match s.fu.lastReported with
  | some f => settledMode f
  | none => .unknown

/-- The changeover timer expires (R112). The mode just set is delivered to the Share Engine at once (R107;
notes/assumptions/17.md). -/
def changeoverExpires (c : Changeover) (s : State) : State :=
  let t := raiseFault .changeoverTimeout s
  let u := setFuelMode (modeAfterTimeout s) (t.setFu { t.fu with flight := none })
  let v := completeAll c.joined .timedOut u
  match s.fu.recorded with
  | none => v
  | some r =>
    if modeAfterTimeout s = settledMode r.target then
      completeAll r.waiting .completed (v.setFu { v.fu with recorded := none })
    else startRecorded r v

/-- A list without a line. -/
def dropLine (l : ClaimLine) (ls : List ClaimLine) : List ClaimLine := ls.filter fun x => x != l

/-- The recorded target without a requester; with its last requester it is cancelled (R113). -/
def recordedWithout (l : ClaimLine) : Option RecordedTarget → Option RecordedTarget
  | none => none
  | some r => if dropLine l r.waiting = [] then none else some { r with waiting := dropLine l r.waiting }

/-- A cleared ladder's request is withdrawn wherever it stands (R113). -/
def withdrawFuel (l : ClaimLine) (s : State) : State :=
  s.setFu
    { s.fu with
      flight := s.fu.flight.map fun c => { c with joined := dropLine l c.joined }
      recorded := recordedWithout l s.fu.recorded }

end Sys2Proof.Machine
end

