-- ==== Sys2Proof/Machine/Flare.lean ====
section
/-! DEFINITION. Flare moves of a gas holder (04_holders_and_the_flare.md, R66 to R72). -/

namespace Sys2Proof.Machine

/-- The flare position in a computation: UNKNOWN is taken as 0; on main 2 it is 0 at all times (R66). -/
def flarePosition (s : State) : Nat := s.hu.position.getD 0

/-- The flare floor: 1 in band FLARE, 0 in any other band (R67, R70). -/
def flareFloor (s : State) : Nat := if s.hu.band = .flare then 1 else 0

/-- The target of a ladder's request, from the position as the move is started (R67). -/
def flareTarget (r : FlareRequest) (s : State) : Nat :=
  if r.undo then Nat.max (flarePosition s - 1) (flareFloor s) else Nat.min (flarePosition s + 1) 4

/-- A flare move is commanded: FLARE COMMAND, the move in flight, its timer at 60 s (R67). -/
def commandFlare (target : Nat) (requester : Option FlareRequest) (s : State) : State :=
  let t := sendField (.flareCommand target) s
  t.setHu { t.hu with move := some ⟨target, requester, 60⟩ }

/-- A ladder's request is started: at its target already it completes at once, otherwise its move is
commanded (R67). -/
def startFlare (r : FlareRequest) (s : State) : State :=
  if flareTarget r s = flarePosition s then completeAction r.line .completed s
  else commandFlare (flareTarget r s) (some r) s

/-- The waiting requests are started in order until one is in flight (R67). -/
def startWaiting : List FlareRequest → State → State
  | [], s => s.setHu { s.hu with waiting := [] }
  | r :: rest, s =>
    let t := startFlare r (s.setHu { s.hu with waiting := rest })
    if t.hu.move.isSome then t else startWaiting rest t

/-- A ladder's request: started at once with no move in flight and none waiting, else placed at the tail of
the waiting list (R67). -/
def flareRequest (r : FlareRequest) (s : State) : State :=
  if s.hu.move.isNone && s.hu.waiting.isEmpty then startFlare r s
  else s.setHu { s.hu with waiting := s.hu.waiting ++ [r] }

/-- The floor is not met: band FLARE with position 0 or UNKNOWN (R70). -/
def belowFloor (s : State) : Bool := s.hu.band == .flare && flarePosition s == 0

/-- What follows the completion of a move: the floor check, then the waiting requests (R67, R70). -/
def afterFlareMove (s : State) : State :=
  if belowFloor s then commandFlare 1 none s else startWaiting s.hu.waiting s

/-- The completion is reported to the requesting ladder, to none for a floor move (R68 to R70). -/
def reportFlare (m : FlareMove) (o : ActionOutcome) (s : State) : State :=
  match m.requester with
  | some r => completeAction r.line o s
  | none => s

/-- A move completes at its target (R68, R69). -/
def completeFlare (m : FlareMove) (o : ActionOutcome) (s : State) : State :=
  afterFlareMove (reportFlare m o (s.setHu { s.hu with position := some m.target, move := none }))

/-- The position adopted from a report: in band FLARE a report of 0 against a held position of 1 or more is
not adopted, and the position becomes 1 (R71). -/
def adoptedPosition (p : Nat) (s : State) : Nat :=
  if s.hu.band = .flare ∧ 1 ≤ flarePosition s ∧ p = 0 then 1 else p

/-- The floor refuses a report (R71). -/
def floorRefuses (p : Nat) (s : State) : Bool :=
  s.hu.band == .flare && 1 ≤ flarePosition s && p == 0

/-- A FLARE STATUS at a gas holder; a position above 4 is held as 4 (R66, R68, R71). The floor move of R71 is
commanded although the position has just become 1 (notes/assumptions/15.md). -/
def flareReport (reported : Nat) (s : State) : State :=
  let p := Nat.min reported 4
  match s.hu.move with
  | some m =>
    if p = m.target then completeFlare m .completed (clearFault .flareTimeout s)
    else s.setHu { s.hu with position := some (adoptedPosition p s) }
  | none =>
    let t := s.setHu { s.hu with position := some (adoptedPosition p s) }
    if floorRefuses p s then commandFlare 1 none t else t

/-- The move's timer expires: the target is taken as the position and the move completes (R69). -/
def flareExpires (m : FlareMove) (s : State) : State :=
  completeFlare m .timedOut (raiseFault .flareTimeout s)

/-- The flare floor at the entry to band FLARE of a gas holder (R70): a floor move from position 0 or
UNKNOWN with none in flight; a move in flight to 0 is retargeted to 1 with its timer restarted. -/
def floorEntry (s : State) : State :=
  match s.hu.move with
  | none => if flarePosition s = 0 then commandFlare 1 none s else s
  | some m => if m.target = 0 then commandFlare 1 m.requester s else s

end Sys2Proof.Machine
end

