-- ==== Sys2Proof/Machine/Ladder.lean ====
section
/-! DEFINITION. The Response Ladders (06_response_ladders.md): taking and undoing a step, rises and falls,
clearing; and the meanings of DWELL_EXPIRY and UNDO_DWELL_EXPIRY. -/

namespace Sys2Proof.Machine

/-- The take of an action is asked of its owning block (R94 to R97). -/
def askTake (a : Action) (l : ClaimLine) (s : State) : State :=
  match a with
  | .none => completeAction l .completed s
  | .raise _ | .shed => completeAction l .completed (rebuildWant s)
  | .fuelBackup => fuelRequest .backup l s
  | .fuelGas => fuelRequest .gas l s
  | .flareStep => flareRequest ⟨l, false⟩ s
  | .wake role => completeAction l .completed (enqueue (.wake role l.main) s)

/-- The undo of an action is asked of its owning block (R94 to R97). -/
def askUndo (a : Action) (l : ClaimLine) (s : State) : State :=
  match a with
  | .none | .wake _ => completeAction l .completed s
  | .raise _ | .shed => completeAction l .completed (rebuildWant s)
  | .fuelBackup => fuelRequest .gas l s
  | .fuelGas => fuelRequest .backup l s
  | .flareStep => flareRequest ⟨l, true⟩ s

/-- The ladder takes the step whose number is its taken count, if it has one (R93). -/
def takeStep (l : ClaimLine) (s : State) : State :=
  let x := s.rl.get l
  match (ladderSteps l s)[x.taken]? with
  | none => s
  | some st =>
    askTake st.action l (setLadder l { x with state := .stepping, taken := x.taken + 1, dwell := none } s)

/-- The ladder undoes the highest step standing taken, if there is one (R93). -/
def undoStep (l : ClaimLine) (s : State) : State :=
  let x := s.rl.get l
  match x.taken with
  | 0 => s
  | k + 1 =>
    match (ladderSteps l s)[k]? with
    | none => s
    | some st => askUndo st.action l (setLadder l { x with state := .undoInFlight, taken := k, dwell := none } s)

/-- A rise handed to a ladder: IDLE takes step 0, every other state is held or has no effect (R98 to R101). -/
def ladderRise (l : ClaimLine) (s : State) : State :=
  match (s.rl.get l).state with
  | .idle => takeStep l s
  | .stepping | .dwell | .top | .undoInFlight | .undoDwell => s

/-- A fall handed to a ladder: TOP undoes its highest step, every other state is held or has no effect (R98
to R101). -/
def ladderFall (l : ClaimLine) (s : State) : State :=
  match (s.rl.get l).state with
  | .top => undoStep l s
  | .idle | .stepping | .dwell | .undoInFlight | .undoDwell => s

/-- The OR of a line: asserted while its source set holds a number (R75). -/
def orAsserted (l : ClaimLine) (s : State) : Bool := !(s.cu.get l).sources.isEmpty

/-- A ladder reset by a clearing; its last outcome is kept (R103, R104). -/
def clearedLadder (x : Ladder) : Ladder := ⟨.idle, 0, none, x.outcome⟩

/-- Each ladder's request is withdrawn from the Fuel Unit (R103, R113). -/
def withdrawAll : List ClaimLine → State → State
  | [], s => s
  | l :: rest, s => withdrawAll rest (withdrawFuel l s)

/-- Every ladder is cleared: requests withdrawn, effects removed with one rebuild, ladders IDLE; fuel mode
and flare position stay (R103). -/
def clearLadders (s : State) : State :=
  let t := withdrawAll allLines s
  rebuildWant (t.setRl (Six.build fun l => clearedLadder (t.rl.get l)))

/-- A ladder in DWELL whose dwell has expired resamples the OR (R100). -/
def resampleDwell (l : ClaimLine) (s : State) : State :=
  let x := s.rl.get l
  if orAsserted l s then
    if x.taken < (ladderSteps l s).length then takeStep l s
    else setLadder l { x with state := .top, dwell := none } s
  else undoStep l s

/-- A ladder in UNDO DWELL whose dwell has expired resamples the OR (R101). -/
def resampleUndoDwell (l : ClaimLine) (s : State) : State :=
  let x := s.rl.get l
  if orAsserted l s then takeStep l s
  else if x.taken = 0 then setLadder l { x with state := .idle, dwell := none } s
  else undoStep l s

/-- DWELL_EXPIRY (R100): acts where the line's ladder is in DWELL with its timer expired. -/
def execDwellExpiry (l : ClaimLine) (s : State) : Host.Outcome State Fault Refusal :=
  .next (if (s.rl.get l).state = .dwell ∧ expired (s.rl.get l).dwell then resampleDwell l s else s)

/-- UNDO_DWELL_EXPIRY (R101): acts where the line's ladder is in UNDO DWELL with its timer expired. -/
def execUndoDwellExpiry (l : ClaimLine) (s : State) : Host.Outcome State Fault Refusal :=
  .next (if (s.rl.get l).state = .undoDwell ∧ expired (s.rl.get l).dwell then resampleUndoDwell l s else s)

end Sys2Proof.Machine
end

