-- ==== Sys2Proof/Machine/Store.lean ====
section
/-! DEFINITION. The Record Store (11_the_record_store.md): the ring of slots, the hold queue and its commits,
the read service; and the meanings of COMMIT_END and RECORD_PLACE. -/

namespace Sys2Proof.Machine

/-! ### Slots (R160) -/

/-- The slot of a sequence number: (s − 1) mod 1024 (R160). -/
def slotOf (seq : Nat) : Nat := (seq + 1023) % 1024

/-- The retained numbers: of records written whole whose number lies from N − 1023 to N (R160). A commit in
flight has taken its slot's old record out of the list (R161). -/
def retainedNumbers (rs : RecordUnit) : List Nat :=
  (rs.slots.map fun x => recordSeq x.2).filter fun n => rs.newest ≤ n + 1023 && n ≤ rs.newest

/-- The numbers held in the hold queue. -/
def heldNumbers (rs : RecordUnit) : List Nat := rs.holdQueue.map recordSeq

/-- The oldest retained number (R160). -/
def oldestRetained (rs : RecordUnit) : Option Nat := leastOf (retainedNumbers rs)

/-- The least number from `q` on that is retained or held (R166). -/
def leastServable (q : Nat) (rs : RecordUnit) : Option Nat :=
  leastOf ((retainedNumbers rs ++ heldNumbers rs).filter fun n => q ≤ n)

/-- The record of a number, read from the hold queue or from its slot (R167). -/
def servedRecord (n : Nat) (rs : RecordUnit) : Option StoreRecord :=
  match rs.holdQueue.find? fun r => recordSeq r == n with
  | some r => some r
  | none => (rs.slots.find? fun x => recordSeq x.2 == n).map fun x => x.2

/-! ### Hand-over and commit (R160 to R165) -/

/-- The commit of the head starts: the slot's old record stops being retained (R161, R164). -/
def startCommit (rs : RecordUnit) : RecordUnit :=
  match rs.holdQueue with
  | [] => rs
  | r :: _ => { rs with inFlight := true, slots := assocErase (slotOf (recordSeq r)) rs.slots }

/-- A commit starts when none is in flight (R164, R165). -/
def startIfIdle (rs : RecordUnit) : RecordUnit := if rs.inFlight then rs else startCommit rs

def isPowerFail (r : StoreRecord) : Bool := (recordFlags r).powerFail

/-- The records whose commit is in flight: the head, or none (R162). -/
def flightPart (rs : RecordUnit) : List StoreRecord := if rs.inFlight then rs.holdQueue.take 1 else []

/-- The waiting records (R162). -/
def waitingPart (rs : RecordUnit) : List StoreRecord := if rs.inFlight then rs.holdQueue.drop 1 else rs.holdQueue

/-- The waiting records without the oldest, the one of least sequence number (R163). -/
def dropOldestWaiting (w : List StoreRecord) : List StoreRecord :=
  match leastOf (w.map recordSeq) with
  | none => w
  | some n => removeFirst (fun r => recordSeq r == n) w

/-- A record placed among the waiting records: a POWER FAIL record ahead of all but earlier POWER FAIL
records, another at the tail (R162). Where the head and the place behind earlier POWER FAIL records differ, or one of
those stands behind another record: notes/assumptions/45.md. -/
def placeWaiting (r : StoreRecord) (w : List StoreRecord) : List StoreRecord :=
  if isPowerFail r then w.takeWhile isPowerFail ++ r :: w.dropWhile isPowerFail else w ++ [r]

/-- Among the four numbers given before `n`, not below 1, one is not retained (R162). -/
def lostBefore (n : Nat) (rs : RecordUnit) : Bool :=
  [1, 2, 3, 4].any fun k => k < n && !(retainedNumbers rs).contains (n - k)

/-- The hold queue is full (R163). -/
def holdFull (rs : RecordUnit) : Bool := 4 ≤ rs.holdQueue.length

/-- The record as it is placed: numbered (R160), and flagged GAP after a drop or, at the first hand-over
after a power-on, after a lost number (R162, R163). -/
def handedRecord (r : StoreRecord) (rs : RecordUnit) : StoreRecord :=
  let r1 := withSeq rs.nextSeq r
  if holdFull rs || (rs.firstHandOver && lostBefore rs.nextSeq rs) then withGap r1 else r1

/-- The hold queue after a hand-over (R162, R163). -/
def queueAfter (r : StoreRecord) (rs : RecordUnit) : List StoreRecord :=
  let w := if holdFull rs then dropOldestWaiting (waitingPart rs) else waitingPart rs
  flightPart rs ++ placeWaiting (handedRecord r rs) w

/-- A hand-over: number, place, and start a commit if none is in flight, which is the retry under STORE FAULT
(R160, R162 to R165). -/
def handOver (r : StoreRecord) (s : State) : State :=
  let rs := s.rs
  let next := if rs.nextSeq + 1 < 2 ^ 32 then rs.nextSeq + 1 else freeNumber s % 2 ^ 32
  let t := if rs.nextSeq + 1 < 2 ^ 32 then s else drawn s
  t.setRs (startIfIdle { rs with holdQueue := queueAfter r rs, nextSeq := next, firstHandOver := false })

/-! ### The read service (R166, R167) -/

/-- The count of a READ: 0 is taken as 1, above 4 as 4 (R166). -/
def readCount (n : Nat) : Nat := clamp 1 4 n

/-- The first answer of a READ for `q` (R166). A `q` that is held and lies below the oldest retained number is
answered TRIMMED (notes/assumptions/21.md). -/
def firstAnswer (kindKept : Bool) (q : Nat) (sl : ReadSlot) (rs : RecordUnit) : ReadSlot :=
  let nothing : ReadSlot := { sl with next := q, left := 1, status := .none, waiting := false }
  if !kindKept then nothing
  else match leastServable q rs with
    | none => nothing
    | some n =>
      match oldestRetained rs with
      | some o =>
        if q < o then { sl with next := o, status := .trimmed, waiting := false }
        else if rs.inFlight && (heldNumbers rs).contains q then { sl with next := q, waiting := true }
        else { sl with next := n, status := .ok, waiting := false }
      | none =>
        if rs.inFlight && (heldNumbers rs).contains q then { sl with next := q, waiting := true }
        else { sl with next := n, status := .ok, waiting := false }

/-- The next answer of a slot after the record `m` (R167): none when nothing is left, TRIMMED from the oldest
retained when the numbers after `m` have been overwritten (notes/assumptions/21.md), a wait while the record
is held with a commit in flight. -/
def nextAnswer (m : Nat) (sl : ReadSlot) (rs : RecordUnit) : Option ReadSlot :=
  match leastServable (m + 1) rs with
  | none => none
  | some n =>
    let trimmed := match oldestRetained rs with | some o => decide (m + 1 < o) | none => false
    let n' := if trimmed then (oldestRetained rs).getD n else n
    if !trimmed && rs.inFlight && (heldNumbers rs).contains n then
      some { sl with next := n, waiting := true, lastSent := some m }
    else
      some { sl with next := n', status := if trimmed then .trimmed else .ok, waiting := false, lastSent := some m }

/-- A waiting slot looks again at the end of a commit (R166, R167). -/
def lookAgain (rs : RecordUnit) (x : Option ReadSlot) : Option ReadSlot :=
  match x with
  | none => none
  | some sl =>
    if sl.waiting then
      match sl.lastSent with
      | none => some (firstAnswer true sl.next sl rs)
      | some m => nextAnswer m sl rs
    else some sl

/-- A slot whose RECORD has been sent whole (R167): a NONE answer ends with it. -/
def slotSent (rs : RecordUnit) (x : Option ReadSlot) : Option ReadSlot :=
  match x with
  | none => none
  | some sl =>
    if sl.status = .none ∨ sl.left ≤ 1 then none
    else nextAnswer sl.next { sl with left := sl.left - 1, inQueue := false } rs

def getSlot (i : ReadSlotId) (rs : RecordUnit) : Option ReadSlot :=
  match i with
  | .a => rs.slotA
  | .b => rs.slotB

def setSlot (i : ReadSlotId) (x : Option ReadSlot) (rs : RecordUnit) : RecordUnit :=
  match i with
  | .a => { rs with slotA := x }
  | .b => { rs with slotB := x }

def otherSlot : ReadSlotId → ReadSlotId
  | .a => .b
  | .b => .a

/-- The LIU reports a slot's RECORD sent whole (R167). -/
def recordSent (i : ReadSlotId) (s : State) : State := s.setRs (setSlot i (slotSent s.rs (getSlot i s.rs)) s.rs)

/-- The LIU reports a slot's RECORD dropped, or it was removed unsent: the answer ends (R5, R167;
notes/assumptions/21.md). -/
def recordGone (i : ReadSlotId) (s : State) : State := s.setRs (setSlot i none s.rs)

/-- The report to the read slot a RECORD answers for. -/
def reportRecord (b : TxBody) (sent : Bool) (s : State) : State :=
  match b with
  | .record _ _ _ (some i) => if sent then recordSent i s else recordGone i s
  | .record _ _ _ none | .hello _ _ _ _ | .state _ _ _ _ | .claim _ _ | .leave _ | .time _ _ | .wake _ _ => s

/-- The slot has a RECORD to place: BUSY, not waiting on a commit, its previous RECORD done (R167). -/
def slotReady (x : Option ReadSlot) : Bool :=
  match x with
  | some sl => !sl.waiting && !sl.inQueue
  | none => false

/-- The READ of one slot was taken before the other's (R167). -/
def takenFirst (i : ReadSlotId) (rs : RecordUnit) : Bool :=
  match getSlot i rs, getSlot (otherSlot i) rs with
  | some x, some y => x.taken < y.taken
  | _, _ => true

/-- What a ready slot serves as its RECORD is placed: its number if that is still retained or held, else the
answer is settled anew (R167, R168). Where the number is gone, the move to another number is the model's reading; so is
that a slot which moves to a number held with a commit in flight does not wait for it but serves it from the hold queue
at once, its status kept, TRIMMED included: DEDUCED, notes/assumptions/21.md. -/
def settledSlot (sl : ReadSlot) (rs : RecordUnit) : Option ReadSlot :=
  if sl.status = .none ∨ (retainedNumbers rs ++ heldNumbers rs).contains sl.next then some sl
  else match oldestRetained rs, leastServable sl.next rs with
    | some o, least => if sl.next < o then some { sl with next := o, status := .trimmed } else
        (match least with
          | some n => some { sl with next := n }
          | none => if sl.lastSent = none then some { sl with status := .none, left := 1 } else none)
    | none, some n => some { sl with next := n }
    | none, none => if sl.lastSent = none then some { sl with status := .none, left := 1 } else none

/-- The RECORD a slot places: status and one record, or an empty record (R166, R167, R169). -/
def slotRecord (i : ReadSlotId) (sl : ReadSlot) (s : State) : TxBody :=
  match keptKind s.mc.config, servedRecord sl.next s.rs with
  | some kind, some r =>
    if sl.status = .none then .record .none 0 [] (some i)
    else .record sl.status (recordKindCode kind) (servedBody kind r (freeNumber s)) (some i)
  | _, _ => .record .none 0 [] (some i)

/-- A free value is drawn where a body of the other kind is continued (R169; notes/assumptions/22.md). -/
def servedDrawn (sl : ReadSlot) (s : State) : State :=
  match keptKind s.mc.config, servedRecord sl.next s.rs with
  | some kind, some r => if sl.status ≠ .none ∧ (bodyBytes r).length < bodyLength kind then drawn s else s
  | _, _ => s

/-- A ready slot places its RECORD (R167). -/
def placeRecord (i : ReadSlotId) (s : State) : State :=
  match getSlot i s.rs with
  | none => s
  | some sl =>
    match settledSlot sl s.rs with
    | none => recordGone i s
    | some sl' =>
      let t := enqueue (slotRecord i sl' s) (servedDrawn sl' s)
      t.setRs (setSlot i (some { sl' with inQueue := true }) t.rs)

/-- A READ taken by the read service: kind code, first number, count (R166). With both slots FREE it occupies
slot A (notes/assumptions/46.md). -/
def takeRead (kind q count : Nat) (s : State) : State :=
  let kept := match keptKind s.mc.config, recordKindOfCode kind with
    | some k, some k' => k == k'
    | _, _ => false
  let fresh : ReadSlot := ⟨q, readCount count, .ok, false, false, none, s.rs.reads⟩
  let rs := { s.rs with reads := s.rs.reads + 1 }
  if s.rs.slotA.isNone then s.setRs { rs with slotA := some (firstAnswer kept q fresh s.rs) }
  else if s.rs.slotB.isNone then s.setRs { rs with slotB := some (firstAnswer kept q fresh s.rs) }
  else if recordRoom s then enqueue (.record .busy 0 [] none) s
  else s

/-- RECORD_PLACE (R167): acts where the slot is ready, the queue has room, and, with room for one RECORD
only, no ready slot's READ was taken before. -/
def execRecordPlace (i : ReadSlotId) (s : State) : Host.Outcome State Fault Refusal :=
  .next
    (if slotReady (getSlot i s.rs) && recordRoom s &&
        !(roomForOne s && slotReady (getSlot (otherSlot i) s.rs) && !takenFirst i s.rs) then placeRecord i s
    else s)

/-! ### The end of a commit (R164, R165) -/

/-- RESET READY is sent, the ready timer stops and the 10 s return timer starts (R178). -/
def sendResetReady (s : State) : State :=
  let t := sendField .resetReady s
  t.setMc { t.mc with readyTimer := none, returnTimer := some 10 }

/-- The hold queue reported empty answers a RESET WARNING that waits (R164, R178). -/
def reportEmpty (s : State) : State :=
  if s.rs.holdQueue.isEmpty && s.mc.mode == .leaving && s.mc.readyTimer.isSome then sendResetReady s else s

/-- The waiting read slots look again (R166, R167). -/
def slotsLookAgain (rs : RecordUnit) : RecordUnit :=
  { rs with slotA := lookAgain rs rs.slotA, slotB := lookAgain rs rs.slotB }

/-- The head has been written whole: retained, out of the queue, and the next head starts (R164). -/
def committed (r : StoreRecord) (rest : List StoreRecord) (rs : RecordUnit) : RecordUnit :=
  startCommit
    { rs with
      slots := assocPut (slotOf (recordSeq r)) r rs.slots
      newest := Nat.max rs.newest (recordSeq r)
      holdQueue := rest
      inFlight := false }

/-- The commit in flight ends, written whole or with a write error (R164, R165). -/
def commitEnds (result : WriteResult) (r : StoreRecord) (rest : List StoreRecord) (s : State) : State :=
  match result with
  | .whole => reportEmpty (clearFault .storeFault (s.setRs (slotsLookAgain (committed r rest s.rs))))
  | .error => raiseFault .storeFault (s.setRs (slotsLookAgain { s.rs with inFlight := false }))

/-- COMMIT_END (R164): acts where a commit is in flight. -/
def execCommitEnd (result : WriteResult) (s : State) : Host.Outcome State Fault Refusal :=
  .next
    (match s.rs.inFlight, s.rs.holdQueue with
      | true, r :: rest => commitEnds result r rest s
      | _, _ => s)

end Sys2Proof.Machine
end

