-- ==== Sys2Proof/Machine/Claims.lean ====
section
/-! DEFINITION. The Claim Unit (05_claim_lines.md) with the wakes its rises bring about: masks, the pending
resample, entry to ACTIVE and to LISTEN-IN, the wake latch (R177), rises and falls, own claims and peer
bits. -/

namespace Sys2Proof.Machine

/-! ### Masks and pending (R82 to R85) -/

/-- The modes in which every line is masked (R83). -/
def modeMasks (mode : Mode) : Bool :=
  match mode with
  | .loading | .listenIn | .listenOnly | .standbyListen | .standbyDeep => true
  | .active | .leaving => false

/-- A line is masked by its configuration or by the mode (R82, R83). -/
def masked (l : ClaimLine) (s : State) : Bool := (s.mc.config.lines.get l).masked || modeMasks s.mc.mode

/-- A pending flag written. -/
def setPending (b : Bool) (l : ClaimLine) (s : State) : State := setLine l { s.cu.get l with pending := b } s

/-- The lines resampled at entry to ACTIVE: pending, and not configured MASKED (R85). -/
def resampledLines (s : State) : List ClaimLine :=
  allLines.filter fun l => (s.cu.get l).pending && !(s.mc.config.lines.get l).masked

/-- The pending flags of some lines cleared. -/
def clearPending : List ClaimLine → State → State
  | [], s => s
  | l :: rest, s => clearPending rest (setPending false l s)

/-- A rise handed to the ladders of some lines, one after the other. -/
def handRises : List ClaimLine → State → State
  | [], s => s
  | l :: rest, s => handRises rest (ladderRise l s)

/-- Each pending open line is resampled: its flag is cleared, and where the OR is asserted its ladder is
handed a rise, the lines in any order (R85; notes/assumptions/8.md). -/
def resamplePending (s : State) : State :=
  let asserted := (resampledLines s).filter fun l => orAsserted l s
  handRises (freeOrder asserted s) (orderDrawn asserted (clearPending (resampledLines s) s))

/-- The lines marked pending at entry to LISTEN-IN and STANDBY-LISTEN: asserted with an IDLE ladder (R83). -/
def markPending (s : State) : State :=
  s.setCu (Six.build fun l =>
    if orAsserted l s && (s.rl.get l).state == .idle then { s.cu.get l with pending := true } else s.cu.get l)

/-! ### Mode entries that a wake can bring about -/

/-- The empty wake latch. -/
def emptyLatch : WakeLatch := ⟨false, false, Six.all false⟩

/-- Entry to ACTIVE: the round count is 0 (R37), the wake latch is cleared (R177), the want is rebuilt (R47)
and the mode mask lifts (R85). Fallback lasts until the first ACTIVE round (R53). -/
def enterActive (s : State) : State :=
  let t := s.setMc { s.mc with mode := .active, latch := emptyLatch }
  resamplePending (rebuildWant (t.setSe { t.se with roundCount := 0 }))

/-- Entry to LISTEN-IN: a HELLO, the round timer at the period, round count 0, fallback setpoints, pending
marks (R174, R36, R37, R52, R83). The NODE STATUS timer of the mode left stops (R170). -/
def enterListenIn (s : State) : State :=
  let t := s.setMc { s.mc with mode := .listenIn }
  let u := enqueue (configuredHello t.mc.config) (t.setFp { t.fp with statusTimer := none })
  let v := u.setSe { u.se with roundTimer := some u.mc.config.period, roundCount := 0 }
  rebuildWant (markPending (enterFallback v))

/-! ### The wake latch (R177) -/

/-- A wake cause. -/
inductive WakeCause where
  | wakeFrame
  | resume
  | claimRise (line : ClaimLine)
  deriving DecidableEq, Repr

/-- The latch with a cause added; a cause in it is not added twice (R177). -/
def latched (c : WakeCause) (l : WakeLatch) : WakeLatch :=
  match c with
  | .wakeFrame => { l with wakeFrame := true }
  | .resume => { l with resume := true }
  | .claimRise k => { l with claimRise := l.claimRise.set k true }

/-- Some line's CLAIM RISE is latched. -/
def anyRise (x : Six Bool) : Bool :=
  x.shortfall0 || x.surplus0 || x.shortfall1 || x.surplus1 || x.shortfall2 || x.surplus2

/-- A cause in the latch acts in standby: in STANDBY-LISTEN any cause wakes to ACTIVE, in STANDBY-DEEP a WAKE
FRAME or RESUME wakes to LISTEN-IN; in the other modes a latched cause waits (R176, R177). A cause taken in
STANDBY-LISTEN while a DEEP request waits wakes at once and is cleared, before R181 could have it wake from DEEP
(notes/assumptions/52.md). -/
def actOnLatch (s : State) : State :=
  match s.mc.mode with
  | .standbyListen =>
    if s.mc.latch.wakeFrame || s.mc.latch.resume || anyRise s.mc.latch.claimRise then enterActive s else s
  | .standbyDeep => if s.mc.latch.wakeFrame || s.mc.latch.resume then enterListenIn s else s
  | .loading | .listenOnly | .listenIn | .active | .leaving => s

/-- A wake cause reaches the Mode Controller: latched in every mode after LOADING except LISTEN-ONLY, and
acted on at once in standby (R177). -/
def latchCause (c : WakeCause) (s : State) : State :=
  if s.mc.mode = .loading ∨ s.mc.mode = .listenOnly then s
  else actOnLatch (s.setMc { s.mc with latch := latched c s.mc.latch })

/-! ### Rises and falls (R81) -/

/-- A rise of the line is kept from its ladder: the line is masked and the ladder IDLE (R81). -/
def heldBack (l : ClaimLine) (s : State) : Bool := masked l s && (s.rl.get l).state == .idle

/-- A rise before its ladder is told: pending where it is held back, and the wake cause of a wake line (R81
steps 1 and 2). -/
def noteRise (l : ClaimLine) (s : State) : State :=
  let t := if heldBack l s then setPending true l s else s
  if s.mc.config.wakeSet.get l then latchCause (.claimRise l) t else t

/-- A rise of a line, handed to its ladder where the line is open or the ladder not IDLE as the line stands at
the rise (R81). -/
def rise (l : ClaimLine) (s : State) : State :=
  if heldBack l s then noteRise l s else ladderRise l (noteRise l s)

/-- A fall of a line: its pending flag is cleared and the ladder is handed the fall (R81). -/
def fall (l : ClaimLine) (s : State) : State := ladderFall l (setPending false l s)

/-- A number is set in a line's source set, with what a set that fills does (R75). -/
def setBitWith (edge : State → State) (n : Nat) (l : ClaimLine) (s : State) : State :=
  let x := s.cu.get l
  if x.sources.contains n then s
  else
    let t := setLine l { x with sources := setAdd n x.sources } s
    if x.sources.isEmpty then edge t else t

/-- A number is set in a line's source set; a set that fills rises (R75). -/
def setBit (n : Nat) (l : ClaimLine) (s : State) : State := setBitWith (rise l) n l s

/-- A number is cleared from a line's source set, with what a set that empties does (R75). -/
def clearBitWith (edge : State → State) (n : Nat) (l : ClaimLine) (s : State) : State :=
  let x := s.cu.get l
  if x.sources.contains n then
    let t := setLine l { x with sources := setRemove n x.sources } s
    if (setRemove n x.sources).isEmpty then edge t else t
  else s

/-- A number is cleared from a line's source set; a set that empties falls (R75). -/
def clearBit (n : Nat) (l : ClaimLine) (s : State) : State := clearBitWith (fall l) n l s

/-! ### Own claims (R76, R77) -/

/-- A request to assert an own claim, with what a rise does: the claim, the own number in the source set, the
CLAIM frame (R76). -/
def assertOwnWith (edge : State → State) (l : ClaimLine) (s : State) : State :=
  if (s.cu.get l).own then s
  else
    enqueue (.claim l .assert)
      (setBitWith edge s.mc.node.val l (setLine l { s.cu.get l with own := true } s))

/-- A request to release an own claim, with what a fall does (R76). -/
def releaseOwnWith (edge : State → State) (l : ClaimLine) (s : State) : State :=
  if (s.cu.get l).own then
    enqueue (.claim l .release)
      (clearBitWith edge s.mc.node.val l (setLine l { s.cu.get l with own := false } s))
  else s

/-- A request to assert an own claim, the rise whole (R76, R81). -/
def assertOwn (l : ClaimLine) (s : State) : State := assertOwnWith (rise l) l s

/-- A request to release an own claim, the fall whole (R76, R81). -/
def releaseOwn (l : ClaimLine) (s : State) : State := releaseOwnWith (fall l) l s

/-! ### Own claims within a round (R58, R76) -/

/-- An own claim asserted within a round, its ladder not yet told (R58). -/
def assertInRound (l : ClaimLine) (s : State) : State := assertOwnWith (noteRise l) l s

/-- An own claim released within a round, its ladder not yet told (R58). -/
def releaseInRound (l : ClaimLine) (s : State) : State := releaseOwnWith (setPending false l) l s

/-- The edge of a line between the two ends of a round's work is handed to the line's ladder (R58, R81). -/
def handEdge (before : State) (l : ClaimLine) (s : State) : State :=
  if orAsserted l before = orAsserted l s then s
  else if orAsserted l s then (if heldBack l s then s else ladderRise l s)
  else ladderFall l s

/-- The edges of some lines, one after the other. -/
def handEdges (before : State) : List ClaimLine → State → State
  | [], s => s
  | l :: rest, s => handEdges before rest (handEdge before l s)

/-! ### Peer bits (R78 to R80) -/

/-- The lines on which a claim set would change a sender's bit (R79). -/
def changedLines (n : Nat) (set : Six Bool) (s : State) : List ClaimLine :=
  allLines.filter fun l => (s.cu.get l).sources.contains n != set.get l

/-- A sender's bit on one line made equal to its claim set's. -/
def applyClaim (n : Nat) (set : Six Bool) (l : ClaimLine) (s : State) : State :=
  if set.get l then setBit n l s else clearBit n l s

/-- A sender's bits on some lines, one after the other. -/
def applyClaimsOn (n : Nat) (set : Six Bool) : List ClaimLine → State → State
  | [], s => s
  | l :: rest, s => applyClaimsOn n set rest (applyClaim n set l s)

/-- An authoritative claim set of a sender, each line that changes being an event of its own, in any order
(R75, R79; notes/assumptions/8.md). A removal is the empty set (R80). -/
def applyClaims (n : Nat) (set : Six Bool) (s : State) : State :=
  let lines := changedLines n set s
  applyClaimsOn n set (freeOrder lines s) (orderDrawn lines s)

/-- The claim lines on which the Share Engine of a role claims: SHORTFALL of the want main (R55), SURPLUS of a
PRODUCER's main (R56). -/
def engineLines (c : StationConfig) : List ClaimLine :=
  match wantMain c with
  | some m => [⟨m, .shortfall⟩]
  | none => if c.role = some .producer then [⟨c.main, .surplus⟩] else []

/-- The claim lines of a HOLDER (R64). -/
def holderLines (c : StationConfig) : List ClaimLine :=
  if c.role = some .holder then [⟨c.main, .shortfall⟩, ⟨c.main, .surplus⟩] else []

/-- Own claims released one after the other. -/
def releaseAll : List ClaimLine → State → State
  | [], s => s
  | l :: rest, s => releaseAll rest (releaseOwn l s)

/-- The Share Engine leaves ACTIVE: its claims are released and its counters set to 0 (R57). -/
def engineReleases (s : State) : State :=
  releaseAll (engineLines s.mc.config) (s.setSe { s.se with shortfallCount := 0, excessCount := 0 })

/-- The holder's claims for a band: the release is asked before the assertion (R64). -/
def bandClaims (b : Band) (s : State) : State :=
  let short : ClaimLine := ⟨s.mc.config.main, .shortfall⟩
  let surplus : ClaimLine := ⟨s.mc.config.main, .surplus⟩
  match b with
  | .none | .normal => releaseOwn surplus (releaseOwn short s)
  | .emptyGuard | .low => assertOwn short (releaseOwn surplus s)
  | .high | .flare => assertOwn surplus (releaseOwn short s)

end Sys2Proof.Machine
end

