-- ==== Sys2Proof/Machine/Status.lean ====
section
/-! DEFINITION. NODE STATUS: what each block gives it, as the blocks stand when it is built (R54, R74, R89,
R105, R118, R132, R134, R150, R159, R169, R170 to R180); and the meaning of NODE_STATUS_TIMER. -/

namespace Sys2Proof.Machine

/-- The mains the Share Engine computes: those on which the station holds a record (R38). -/
def computedMains (c : StationConfig) : List Main :=
  match c.role with
  | some .consumer | some .producer | some .holder => [c.main]
  | some .boiler => [c.main, .m2]
  | some .turbine | some .townheat => [.m2]
  | some .exportTie | none => []

/-- One main computed (R54): grant, minimum grant and setpoint output where the station wants. -/
def shareStatus (s : State) (m : Main) : ShareStatus :=
  ⟨m, if wantMain s.mc.config = some m then some (s.se.grant, s.se.minGrant, s.se.setpoint) else none,
    s.se.results.get m⟩

/-- One claim line (R89). -/
def lineStatus (s : State) (l : ClaimLine) : LineStatus :=
  ⟨(s.cu.get l).own, orAsserted l s, (s.cu.get l).sources.length, (s.mc.config.lines.get l).masked,
    (s.cu.get l).pending⟩

/-- One ladder (R105). -/
def ladderStatus (s : State) (l : ClaimLine) : LadderStatus :=
  let x := s.rl.get l
  ⟨x.state, x.taken, (ladderSteps l s).length, actionInFlight x, x.dwell, x.outcome,
    (ladderSteps l s).map fun st => st.replaced⟩

/-- The flare position as reported: 0 at all times on main 2 (R66). -/
def reportedPosition (s : State) : Option Nat := if s.mc.config.main = .m2 then some 0 else s.hu.position

/-- The holder (R74). -/
def holderStatus (s : State) : HolderStatus :=
  ⟨s.hu.level, s.hu.band, drawLimit s, absorbLimit s, reportedPosition s, s.hu.move.map fun m => m.target⟩

/-- The boiler's fuel (R118). -/
def fuelStatusOf (s : State) : FuelStatus :=
  ⟨s.fu.mode, s.fu.lastReported, s.fu.flight.map fun c => (c.target, c.timer),
    s.fu.recorded.map fun r => r.target,
    match s.fu.flight with | some c => c.joined.length | none => 0,
    match s.fu.recorded with | some r => r.waiting.length | none => 0⟩

/-- The schedule slot of a day (R120). -/
def slotOfDay (day : Nat) (t : TieUnit) : Option DaySchedule :=
  match t.slotA with
  | some x => if x.day = day then some x else t.slotB.filter fun y => y.day == day
  | none => t.slotB.filter fun y => y.day == day

/-- The number of entries of a slot that are not NONE (R132). -/
def entryCount (x : Option DaySchedule) : Nat :=
  match x with
  | some d => (d.entries.filter fun e => e.isSome).length
  | none => 0

/-- The tie (R132). With no period open its numbers read 0 and it has no start and no flags
(notes/assumptions/44.md). -/
def tieStatus (s : State) : TieStatus :=
  let p := s.tie.openPeriod
  ⟨p.map fun x => x.start, match p with | some x => x.planned | none => 0,
    match p with | some x => x.commitment | none => 0, match p with | some x => x.energyC | none => 0,
    match p with | some x => x.energyE | none => 0, match p with | some x => x.missing | none => 0,
    p.map fun x => x.flags, s.tie.gap, entryCount (slotOfDay s.dc.time.day s.tie),
    entryCount (slotOfDay (nextDay s.dc.time.day) s.tie), s.tie.lastSchedule, s.tie.lastVerdict⟩

/-- The town heat station's metering (R150). -/
def meterStatus (s : State) : MeterStatus :=
  ⟨s.mu.demand, s.mu.fraction, s.mu.heatBackup, s.mu.heatTotal, s.mu.held, s.mu.openInterval, s.mu.worksRem,
    s.mu.purchRem⟩

/-- The Day Clock (R159). -/
def clockStatus (s : State) : ClockStatus :=
  ⟨s.dc.time, s.dc.quality, s.dc.syncTimer, s.dc.trim, s.dc.trimAcc, s.dc.pendingStep, s.dc.hold, s.dc.spanStart⟩

/-- A read slot: its next number and the count left (R169). -/
def readSlotStatus (x : Option ReadSlot) : Option (Nat × Nat) := x.map fun sl => (sl.next, sl.left)

/-- The Record Store (R169). -/
def storeStatus (s : State) : StoreStatus :=
  ⟨oldestRetained s.rs, s.rs.newest, s.rs.nextSeq, s.rs.holdQueue.length,
    if s.rs.inFlight then s.rs.holdQueue.head?.map recordSeq else none, readSlotStatus s.rs.slotA,
    readSlotStatus s.rs.slotB, faultPresent .storeFault s.mc.faults⟩

/-- A part of NODE STATUS that one role alone reports. -/
def onlyRole {α : Type} (r : Role) (x : α) (s : State) : Option α :=
  if s.mc.config.role = some r then some x else none

/-- NODE STATUS as the blocks stand (R170). -/
def nodeStatus (s : State) : NodeStatus where
  mode := s.mc.mode
  severity := severity s
  faults := s.mc.faults
  link := s.fp.link
  loadOutcome := s.mc.loadOutcome
  cause := s.mc.cause
  lastStandby := s.mc.lastStandby
  latch := s.mc.latch
  shares := (computedMains s.mc.config).map (shareStatus s)
  lines := Six.build (lineStatus s)
  ladders := Six.build (ladderStatus s)
  holder := onlyRole .holder (holderStatus s) s
  fuel := onlyRole .boiler (fuelStatusOf s) s
  tie := onlyRole .exportTie (tieStatus s) s
  turbine := onlyRole .turbine s.turbine s
  meter := onlyRole .townheat (meterStatus s) s
  clock := clockStatus s
  store := storeStatus s

/-- NODE STATUS is built and sent (R170). -/
def sendNodeStatus (s : State) : State := sendField (.nodeStatus (nodeStatus s)) s

/-- NODE STATUS at the entry to a mode without rounds, and its 10 s timer started (R170). -/
def statusAtEntry (s : State) : State := sendNodeStatus (s.setFp { s.fp with statusTimer := some 10 })

/-- NODE_STATUS_TIMER (R170): acts where the timer of LISTEN-ONLY, LEAVING or STANDBY-DEEP has expired;
NODE STATUS is sent and the timer restarts. -/
def execNodeStatusTimer (s : State) : Host.Outcome State Fault Refusal :=
  .next (if expired s.fp.statusTimer then statusAtEntry s else s)

end Sys2Proof.Machine
end

