-- ==== Sys2Proof/Machine/Line.lean ====
section
/-! DEFINITION. The line side of the LIU (01_the_share_line.md): the meanings of LINE_ATTEMPT_START,
FRAME_SENT_WHOLE, COLLISION, BACKOFF_EXPIRY, FRAME_RECEIVED, CLASH_TIMER_EXPIRY and RECORD_FRAME_DISCARDED. -/

namespace Sys2Proof.Machine

/-- The selected entry's attempt starts with the frame as it stands (R1, R2, R11). -/
def startAttempt (e : TxEntry) (s : State) : State :=
  s.setLiu { s.liu with
    tx := changeFirst (isSelectable (precedence e.body))
      (fun x => { x with sending := some (attemptBytes x.body s) }) s.liu.tx }

/-- LINE_ATTEMPT_START (R2): acts where a waiting entry stands, none is being sent, no backoff runs and the
line has been quiet for the selected entry's gap. -/
def execLineAttemptStart (quietUs : Nat) (s : State) : Host.Outcome State Fault Refusal :=
  .next
    (match selectedEntry s.liu.tx with
      | none => s
      | some e =>
        if (sendingEntry s.liu.tx).isNone && s.liu.backoff.isNone &&
            decide (quietGap e.body s.mc.node.val ≤ quietUs) then startAttempt e s
        else s)

/-- The transmit queue without the entry being sent. -/
def withoutSending (tx : List TxEntry) : List TxEntry := removeFirst (fun e => !isWaiting e) tx

/-- The last edges sent after a frame sent whole (R9). -/
def edgesAfter (b : TxBody) (x : Six Edge) : Six Edge :=
  match b with
  | .claim l e => x.set l e
  | .hello _ _ _ _ | .state _ _ _ _ | .leave _ | .time _ _ | .wake _ _ | .record _ _ _ _ => x

/-- An entry has been sent whole: removed, the drop count 0, the last edge sent, LINE TX FAIL cleared, the
read slot told (R1, R5, R6, R9, R167). -/
def sentWhole (e : TxEntry) (s : State) : State :=
  let t := s.setLiu { s.liu with
    tx := withoutSending s.liu.tx, drops := 0, lastEdge := edgesAfter e.body s.liu.lastEdge }
  reportRecord e.body true (clearFault .lineTxFail t)

/-- FRAME_SENT_WHOLE (R1): acts where an attempt is in progress. -/
def execFrameSentWhole (s : State) : Host.Outcome State Fault Refusal :=
  .next (match sendingEntry s.liu.tx with | some e => sentWhole e s | none => s)

/-! ### Collisions (R3 to R6, R8, R9, R17; notes/assumptions/11.md) -/

/-- What becomes of an entry whose attempt collided. -/
inductive CollisionEnd where
  /-- It waits again with its raised count (R3). -/
  | waits
  /-- It is removed without being counted: superseded, or wanted gone by a mode entry (R8, R17). -/
  | removed
  /-- A newer CLAIM for its line replaces it, and both go (R9). -/
  | bothRemoved
  /-- Its eighth collision: dropped and counted (R5). -/
  | dropped
  deriving DecidableEq, Repr

/-- The newer CLAIM of a line that waits. -/
def newerClaim (l : ClaimLine) (tx : List TxEntry) : Option TxEntry :=
  tx.find? fun x => isWaiting x && claimsLine l x.body

/-- The edge an entry carries, if it is a CLAIM. -/
def entryEdge : TxBody → Option Edge
  | .claim _ e => some e
  | .hello _ _ _ _ | .state _ _ _ _ | .leave _ | .time _ _ | .wake _ _ | .record _ _ _ _ => none

/-- The end that the raised count alone gives (R3, R5). -/
def endByCount (k : Nat) : CollisionEnd := if k < 8 then .waits else .dropped

/-- What becomes of the collided entry, with its raised count `k`. -/
def collisionEnd (e : TxEntry) (k : Nat) (s : State) : CollisionEnd :=
  if e.noRetry then .removed
  else match e.body with
    | .state _ _ _ _ =>
      if s.liu.tx.any fun x => isWaiting x && isState x.body then .removed else endByCount k
    | .claim l _ =>
      match newerClaim l s.liu.tx with
      | none => endByCount k
      | some newer => if entryEdge newer.body = some (s.liu.lastEdge.get l) then .bothRemoved else .removed
    | .hello _ _ _ _ | .leave _ | .time _ _ | .wake _ _ | .record _ _ _ _ => endByCount k

/-- The collided entry waits again, keeping its place (R3). -/
def waitsAgain (k : Nat) (tx : List TxEntry) : List TxEntry :=
  changeFirst (fun e => !isWaiting e) (fun e => { e with sending := none, collisions := k }) tx

/-- The surviving newer CLAIM takes the collided one's place and, as R9 leaves open, its count or 0
(notes/assumptions/10.md). -/
def newerTakesPlace (l : ClaimLine) (newer : TxEntry) (k free : Nat) (tx : List TxEntry) : List TxEntry :=
  changeFirst (fun e => !isWaiting e)
    (fun _ => { newer with collisions := survivorCount k free })
    (removeFirst (fun x => isWaiting x && claimsLine l x.body) tx)

/-- The transmit queue after a removal of the collided entry. -/
def removedQueue (e : TxEntry) (k : Nat) (s : State) : List TxEntry :=
  match e.body with
  | .claim l _ =>
    match newerClaim l s.liu.tx with
    | some newer => if e.noRetry then withoutSending s.liu.tx else newerTakesPlace l newer k (freeNumber s) s.liu.tx
    | none => withoutSending s.liu.tx
  | .hello _ _ _ _ | .state _ _ _ _ | .leave _ | .time _ _ | .wake _ _ | .record _ _ _ _ =>
    withoutSending s.liu.tx

/-- A draw is taken where a newer CLAIM survives (R9). -/
def removedDrawn (e : TxEntry) (k : Nat) (s : State) : State :=
  match e.body with
  | .claim l _ => if e.noRetry || (newerClaim l s.liu.tx).isNone then s else survivorDrawn k s
  | .hello _ _ _ _ | .state _ _ _ _ | .leave _ | .time _ _ | .wake _ _ | .record _ _ _ _ => s

/-- The backoff wait that follows collision `k`; none follows the eighth (R3, R4). -/
def backoffAfter (k : Nat) (s : State) : Option Nat :=
  if k < 8 then some (backoffTime s.mc.node.val k) else none

/-- A consecutive drop is counted, saturating at 255; at 16 LINE TX FAIL is raised (R5, R6). -/
def countDrop (s : State) : State :=
  let n := Nat.min (s.liu.drops + 1) 255
  let t := s.setLiu { s.liu with drops := n }
  if n = 16 then raiseFault .lineTxFail t else t

/-- The queue without the sending entry and without the newer CLAIM of its line (R9). -/
def bothGone (b : TxBody) (tx : List TxEntry) : List TxEntry :=
  match b with
  | .claim l _ => removeFirst (fun x => isWaiting x && claimsLine l x.body) (withoutSending tx)
  | .hello _ _ _ _ | .state _ _ _ _ | .leave _ | .time _ _ | .wake _ _ | .record _ _ _ _ => withoutSending tx

/-- The entry being sent has collided (R3). -/
def collided (e : TxEntry) (s : State) : State :=
  let k := e.collisions + 1
  let b := backoffAfter k s
  match collisionEnd e k s with
  | .waits => s.setLiu { s.liu with tx := waitsAgain k s.liu.tx, backoff := b }
  | .removed =>
    let tx := removedQueue e k s
    let t := removedDrawn e k s
    reportRecord e.body false (t.setLiu { t.liu with tx := tx, backoff := b })
  | .bothRemoved => s.setLiu { s.liu with tx := bothGone e.body s.liu.tx, backoff := b }
  | .dropped =>
    reportRecord e.body false (countDrop (s.setLiu { s.liu with tx := withoutSending s.liu.tx, backoff := b }))

/-- COLLISION (R3): acts where an attempt is in progress. -/
def execCollision (s : State) : Host.Outcome State Fault Refusal :=
  .next (match sendingEntry s.liu.tx with | some e => collided e s | none => s)

/-- BACKOFF_EXPIRY (R4): the wait ends; the LIU selects again at the next attempt. -/
def execBackoffExpiry (s : State) : Host.Outcome State Fault Refusal :=
  .next (s.setLiu { s.liu with backoff := none })

/-! ### Receiving (R12 to R16) -/

/-- The clash of a good frame that bears the own number (R13). -/
def numberClash (s : State) : State :=
  raiseFault .numberClash (s.setLiu { s.liu with clash := some 64 })

/-- The mode filter of a good frame heard: in STANDBY-DEEP a matching WAKE alone is queued (R16). -/
def passesFilter (f : Frame) (s : State) : Bool :=
  if s.mc.mode = .standbyDeep then f.kind == .wake && wakeMatches f.payload s else true

/-- A good frame is placed at the tail of the receive queue while fewer than 8 are queued (R14). -/
def queueFrame (f : Frame) (s : State) : State :=
  if s.liu.rx.length < 8 then s.setLiu { s.liu with rx := s.liu.rx ++ [f] } else s

/-- A good frame heard: number clash, mode filter, receive queue (R12). -/
def takeFrame (f : Frame) (s : State) : State :=
  if f.sender = s.mc.node.val then numberClash s
  else if passesFilter f s then queueFrame f s
  else s

/-- FRAME_RECEIVED (R12, R16): acts in every mode but LOADING, while the LIU is not itself sending. -/
def execFrameReceived (bytes : List Byte) (s : State) : Host.Outcome State Fault Refusal :=
  .next
    (if s.mc.mode = .loading ∨ (sendingEntry s.liu.tx).isSome then s
    else match goodFrame bytes with
      | some f => takeFrame f s
      | none => s)

/-- CLASH_TIMER_EXPIRY (R13): acts where the clash timer has expired. -/
def execClashTimerExpiry (s : State) : Host.Outcome State Fault Refusal :=
  .next
    (if expired s.liu.clash then clearFault .numberClash (s.setLiu { s.liu with clash := none }) else s)

/-- The frame at the head of the receive queue, if it is of a kind (R14, R15). -/
def headOf (k : FrameKind) (s : State) : Option Frame :=
  match s.liu.rx with
  | f :: _ => if f.kind = k then some f else none
  | [] => none

/-- The head frame is removed from the receive queue (R14). -/
def takeHead (s : State) : State := s.setLiu { s.liu with rx := s.liu.rx.drop 1 }

/-- RECORD_FRAME_DISCARDED (R15): acts where a RECORD is at the head. -/
def execRecordFrameDiscarded (s : State) : Host.Outcome State Fault Refusal :=
  .next (match headOf .record s with | some _ => takeHead s | none => s)

end Sys2Proof.Machine
end

