-- ==== Sys2Proof/Machine/Link.lean ====
section
/-! DEFINITION. The Field Port's link (12_field_port_configuration_image_and_node_modes.md, R170, R171): valid
messages and their delivery; and the meanings of FIELD_MESSAGE_DISCARDED and FIELD_LINK_LOST. -/

namespace Sys2Proof.Machine

/-- A valid message is taken: link UP, FIELD LINK LOST cleared, the link timer at 10 s (R171). -/
def linkRestored (s : State) : State :=
  clearFault .fieldLinkLost (s.setFp { s.fp with link := .up, linkTimer := some 10 })

/-- A good inbound message of a kind: discarded in LOADING; otherwise it restarts the link timer, and where
the role uses its kind its owner takes it by `take` (R170). -/
def fieldMessage (k : FieldKind) (take : State → State) (s : State) : State :=
  if s.mc.mode = .loading then s
  else if roleUses s.mc.config k then take (linkRestored s)
  else linkRestored s

/-- FIELD_MESSAGE_DISCARDED (R170): a bad message changes nothing; a good one of a kind the role does not use
restarts the link timer (notes/assumptions/27.md). -/
def execFieldMessageDiscarded (r : DiscardReason) (s : State) : Host.Outcome State Fault Refusal :=
  .next
    (match r with
      | .bad => s
      | .unused _ => if s.mc.mode = .loading then s else linkRestored s)

/-- FIELD_LINK_LOST (R171): acts where the link timer has expired with the link UP; the timer stays
expired. -/
def execFieldLinkLost (s : State) : Host.Outcome State Fault Refusal :=
  .next
    (if expired s.fp.linkTimer && s.fp.link == .up then
      raiseFault .fieldLinkLost (s.setFp { s.fp with link := .lost })
    else s)

end Sys2Proof.Machine
end

