-- ==== Sys2Proof/Machine/Holder.lean ====
section
/-! DEFINITION. The Holder Unit's levels and bands (04_holders_and_the_flare.md); and the meanings of LEVEL,
LEVEL_LOST, FLARE_STATUS and FLARE_TIMEOUT. -/

namespace Sys2Proof.Machine

/-! ### Bands (R61, R62) -/

/-- The band of the first valid sample (R61). -/
def firstBand (c : StationConfig) (level : Nat) : Band :=
  if level < c.t1 then .emptyGuard
  else if level < c.t2 then .low
  else if level < c.t3 then .normal
  else if level < c.t4 then .high
  else .flare

/-- The bands above a band, the highest first. -/
def bandsAbove : Band → List Band
  | .none => []
  | .emptyGuard => [.flare, .high, .normal, .low]
  | .low => [.flare, .high, .normal]
  | .normal => [.flare, .high]
  | .high => [.flare]
  | .flare => []

/-- The lower boundary of a band (R62); EMPTY-GUARD and NONE have none and are given 0. -/
def lowerBoundary (c : StationConfig) : Band → Nat
  | .none | .emptyGuard => 0
  | .low => c.t1
  | .normal => c.t2
  | .high => c.t3
  | .flare => c.t4

/-- The band a rising level reaches: the highest band above whose lower boundary plus 20 it reaches (R62). -/
def risenBand (c : StationConfig) (b : Band) (level : Nat) : Option Band :=
  (bandsAbove b).find? fun x => decide (lowerBoundary c x + 20 ≤ level)

/-- A level lies more than 20 below a boundary (R62). -/
def fallsBelow (boundary level : Nat) : Bool := decide (level + 20 < boundary)

/-- The band a falling level reaches, one step at a time, each step needing the level below its boundary less
20 (R62). -/
def fallenBand (c : StationConfig) (b : Band) (level : Nat) : Band :=
  let fromLow : Band := if fallsBelow c.t1 level then .emptyGuard else .low
  let fromNormal : Band := if fallsBelow c.t2 level then fromLow else .normal
  let fromHigh : Band := if fallsBelow c.t3 level then fromNormal else .high
  let fromFlare : Band := if fallsBelow c.t4 level then fromHigh else .flare
  match b with
  | .none => .none
  | .emptyGuard => .emptyGuard
  | .low => fromLow
  | .normal => fromNormal
  | .high => fromHigh
  | .flare => fromFlare

/-- The band after a valid sample: direct at the first, with hysteresis at every later one (R61, R62). -/
def bandAfter (c : StationConfig) (b : Band) (level : Nat) : Band :=
  match b with
  | .none => firstBand c level
  | .emptyGuard | .low | .normal | .high | .flare =>
    match risenBand c b level with
    | some x => x
    | none => fallenBand c b level

/-! ### LEVEL -/

/-- The modes in which the holder's claims follow the band (R64). -/
def claimsFollowBand (mode : Mode) : Bool := mode == .listenIn || mode == .active

/-- What a change of band brings: the claims, then the flare floor of a gas holder entering FLARE (R64, R70;
notes/assumptions/16.md). -/
def bandChanged (s : State) : State :=
  let t := if claimsFollowBand s.mc.mode then bandClaims s.hu.band s else s
  if hasFlare s.mc.config && s.hu.band == .flare then floorEntry t else t

/-- A valid LEVEL sample: level, level timer, LEVEL LOST cleared, band (R61, R65). -/
def levelSample (value : Nat) (s : State) : State :=
  let v := holdPerMille value
  let b := bandAfter s.mc.config s.hu.band v
  let t := clearFault .levelLost (s.setHu { s.hu with level := v, levelTimer := some 30, band := b })
  if b = s.hu.band then t else bandChanged t

/-- A LEVEL as the Holder Unit takes it; a BAD one leaves everything as it stands (R61). -/
def takeLevel (status : SampleStatus) (value : Nat) (s : State) : State :=
  match status with
  | .ok => levelSample value s
  | .bad => s

/-- LEVEL (R61). -/
def execLevel (status : SampleStatus) (value : Nat) (s : State) : Host.Outcome State Fault Refusal :=
  .next (fieldMessage .level (takeLevel status value) s)

/-- LEVEL_LOST (R65): acts where the level timer has expired; the timer stays expired, the band, level and
claims are held, and the limits are 0 while the fault is present (R63). -/
def execLevelLost (s : State) : Host.Outcome State Fault Refusal :=
  .next (if expired s.hu.levelTimer then raiseFault .levelLost s else s)

/-- FLARE_STATUS (R68, R71). -/
def execFlareStatus (position : Nat) (s : State) : Host.Outcome State Fault Refusal :=
  .next (fieldMessage .flareStatus (flareReport position) s)

/-- FLARE_TIMEOUT (R69): acts where a move in flight has its timer expired. -/
def execFlareTimeout (s : State) : Host.Outcome State Fault Refusal :=
  .next
    (match s.hu.move with
      | some m => if m.timer = 0 then flareExpires m s else s
      | none => s)

end Sys2Proof.Machine
end

