-- ==== Sys2Proof/Machine/Peer.lean ====
section
/-! DEFINITION. The Peer Table (02_the_peer_table.md), with the computations its reports bring about: the
purchased fraction (R31, R139) and the turbine want (R32, R133); and the meanings of STATE_DELIVERED,
HELLO_DELIVERED, CLAIM_DELIVERED, LEAVE_DELIVERED, ENTRY_GOES_STALE and ENTRY_GOES_ABSENT. -/

namespace Sys2Proof.Machine

/-! ### The purchased fraction (R31, R139) -/

/-- An entry that counts at its stated values: FRESH and not FAILED. -/
def counted (e : PeerEntry) : Bool := !e.stale && e.severity != .failed

/-- The heat a record on main 2 adds, of a BOILER: purchased and total (R31). -/
def boilerHeat : MainRecord → Nat × Nat
  | .offer .m2 _ measured .backup => (measured, measured)
  | .offer .m2 _ measured .changeover => (measured, measured)
  | .offer .m2 _ measured .gas => (0, measured)
  | .offer _ _ _ _ => (0, 0)
  | .want _ _ _ _ _ => (0, 0)
  | .holder _ _ _ => (0, 0)

/-- The heat a record on main 2 adds to the total, of a PRODUCER (R31). -/
def producerHeat : MainRecord → Nat
  | .offer .m2 offer _ _ => offer
  | .offer _ _ _ _ => 0
  | .want _ _ _ _ _ => 0
  | .holder _ _ _ => 0

/-- The heat an entry adds: purchased and total (R31). -/
def entryHeat (e : PeerEntry) : Nat × Nat :=
  if counted e && e.mains.m2 then
    match e.role with
    | .boiler =>
      (sumOf (e.records.map fun r => (boilerHeat r).1), sumOf (e.records.map fun r => (boilerHeat r).2))
    | .producer => (0, sumOf (e.records.map producerHeat))
    | .holder | .consumer | .turbine | .townheat | .exportTie => (0, 0)
  else (0, 0)

/-- Hb, the heat raised from purchased fuel (R139). -/
def heatFromBackup (peers : List (Nat × PeerEntry)) : Nat := sumOf (peers.map fun x => (entryHeat x.2).1)

/-- Ht, the whole heat (R139). -/
def heatWhole (peers : List (Nat × PeerEntry)) : Nat := sumOf (peers.map fun x => (entryHeat x.2).2)

/-- f = floor(1000 × Hb / Ht), and 0 where Ht is 0 (R139). -/
def purchasedFraction (hb ht : Nat) : Nat := if ht = 0 then 0 else 1000 * hb / ht

/-- The Metering Unit recomputes the purchased fraction (R139). The own entry of a TOWNHEAT counts for
nothing (R31). -/
def recomputeFraction (s : State) : State :=
  let hb := heatFromBackup s.peers
  let ht := heatWhole s.peers
  s.setMu { s.mu with fraction := purchasedFraction hb ht, heatBackup := hb, heatTotal := ht }

/-! ### The turbine want (R32, R133) -/

/-- The gap and the age of an entry that can give the gap: role EXPORT TIE, FRESH, not FAILED. An entry
made by a HELLO has no extras and counts for nothing (R24; notes/assumptions/35.md). -/
def tieGap (e : PeerEntry) : Option (Nat × Nat) :=
  if e.role == .exportTie && counted e then
    match e.extras with
    | .tie gap => some (gap, e.age)
    | .none | .turbine _ => none
  else none

/-- The freshest of the ties: of least age, of equal ages the one of lowest node number, the entries standing
in node order (R32). -/
def freshestGap : List (Nat × Nat) → Option (Nat × Nat)
  | [] => none
  | x :: rest =>
    match freshestGap rest with
    | none => some x
    | some y => if x.2 ≤ y.2 then some x else some y

/-- Gx: the gap used, 0 where no tie gives one (R32, R133). -/
def gapUsed (peers : List (Nat × PeerEntry)) : Nat :=
  match freshestGap (peers.filterMap fun x => tieGap x.2) with
  | some x => x.1
  | none => 0

/-- The electric capacity an entry adds: role TURBINE, FRESH, ACTIVE, not FAILED (R32). -/
def entryCapacity (e : PeerEntry) : Nat :=
  if e.role == .turbine && counted e && e.mode == .active then
    match e.extras with
    | .turbine k => k
    | .none | .tie _ => 0
  else 0

/-- ΣK: the peers' capacities and the own one (R32, R133). -/
def capacitySum (own : Nat) (peers : List (Nat × PeerEntry)) : Nat :=
  own + sumOf (peers.map fun x => entryCapacity x.2)

/-- The turbine's part from the gap used, the capacity sum, the own capacity and the steam rate (R133). -/
def turbineFrom (gx sum k rate : Nat) : TurbineUnit :=
  let share := Nat.min (gx * k / sum) k
  let baseMax := k * rate / 1000
  ⟨gx, sum, share, Nat.min (ceilDiv (share * rate) 1000) baseMax, baseMax⟩

/-- The Export Unit of a TURBINE recomputes and delivers its base want (R133, R134). -/
def recomputeTurbine (s : State) : State :=
  let k := s.mc.config.electricCapacity
  rebuildWant (s.setTurbine (turbineFrom (gapUsed s.peers) (capacitySum k s.peers) k s.mc.config.steamRate))

/-! ### Reports (R32) -/

/-- The entry's events are reported to the Metering Unit of a TOWNHEAT: a BOILER or PRODUCER with main 2. -/
def reportsToMetering (e : PeerEntry) : Bool := (e.role == .boiler || e.role == .producer) && e.mains.m2

/-- The entry's events are reported to the Export Unit of a TURBINE: an EXPORT TIE or a TURBINE. -/
def reportsToExport (e : PeerEntry) : Bool := e.role == .exportTie || e.role == .turbine

/-- An event of an entry is reported to the block of the station whose computation it changes (R32). -/
def reportEntry (e : PeerEntry) (s : State) : State :=
  match s.mc.config.role with
  | some .townheat => if reportsToMetering e then recomputeFraction s else s
  | some .turbine => if reportsToExport e then recomputeTurbine s else s
  | some .producer | some .holder | some .boiler | some .consumer | some .exportTie | none => s

/-! ### Removal and creation (R21 to R24) -/

/-- No line claimed. -/
def noClaims : Six Bool := Six.all false

/-- A PRESENT entry is removed: ABSENT, its number cleared from the source sets, the removal reported
(R21). -/
def removeEntry (n : Nat) (e : PeerEntry) (s : State) : State :=
  reportEntry e (applyClaims n noClaims (s.setPeers (assocErase n s.peers)))

/-- The mains named by records (R22). -/
def recordMains (rs : List MainRecord) : Three Bool :=
  ⟨rs.any fun r => recordMain r == .m0, rs.any fun r => recordMain r == .m1, rs.any fun r => recordMain r == .m2⟩

/-- The main records an entry holds of a STATE: the accepted ones, and none of an EXPORT TIE, whose entry holds
no main records (R22, R30; notes/assumptions/41.md). -/
def heldRecords (x : StateRead) : List MainRecord := if x.role = .exportTie then [] else x.records

/-- The entry a STATE creates (R22). -/
def entryOfState (x : StateRead) : PeerEntry :=
  { role := x.role, mains := recordMains (heldRecords x), period := x.period, tag := none, mode := x.mode
    severity := x.severity, claims := x.claims, records := heldRecords x, extras := x.extras, age := 0
    stale := false, cause := none }

/-- The entry a STATE of the same role updates in place: a STATE that carries records makes the mains those of
the records held, none where none is (R23, R30, R183). -/
def entryUpdated (e : PeerEntry) (x : StateRead) : PeerEntry :=
  { e with
    period := x.period, mode := x.mode, severity := x.severity, records := heldRecords x, extras := x.extras
    mains := if x.carries then recordMains (heldRecords x) else e.mains
    age := 0, stale := false, claims := x.claims }

/-- An entry is written from a STATE, its claim set handed on as authoritative, the STATE reported (R22,
R23, R79; whether R32 reports it is judged by the entry as written: notes/assumptions/39.md). -/
def writeEntry (n : Nat) (e : PeerEntry) (s : State) : State :=
  reportEntry e (applyClaims n e.claims (s.setPeers (assocPut n e s.peers)))

/-- A STATE taken by the Peer Table (R22, R23). -/
def takeState (n : Nat) (x : StateRead) (s : State) : State :=
  match assocGet n s.peers with
  | none => writeEntry n (entryOfState x) s
  | some e =>
    if e.role = x.role then writeEntry n (entryUpdated e x) s
    else writeEntry n (entryOfState x) (removeEntry n e s)

/-- STATE_DELIVERED (R15, R23): acts where a STATE is at the head; one that R183 discards reaches no
block. -/
def execStateDelivered (s : State) : Host.Outcome State Fault Refusal :=
  .next
    (match headOf .state s with
      | none => s
      | some f =>
        match readState f.payload with
        | some x => takeState f.sender x (takeHead s)
        | none => takeHead s)

/-! ### HELLO (R24 to R26) -/

/-- The entry a HELLO creates (R24). -/
def entryOfHello (h : HelloRead) : PeerEntry :=
  { role := h.role, mains := h.mains, period := h.period, tag := some h.tag, mode := .listenIn
    severity := .none, claims := noClaims, records := [], extras := .none, age := 0, stale := false
    cause := some h.cause }

/-- A HELLO creates an entry; it claims nothing and is no event of R32 (R24). -/
def createFromHello (n : Nat) (h : HelloRead) (s : State) : State :=
  s.setPeers (assocPut n (entryOfHello h) s.peers)

/-- A HELLO replaces the entry whole: another role, or a known tag that differs (R26). -/
def helloReplaces (e : PeerEntry) (h : HelloRead) : Bool :=
  e.role != h.role || (match e.tag with | some t => t != h.tag | none => false)

/-- A HELLO is a restart announcement: a known cause that differs (R26). -/
def announcesRestart (e : PeerEntry) (h : HelloRead) : Bool :=
  match e.cause with
  | some c => c != h.cause
  | none => false

/-- The entry a HELLO updates in place (R26). -/
def entryGreeted (e : PeerEntry) (h : HelloRead) : PeerEntry :=
  let e1 := { e with mains := h.mains, period := h.period, tag := some h.tag, cause := some h.cause }
  if announcesRestart e h then { e1 with claims := noClaims, mode := .listenIn } else e1

/-- A HELLO with a configured role taken by the Peer Table (R24, R26). -/
def takeHello (n : Nat) (h : HelloRead) (s : State) : State :=
  match assocGet n s.peers with
  | none => createFromHello n h s
  | some e =>
    if helloReplaces e h then createFromHello n h (removeEntry n e s)
    else
      let t := s.setPeers (assocPut n (entryGreeted e h) s.peers)
      if announcesRestart e h then applyClaims n noClaims t else t

/-- A sender's entry is removed if it is PRESENT (R25, R27). -/
def removeIfPresent (n : Nat) (s : State) : State :=
  match assocGet n s.peers with
  | some e => removeEntry n e s
  | none => s

/-- HELLO_DELIVERED (R15, R26): acts where a HELLO is at the head. -/
def execHelloDelivered (s : State) : Host.Outcome State Fault Refusal :=
  .next
    (match headOf .hello s with
      | none => s
      | some f =>
        match readHello f.payload with
        | .unconfigured => removeIfPresent f.sender (takeHead s)
        | .configured h => takeHello f.sender h (takeHead s)
        | .discarded => takeHead s)

/-! ### CLAIM and LEAVE (R27, R28) -/

/-- The edge is applied to the sender's bit (R78). -/
def applyEdge (n : Nat) (l : ClaimLine) (e : Edge) (s : State) : State :=
  match e with
  | .assert => setBit n l s
  | .release => clearBit n l s

/-- The claimed mark an edge leaves. -/
def edgeClaims : Edge → Bool
  | .assert => true
  | .release => false

/-- A CLAIM taken by the Peer Table: of a PRESENT entry, its claim set and then the source set; of an ABSENT
one, discarded (R28). -/
def takeClaim (n : Nat) (l : ClaimLine) (edge : Edge) (s : State) : State :=
  match assocGet n s.peers with
  | none => s
  | some e =>
    applyEdge n l edge
      (s.setPeers (assocPut n { e with claims := e.claims.set l (edgeClaims edge) } s.peers))

/-- CLAIM_DELIVERED (R15, R28): acts where a CLAIM is at the head. -/
def execClaimDelivered (s : State) : Host.Outcome State Fault Refusal :=
  .next
    (match headOf .claim s with
      | none => s
      | some f =>
        match readClaim f.payload with
        | some (l, e) => takeClaim f.sender l e (takeHead s)
        | none => takeHead s)

/-- LEAVE_DELIVERED (R15, R27): acts where a LEAVE is at the head, whatever its reason. -/
def execLeaveDelivered (s : State) : Host.Outcome State Fault Refusal :=
  .next
    (match headOf .leave s with
      | none => s
      | some f => removeIfPresent f.sender (takeHead s))

/-! ### Ageing thresholds (R29) -/

/-- ENTRY_GOES_STALE (R29): acts where the node's entry is FRESH and its age exceeds three periods. Its
report comes after the metering second that aged the entry (notes/assumptions/42.md). -/
def execEntryGoesStale (node : Node) (s : State) : Host.Outcome State Fault Refusal :=
  .next
    (match assocGet node.val s.peers with
      | none => s
      | some e =>
        if !e.stale && decide (3 * e.period < e.age) then
          reportEntry e (s.setPeers (assocPut node.val { e with stale := true } s.peers))
        else s)

/-- ENTRY_GOES_ABSENT (R29): acts where the age of the node's entry exceeds eight periods. -/
def execEntryGoesAbsent (node : Node) (s : State) : Host.Outcome State Fault Refusal :=
  .next
    (match assocGet node.val s.peers with
      | none => s
      | some e => if 8 * e.period < e.age then removeEntry node.val e s else s)

end Sys2Proof.Machine
end

