-- ==== Sys2Proof/WellFormed.lean ====
section
/-! DEFINITION. Which commands can be carried at all: the field ranges the rules give a message
(notes/assumptions/28.md). A command outside them is refused as ill-formed. -/

namespace Sys2Proof

/-- The day number runs from 0 to 65535 (00_scope.md, "Time"). -/
def dayOk (day : Nat) : Bool := day < 65536

/-- A SCHEDULE carries one entry per period of the day, 48 of them (R121). -/
def scheduleOk (entries : List Nat) : Bool := entries.length = 48

/-- The EXPORT ENERGY field ranges from -32768 to +32767 kWh (R123). -/
def energyOk (kwh : Int) : Bool := -32768 ≤ kwh ∧ kwh ≤ 32767

/-- The operands of a command lie within what its message can carry. -/
def Instr.wellFormed : Instr → Bool
  | .schedule day entries => dayOk day && scheduleOk entries
  | .exportEnergy _ kwh => energyOk kwh
  | .timeSet day _ => dayOk day
  | .powerOnReset | .pinReset | .loadComplete _ _ | .listenOnlyHelloTimer | .nodeStatusTimer
  | .lineAttemptStart _ | .frameSentWhole | .collision | .backoffExpiry | .frameReceived _
  | .clashTimerExpiry | .stateDelivered | .helloDelivered | .claimDelivered | .leaveDelivered
  | .timeDelivered | .wakeDelivered | .readDelivered | .recordFrameDiscarded | .meteringSecond
  | .entryGoesStale _ | .entryGoesAbsent _ | .holdMinuteCheck | .syncTimerExpiry
  | .timeTimerExpiry | .roundExpiry | .dwellExpiry _ | .undoDwellExpiry _ | .fuelStatus _
  | .changeoverTimeout | .flareStatus _ | .flareTimeout | .level _ _ | .levelLost
  | .capability _ | .gasMeasure _ | .heatOut _ | .demand _ | .heatSample _ _ _ _
  | .commitEnd _ | .recordPlace _ | .fieldMessageDiscarded _ | .fieldLinkLost
  | .standbyRequest _ _ | .resume | .resetWarning | .readyTimerExpiry | .returnTimerExpiry
  | .supplyLowAsserted | .supplyLowReleased => true

end Sys2Proof
end

