-- ==== Sys2Proof/Machine/Export.lean ====
section
/-! DEFINITION. The Export Unit of an EXPORT TIE (08_export_tie_and_settlement.md): schedule slots, the open
period, the export gap, closes and time steps; and the meanings of SCHEDULE and EXPORT_ENERGY. -/

namespace Sys2Proof.Machine

/-! ### The schedule (R120, R121) -/

/-- The settlement period in which a position falls (08_export_tie_and_settlement.md). -/
def periodOf (p : TimePos) : Nat := p.sec / 1800

/-- A slot is kept at a change of day while it is today's or tomorrow's (R120). -/
def keptSlot (today : Nat) (x : Option DaySchedule) : Option DaySchedule :=
  x.filter fun d => d.day == today || d.day == nextDay today

/-- Every slot whose day is neither today nor the day after is emptied (R120). -/
def emptySlots (s : State) : State :=
  s.setTie { s.tie with
    slotA := keptSlot s.dc.time.day s.tie.slotA, slotB := keptSlot s.dc.time.day s.tie.slotB }

/-- The slot of the schedule's day takes it, or an empty slot if none holds that day (R121): slot A where both
are empty (notes/assumptions/48.md). -/
def writeSlot (d : DaySchedule) (t : TieUnit) : TieUnit :=
  if (t.slotA.filter fun x => x.day == d.day).isSome then { t with slotA := some d }
  else if (t.slotB.filter fun x => x.day == d.day).isSome then { t with slotB := some d }
  else if t.slotA.isNone then { t with slotA := some d }
  else if t.slotB.isNone then { t with slotB := some d }
  else t

/-- The entry of a period in a slot; NONE where no slot holds the day (R121, R122). -/
def slotEntry (x : Option DaySchedule) (k : Nat) : Option Nat :=
  match x with
  | some d => (d.entries[k]?).join
  | none => none

/-- Today's entries after a SCHEDULE for today: those of the period in progress and of earlier periods are
kept, later ones are the message's (R121). -/
def revisedEntries (k : Nat) (old : Option DaySchedule) (new : List Nat) : List (Option Nat) :=
  (List.range 48).map fun i => if i ≤ k then slotEntry old i else (new[i]?).map holdPower

/-- A SCHEDULE as the Export Unit takes it (R121). -/
def takeSchedule (day : Nat) (entries : List Nat) (s : State) : State :=
  let today := s.dc.time.day
  if day = today then
    let k := periodOf s.dc.time
    let d : DaySchedule := ⟨day, revisedEntries k (slotOfDay today s.tie) entries⟩
    s.setTie { writeSlot d s.tie with lastSchedule := .partly (k + 1) }
  else if day = nextDay today then
    s.setTie
      { writeSlot ⟨day, entries.map fun e => some (holdPower e)⟩ s.tie with lastSchedule := .accepted }
  else s.setTie { s.tie with lastSchedule := .refusedWrongDay }

/-- SCHEDULE (R121). -/
def execSchedule (day : Nat) (entries : List Nat) (s : State) : Host.Outcome State Fault Refusal :=
  if (Instr.schedule day entries).wellFormed then .next (fieldMessage .schedule (takeSchedule day entries) s)
  else .refused .illFormed

/-! ### Samples (R123) -/

/-- E after a sample. The spec bounds E to a signed 32-bit sum; beyond it the value is free
(notes/assumptions/20.md). -/
def energySum (e kwh : Int) (free : Nat) : Int :=
  if -2147483648 ≤ e + kwh ∧ e + kwh ≤ 2147483647 then e + kwh else (BitVec.ofNat 32 free).toInt

/-- A draw is taken where E would pass its 32 bits. -/
def energyDrawn (e kwh : Int) (s : State) : State :=
  if -2147483648 ≤ e + kwh ∧ e + kwh ≤ 2147483647 then s else drawn s

/-- A valid sample: added to E of the open period, the mark set; with no period open it is discarded
(R123). -/
def energySample (kwh : Int) (s : State) : State :=
  match s.tie.openPeriod with
  | none => s
  | some p =>
    let t := energyDrawn p.energyE kwh s
    t.setTie { t.tie with
      openPeriod := some { p with energyE := energySum p.energyE kwh (freeNumber s) }, mark := true }

/-- An EXPORT ENERGY as the Export Unit takes it (R123). -/
def takeEnergy (status : SampleStatus) (kwh : Int) (s : State) : State :=
  match status with
  | .ok => energySample kwh s
  | .bad => s

/-- EXPORT_ENERGY (R123). -/
def execExportEnergy (status : SampleStatus) (kwh : Int) (s : State) : Host.Outcome State Fault Refusal :=
  if (Instr.exportEnergy status kwh).wellFormed then
    .next (fieldMessage .exportEnergy (takeEnergy status kwh) s)
  else .refused .illFormed

/-! ### The gap (R125) -/

/-- The end of a period as a count of seconds (R122). -/
def periodEnd (p : Period) : Nat := posNumber p.start + p.planned

/-- The gap of a period at a position (R125). -/
def gapOf (p : Period) (now : TimePos) : Nat :=
  if (p.energyC : Int) ≤ p.energyE then 0
  else holdPower (ceilDiv (((p.energyC : Int) - p.energyE).toNat * 36) (periodEnd p - posNumber now))

/-- The gap is recomputed; 0 where no period is open (R125). -/
def recomputeGap (s : State) : State :=
  s.setTie { s.tie with
    gap := match s.tie.openPeriod with | some p => gapOf p s.dc.time | none => 0 }

/-! ### Opening and closing (R122, R126, R128) -/

/-- The commitment energy of a commitment over a length: floor(P × L / 36) (R122, R126). -/
def commitmentEnergy (p len : Nat) : Nat := p * len / 36

/-- The period an opening at a position makes (R122). -/
def periodAt (p : TimePos) (flags : RecordFlags) (s : State) : Period :=
  let k := periodOf p
  let planned := 1800 * (k + 1) - p.sec
  let entry := slotEntry (slotOfDay s.dc.time.day s.tie) k
  let commitment := entry.getD 0
  ⟨p, planned, commitment, commitmentEnergy commitment planned, 0, 0, s.dc.quality,
    { flags with noSchedule := entry.isNone }⟩

/-- A period is opened at a position with the flags of its cause; the Day Clock learns the span start (R122,
R157). -/
def openPeriod (p : TimePos) (flags : RecordFlags) (s : State) : State :=
  let t := s.setTie { s.tie with openPeriod := some (periodAt p flags s), mark := false }
  recomputeGap (t.setDc { t.dc with spanStart := some p })

/-- The tolerance of a commitment energy (R126). -/
def toleranceOf (c tol : Nat) : Nat := c * tol / 1000

/-- The verdict on a deviation against a tolerance (R126). -/
def verdictOf (dev : Int) (t : Nat) : Verdict :=
  if dev.natAbs ≤ t then .within else if dev < 0 then .under else .over

/-- The SETTLE record of a period closed after a length (R126, R129, R184); its number is given at the
hand-over. -/
def settleRecord (p : Period) (len tol : Nat) : SettleRecord :=
  let c := commitmentEnergy p.commitment len
  let dev := p.energyE - c
  let t := toleranceOf c tol
  { seq := 0, start := p.start, length := len, commitment := p.commitment, energyC := c
    energyE := p.energyE
    deviation := if dev < -2147483648 then -2147483648 else dev
    tolerance := t
    penalty := Nat.min (dev.natAbs - t) 4294967295
    verdict := verdictOf dev t, quality := p.quality, missing := p.missing, flags := p.flags }

/-- A period's lowest time quality, lowered to the Day Clock's where that is lower (R124, R129). -/
def lowerPeriod (p : Period) (s : State) : Period := { p with quality := lowerQuality p.quality s.dc.quality }

/-- A period is closed after a length and settled: the record is handed over and the verdict recorded; no
period is open (R126 steps 1 to 7). The record's quality takes in the Day Clock's at the close
(notes/assumptions/43.md). -/
def closePeriod (p : Period) (len : Nat) (s : State) : State :=
  let r := settleRecord (lowerPeriod p s) len s.mc.config.tolerance
  let t := handOver (.settle r) s
  let u := t.setTie { t.tie with openPeriod := none, lastVerdict := some (r.verdict, r.penalty) }
  u.setDc { u.dc with spanStart := none }

/-- The flags of an opening not at a boundary (R122). -/
def partialStart : RecordFlags := { noFlags with partialStart := true }

/-- The flags of the opening after a reset with an unchanged tag (R131, R149). -/
def partialAfterReset : RecordFlags := { noFlags with partialStart := true, resetDuring := true }

/-- The flags of the opening after a forward step (R127, R145). -/
def steppedFlags : RecordFlags := { noFlags with timeStepped := true }

/-- The open period closed at the current second (R128). -/
def closePeriodNow (p : Period) (s : State) : State := closePeriod p (spanLength 1800 p.start s.dc.time) s

/-- Entry to LEAVING: closed SHORT and opened again, PARTIAL START; with none open, nothing (R128). -/
def tieShortClose (s : State) : State :=
  match s.tie.openPeriod with
  | none => s
  | some p =>
    let t := closePeriodNow { p with flags := { p.flags with short := true } } s
    openPeriod t.dc.time partialStart t

/-- SUPPLY LOW asserted: closed with POWER FAIL, none open, gap 0 (R125, R128). -/
def tiePowerFail (s : State) : State :=
  match s.tie.openPeriod with
  | none => s
  | some p => recomputeGap (closePeriodNow { p with flags := { p.flags with powerFail := true } } s)

/-- SUPPLY LOW released without a reset (R128). -/
def tieSupplyBack (s : State) : State :=
  match s.tie.openPeriod with
  | none => openPeriod s.dc.time partialStart s
  | some _ => s

/-! ### The metering second and time steps (R124, R126, R127) -/

/-- Missing second, mark and quality of the open period (R124 steps 1 to 3). -/
def tieCounts (s : State) : State :=
  match s.tie.openPeriod with
  | none => s
  | some p =>
    let missing := if s.tie.mark then p.missing else saturate16 (p.missing + 1)
    s.setTie { s.tie with
      openPeriod := some { lowerPeriod p s with missing := missing }
      mark := false }

/-- A half-hour boundary: the open period closes at the boundary, midnight empties slots, the next period
opens; with none open nothing is opened (R120, R126, R130). -/
def tieBoundary (s : State) : State :=
  match s.tie.openPeriod with
  | none => emptySlots s
  | some p =>
    let t := emptySlots (closePeriodNow p s)
    openPeriod t.dc.time noFlags t

/-- A metering second at the tie, with whether it marks a half hour (R124, R125). -/
def tieSecond (halfHour : Bool) (s : State) : State :=
  if halfHour then tieBoundary (tieCounts s) else recomputeGap (tieCounts s)

/-- The start of the settlement period in which a position falls. -/
def periodStart (p : TimePos) : TimePos := ⟨p.day, 1800 * periodOf p⟩

/-- A step of the time value as the tie takes it, the time value standing at the new position (R127). -/
def tieStep (s : State) : State :=
  match s.tie.openPeriod with
  | none => emptySlots s
  | some p =>
    let q := { p with flags := { p.flags with timeStepped := true } }
    if posNumber s.dc.time < periodEnd p then s.setTie { s.tie with openPeriod := some q }
    else
      let t := emptySlots (closePeriod q p.planned s)
      openPeriod (periodStart t.dc.time) steppedFlags t

/-! ### The start at the end of LOADING (R131) -/

/-- The kind of start the Mode Controller tells the accounting unit (R172). -/
inductive StartKind where
  | powerOn | unchanged | changed
  deriving DecidableEq, Repr

/-- The seconds the time value advanced from the reset to now. -/
def sinceReset (s : State) : Nat := secondsFrom s.dc.resetTime s.dc.time

/-- The kept period is resumed (R131): missing seconds up to its end, RESET DURING, and where its end has
passed a close at its own end and a new period. The lowest quality takes in what the Day Clock holds since the
reset, FREE where it was SYNCED (R129, R159). A present time before the period's start, by an adoption in
LISTEN-ONLY before the reset, leaves it open with its slots as they stand (notes/assumptions/51.md). -/
def resumePeriod (p : Period) (s : State) : State :=
  let left := periodEnd p - posNumber s.dc.resetTime
  let q := { lowerPeriod p s with
    missing := saturate16 (p.missing + Nat.min (sinceReset s) left)
    flags := { p.flags with resetDuring := true } }
  if sinceReset s < left then
    let t := s.setTie { s.tie with openPeriod := some q }
    recomputeGap (t.setDc { t.dc with spanStart := some p.start })
  else
    let t := emptySlots (closePeriod q p.planned s)
    openPeriod t.dc.time partialAfterReset t

/-- The protected state of the tie cleared: slots and open period (R131). -/
def clearTie (t : TieUnit) : TieUnit := { t with slotA := none, slotB := none, openPeriod := none }

/-- The tie's Export Unit starts, its protected state kept or cleared before (R131). -/
def tieStart (k : StartKind) (s : State) : State :=
  match k with
  | .powerOn | .changed => openPeriod s.dc.time partialStart s
  | .unchanged =>
    match s.tie.openPeriod with
    | some p => resumePeriod p s
    | none => openPeriod s.dc.time partialAfterReset (emptySlots s)

end Sys2Proof.Machine
end

