-- ==== Sys2Proof/Machine/Meter.lean ====
section
/-! DEFINITION. The Metering Unit of a TOWNHEAT (09_heat_metering_and_billing.md): integration, split, minute
checks, intervals, time steps and resumption; and the meanings of HEAT_SAMPLE, DEMAND and
HOLD_MINUTE_CHECK. -/

namespace Sys2Proof.Machine

/-- Centijoules in a kWh (00_scope.md, "Energy"). -/
def kwhUnit : Nat := 360000000

/-! ### Samples and demand (R136, R137) -/

/-- The held sample a valid HEAT SAMPLE makes: clamped, and marked over-range where a value was (R137). -/
def sampleOf (flow supply return_ : Nat) : HeatSample :=
  ⟨Nat.min flow 50000, Nat.min supply 20000, Nat.min return_ 20000,
    decide (50000 < flow) || decide (20000 < supply) || decide (20000 < return_)⟩

/-- A HEAT SAMPLE as the Metering Unit takes it (R137). -/
def takeHeatSample (status : SampleStatus) (flow supply return_ : Nat) (s : State) : State :=
  match status with
  | .ok => s.setMu { s.mu with held := some (sampleOf flow supply return_) }
  | .bad => s

/-- HEAT_SAMPLE (R137). -/
def execHeatSample (status : SampleStatus) (flow supply return_ : Nat) (s : State) :
    Host.Outcome State Fault Refusal :=
  .next (fieldMessage .heatSample (takeHeatSample status flow supply return_) s)

/-- A DEMAND as the Metering Unit takes it: recorded, and a new base want delivered (R136). -/
def takeDemand (su : Nat) (s : State) : State :=
  rebuildWant (s.setMu { s.mu with demand := some (holdPower su) })

/-- DEMAND (R136). -/
def execDemand (su : Nat) (s : State) : Host.Outcome State Fault Refusal :=
  .next (fieldMessage .demand (takeDemand su) s)

/-! ### Integration (R138, R140) -/

/-- The energy of a second from its sample, in centijoules; 0 where the second is reverse (R138). -/
def sampleEnergy (x : HeatSample) : Nat :=
  if x.supply ≤ x.return_ then 0 else x.flow * (x.supply - x.return_) * 419

/-- The energy of the second that ends (R138). -/
def secondEnergy (held : Option HeatSample) : Nat :=
  match held with
  | some x => sampleEnergy x
  | none => 0

/-- The purchased share of a second's energy (R140). -/
def purchasedShare (e f : Nat) : Nat := e * f / 1000

/-- The works share of a second's energy (R140). -/
def worksShare (e f : Nat) : Nat := e - purchasedShare e f

/-- A kWh count after whole kWh are moved in. The spec bounds it to 32 bits; beyond them it is free
(notes/assumptions/20.md). -/
def kwhSum (n add free : Nat) : Nat := if n + add < 2 ^ 32 then n + add else free % 2 ^ 32

/-- The counts of the interval after a second: missing, reverse, over-range, each saturating (R138). -/
def countSecond (held : Option HeatSample) (i : Interval) : Interval :=
  match held with
  | none => { i with missing := saturate16 (i.missing + 1) }
  | some x =>
    { i with
      reverse := if x.supply ≤ x.return_ then saturate16 (i.reverse + 1) else i.reverse
      overRange := if x.overRange then saturate16 (i.overRange + 1) else i.overRange }

/-- The whole kWh of a remainder with a share added (R140). -/
def movedOut (rem share : Nat) : Nat := (rem + share) / kwhUnit

/-- The remainder left (R140). -/
def remLeft (rem share : Nat) : Nat := (rem + share) % kwhUnit

/-- The interval after a second of energy (R138, R140). -/
def intervalAfter (i : Interval) (mu : MeteringUnit) (q : Quality) (free1 free2 : Nat) : Interval :=
  let e := secondEnergy mu.held
  let j := countSecond mu.held i
  { j with
    works := kwhSum i.works (movedOut mu.worksRem (worksShare e mu.fraction)) free1
    purchased := kwhSum i.purchased (movedOut mu.purchRem (purchasedShare e mu.fraction)) free2
    quality := lowerQuality i.quality q }

/-- A kWh count would pass its 32 bits at this second (notes/assumptions/20.md). -/
def countsOverflow (i : Interval) (mu : MeteringUnit) : Bool :=
  let e := secondEnergy mu.held
  decide (2 ^ 32 ≤ i.works + movedOut mu.worksRem (worksShare e mu.fraction)) ||
    decide (2 ^ 32 ≤ i.purchased + movedOut mu.purchRem (purchasedShare e mu.fraction))

/-- The metering state after the second of an open interval is integrated (R138 to R140). One draw serves
both counts: its low and its high half. -/
def integrated (i : Interval) (q : Quality) (free : Nat) (mu : MeteringUnit) : MeteringUnit :=
  let e := secondEnergy mu.held
  { mu with
    openInterval := some (intervalAfter i mu q free (free / 2 ^ 32))
    worksRem := remLeft mu.worksRem (worksShare e mu.fraction)
    purchRem := remLeft mu.purchRem (purchasedShare e mu.fraction)
    minuteAcc := mu.minuteAcc + e
    held := none }

/-- The second that ends is integrated; with no interval open the held sample is cleared and nothing counted
(R138). -/
def integrateSecond (s : State) : State :=
  match s.mu.openInterval with
  | none => s.setMu { s.mu with held := none }
  | some i =>
    let t := if countsOverflow i s.mu then drawn s else s
    t.setMu (integrated i s.dc.quality (freeNumber s) s.mu)

/-! ### Minute checks (R141) -/

/-- The minute check of the open interval: peak minute, accumulator cleared (R141). -/
def minuteCheck (s : State) : State :=
  s.setMu { s.mu with
    openInterval := s.mu.openInterval.map fun i => { i with peak := Nat.max i.peak (s.mu.minuteAcc / kwhUnit) }
    minuteAcc := 0 }

/-- HOLD_MINUTE_CHECK (R141): acts where a check of a hold is due. -/
def execHoldMinuteCheck (s : State) : Host.Outcome State Fault Refusal :=
  .next
    (if s.mu.holdCheckDue then
      let t := minuteCheck s
      t.setMu { t.mu with holdCheckDue := false }
    else s)

/-! ### Opening and closing (R142 to R144, R146) -/

/-- The hour in which a position falls. -/
def hourOf (p : TimePos) : Nat := p.sec / 3600

/-- The start of the hour in which a position falls. -/
def hourStart (p : TimePos) : TimePos := ⟨p.day, 3600 * hourOf p⟩

/-- The interval an opening at a position makes (R142). -/
def intervalAt (p : TimePos) (flags : RecordFlags) (s : State) : Interval :=
  ⟨p, 3600 * (hourOf p + 1) - p.sec, s.mc.config.tariff.getD (hourOf p) 0, 0, 0, 0, 0, 0, 0, s.dc.quality, flags⟩

/-- An interval is opened: the remainders stand, the minute accumulator is cleared, the Day Clock learns the
span start (R142, R157). -/
def openIntervalAt (p : TimePos) (flags : RecordFlags) (s : State) : State :=
  let t := s.setMu { s.mu with openInterval := some (intervalAt p flags s), minuteAcc := 0 }
  t.setDc { t.dc with spanStart := some p }

/-- The BILL record of an interval closed after a length; its number is given at the hand-over (R144). -/
def billRecord (i : Interval) (len : Nat) : BillRecord :=
  ⟨0, i.start, len, i.band, i.quality, i.works, i.purchased, i.peak, i.missing, i.reverse, i.overRange, i.flags⟩

/-- An interval's lowest time quality, lowered to the Day Clock's where that is lower (R138, R144). -/
def lowerInterval (i : Interval) (s : State) : Interval := { i with quality := lowerQuality i.quality s.dc.quality }

/-- The open interval is closed after a length and its record handed over; none is open (R143 steps 3 to
5). The record's quality takes in the Day Clock's at the close (notes/assumptions/43.md). -/
def closeInterval (i : Interval) (len : Nat) (s : State) : State :=
  let t := handOver (.bill (billRecord (lowerInterval i s) len)) s
  let u := t.setMu { t.mu with openInterval := none }
  u.setDc { u.dc with spanStart := none }

/-- The open interval closed at the current second (R143, R146). -/
def closeIntervalNow (s : State) : State :=
  match s.mu.openInterval with
  | some i => closeInterval i (spanLength 3600 i.start s.dc.time) s
  | none => s

/-- The flags of the open interval changed. -/
def flagInterval (f : RecordFlags → RecordFlags) (s : State) : State :=
  s.setMu { s.mu with openInterval := s.mu.openInterval.map fun i => { i with flags := f i.flags } }

def setShort (f : RecordFlags) : RecordFlags := { f with short := true }
def setPowerFail (f : RecordFlags) : RecordFlags := { f with powerFail := true }
def setStepped (f : RecordFlags) : RecordFlags := { f with timeStepped := true }
def setResetDuring (f : RecordFlags) : RecordFlags := { f with resetDuring := true }

/-- Entry to LEAVING: minute check, closed SHORT, opened again PARTIAL START; with none open, nothing
(R146). -/
def meterShortClose (s : State) : State :=
  match s.mu.openInterval with
  | none => s
  | some _ =>
    let t := closeIntervalNow (flagInterval setShort (minuteCheck s))
    openIntervalAt t.dc.time partialStart t

/-- SUPPLY LOW asserted: minute check, closed with POWER FAIL, none open (R146). -/
def meterPowerFail (s : State) : State :=
  match s.mu.openInterval with
  | none => s
  | some _ => closeIntervalNow (flagInterval setPowerFail (minuteCheck s))

/-- SUPPLY LOW released without a reset (R146). -/
def meterSupplyBack (s : State) : State :=
  match s.mu.openInterval with
  | none => openIntervalAt s.dc.time partialStart s
  | some _ => s

/-! ### The metering second, holds and time steps (R138, R141, R143, R145) -/

/-- An hour boundary: minute check, close at the boundary, next interval; with none open nothing is opened
(R143, R147). -/
def hourBoundary (s : State) : State :=
  match s.mu.openInterval with
  | none => minuteCheck s
  | some _ =>
    let t := closeIntervalNow (minuteCheck s)
    openIntervalAt t.dc.time noFlags t

/-- A metering second at the TOWNHEAT with the position it delivers as a boundary, or none (R138, R141,
R143). -/
def meterSecond (boundary : Option TimePos) (s : State) : State :=
  let t := integrateSecond s
  match boundary with
  | none => t
  | some p =>
    if p.sec % 3600 = 0 then hourBoundary t
    else if p.sec % 60 = 0 then minuteCheck t
    else t

/-- A held metering second is counted: every 60th since the clamp or the last such check, and the one at
which the hold ends, makes a check due (R141). -/
def countHeld (ends : Bool) (s : State) : State :=
  let n := s.mu.heldSeconds + 1
  if 60 ≤ n ∨ ends then s.setMu { s.mu with heldSeconds := 0, holdCheckDue := true }
  else s.setMu { s.mu with heldSeconds := n }

/-- The count of held seconds begins at a clamp (R141). -/
def beginHold (s : State) : State := s.setMu { s.mu with heldSeconds := 0 }

/-- The end of an interval as a count of seconds (R142). -/
def intervalEnd (i : Interval) : Nat := posNumber i.start + i.planned

/-- A step of the time value as the Metering Unit takes it, the time value standing at the new position
(R145). -/
def meterStep (s : State) : State :=
  let t := flagInterval setStepped (minuteCheck s)
  match t.mu.openInterval with
  | none => t
  | some i =>
    if posNumber t.dc.time < intervalEnd i then t
    else
      let u := closeInterval i i.planned t
      openIntervalAt (hourStart u.dc.time) steppedFlags u

/-! ### The start at the end of LOADING (R148, R149) -/

/-- A minute boundary lies after one position and up to another, some seconds on. -/
def minutePassed (start : TimePos) (advanced : Nat) : Bool :=
  decide (60 ≤ start.sec % 60 + advanced)

/-- The kept interval is resumed (R149). Missing seconds and minute boundaries are counted from the latest reset
(notes/assumptions/23.md); the lowest quality takes in what the Day Clock holds since it (R144, R159). A present
time before the interval's start leaves it open (notes/assumptions/51.md). -/
def resumeInterval (i : Interval) (s : State) : State :=
  let left := intervalEnd i - posNumber s.dc.resetTime
  let j := { lowerInterval i s with
    missing := saturate16 (i.missing + Nat.min (sinceReset s) left)
    flags := setResetDuring i.flags }
  let t := s.setMu { s.mu with openInterval := some j }
  let u := if minutePassed s.dc.resetTime (sinceReset s) then minuteCheck t else t
  if sinceReset s < left then u.setDc { u.dc with spanStart := some i.start }
  else
    let v := match u.mu.openInterval with
      | some k => closeInterval k k.planned u
      | none => u
    openIntervalAt v.dc.time partialAfterReset v

/-- The protected metering state cleared (R148). -/
def clearMetering (mu : MeteringUnit) : MeteringUnit :=
  { mu with openInterval := none, worksRem := 0, purchRem := 0, minuteAcc := 0 }

/-- The Metering Unit starts, its protected state kept or cleared before: the purchased fraction is computed, and
the interval opened or resumed (R139, R148, R149). -/
def meterStart (k : StartKind) (s : State) : State :=
  let r := recomputeFraction s
  match k with
  | .powerOn | .changed => openIntervalAt r.dc.time partialStart r
  | .unchanged =>
    match r.mu.openInterval with
    | some i => resumeInterval i r
    | none => openIntervalAt r.dc.time partialAfterReset r

end Sys2Proof.Machine
end

