-- ==== Sys2Proof/Machine/Clock.lean ====
section
/-! DEFINITION. The Day Clock (10_the_day_clock.md): trim, advance, steps, clamp and hold, adoption; and the
meanings of METERING_SECOND, TIME_DELIVERED, TIME_SET, SYNC_TIMER_EXPIRY and TIME_TIMER_EXPIRY. -/

namespace Sys2Proof.Machine

/-! ### Adoption (R153, R155, R157) -/

/-- The step an adopted time calls for with no hold: none within one second, otherwise pending (R155). -/
def pendingFor (f now : TimePos) : Option TimePos :=
  if ((posNumber f : Int) - (posNumber now : Int)).natAbs ≤ 1 then none else some f

/-- The Day Clock after an adoption during a hold: a time up to one second after the clamp point stands as the
pending step until it acts at the next metering second, a later one ends the hold and is pending (R157;
notes/assumptions/18.md). -/
def adoptedInHold (f : TimePos) (h : Hold) (dc : DayClock) : DayClock :=
  if posNumber f ≤ posNumber h.point + 1 then { dc with pendingStep := some f }
  else { dc with hold := none, pendingStep := some f }

/-- The Day Clock after an adoption (R153, R155). -/
def adopted (f : TimePos) (dc : DayClock) : DayClock :=
  let d := { dc with quality := .synced, syncTimer := some 600 }
  match d.hold with
  | none => { d with pendingStep := pendingFor f d.time }
  | some h => adoptedInHold f h d

/-- An adoption: quality SYNCED, sync timer, TIME FREE cleared, pending step (R153, R155). -/
def adopt (f : TimePos) (s : State) : State := clearFault .timeFree (s.setDc (adopted f s.dc))

/-- A time that is one: its second of day is at most 86399 (R154, R155). -/
def timeOk (f : TimePos) : Bool := f.sec ≤ 86399

/-- A TIME frame as the Day Clock takes it: discarded at the tie, and where it is not SYNCED or no time (R154,
R155). -/
def takeTime (f : TimePos) (q : Quality) (s : State) : State :=
  if s.mc.config.role ≠ some .exportTie ∧ q = .synced ∧ timeOk f then adopt f s else s

/-- TIME_DELIVERED (R15, R155): acts where a TIME is at the head. -/
def execTimeDelivered (s : State) : Host.Outcome State Fault Refusal :=
  .next
    (match headOf .time s with
      | none => s
      | some f =>
        match readTime f.payload with
        | some (p, q) => takeTime p q (takeHead s)
        | none => takeHead s)

/-- A TIME SET as the Day Clock takes it (R154). -/
def takeTimeSet (f : TimePos) (s : State) : State := if timeOk f then adopt f s else s

/-- TIME_SET (R154). -/
def execTimeSet (day sec : Nat) (s : State) : Host.Outcome State Fault Refusal :=
  if (Instr.timeSet day sec).wellFormed then .next (fieldMessage .timeSet (takeTimeSet ⟨day, sec⟩) s)
  else .refused .illFormed

/-! ### Sync and TIME timers (R153, R154) -/

/-- The roles in which TIME FREE is raised (R153). -/
def keepsTimeFree (c : StationConfig) : Bool := c.role == some .townheat || c.role == some .exportTie

/-- SYNC_TIMER_EXPIRY (R153): acts where the sync timer has expired. -/
def execSyncTimerExpiry (s : State) : Host.Outcome State Fault Refusal :=
  .next
    (if expired s.dc.syncTimer then
      let t := s.setDc { s.dc with quality := .free, syncTimer := none }
      if keepsTimeFree s.mc.config then raiseFault .timeFree t else t
    else s)

/-- The time a TIME frame carries: the reference time while a hold stands (R154). -/
def broadcastTime (dc : DayClock) : TimePos :=
  match dc.hold with
  | some h => h.reference
  | none => dc.time

/-- TIME_TIMER_EXPIRY (R154): acts where the tie's TIME timer has expired. -/
def execTimeTimerExpiry (s : State) : Host.Outcome State Fault Refusal :=
  .next
    (if expired s.dc.timeTimer then
      enqueue (.time (broadcastTime s.dc) s.dc.quality) (s.setDc { s.dc with timeTimer := some 60 })
    else s)

/-! ### The metering second (R151, R152, R156, R157) -/

/-- The trim applied to one metering second: accumulator, and the second's length in base periods (R151;
notes/assumptions/19.md). -/
def trimmed (dc : DayClock) : DayClock :=
  let sum := dc.trimAcc + dc.trim.natAbs
  if 1024 ≤ sum then
    { dc with trimAcc := sum - 1024, secondLength := if 0 < dc.trim then 32769 else 32767 }
  else { dc with trimAcc := sum, secondLength := 32768 }

/-- A step of the time value is notified to the accounting block of the role (R127, R145, R156). -/
def notifyStep (s : State) : State :=
  match s.mc.config.role with
  | some .townheat => meterStep s
  | some .exportTie => tieStep s
  | some .producer | some .holder | some .boiler | some .consumer | some .turbine | none => s

/-- A metering second that advanced the time value is delivered with its boundaries (R152). -/
def deliverSecond (s : State) : State :=
  match s.mc.config.role with
  | some .townheat => meterSecond (some s.dc.time) s
  | some .exportTie => tieSecond (s.dc.time.sec % 1800 == 0) s
  | some .producer | some .holder | some .boiler | some .consumer | some .turbine | none => s

/-- A held metering second is delivered: no boundary, and the mark that the hold stands or ends (R157). -/
def deliverHeld (ends : Bool) (s : State) : State :=
  match s.mc.config.role with
  | some .townheat => countHeld ends (meterSecond none s)
  | some .exportTie => tieSecond false s
  | some .producer | some .holder | some .boiler | some .consumer | some .turbine | none => s

/-- The time value advances by one second, delivered (R152). -/
def advanceTime (s : State) : State := deliverSecond (s.setDc { s.dc with time := nextSecond s.dc.time })

/-- The reference time has reached the clamp point (R157). -/
def holdReached (h : Hold) : Bool := decide (posNumber h.point ≤ posNumber h.reference)

/-- A held metering second with the hold as it now stands: it ends where the reference time has reached the
clamp point (R157). -/
def heldSecond (h : Hold) (s : State) : State :=
  deliverHeld (holdReached h)
    (s.setDc { s.dc with hold := if holdReached h then none else some h, pendingStep := none })

/-- The clamp: the time value at the clamp point, a backward step notified, the hold entered with the
reference time one second on (R157). -/
def clampAt (point f : TimePos) (s : State) : State :=
  let t := beginHold (notifyStep (s.setDc { s.dc with time := point, pendingStep := none }))
  heldSecond ⟨point, nextSecond f⟩ t

/-- A pending time lies before the span start (R157). -/
def clampPoint (f : TimePos) (dc : DayClock) : Option TimePos :=
  dc.spanStart.filter fun p => posNumber f < posNumber p

/-- The metering second with a pending step and no hold (R156, R157). -/
def stepSecond (f : TimePos) (s : State) : State :=
  match clampPoint f s.dc with
  | some p => clampAt p f s
  | none => advanceTime (notifyStep (s.setDc { s.dc with time := f, pendingStep := none }))

/-- The metering second with a time adopted during the hold: clamped again, or the hold ends (R157). -/
def holdSecondWith (f : TimePos) (h : Hold) (s : State) : State :=
  if posNumber f < posNumber h.point then clampAt h.point f s
  else deliverHeld true (s.setDc { s.dc with hold := none, pendingStep := none })

/-- The Day Clock's metering second (R152, R156, R157). -/
def clockSecond (s : State) : State :=
  match s.dc.hold, s.dc.pendingStep with
  | none, none => advanceTime s
  | none, some f => stepSecond f s
  | some h, none => heldSecond ⟨h.point, nextSecond h.reference⟩ s
  | some h, some f => holdSecondWith f h s

/-- The peer entries one second older, their ages saturating at 255 (R29). -/
def aged (peers : List (Nat × PeerEntry)) : List (Nat × PeerEntry) :=
  peers.map fun x => (x.1, { x.2 with age := Nat.min (x.2.age + 1) 255 })

/-- The dwell timers one second on. -/
def ladderTick (x : Ladder) : Ladder := { x with dwell := tick x.dwell }

/-- Every timer counted in metering seconds one second on (R151). -/
def tickTimers (s : State) : State :=
  let t := s.setLiu { s.liu with clash := tick s.liu.clash }
  let t := t.setPeers (aged t.peers)
  let t := t.setSe { t.se with roundTimer := tick t.se.roundTimer }
  let t := t.setHu { t.hu with
    levelTimer := tick t.hu.levelTimer, move := t.hu.move.map fun m => { m with timer := m.timer - 1 } }
  let t := t.setRl (Six.build fun l => ladderTick (t.rl.get l))
  let t := t.setFu { t.fu with flight := t.fu.flight.map fun c => { c with timer := c.timer - 1 } }
  let t := t.setDc { t.dc with syncTimer := tick t.dc.syncTimer, timeTimer := tick t.dc.timeTimer }
  let t := t.setFp { t.fp with linkTimer := tick t.fp.linkTimer, statusTimer := tick t.fp.statusTimer }
  t.setMc { t.mc with
    helloTimer := tick t.mc.helloTimer, readyTimer := tick t.mc.readyTimer, returnTimer := tick t.mc.returnTimer }

/-- METERING_SECOND (R151, R152): in LOADING the time value alone runs on, and no block receives the second
(notes/assumptions/25.md). The second is accounted before an expiry that falls due at it, with the quality that
the sync timer's expiry then lowers (notes/assumptions/49.md). -/
def execMeteringSecond (s : State) : Host.Outcome State Fault Refusal :=
  .next
    (if s.mc.mode = .loading then s.setDc { s.dc with time := nextSecond s.dc.time }
    else clockSecond (tickTimers (s.setDc (trimmed s.dc))))

end Sys2Proof.Machine
end

