-- ==== Sys2Proof/Machine/Modes.lean ====
section
/-! DEFINITION. Entry to standby and to LEAVING, and standby requests, reset warnings, SUPPLY LOW and wake
causes (12_field_port_configuration_image_and_node_modes.md); and the meanings of STANDBY_REQUEST, RESUME,
RESET_WARNING, READY_TIMER_EXPIRY, RETURN_TIMER_EXPIRY, SUPPLY_LOW_ASSERTED, SUPPLY_LOW_RELEASED,
WAKE_DELIVERED, READ_DELIVERED and LISTEN_ONLY_HELLO_TIMER. -/

namespace Sys2Proof.Machine

/-! ### The LIU at a mode entry (R17) -/

/-- A mode entry wants some kinds of entry gone: waiting ones are removed, one being sent is not retried
(R17). -/
def queueLeft (gone : TxBody → Bool) (tx : List TxEntry) : List TxEntry :=
  (tx.filter fun e => !(isWaiting e && gone e.body)).map fun e =>
    if gone e.body then { e with noRetry := true } else e

/-- The read slot a removed waiting RECORD answered for becomes FREE (notes/assumptions/21.md). -/
def slotsFreed : List TxEntry → State → State
  | [], s => s
  | e :: rest, s => slotsFreed rest (if isWaiting e then reportRecord e.body false s else s)

/-- The LIU at entry to STANDBY-DEEP: every waiting entry goes, the LEAVE is placed, the receive queue empties
(R17). A matching WAKE that waits in the receive queue goes with it, and does not wake the station by R181: DEDUCED,
notes/assumptions/54.md. -/
def lineSleeps (s : State) : State :=
  let t := slotsFreed s.liu.tx s
  let u := enqueue (.leave .deepStandby) (t.setLiu { t.liu with tx := queueLeft (fun _ => true) t.liu.tx })
  u.setLiu { u.liu with rx := [] }

/-- The LIU at entry to LEAVING: waiting HELLO and STATE entries go, the LEAVE is placed (R17). -/
def lineLeaves (s : State) : State :=
  enqueue (.leave .resetWarning)
    (s.setLiu { s.liu with tx := queueLeft (fun b => isHello b || isState b) s.liu.tx })

/-! ### Standby (R57, R59, R88, R103, R176) -/

/-- The order of the Share Engine's releases and the ladders' clearing matters at this entry: the station is
the only claimant of a line whose ladder is at TOP (notes/assumptions/9.md). -/
def standbyOrderMatters (s : State) : Bool :=
  (engineLines s.mc.config).any fun l =>
    (s.cu.get l).own && (s.cu.get l).sources == [s.mc.node.val] && (s.rl.get l).state == .top

/-- Own claims released and ladders cleared at entry to STANDBY-LISTEN; where their order matters it is free
(R57, R103; notes/assumptions/9.md). -/
def releaseAndClear (s : State) : State :=
  if standbyOrderMatters s then
    if freeNumber s % 2 = 0 then engineReleases (clearLadders (drawn s))
    else clearLadders (engineReleases (drawn s))
  else engineReleases (clearLadders s)

/-- Entry to STANDBY-LISTEN (R37, R47, R52, R57, R83, R103), the fallback SETPOINT sent first
(notes/assumptions/9.md). -/
def enterStandbyListen (s : State) : State :=
  let t := enterFallback (s.setMc { s.mc with mode := .standbyListen })
  let u := releaseAndClear (t.setSe { t.se with roundCount := 0 })
  markPending (rebuildWant u)

/-- The Share Engine at entry to STANDBY-DEEP (R59). -/
def engineAsleep (se : ShareEngine) : ShareEngine :=
  { se with
    roundTimer := none, roundCount := 0, results := ShareEngine.reset.results, grant := 0, minGrant := 0
    shortfallCount := 0, excessCount := 0 }

/-- Entry to STANDBY-DEEP: no fall reaches a neighbour and no CLAIM is asked for (R17, R34, R59, R88,
R103). -/
def enterStandbyDeep (s : State) : State :=
  let t := lineSleeps (s.setMc { s.mc with mode := .standbyDeep })
  let u := enterFallback ((t.setPeers []).setSe (engineAsleep t.se))
  rebuildWant ((clearLadders u).setCu (Six.all .reset))

/-- The waiting request has been taken (R176 step 3). -/
def requestTaken (s : State) : State :=
  s.setMc { s.mc with lastStandby := .taken, waitingRequest := none }

/-- The latch at the moment standby takes effect (R176 step 1). -/
def clearIfAsked (r : StandbyRequest) (s : State) : State :=
  if r.clearWake then s.setMc { s.mc with latch := emptyLatch } else s

/-- STANDBY-DEEP takes effect: entered, NODE STATUS, and a latched WAKE FRAME or RESUME wakes at once (R170,
R176). -/
def deepTakesEffect (s : State) : State := actOnLatch (statusAtEntry (requestTaken (enterStandbyDeep s)))

/-- A STANDBY REQUEST becomes the waiting request (R175). -/
def requestWaits (level : StandbyLevel) (clearWake : Bool) (s : State) : State :=
  s.setMc { s.mc with waitingRequest := some ⟨level, clearWake⟩, lastStandby := .waiting }

/-- The last standby outcome written (R175). -/
def standbyOutcome (o : StandbyOutcome) (s : State) : State := s.setMc { s.mc with lastStandby := o }

/-- The roles that refuse standby (R175). -/
def refusesStandby (c : StationConfig) : Bool :=
  c.role == some .holder || c.role == some .townheat || c.role == some .exportTie

/-- A STANDBY REQUEST as the Mode Controller takes it (R175). -/
def takeStandbyRequest (level : StandbyLevel) (clearWake : Bool) (s : State) : State :=
  if refusesStandby s.mc.config then standbyOutcome .refused s
  else match s.mc.mode with
    | .leaving => standbyOutcome .refused s
    | .active | .listenIn => requestWaits level clearWake s
    | .standbyListen => if level = .deep then requestWaits level clearWake s else standbyOutcome .taken s
    | .standbyDeep => standbyOutcome .taken s
    | .loading | .listenOnly => s

/-- STANDBY_REQUEST (R175). -/
def execStandbyRequest (level : StandbyLevel) (clearWake : Bool) (s : State) :
    Host.Outcome State Fault Refusal :=
  .next (fieldMessage .standbyRequest (takeStandbyRequest level clearWake) s)

/-- RESUME (R177). -/
def execResume (s : State) : Host.Outcome State Fault Refusal :=
  .next (fieldMessage .resume (latchCause .resume) s)

/-- WAKE_DELIVERED (R15, R177): acts where a WAKE is at the head; one that does not match is discarded. -/
def execWakeDelivered (s : State) : Host.Outcome State Fault Refusal :=
  .next
    (match headOf .wake s with
      | none => s
      | some f =>
        if wakeMatches f.payload s then latchCause .wakeFrame (takeHead s) else takeHead s)

/-- READ_DELIVERED (R15, R166): acts where a READ is at the head; one for another node, or in LISTEN-ONLY,
is discarded. -/
def execReadDelivered (s : State) : Host.Outcome State Fault Refusal :=
  .next
    (match headOf .read s with
      | none => s
      | some f =>
        if at1 f.payload 0 = s.mc.node.val ∧ s.mc.mode ≠ .listenOnly then
          takeRead (at1 f.payload 1) (at4 f.payload 2) (at1 f.payload 6) (takeHead s)
        else takeHead s)

/-! ### LEAVING (R17, R57, R64, R128, R146, R178) -/

/-- The accounting block of the role closes its span SHORT (R128, R146). -/
def shortClose (s : State) : State :=
  match s.mc.config.role with
  | some .townheat => meterShortClose s
  | some .exportTie => tieShortClose s
  | some .producer | some .holder | some .boiler | some .consumer | some .turbine | none => s

/-- Entry to LEAVING by its blocks: the LIU, the round timer, own claims, fallback, the want (R178 step 3). The
station is in fallback from the change of mode on, so a want that a release lowers leaves the output (R48,
R52). -/
def enterLeaving (s : State) : State :=
  let t := lineLeaves (s.setMc { s.mc with warning := true, waitingRequest := none, mode := .leaving })
  let u := engineReleases (t.setSe { t.se with roundTimer := none, fallback := true })
  rebuildWant (enterFallback (releaseAll (holderLines u.mc.config) u))

/-- The ready timer starts, and RESET READY goes out at once where the hold queue is empty (R178 steps 5 and
6), in a role without a store too (notes/assumptions/30.md). -/
def startReady (s : State) : State :=
  let t := s.setMc { s.mc with readyTimer := some 2 }
  if t.rs.holdQueue.isEmpty then sendResetReady t else t

/-- A RESET WARNING as the Mode Controller takes it (R178). -/
def takeResetWarning (s : State) : State :=
  match s.mc.mode with
  | .listenIn | .active | .standbyListen | .standbyDeep => statusAtEntry (startReady (shortClose (enterLeaving s)))
  | .listenOnly => sendResetReady (s.setMc { s.mc with warning := true })
  | .leaving | .loading => s

/-- RESET_WARNING (R178). -/
def execResetWarning (s : State) : Host.Outcome State Fault Refusal :=
  .next (fieldMessage .resetWarning takeResetWarning s)

/-- READY_TIMER_EXPIRY (R178): acts where the ready timer has expired. -/
def execReadyTimerExpiry (s : State) : Host.Outcome State Fault Refusal :=
  .next (if expired s.mc.readyTimer then sendResetReady s else s)

/-- The warning mark and the return timer cleared (R178). -/
def warningOver (s : State) : State := s.setMc { s.mc with warning := false, returnTimer := none }

/-- The return from LEAVING to LISTEN-IN; a holder asks for the claims its band calls for (R64, R178). -/
def returnToListenIn (s : State) : State :=
  let t := enterListenIn s
  if t.mc.config.role = some .holder then bandClaims t.hu.band t else t

/-- RETURN_TIMER_EXPIRY (R178): acts where the return timer has expired; LISTEN-ONLY stays. -/
def execReturnTimerExpiry (s : State) : Host.Outcome State Fault Refusal :=
  .next
    (if expired s.mc.returnTimer then
      if s.mc.mode = .leaving then returnToListenIn (warningOver s) else warningOver s
    else s)

/-! ### SUPPLY LOW (R179) -/

/-- The accounting unit of the role is told of an assertion (R128, R146, R179). -/
def tellAsserted (s : State) : State :=
  match s.mc.config.role with
  | some .townheat => meterPowerFail s
  | some .exportTie => tiePowerFail s
  | some .producer | some .holder | some .boiler | some .consumer | some .turbine | none => s

/-- The accounting unit of the role is told of a release (R128, R146, R179). -/
def tellReleased (s : State) : State :=
  match s.mc.config.role with
  | some .townheat => meterSupplyBack s
  | some .exportTie => tieSupplyBack s
  | some .producer | some .holder | some .boiler | some .consumer | some .turbine | none => s

/-- SUPPLY_LOW_ASSERTED (R179): acts where the input was not asserted; not taken in LOADING. -/
def execSupplyLowAsserted (s : State) : Host.Outcome State Fault Refusal :=
  .next
    (if s.mc.supplyLow then s
    else
      let t := s.setMc { s.mc with supplyLow := true }
      if s.mc.mode = .loading then t else tellAsserted t)

/-- SUPPLY_LOW_RELEASED (R179): acts where the input was asserted; not taken in LOADING. -/
def execSupplyLowReleased (s : State) : Host.Outcome State Fault Refusal :=
  .next
    (if s.mc.supplyLow then
      let t := s.setMc { s.mc with supplyLow := false }
      if s.mc.mode = .loading then t else tellReleased t
    else s)

/-! ### The HELLO timer of LISTEN-ONLY (R174) -/

/-- LISTEN_ONLY_HELLO_TIMER (R174): acts where the HELLO timer has expired; the unread fields of the HELLO
are free (notes/assumptions/13.md). -/
def execListenOnlyHelloTimer (s : State) : Host.Outcome State Fault Refusal :=
  .next
    (if expired s.mc.helloTimer then
      enqueue (unconfiguredHello (freeNumber s)) (drawn (s.setMc { s.mc with helloTimer := some 60 }))
    else s)

end Sys2Proof.Machine
end

