-- ==== Sys2Proof/Machine/Field.lean ====
section
/-! DEFINITION. Field Port messages of the Share Engine and the Fuel Unit (R46, R49, R110 to R112): the
meanings of CAPABILITY, GAS_MEASURE, HEAT_OUT, FUEL_STATUS and CHANGEOVER_TIMEOUT. -/

namespace Sys2Proof.Machine

/-- A capability value recorded, and the effective want rebuilt (R46). -/
def takeCapability (su : Nat) (s : State) : State :=
  rebuildWant (s.setSe { s.se with capability := some (holdPower su) })

/-- CAPABILITY (R46). -/
def execCapability (su : Nat) (s : State) : Host.Outcome State Fault Refusal :=
  .next (fieldMessage .capability (takeCapability su) s)

/-- The latest measured value (R49). -/
def takeMeasured (su : Nat) (s : State) : State := s.setSe { s.se with measured := some (holdPower su) }

/-- GAS_MEASURE (R49). -/
def execGasMeasure (su : Nat) (s : State) : Host.Outcome State Fault Refusal :=
  .next (fieldMessage .gasMeasure (takeMeasured su) s)

/-- HEAT_OUT (R49). -/
def execHeatOut (su : Nat) (s : State) : Host.Outcome State Fault Refusal :=
  .next (fieldMessage .heatOut (takeMeasured su) s)

/-- FUEL_STATUS (R110, R111). -/
def execFuelStatus (fuel : Fuel) (s : State) : Host.Outcome State Fault Refusal :=
  .next (fieldMessage .fuelStatus (fuelReport fuel) s)

/-- CHANGEOVER_TIMEOUT (R112): acts where a changeover in flight has its timer expired. -/
def execChangeoverTimeout (s : State) : Host.Outcome State Fault Refusal :=
  .next
    (match s.fu.flight with
      | some c => if c.timer = 0 then changeoverExpires c s else s
      | none => s)

end Sys2Proof.Machine
end

