-- ==== Sys2Proof/Machine/Round.lean ====
section
/-! DEFINITION. The round of the Share Engine (03_the_share_computation.md): snapshot and counting, the eight
tiers, setpoints, own claims, the STATE and HELLO requests; and the meaning of ROUND_EXPIRY. -/

namespace Sys2Proof.Machine

/-! ### Snapshot and counting (R30, R39, R40) -/

/-- What the snapshot holds of a PRESENT entry: whether it counts at its stated values, FRESH and not FAILED,
and its main records (R30). -/
structure SnapEntry where
  full : Bool
  records : List MainRecord
  deriving DecidableEq, Repr

/-- A peer entry in the snapshot. -/
def peerSnap (e : PeerEntry) : SnapEntry := ⟨counted e, e.records⟩

/-- The own entry in the snapshot, on the same terms as a peer's (R20, R35). -/
def ownSnap (e : OwnEntry) : SnapEntry := ⟨!e.stale && e.severity != .failed, e.records.map keptRecord⟩

/-- The snapshot: every PRESENT entry, the own one included (R30). -/
def snapshot (s : State) : List SnapEntry :=
  match ownEntry s with
  | some e => ownSnap e :: s.peers.map fun x => peerSnap x.2
  | none => s.peers.map fun x => peerSnap x.2

/-- The offer an entry's record counts for on a main (R30). -/
def countedOffer (m : Main) (full : Bool) : MainRecord → Nat
  | .offer n o _ _ => if n = m ∧ full then o else 0
  | .want _ _ _ _ _ => 0
  | .holder _ _ _ => 0

/-- The draw limit an entry's record counts for on a main (R30). -/
def countedDraw (m : Main) (full : Bool) : MainRecord → Nat
  | .holder n d _ => if n = m ∧ full then d else 0
  | .offer _ _ _ _ => 0
  | .want _ _ _ _ _ => 0

/-- The absorb limit an entry's record counts for on a main (R30). -/
def countedAbsorb (m : Main) (full : Bool) : MainRecord → Nat
  | .holder n _ a => if n = m ∧ full then a else 0
  | .offer _ _ _ _ => 0
  | .want _ _ _ _ _ => 0

/-- A want as it is counted: minimum amount, headroom amount and the classes (R30, R40). -/
structure WantMember where
  minimum : Nat
  headroom : Nat
  minClass : Nat
  headClass : Nat
  deriving DecidableEq, Repr

/-- The want an entry's record counts for on a main: of a STALE or FAILED entry the min alone (R30). -/
def countedWant (m : Main) (full : Bool) : MainRecord → Option WantMember
  | .want n lo hi c h => if n = m then some ⟨lo, if full then hi - lo else 0, c, h⟩ else none
  | .offer _ _ _ _ => none
  | .holder _ _ _ => none

/-- A sum over every record of every entry. -/
def sumRecords (f : Bool → MainRecord → Nat) (es : List SnapEntry) : Nat :=
  sumOf (es.map fun e => sumOf (e.records.map (f e.full)))

/-- S0 (R39). -/
def offerSum (m : Main) (es : List SnapEntry) : Nat := sumRecords (countedOffer m) es

/-- ΣD (R39). -/
def drawSum (m : Main) (es : List SnapEntry) : Nat := sumRecords (countedDraw m) es

/-- ΣA (R39). -/
def absorbSum (m : Main) (es : List SnapEntry) : Nat := sumRecords (countedAbsorb m) es

/-- The supply S = S0 + ΣD (R39). -/
def supply (m : Main) (es : List SnapEntry) : Nat := offerSum m es + drawSum m es

/-- The want members of an entry on a main (R40). -/
def entryMembers (m : Main) (e : SnapEntry) : List WantMember := e.records.filterMap (countedWant m e.full)

/-- The want members of a main (R40). -/
def wantMembers (m : Main) (es : List SnapEntry) : List WantMember := es.flatMap (entryMembers m)

/-! ### The tiers (R40 to R43) -/

/-- The amount of a member in a tier, the tiers numbered 1 to 8 in the order of R40. -/
def tierAmount (t : Nat) (w : WantMember) : Nat :=
  if t ≤ 4 then (if w.minClass + 1 = t then w.minimum else 0) else (if w.headClass + 5 = t then w.headroom else 0)

/-- The demand Dt of a tier (R40). -/
def tierDemand (t : Nat) (ws : List WantMember) : Nat := sumOf (ws.map (tierAmount t))

/-- The walk's state: the rest, and the short tier once there is one (R41). -/
structure Walk where
  rest : Nat
  short : Option Nat
  deriving DecidableEq, Repr

/-- A member's grant in a tier of a demand, reached with a walk (R41). -/
def tierGrant (w : Walk) (demand amount : Nat) : Nat :=
  if w.short.isSome ∨ demand = 0 then 0
  else if demand ≤ w.rest then amount
  else w.rest * amount / demand

/-- The walk after a tier (R41). -/
def walkTier (t demand : Nat) (w : Walk) : Walk :=
  if w.short.isSome ∨ demand = 0 then w
  else if demand ≤ w.rest then { w with rest := w.rest - demand }
  else ⟨0, some t⟩

/-- The walk before tier `t + 1`: tiers 1 to `t` served from the supply (R41). -/
def walkThrough (ws : List WantMember) (sup : Nat) : Nat → Walk
  | 0 => ⟨sup, none⟩
  | t + 1 => walkTier (t + 1) (tierDemand (t + 1) ws) (walkThrough ws sup t)

/-- A member's grant in tier `t + 1` (R41). -/
def grantIn (ws : List WantMember) (sup : Nat) (w : WantMember) (t : Nat) : Nat :=
  tierGrant (walkThrough ws sup t) (tierDemand (t + 1) ws) (tierAmount (t + 1) w)

/-- A member's minimum grant: its grant in the tier of its min class (R42). -/
def minGrantOf (ws : List WantMember) (sup : Nat) (w : WantMember) : Nat := grantIn ws sup w w.minClass

/-- A member's grant: the sum of its grants in its two tiers (R42). -/
def grantOf (ws : List WantMember) (sup : Nat) (w : WantMember) : Nat :=
  minGrantOf ws sup w + grantIn ws sup w (w.headClass + 4)

/-- The result of a main: supply, short tier, U and X (R41, R43). -/
def mainResult (m : Main) (es : List SnapEntry) : MainResult :=
  let w := walkThrough (wantMembers m es) (supply m es) 8
  ⟨supply m es, w.short, w.rest, w.rest - (drawSum m es + absorbSum m es)⟩

/-- The station's own want member on a main (R42). -/
def ownMember (m : Main) (s : State) : Option WantMember :=
  match ownEntry s with
  | some e => (entryMembers m (ownSnap e)).head?
  | none => none

/-- The results of the mains a station computes, written one after the other (R38). -/
def resultsOn (es : List SnapEntry) : List Main → Three MainResult → Three MainResult
  | [], r => r
  | m :: rest, r => resultsOn es rest (r.set m (mainResult m es))

/-- The grant and minimum grant of the want main (R42). -/
def grantsFrom (es : List SnapEntry) (own : Option WantMember) (m : Main) (se : ShareEngine) : ShareEngine :=
  match own with
  | some w =>
    { se with
      grant := grantOf (wantMembers m es) (supply m es) w
      minGrant := minGrantOf (wantMembers m es) (supply m es) w }
  | none => se

/-- The computation of every main of the station (R38 step 2). -/
def computeShare (s : State) : State :=
  let es := snapshot s
  let se := { s.se with results := resultsOn es (computedMains s.mc.config) s.se.results }
  match wantMain s.mc.config with
  | some m => s.setSe (grantsFrom es (ownMember m s) m se)
  | none => s.setSe se

/-! ### Setpoints (R51, R53) -/

/-- The output after a ramped move from `y` towards the grant (R51). -/
def ramped (y g step : Nat) : Nat := if g ≤ y + step then g else y + step

/-- The setpoint outputs of a round: in ACTIVE without FAILED the output moves and fallback is left, otherwise
the fallback value stands; SETPOINT is sent in both cases (R51, R53). -/
def settleSetpoints (s : State) : State :=
  if s.mc.mode = .active ∧ severity s ≠ .failed then
    match wantMain s.mc.config with
    | some m =>
      let y := ramped s.se.setpoint s.se.grant s.mc.config.rampStep
      sendField (.setpoint m y) (s.setSe { s.se with setpoint := y, fallback := false })
    | none => s.setSe { s.se with fallback := false }
  else enterFallback s

/-! ### Own claims (R55, R56) -/

/-- The shortfall counter and claim of the want main, `effMin` being the effective min at the snapshot
(R55). -/
def evaluateShortfall (effMin : Nat) (m : Main) (s : State) : State :=
  let l : ClaimLine := ⟨m, .shortfall⟩
  if s.se.minGrant < effMin then assertInRound l (s.setSe { s.se with shortfallCount := 0 })
  else if (s.cu.get l).own then
    if 2 ≤ s.se.shortfallCount + 1 then releaseInRound l (s.setSe { s.se with shortfallCount := 0 })
    else s.setSe { s.se with shortfallCount := s.se.shortfallCount + 1 }
  else s.setSe { s.se with shortfallCount := 0 }

/-- The excess counter and claim of a PRODUCER (R56). -/
def evaluateSurplus (s : State) : State :=
  let l : ClaimLine := ⟨s.mc.config.main, .surplus⟩
  let own := (s.cu.get l).own
  let x := (s.se.results.get s.mc.config.main).excess
  if decide (0 < x) = own then s.setSe { s.se with excessCount := 0 }
  else if 2 ≤ s.se.excessCount + 1 then
    let t := s.setSe { s.se with excessCount := 0 }
    if own then releaseInRound l t else assertInRound l t
  else s.setSe { s.se with excessCount := s.se.excessCount + 1 }

/-- The own claims of a round, in ACTIVE alone (R38 step 4, R57); their ladders are told after the round (R58). -/
def evaluateClaims (effMin : Nat) (s : State) : State :=
  if s.mc.mode = .active then
    match wantMain s.mc.config with
    | some m => evaluateShortfall effMin m s
    | none => if s.mc.config.role = some .producer then evaluateSurplus s else s
  else s

/-! ### STATE and HELLO (R37, R50) -/

/-- The STATE of a configured station as the round builds it (R50). -/
def builtState (s : State) : Option TxBody :=
  s.mc.config.role.map fun r => .state r s.mc.config.period (ownRecords s) (ownExtras s)

/-- The round requests a STATE (R37). -/
def stateDue (mode : Mode) (count : Nat) : Bool :=
  match mode with
  | .listenIn | .active => true
  | .standbyListen => count % 4 == 1
  | .loading | .listenOnly | .standbyDeep | .leaving => false

/-- The round requests a HELLO (R37). -/
def helloDue (mode : Mode) (count : Nat) : Bool := mode == .active && count % 64 == 0

/-- The round's STATE is requested (R38 step 5). -/
def requestState (s : State) : State :=
  match builtState s with
  | some b => if stateDue s.mc.mode s.se.roundCount then enqueue b s else s
  | none => s

/-- The round's HELLO is requested (R37). -/
def requestHello (s : State) : State :=
  if helloDue s.mc.mode s.se.roundCount then enqueue (configuredHello s.mc.config) s else s

/-! ### The round (R37, R38) -/

/-- The round count rises by one, wrapping at 2^32 (R37). -/
def countRound (s : State) : State := s.setSe { s.se with roundCount := (s.se.roundCount + 1) % 2 ^ 32 }

/-- The round's work, whole (R38). -/
def roundWork (s : State) : State :=
  let t := settleSetpoints (computeShare (countRound s))
  sendNodeStatus (requestHello (requestState (evaluateClaims (effectiveWant s).1 t)))

/-- A round: no step is taken or undone within its work, so the ladders of the lines that its own claims made rise
or fall are told after it (R58; notes/assumptions/47.md). -/
def runRound (s : State) : State := handEdges s (engineLines s.mc.config) (roundWork s)

/-- A waiting request takes effect at its round expiry (R176). STANDBY-LISTEN is run as its round 1 before a
latched cause wakes it (notes/assumptions/14.md). -/
def takeEffect (r : StandbyRequest) (s : State) : State :=
  let t := clearIfAsked r s
  match r.level with
  | .listen => actOnLatch (runRound (requestTaken (enterStandbyListen t)))
  | .deep => deepTakesEffect t

/-- The expiry of the round timer, with the mode change due at it made first (R37). -/
def roundExpires (s : State) : State :=
  match s.mc.mode with
  | .listenIn => if 2 ≤ s.se.roundCount then runRound (enterActive s) else runRound s
  | .active | .standbyListen =>
    match s.mc.waitingRequest with
    | some r => takeEffect r s
    | none => runRound s
  | .loading | .listenOnly | .standbyDeep | .leaving => s

/-- ROUND_EXPIRY (R36, R38): acts where the round timer has expired, and restarts it at the period. -/
def execRoundExpiry (s : State) : Host.Outcome State Fault Refusal :=
  .next
    (if expired s.se.roundTimer then
      roundExpires (s.setSe { s.se with roundTimer := some s.mc.config.period })
    else s)

end Sys2Proof.Machine
end

