-- ==== Sys2Proof/Machine/Image.lean ====
section
/-! DEFINITION. The configuration image: its records, the load checks, and the configuration the blocks take
from a loaded image (R172, R185; R36, R45, R60, R82, R86, R90, R91, R106, R119, R133, R135, R151). -/

namespace Sys2Proof.Machine

/-! ### Records and checks (R172, R185) -/

/-- The body lengths of the seven records, in place order (13_frame_and_record_layouts.md). -/
def recordLengths : List Nat := [9, 29, 4, 132, 1, 24, 2]

/-- The records from a place on: each of its own kind, its length 0 or its body length, within the memory;
with the bytes that follow them (R172 check 1, R185). An absent record has an empty body. -/
def splitRecords : Nat → List Nat → List Byte → Option (List (List Byte) × List Byte)
  | _, [], bytes => some ([], bytes)
  | place, len :: lens, bytes =>
    let n := at1 bytes 1
    if at1 bytes 0 = place ∧ (n = 0 ∨ n = len) ∧ n + 2 ≤ bytes.length then
      match splitRecords (place + 1) lens (bytes.drop (n + 2)) with
      | some (rs, rest) => some ((bytes.drop 2).take n :: rs, rest)
      | none => none
    else none

/-- An image that can be read: its seven bodies, its stored and its computed CRC-16. -/
structure RawImage where
  bodies : List (List Byte)
  stored : Nat
  computed : Nat
  deriving DecidableEq, Repr

/-- The image in the memory's up to 512 bytes, if check 1 holds (R172; a memory that ends before the stored
CRC-16: notes/assumptions/5.md). -/
def rawImage (bytes : List Byte) : Option RawImage :=
  let mem := bytes.take 512
  match splitRecords 1 recordLengths mem with
  | some (rs, rest) =>
    if 2 ≤ rest.length then some ⟨rs, at2 rest 0, crc16 (mem.take (mem.length - rest.length))⟩ else none
  | none => none

/-- The body of a record by its place. -/
def bodyAt (img : RawImage) (place : Nat) : List Byte := img.bodies.getD (place - 1) []

/-- A record is present. -/
def present (img : RawImage) (place : Nat) : Bool := !(bodyAt img place).isEmpty

/-- The role NODE names (R185). -/
def imageRole (img : RawImage) : Option Role :=
  if present img 1 then roleOfCode (at1 (bodyAt img 1) 1) else none

/-- Every record required for the role is present (R172 check 5). -/
def requiredPresent (r : Role) (img : RawImage) : Bool :=
  match r with
  | .exportTie => present img 7
  | .boiler => present img 2 && present img 3
  | .townheat => present img 2 && present img 6
  | .producer | .holder | .consumer | .turbine => present img 2

/-- The four thresholds after clamping (R60). -/
def thresholds (img : RawImage) : List Nat := [9, 11, 13, 15].map fun o => holdPerMille (at2 (bodyAt img 2) o)

/-- Each number of a list is below the next. -/
def strictlyRising : List Nat → Bool
  | [] => true
  | a :: rest => (match rest with | [] => true | b :: _ => decide (a < b)) && strictlyRising rest

/-- The load outcome of an image that can be read, checks 2 to 6 in order (R172). -/
def outcomeOf (strap : Node) (img : RawImage) : LoadOutcome :=
  if img.stored ≠ img.computed then .badCrc
  else match imageRole img with
    | none => .recordMissing
    | some r =>
      if at1 (bodyAt img 1) 0 ≠ strap.val then .numberMismatch
      else if !requiredPresent r img then .recordMissing
      else if r = .holder ∧ !strictlyRising (thresholds img) then .thresholdsUnordered
      else .ok

/-! ### The configuration (R185) -/

/-- The main of MAIN A after clamping: above 2 held as 2 for a HOLDER or PRODUCER, 2 or above held as 1 for a
BOILER or CONSUMER; a TURBINE and a TOWNHEAT want on main 2, a tie has none (R185, R45). -/
def imageMain (r : Role) (code : Nat) : Main :=
  match r with
  | .holder | .producer => if code = 0 then .m0 else if code = 1 then .m1 else .m2
  | .boiler | .consumer => if code = 0 then .m0 else .m1
  | .turbine | .townheat => .m2
  | .exportTie => .m0

/-- The role a WAKE step names can hold the main and can take a standby request (R91). -/
def wakeable (r : Role) (m : Main) : Bool :=
  match r with
  | .producer | .boiler => true
  | .consumer => m != .m2
  | .turbine => m == .m2
  | .holder | .townheat | .exportTie => false

/-- A step action is valid for a configuration on a line's main (R91). -/
def actionValid (c : StationConfig) (m : Main) : Action → Bool
  | .none => true
  | .fuelBackup | .fuelGas => c.role == some .boiler
  | .raise _ | .shed => wantMain c == some m
  | .flareStep => hasFlare c && c.main == m
  | .wake r => wakeable r m

/-- The action of a code and parameter; an action code above 6 or a WAKE parameter that is no role is none
(R185). -/
def actionOf (code param : Nat) : Option Action :=
  match code with
  | 0 => some .none
  | 1 => some .fuelBackup
  | 2 => some .fuelGas
  | 3 => some (.raise (holdPower param))
  | 4 => some .shed
  | 5 => some .flareStep
  | 6 => (roleOfCode param).map .wake
  | _ => none

/-- A step as it stands after clamping and the validity test: an invalid one is NONE with its dwell, marked
replaced (R90, R91, R185). -/
def stepOf (c : StationConfig) (m : Main) (code param dwell : Nat) : Step :=
  match (actionOf code param).filter (actionValid c m) with
  | some a => ⟨a, clamp 5 3600 dwell, false⟩
  | none => ⟨.none, clamp 5 3600 dwell, true⟩

/-- A line's mask and steps from the LADDERS body; with the record absent the line is OPEN without steps
(R82, R90, R185). -/
def lineOf (c : StationConfig) (body : List Byte) (l : ClaimLine) : LineConfig :=
  if body.isEmpty then ⟨false, []⟩
  else
    let o := 22 * lineNumber l
    ⟨at1 body o != 0,
      (List.range (Nat.min (at1 body (o + 1)) 4)).map fun j =>
        stepOf c l.main (at1 body (o + 2 + 5 * j)) (at2 body (o + 3 + 5 * j)) (at2 body (o + 5 + 5 * j))⟩

/-- The values every role takes: NODE and WAKE LINES (R36, R51, R52, R86). -/
def commonConfig (r : Role) (img : RawImage) : StationConfig :=
  let node := bodyAt img 1
  { StationConfig.unconfigured with
    role := some r
    tag := img.computed
    main := imageMain r (at1 (bodyAt img 2) 0)
    period := holdPeriod (at1 node 2)
    fallbackSetpoint := holdPower (at2 node 3)
    rampStep := clamp 1 2000 (at2 node 5)
    wakeSet := if present img 5 then claimSetOfByte (at1 (bodyAt img 5) 0) else Six.all false }

/-- The want fields of a CONSUMER or BOILER (R45, R106; classes: notes/assumptions/33.md). -/
def withWant (a : List Byte) (c : StationConfig) : StationConfig :=
  { c with
    min := holdPower (at2 a 1), max := holdPower (at2 a 3), capacity := holdPower (at2 a 5)
    minClass := holdClass (at1 a 7), headClass := holdClass (at1 a 8) }

/-- The values the role's own blocks take (R45, R60, R106, R119, R133, R135). -/
def roleConfig (r : Role) (img : RawImage) : StationConfig :=
  let c := commonConfig r img
  let a := bodyAt img 2
  match r with
  | .producer => c
  | .consumer => withWant a c
  | .boiler =>
    { withWant a c with
      changeoverLimit := clamp 30 900 (at2 a 21)
      heatCapacity := holdPower (at2 (bodyAt img 3) 0)
      efficiency := holdPerMille (at2 (bodyAt img 3) 2) }
  | .holder =>
    { c with
      t1 := holdPerMille (at2 a 9), t2 := holdPerMille (at2 a 11), t3 := holdPerMille (at2 a 13)
      t4 := holdPerMille (at2 a 15), drawMax := holdPower (at2 a 17), absorbMax := holdPower (at2 a 19) }
  | .turbine =>
    { c with
      capacity := holdPower (at2 a 5), electricCapacity := clamp 1 20000 (at2 a 23)
      steamRate := clamp 1000 9000 (at2 a 25) }
  | .townheat =>
    { c with
      capacity := holdPower (at2 a 5), guaranteedMin := holdPower (at2 a 27)
      tariff := (List.range 24).map fun h => Nat.min (at1 (bodyAt img 6) h) 3 }
  | .exportTie => { c with tolerance := Nat.min (at2 (bodyAt img 7) 0) 200 }

/-- The configuration of a loaded image (R172, R185). -/
def configOf (r : Role) (img : RawImage) : StationConfig :=
  let c := roleConfig r img
  { c with lines := Six.build (lineOf c (bodyAt img 4)) }

/-- A step of a line has been replaced (R91). -/
def lineReplaced (x : LineConfig) : Bool := x.steps.any fun st => st.replaced

/-- One or more steps have been replaced (R92). -/
def anyReplaced (c : StationConfig) : Bool := allLines.any fun l => lineReplaced (c.lines.get l)

/-- The trim: of NODE, clamped, where checks 1 and 2 hold and NODE is present; otherwise 0 (R151). -/
def imageTrim (image : Option RawImage) : Int :=
  match image with
  | some img =>
    if img.stored = img.computed ∧ present img 1 then
      let t := at2s (bodyAt img 1) 7
      if t < -1023 then -1023 else if 1023 < t then 1023 else t
    else 0
  | none => 0

/-- The SETPOINT of LISTEN-ONLY: the want main that the image makes known and the fallback of NODE (R52). -/
def knownFallback (image : Option RawImage) : Option (Main × Nat) :=
  match image with
  | none => none
  | some img =>
    if img.stored = img.computed then
      let value := holdPower (at2 (bodyAt img 1) 3)
      match imageRole img with
      | some .turbine => some (.m2, value)
      | some .townheat => some (.m2, value)
      | some .consumer =>
        if present img 2 then some (imageMain .consumer (at1 (bodyAt img 2) 0), value) else none
      | some .boiler => if present img 2 then some (imageMain .boiler (at1 (bodyAt img 2) 0), value) else none
      | some .producer | some .holder | some .exportTie | none => none
    else none

end Sys2Proof.Machine
end

