-- ==== Sys2Proof/Machine/Reset.lean ====
section
/-! DEFINITION. Resets and the end of LOADING (R18, R33, R59, R73, R88, R104, R117, R131, R148, R159, R169,
R171 to R174): the meanings of POWER_ON_RESET, PIN_RESET and LOAD_COMPLETE. -/

namespace Sys2Proof.Machine

/-! ### POWER_ON_RESET and PIN_RESET -/

/-- The Record Store after a power-on: the nonvolatile slots and numbers, nothing held (R169). -/
def storeAfterPower (rs : RecordUnit) : RecordUnit :=
  { RecordUnit.blank with slots := rs.slots, nextSeq := rs.nextSeq, newest := rs.newest }

/-- POWER_ON_RESET (R173): every block at its power-on state. The straps and the SUPPLY LOW input stand as
they are; the messages sent, the free values drawn and the queue are the model's own. -/
def execPowerOnReset (s : State) : Host.Outcome State Fault Refusal :=
  .next
    { State.reset with
      rs := storeAfterPower s.rs
      fp := { FieldPort.reset with out := s.fp.out }
      mc := { ModeController.reset with node := s.mc.node, supplyLow := s.mc.supplyLow }
      freeNext := s.freeNext
      pending := s.pending }

/-- The quality after a pin reset (R159). -/
def qualityAfterPin : Quality → Quality
  | .unset => .unset
  | .free => .free
  | .synced => .free

/-- The Day Clock after a pin reset: the time value is kept (R159). -/
def clockAfterPin (dc : DayClock) : DayClock :=
  { DayClock.reset with time := dc.time, quality := qualityAfterPin dc.quality, resetTime := dc.time }

/-- The tie's Export Unit after a pin reset: its protected state is kept (R131; notes/assumptions/26.md). -/
def tieAfterPin (t : TieUnit) : TieUnit :=
  { t with mark := false, gap := 0, lastSchedule := .none, lastVerdict := none }

/-- The Metering Unit after a pin reset: its protected metering state is kept (R148). That the sums behind the
purchased fraction are 0 with it is notes/assumptions/6.md. -/
def meterAfterPin (mu : MeteringUnit) : MeteringUnit :=
  { mu with
    demand := none, held := none, fraction := 0, heatBackup := 0, heatTotal := 0, heldSeconds := 0
    holdCheckDue := false }

/-- The Record Store after a pin reset: the hold queue is kept, its commit cut off (R161, R169). -/
def storeAfterPin (rs : RecordUnit) : RecordUnit :=
  { rs with inFlight := false, slotA := none, slotB := none, reads := 0 }

/-- The Mode Controller after a pin reset: the cause by the warning mark, the remembered tag kept (R172,
R173). -/
def modeAfterPin (mc : ModeController) : ModeController :=
  { ModeController.reset with
    node := mc.node, rememberedTag := mc.rememberedTag, supplyLow := mc.supplyLow
    cause := if mc.warning then .pinAfterWarning else .pin }

/-- PIN_RESET (R173). -/
def execPinReset (s : State) : Host.Outcome State Fault Refusal :=
  .next
    { State.reset with
      tie := tieAfterPin s.tie
      mu := meterAfterPin s.mu
      dc := clockAfterPin s.dc
      rs := storeAfterPin s.rs
      fp := { FieldPort.reset with out := s.fp.out }
      mc := modeAfterPin s.mc
      freeNext := s.freeNext
      pending := s.pending }

/-! ### LOAD_COMPLETE (R172, R174) -/

/-- The kind of start (R172). -/
def startKind (tag : Nat) (mc : ModeController) : StartKind :=
  if mc.cause = .powerOn then .powerOn
  else if mc.rememberedTag = some tag then .unchanged
  else .changed

/-- The faults the end of LOADING raises (R92, R153). -/
def loadFaults (c : StationConfig) (q : Quality) : List FaultKind :=
  (if anyReplaced c then [.configStep] else []) ++ (if keepsTimeFree c && q != .synced then [.timeFree] else [])

/-- Some faults raised one after the other. -/
def raiseAll : List FaultKind → State → State
  | [], s => s
  | k :: rest, s => raiseAll rest (raiseFault k s)

/-- The faults of the end of LOADING, in any order (notes/assumptions/24.md). -/
def raiseLoadFaults (s : State) : State :=
  let ks := loadFaults s.mc.config s.dc.quality
  raiseAll (freeOrder ks s) (orderDrawn ks s)

/-- The head's commit restarts at the end of LOADING (R169). -/
def restartCommit (s : State) : State := s.setRs (startIfIdle s.rs)

/-- The protected state of both accounting units is cleared at power-on and at a changed tag, and kept at an
unchanged one, whatever the new role (R131, R148; notes/assumptions/26.md). -/
def protectedAtStart (k : StartKind) (s : State) : State :=
  match k with
  | .powerOn | .changed => (s.setTie (clearTie s.tie)).setMu (clearMetering s.mu)
  | .unchanged => s

/-- The accounting unit of the role starts (R131, R148); a TURBINE computes its base want (R133). -/
def startUnit (k : StartKind) (s : State) : State :=
  match s.mc.config.role with
  | some .townheat => meterStart k s
  | some .exportTie => tieStart k s
  | some .turbine => recomputeTurbine s
  | some .producer | some .holder | some .boiler | some .consumer | none => s

/-- The unit's start, and immediately after it the assertion of SUPPLY LOW where the input stands asserted
(R179). -/
def startAndTell (k : StartKind) (s : State) : State :=
  let t := startUnit k (protectedAtStart k s)
  if t.mc.supplyLow then tellAsserted t else t

/-- The restart of a held commit and the unit's start with its assertion, which may hand records over, in either
order (notes/assumptions/24.md). -/
def restartAndStart (k : StartKind) (s : State) : State :=
  if s.rs.holdQueue.isEmpty then startAndTell k s
  else if freeNumber s % 2 = 0 then startAndTell k (restartCommit (drawn s))
  else restartCommit (startAndTell k (drawn s))

/-- The timers a role starts at the end of LOADING: a HOLDER's level timer (R65), a tie's TIME timer
(R154). -/
def startRoleTimers (s : State) : State :=
  match s.mc.config.role with
  | some .holder => s.setHu { s.hu with levelTimer := some 30 }
  | some .exportTie => s.setDc { s.dc with timeTimer := some 60 }
  | some .producer | some .boiler | some .consumer | some .turbine | some .townheat | none => s

/-- The end of LOADING with a loaded image (R172, R174, R179). -/
def loaded (r : Role) (img : RawImage) (s : State) : State :=
  let k := startKind img.computed s.mc
  let t := s.setMc { s.mc with config := configOf r img, rememberedTag := some img.computed }
  restartAndStart k (startRoleTimers (enterListenIn (raiseLoadFaults t)))

/-- The SETPOINT of LISTEN-ONLY (R52). -/
def sendKnownFallback (x : Option (Main × Nat)) (s : State) : State :=
  match x with
  | some (m, v) => sendField (.setpoint m v) (s.setSe { s.se with setpoint := v })
  | none => s

/-- The end of LOADING with any other outcome: LISTEN-ONLY, the LEAVE first, the HELLO timer, NODE STATUS
(R17, R170, R174). -/
def notLoaded (image : Option RawImage) (s : State) : State :=
  let t := s.setMc { s.mc with mode := .listenOnly, config := .unconfigured, helloTimer := some 60 }
  statusAtEntry (sendKnownFallback (knownFallback image) (restartCommit (enqueue (.leave .unconfigured) t)))

/-- What every outcome of a load sets: node number, load outcome, trim, link timer (R151, R171, R172). -/
def loadCommon (strap : Node) (o : LoadOutcome) (image : Option RawImage) (s : State) : State :=
  let t := s.setMc { s.mc with node := strap, loadOutcome := o }
  let u := t.setDc { t.dc with trim := imageTrim image, trimAcc := 0 }
  u.setFp { u.fp with linkTimer := some 10 }

/-- The load outcome of what the memory gave (R172). -/
def loadOutcomeOf (strap : Node) (image : Option RawImage) : LoadOutcome :=
  match image with
  | some img => outcomeOf strap img
  | none => .readFailure

/-- The load, from what the memory gave. -/
def load (strap : Node) (image : Option RawImage) (s : State) : State :=
  let t := loadCommon strap (loadOutcomeOf strap image) image s
  match image with
  | none => notLoaded none t
  | some img =>
    match loadOutcomeOf strap image, imageRole img with
    | .ok, some r => loaded r img t
    | _, _ => notLoaded (some img) t

/-- LOAD_COMPLETE (R172): acts in LOADING. -/
def execLoadComplete (strap : Node) (image : Option (List Byte)) (s : State) :
    Host.Outcome State Fault Refusal :=
  .next
    (if s.mc.mode = .loading then
      load strap (match image with | some bytes => rawImage bytes | none => none) s
    else s)

end Sys2Proof.Machine
end

