-- ==== Sys2Proof/Machine/Dispatch.lean ====
section
/-! DEFINITION. One arm for each command: its meaning. -/

namespace Sys2Proof.Machine

/-- The effect of a command on everything but the queue. -/
def exec (i : Instr) (s : State) : Host.Outcome State Fault Refusal :=
  match i with
  | .powerOnReset => Sys2Proof.Machine.execPowerOnReset s
  | .pinReset => Sys2Proof.Machine.execPinReset s
  | .loadComplete strap image => Sys2Proof.Machine.execLoadComplete strap image s
  | .listenOnlyHelloTimer => Sys2Proof.Machine.execListenOnlyHelloTimer s
  | .nodeStatusTimer => Sys2Proof.Machine.execNodeStatusTimer s
  | .lineAttemptStart quietUs => Sys2Proof.Machine.execLineAttemptStart quietUs s
  | .frameSentWhole => Sys2Proof.Machine.execFrameSentWhole s
  | .collision => Sys2Proof.Machine.execCollision s
  | .backoffExpiry => Sys2Proof.Machine.execBackoffExpiry s
  | .frameReceived bytes => Sys2Proof.Machine.execFrameReceived bytes s
  | .clashTimerExpiry => Sys2Proof.Machine.execClashTimerExpiry s
  | .stateDelivered => Sys2Proof.Machine.execStateDelivered s
  | .helloDelivered => Sys2Proof.Machine.execHelloDelivered s
  | .claimDelivered => Sys2Proof.Machine.execClaimDelivered s
  | .leaveDelivered => Sys2Proof.Machine.execLeaveDelivered s
  | .timeDelivered => Sys2Proof.Machine.execTimeDelivered s
  | .wakeDelivered => Sys2Proof.Machine.execWakeDelivered s
  | .readDelivered => Sys2Proof.Machine.execReadDelivered s
  | .recordFrameDiscarded => Sys2Proof.Machine.execRecordFrameDiscarded s
  | .meteringSecond => Sys2Proof.Machine.execMeteringSecond s
  | .entryGoesStale node => Sys2Proof.Machine.execEntryGoesStale node s
  | .entryGoesAbsent node => Sys2Proof.Machine.execEntryGoesAbsent node s
  | .holdMinuteCheck => Sys2Proof.Machine.execHoldMinuteCheck s
  | .syncTimerExpiry => Sys2Proof.Machine.execSyncTimerExpiry s
  | .timeTimerExpiry => Sys2Proof.Machine.execTimeTimerExpiry s
  | .roundExpiry => Sys2Proof.Machine.execRoundExpiry s
  | .dwellExpiry line => Sys2Proof.Machine.execDwellExpiry line s
  | .undoDwellExpiry line => Sys2Proof.Machine.execUndoDwellExpiry line s
  | .fuelStatus fuel => Sys2Proof.Machine.execFuelStatus fuel s
  | .changeoverTimeout => Sys2Proof.Machine.execChangeoverTimeout s
  | .flareStatus position => Sys2Proof.Machine.execFlareStatus position s
  | .flareTimeout => Sys2Proof.Machine.execFlareTimeout s
  | .level status value => Sys2Proof.Machine.execLevel status value s
  | .levelLost => Sys2Proof.Machine.execLevelLost s
  | .capability su => Sys2Proof.Machine.execCapability su s
  | .gasMeasure su => Sys2Proof.Machine.execGasMeasure su s
  | .heatOut su => Sys2Proof.Machine.execHeatOut su s
  | .demand su => Sys2Proof.Machine.execDemand su s
  | .heatSample status flow supply return_ => Sys2Proof.Machine.execHeatSample status flow supply return_ s
  | .schedule day entries => Sys2Proof.Machine.execSchedule day entries s
  | .exportEnergy status kwh => Sys2Proof.Machine.execExportEnergy status kwh s
  | .timeSet day sec => Sys2Proof.Machine.execTimeSet day sec s
  | .commitEnd result => Sys2Proof.Machine.execCommitEnd result s
  | .recordPlace slot => Sys2Proof.Machine.execRecordPlace slot s
  | .fieldMessageDiscarded reason => Sys2Proof.Machine.execFieldMessageDiscarded reason s
  | .fieldLinkLost => Sys2Proof.Machine.execFieldLinkLost s
  | .standbyRequest level clearWake => Sys2Proof.Machine.execStandbyRequest level clearWake s
  | .resume => Sys2Proof.Machine.execResume s
  | .resetWarning => Sys2Proof.Machine.execResetWarning s
  | .readyTimerExpiry => Sys2Proof.Machine.execReadyTimerExpiry s
  | .returnTimerExpiry => Sys2Proof.Machine.execReturnTimerExpiry s
  | .supplyLowAsserted => Sys2Proof.Machine.execSupplyLowAsserted s
  | .supplyLowReleased => Sys2Proof.Machine.execSupplyLowReleased s

end Sys2Proof.Machine
end

