-- ==== Sys2Proof/Safety.lean ====
section
/-! DEFINITION. What counts as a safe run, the laws of the device that every step keeps, and what the
events of a family leave unchanged. -/

namespace Sys2Proof.Machine

/-! ### Runs -/

/-- An outcome is a next state. -/
def goesOn (o : Host.Outcome State Fault Refusal) : Prop := ∃ t, o = .next t

/-- Every command in the queue is one that can be carried (WellFormed.lean). -/
def queueWellFormed (s : State) : Prop := ∀ c ∈ s.pending, c.wellFormed = true

/-- The state runs its whole queue: no step of it stops. -/
def runsSafely (s : State) : Prop := goesOn (Host.Core.run Sys2Proof.core s.pending.length s)

/-! ### Laws kept by every step -/

/-- The queues stay within their capacities (R7, R14, R162), at most one entry is being sent (R7), no entry
has met eight collisions (R3, R5), and the drop count is at most 255 (R5). -/
structure QueuesBounded (s : State) : Prop where
  tx : s.liu.tx.length ≤ 4
  rx : s.liu.rx.length ≤ 8
  hold : s.rs.holdQueue.length ≤ 4
  oneSending : (s.liu.tx.filter fun e => !isWaiting e).length ≤ 1
  collisions : ∀ e ∈ s.liu.tx, e.collisions < 8
  drops : s.liu.drops ≤ 255

/-- The fuel mode is TO BACKUP or TO GAS exactly while a changeover is in flight, and names its target
(R107); a recorded target stands only with a changeover the other way (R109). -/
structure FuelLaw (s : State) : Prop where
  flight : ∀ f, s.fu.mode = toMode f ↔ ∃ c, s.fu.flight = some c ∧ c.target = f
  recorded : ∀ r, s.fu.recorded = some r → ∃ c, s.fu.flight = some c ∧ c.target ≠ r.target

/-- A source set holds only the own number and numbers of PRESENT peers, the own number exactly while the own
claim is asserted (R28, R75). The own number has no peer entry (R19), frames that wait come from other
numbers (R13), and in LOADING nothing has been heard or claimed (R16, R88). -/
structure ClaimLaw (s : State) : Prop where
  members : ∀ l n, n ∈ (s.cu.get l).sources → n = s.mc.node.val ∨ (assocGet n s.peers).isSome = true
  ownMember : ∀ l, s.mc.node.val ∈ (s.cu.get l).sources ↔ (s.cu.get l).own = true
  notOwnEntry : assocGet s.mc.node.val s.peers = none
  heard : ∀ f ∈ s.liu.rx, f.sender ≠ s.mc.node.val
  loading : s.mc.mode = .loading →
    s.liu.rx = [] ∧ s.peers = [] ∧ ∀ l, (s.cu.get l).sources = [] ∧ (s.cu.get l).own = false

/-- A station is in fallback outside ACTIVE and while FAILED (R52); in fallback its output is the fallback
setpoint (R53), outside fallback it does not exceed the grant (R51); grant and minimum grant do not exceed
the effective want (R42, R48). The classes of the want are 0 to 3 (R45). In LOADING there is no want. -/
structure ShareLaw (s : State) : Prop where
  inFallback : s.mc.mode ≠ .active ∨ severity s = .failed → s.se.fallback = true
  fallbackOutput : s.se.fallback = true → wantMain s.mc.config ≠ none →
    s.se.setpoint = s.mc.config.fallbackSetpoint
  output : s.se.fallback = false → wantMain s.mc.config ≠ none → s.se.setpoint ≤ s.se.grant
  grant : s.se.grant ≤ (effectiveWant s).2
  minGrant : s.se.minGrant ≤ (effectiveWant s).1
  classes : s.mc.config.minClass ≤ 3 ∧ s.mc.config.headClass ≤ 3
  loading : s.mc.mode = .loading → wantMain s.mc.config = none

/-- A ladder's taken count does not exceed its step count; an IDLE ladder stands on no step, a ladder in
STEPPING, DWELL or TOP on at least one (R93). In LOADING every ladder is IDLE (R103). -/
structure LadderLaw (s : State) : Prop where
  taken : ∀ l, (s.rl.get l).taken ≤ (ladderSteps l s).length
  idle : ∀ l, (s.rl.get l).state = .idle → (s.rl.get l).taken = 0
  standing : ∀ l, (s.rl.get l).state = .stepping ∨ (s.rl.get l).state = .dwell ∨ (s.rl.get l).state = .top →
    1 ≤ (s.rl.get l).taken
  loading : s.mc.mode = .loading → ∀ l, (s.rl.get l).state = .idle

/-- A position of the time value: day 0 to 65535, second of day 0 to 86399. -/
def posOk (p : TimePos) : Prop := p.day < 65536 ∧ p.sec < 86400

/-- Every position of an optional one is within range. -/
def optPosOk (p : Option TimePos) : Prop := ∀ q, p = some q → posOk q

/-- The time value and every position kept stay within range (R152, R154 to R157), the trim and its
accumulator within theirs (R151), the sync timer runs exactly while the quality is SYNCED (R153). -/
structure ClockLaw (s : State) : Prop where
  time : posOk s.dc.time
  pendingStep : optPosOk s.dc.pendingStep
  spanStart : optPosOk s.dc.spanStart
  clampPoint : ∀ h, s.dc.hold = some h → posOk h.point ∧ posOk h.reference
  trim : s.dc.trim.natAbs ≤ 1023
  trimAcc : s.dc.trimAcc ≤ 1023
  synced : s.dc.quality = .synced ↔ s.dc.syncTimer.isSome = true
  openPeriod : ∀ p, s.tie.openPeriod = some p → posOk p.start
  openInterval : ∀ i, s.mu.openInterval = some i → posOk i.start

/-- Strictly rising. -/
def risingKeys (l : List Nat) : Prop := l.Pairwise (· < ·)

/-- The keyed tables stand in their one canonical form: node numbers strictly rising below 32 (R19, R75),
an entry of an
EXPORT TIE without main records (R30), slot numbers strictly rising with each record in the slot of its number
(R160); at most one fault of a kind, at most 8 in all (R180); remainders below one kWh (R140); and the export gap
is 0 with no period open and in LOADING (R125, R131). -/
structure TablesCanonical (s : State) : Prop where
  peers : risingKeys (s.peers.map Prod.fst)
  peersBelow : ∀ x ∈ s.peers, x.1 < 32
  tieRecords : ∀ x ∈ s.peers, x.2.role = .exportTie → x.2.records = []
  heard : ∀ f ∈ s.liu.rx, f.sender < 32
  sources : ∀ l, risingKeys (s.cu.get l).sources
  slots : risingKeys (s.rs.slots.map Prod.fst)
  slotPlace : ∀ x ∈ s.rs.slots, x.1 = slotOf (recordSeq x.2)
  faults : (s.mc.faults.map FaultEntry.kind).Nodup
  faultCount : s.mc.faults.length ≤ 8
  works : s.mu.worksRem < 360000000
  purchased : s.mu.purchRem < 360000000
  gapNone : s.tie.openPeriod = none → s.tie.gap = 0
  gapLoading : s.mc.mode = .loading → s.tie.gap = 0

/-! ### Frames -/

/-- A main record a station can broadcast: powers within 0 to 20000 SU, min not above max, classes 0 to 3
(R45, R49, R63). -/
def StateRecord.inRange : StateRecord → Prop
  | .offer _ o measured _ => o ≤ 20000 ∧ measured ≤ 20000
  | .want _ lo hi c h => lo ≤ hi ∧ hi ≤ 20000 ∧ c ≤ 3 ∧ h ≤ 3
  | .holder _ level _ draw absorb => level ≤ 1000 ∧ draw ≤ 20000 ∧ absorb ≤ 20000

/-! ### Hand-overs -/

/-- The next hand-over gets no GAP for lost numbers: it is not the first after a power-on, or each of the four
numbers given before it is retained (R162). -/
abbrev noneLost (rs : RecordUnit) : Prop :=
  rs.firstHandOver = true → ∀ k ∈ [1, 2, 3, 4], k < rs.nextSeq → rs.nextSeq - k ∈ retainedNumbers rs

/-! ### What the events of a family leave unchanged -/

/-- A frame delivered to the Peer Table, or an ageing threshold, leaves these. Through the rises and falls it
brings about it may reach the ladders, the fuel, the flare, the share, the transmit queue and the mode
(R75, R81); all else stands. -/
structure PeerEventFrame (s t : State) : Prop where
  lastEdge : t.liu.lastEdge = s.liu.lastEdge
  drops : t.liu.drops = s.liu.drops
  clash : t.liu.clash = s.liu.clash
  backoff : t.liu.backoff = s.liu.backoff
  capability : t.se.capability = s.se.capability
  measured : t.se.measured = s.se.measured
  level : t.hu.level = s.hu.level
  band : t.hu.band = s.hu.band
  position : t.hu.position = s.hu.position
  ownClaims : ∀ l, (t.cu.get l).own = (s.cu.get l).own
  lastReported : t.fu.lastReported = s.fu.lastReported
  tie : t.tie = s.tie
  interval : t.mu.openInterval = s.mu.openInterval
  remainders : t.mu.worksRem = s.mu.worksRem ∧ t.mu.purchRem = s.mu.purchRem
  demand : t.mu.demand = s.mu.demand
  clock : t.dc = s.dc
  store : t.rs = s.rs
  link : t.fp.link = s.fp.link ∧ t.fp.linkTimer = s.fp.linkTimer
  node : t.mc.node = s.mc.node
  config : t.mc.config = s.mc.config
  faults : t.mc.faults = s.mc.faults
  cause : t.mc.cause = s.mc.cause
  warning : t.mc.warning = s.mc.warning
  request : t.mc.waitingRequest = s.mc.waitingRequest
  supplyLow : t.mc.supplyLow = s.mc.supplyLow
  queue : t.pending = s.pending

/-- The sum over the entries of a role that are FRESH, not FAILED and have main 2 among their mains, of what
their records add (R31). -/
def heatOfRole (role : Role) (adds : MainRecord → Nat) (s : State) : Nat :=
  sumOf (s.peers.map fun x =>
    if x.2.role = role ∧ x.2.stale = false ∧ x.2.severity ≠ .failed ∧ x.2.mains.m2 = true then
      sumOf (x.2.records.map adds)
    else 0)

/-- The measured heat out of an OFFER record on main 2 whose fuel mode is one of some. -/
def measuredOn (fuels : List FuelField) : MainRecord → Nat
  | .offer n _ measured fuel => if n = .m2 ∧ fuel ∈ fuels then measured else 0
  | .want _ _ _ _ _ => 0
  | .holder _ _ _ => 0

/-- The offer of an OFFER record on a main. -/
def offeredOn (m : Main) : MainRecord → Nat
  | .offer n offer _ _ => if n = m then offer else 0
  | .want _ _ _ _ _ => 0
  | .holder _ _ _ => 0

/-- The purchased fraction is the one the Peer Table gives as it stands, with its two sums: BOILERs on BACKUP or
CHANGEOVER in both, BOILERs on GAS and PRODUCERs in the total (R31, R139). -/
def fractionOfTable (s : State) : Prop :=
  let hb := heatOfRole .boiler (measuredOn [.backup, .changeover]) s
  let ht := hb + heatOfRole .boiler (measuredOn [.gas]) s + heatOfRole .producer (offeredOn .m2) s
  s.mu.heatBackup = hb ∧ s.mu.heatTotal = ht ∧ s.mu.fraction = if ht = 0 then 0 else 1000 * hb / ht

/-- An entry of role EXPORT TIE that is FRESH and not FAILED (R32). -/
def tieInForce (e : PeerEntry) : Prop := e.role = .exportTie ∧ e.stale = false ∧ e.severity ≠ .failed

/-- The gap used is that of the freshest tie in force, of equal ages the one of lowest node number, and 0 where
none is (R32). -/
def freshestGapUsed (s : State) : Prop :=
  ((∀ x ∈ s.peers, ¬tieInForce x.2) → s.turbine.gapUsed = 0) ∧
  (∀ x ∈ s.peers, ∀ gap, tieInForce x.2 → x.2.extras = .tie gap →
    (∀ y ∈ s.peers, tieInForce y.2 → x.2.age < y.2.age ∨ (x.2.age = y.2.age ∧ x.1 ≤ y.1)) →
    s.turbine.gapUsed = gap)

/-- The gap used is the one the model finds in the table, a tie without extras passed over: what R32 leaves open,
notes/assumptions/35.md. -/
def gapOfTable (s : State) : Prop := s.turbine.gapUsed = gapUsed s.peers

/-- The capacity an entry adds: role TURBINE, FRESH, ACTIVE, not FAILED, from its extras (R32). -/
def capacityAdded (e : PeerEntry) : Nat :=
  if e.role = .turbine ∧ e.stale = false ∧ e.mode = .active ∧ e.severity ≠ .failed then
    match e.extras with
    | .turbine k => k
    | .none | .tie _ => 0
  else 0

/-- The turbine's share and base want are those the Peer Table gives as it stands, a table whose numbers rise
(R32, R133). -/
def turbineOfTable (s : State) : Prop :=
  let k := s.mc.config.electricCapacity
  let u := s.turbine
  (risingKeys (s.peers.map Prod.fst) → freshestGapUsed s) ∧
  u.capacitySum = k + sumOf (s.peers.map fun x => capacityAdded x.2) ∧
  u.share = Nat.min (u.gapUsed * k / u.capacitySum) k ∧
  u.baseMax = k * s.mc.config.steamRate / 1000 ∧
  u.baseMin = Nat.min ((u.share * s.mc.config.steamRate + 999) / 1000) u.baseMax

/-- An event of an entry reaches the block whose computation it changes, and no other's values move (R32): of a
BOILER or PRODUCER with main 2 the Metering Unit of a TOWNHEAT, of an EXPORT TIE or TURBINE the Export Unit of a
TURBINE. -/
structure ReportedFor (e : PeerEntry) (s t : State) : Prop where
  fraction : s.mc.config.role = some .townheat → (e.role = .boiler ∨ e.role = .producer) → e.mains.m2 = true →
    fractionOfTable t
  turbine : s.mc.config.role = some .turbine → (e.role = .exportTie ∨ e.role = .turbine) → turbineOfTable t
  noFraction : (s.mc.config.role ≠ some .townheat ∨ (e.role ≠ .boiler ∧ e.role ≠ .producer) ∨ e.mains.m2 = false) →
    t.mu = s.mu
  noTurbine : (s.mc.config.role ≠ some .turbine ∨ (e.role ≠ .exportTie ∧ e.role ≠ .turbine)) →
    t.turbine = s.turbine

/-! ### What a ladder is handed -/

/-- The ladder of a line resamples its OR at a command: DWELL_EXPIRY in DWELL, UNDO_DWELL_EXPIRY in UNDO DWELL, its
dwell expired (R100, R101). -/
def Resamples (c : Instr) (l : ClaimLine) (s : State) : Prop :=
  (s.rl.get l).dwell = some 0 ∧
    ((s.rl.get l).state = .dwell ∧ c = .dwellExpiry l ∨ (s.rl.get l).state = .undoDwell ∧ c = .undoDwellExpiry l)

/-- A line rises at a command and its ladder is told, `u` the state before it is: an ASSERT from a PRESENT sender
meets an empty source set, and the line is open or its ladder not IDLE (R28, R75, R81). On a wake line the CLAIM
RISE is latched (R177). The two standbys, where it may wake the station, are not here. -/
def RisesAt (c : Instr) (l : ClaimLine) (s u : State) : Prop :=
  c = .claimDelivered ∧ (s.cu.get l).sources = [] ∧
  (s.mc.mode = .listenIn ∨ s.mc.mode = .active ∨ s.mc.mode = .leaving) ∧
  ((s.mc.config.lines.get l).masked = false ∧ s.mc.mode ≠ .listenIn ∨ (s.rl.get l).state ≠ .idle) ∧
  ∃ f rest e, s.liu.rx = f :: rest ∧ f.kind = .claim ∧ readClaim f.payload = some (l, .assert) ∧
    assocGet f.sender s.peers = some e ∧
    u = { s with
      liu := { s.liu with rx := rest }
      peers := assocPut f.sender { e with claims := e.claims.set l true } s.peers
      cu := s.cu.set l { s.cu.get l with sources := [f.sender] }
      mc := { s.mc with latch :=
        if s.mc.config.wakeSet.get l then { s.mc.latch with claimRise := s.mc.latch.claimRise.set l true }
        else s.mc.latch } }

/-- A line falls at a command and its ladder is told, `u` the state before it is: its one member releases it by a
CLAIM, or is removed by its LEAVE or by its age, on no other line and at a station to whose blocks no removal is
reported (R21, R27, R28, R29, R75, R81). -/
def FallsAt (c : Instr) (l : ClaimLine) (s u : State) : Prop :=
  ∃ n e, (s.cu.get l).sources = [n] ∧ assocGet n s.peers = some e ∧
    let fallen := fun (rx : List Frame) (peers : List (Nat × PeerEntry)) => { s with
      liu := { s.liu with rx := rx }, peers := peers
      cu := s.cu.set l { s.cu.get l with sources := [], pending := false } }
    ((c = .claimDelivered ∧ ∃ f rest, s.liu.rx = f :: rest ∧ f.sender = n ∧ f.kind = .claim ∧
        readClaim f.payload = some (l, .release) ∧
        u = fallen rest (assocPut n { e with claims := e.claims.set l false } s.peers)) ∨
      (∀ k, k ≠ l → n ∉ (s.cu.get k).sources) ∧
        s.mc.config.role ≠ some .townheat ∧ s.mc.config.role ≠ some .turbine ∧
        ((c = .leaveDelivered ∧ ∃ f rest, s.liu.rx = f :: rest ∧ f.sender = n ∧ f.kind = .leave ∧
            u = fallen rest (assocErase n s.peers)) ∨
          ∃ node : Node, c = .entryGoesAbsent node ∧ node.val = n ∧ 8 * e.period < e.age ∧
            u = fallen s.liu.rx (assocErase n s.peers)))

/-- The ladder of a line takes its next step from the state `u`: a rise is handed to it in IDLE, or it resamples an
asserted OR (R98, R100, R101). -/
def TakesFrom (c : Instr) (l : ClaimLine) (s u : State) : Prop :=
  RisesAt c l s u ∧ (s.rl.get l).state = .idle ∨ Resamples c l s ∧ (s.cu.get l).sources ≠ [] ∧ u = s

/-- The ladder of a line undoes its highest step from the state `u`: a fall is handed to it in TOP, or it resamples a
released OR (R100, R101). -/
def UndoesFrom (c : Instr) (l : ClaimLine) (s u : State) : Prop :=
  FallsAt c l s u ∧ (s.rl.get l).state = .top ∨ Resamples c l s ∧ (s.cu.get l).sources = [] ∧ u = s

/-! ### Entry to ACTIVE -/

/-- The ladder of a line is started at an entry to ACTIVE, with a step: the line is pending and configured OPEN, its OR
asserted, its ladder IDLE, and the step is the one its taken count names, step 0 of an IDLE ladder (R85, R93, R98). -/
def StartsAtEntry (l : ClaimLine) (st : Step) (s : State) : Prop :=
  (s.cu.get l).pending = true ∧ (s.mc.config.lines.get l).masked = false ∧ (s.cu.get l).sources ≠ [] ∧
    (s.rl.get l).state = .idle ∧ (ladderSteps l s)[(s.rl.get l).taken]? = some st

/-- No ladder started at an entry to ACTIVE has an action of some kind as its step. -/
def NoneStarts (kind : Action → Bool) (s : State) : Prop := ∀ l st, StartsAtEntry l st s → kind st.action = false

def isFuelStep (a : Action) : Bool := a == .fuelBackup || a == .fuelGas
def isFlareStep (a : Action) : Bool := a == .flareStep
def isWakeStep (a : Action) : Bool := match a with
  | .wake _ => true
  | .none | .fuelBackup | .fuelGas | .raise _ | .shed | .flareStep => false

/-- An entry to ACTIVE, `s` the state before it and `t` after: the wake latch is cleared (R174, R177), the round count
is 0 (R37), the pending flag of each open line is cleared, and each ladder that starts has taken its step (R85, R98):
one whose action completes at once dwells, a fuel or flare step waits for its block or dwells. A ladder not started
stands, but that a fuel step started may supersede one whose action is in flight (R109). Grants come down with the want,
the output but in fallback too (R47, R48, R53). What the started steps do not ask for stands. -/
structure EntersActive (s t : State) : Prop where
  modes : t.mc = { s.mc with mode := .active, latch := ⟨false, false, Six.all false⟩ }
  lines : ∀ l, t.cu.get l =
    { s.cu.get l with pending := (s.cu.get l).pending && (s.mc.config.lines.get l).masked }
  startedAtOnce : ∀ l st, StartsAtEntry l st s → isFuelStep st.action = false → isFlareStep st.action = false →
    t.rl.get l = ⟨.dwell, (s.rl.get l).taken + 1, some st.dwell, some .completed⟩
  startedAsked : ∀ l st, StartsAtEntry l st s → isFuelStep st.action = true ∨ isFlareStep st.action = true →
    (t.rl.get l).taken = (s.rl.get l).taken + 1 ∧
      ((t.rl.get l).state = .stepping ∧ (t.rl.get l).dwell = none ∨
        (t.rl.get l).state = .dwell ∧ (t.rl.get l).dwell = some st.dwell)
  notStarted : ∀ l, (∀ st, ¬StartsAtEntry l st s) →
    ((s.rl.get l).state ≠ .stepping ∧ (s.rl.get l).state ≠ .undoInFlight ∨ NoneStarts isFuelStep s) →
    t.rl.get l = s.rl.get l
  share : t.se = { s.se with
    roundCount := 0, grant := t.se.grant, minGrant := t.se.minGrant, setpoint := t.se.setpoint }
  lowered : t.se.grant ≤ s.se.grant ∧ t.se.minGrant ≤ s.se.minGrant ∧ t.se.setpoint ≤ s.se.setpoint ∧
    (s.se.fallback = true → t.se.setpoint = s.se.setpoint)
  fuel : t.fu.lastReported = s.fu.lastReported ∧ (NoneStarts isFuelStep s → t.fu = s.fu)
  holder : t.hu = { s.hu with move := t.hu.move, waiting := t.hu.waiting } ∧ (NoneStarts isFlareStep s → t.hu = s.hu)
  line : t.liu = { s.liu with tx := t.liu.tx } ∧ (NoneStarts isWakeStep s → t.liu = s.liu)
  port : t.fp = { s.fp with out := t.fp.out } ∧
    (NoneStarts isFuelStep s → NoneStarts isFlareStep s → s.se.fallback = true → t.fp = s.fp)
  others : t.peers = s.peers ∧ t.tie = s.tie ∧ t.turbine = s.turbine ∧ t.mu = s.mu ∧ t.dc = s.dc ∧ t.rs = s.rs ∧
    t.pending = s.pending

/-! ### The SETPOINTs of the share -/

/-- What a fallen want lowers (R48): grant and minimum grant come down to the effective want, the output to the
grant but in fallback. A station without a want main holds none. -/
def LoweredToWant (s t : State) : Prop :=
  (wantMain s.mc.config = none → t.se = s.se) ∧
  (wantMain s.mc.config ≠ none →
    t.se = { s.se with
      grant := Nat.min s.se.grant (effectiveWant t).2
      minGrant := Nat.min s.se.minGrant (effectiveWant t).1
      setpoint := if s.se.fallback then s.se.setpoint
        else Nat.min s.se.setpoint (Nat.min s.se.grant (effectiveWant t).2) })

/-- The SETPOINT of R48: one with the new output where it has come down, else none. -/
def setpointSent (s t : State) : List FieldOut :=
  match wantMain s.mc.config with
  | some m => if t.se.setpoint < s.se.setpoint then [.setpoint m t.se.setpoint] else []
  | none => []

/-- The SETPOINT of an entry to fallback: one with the fallback setpoint of the want main (R52). -/
def fallbackSent (c : StationConfig) : List FieldOut :=
  match wantMain c with
  | some m => [.setpoint m c.fallbackSetpoint]
  | none => []

/-! ### Entry to LISTEN-IN -/

/-- An entry to LISTEN-IN, `s` the state before it and `t` after: the HELLO is queued, the round timer is at the period
and the count 0 (R36, R37, R174), the output is at fallback, its SETPOINT sent (R52), no NODE STATUS timer runs (R170),
and an asserted line with its ladder IDLE is pending (R83). The grants come down with the want (R48). All else stands,
a latched cause too (R177). -/
structure EntersListenIn (s t : State) : Prop where
  modes : t.mc = { s.mc with mode := .listenIn }
  hello : s.liu.tx.length < 4 → t.liu = { s.liu with tx := s.liu.tx ++
    [⟨.hello s.mc.config.role (mainsByte (stationMains s.mc.config)) s.mc.config.period s.mc.config.tag, 0, none,
      false⟩] }
  share : t.se = { s.se with
    roundTimer := some s.mc.config.period, roundCount := 0, fallback := true
    setpoint := if wantMain s.mc.config = none then s.se.setpoint else s.mc.config.fallbackSetpoint
    grant := t.se.grant, minGrant := t.se.minGrant }
  lowered : t.se.grant ≤ s.se.grant ∧ t.se.minGrant ≤ s.se.minGrant
  lines : ∀ l, (t.cu.get l).own = (s.cu.get l).own ∧ (t.cu.get l).sources = (s.cu.get l).sources ∧
    ((t.cu.get l).pending = true ↔
      (s.cu.get l).pending = true ∨ (s.cu.get l).sources ≠ [] ∧ (s.rl.get l).state = .idle)
  port : t.fp = { s.fp with statusTimer := none, out := s.fp.out ++ fallbackSent s.mc.config }
  others : t.peers = s.peers ∧ t.hu = s.hu ∧ t.rl = s.rl ∧ t.fu = s.fu ∧ t.tie = s.tie ∧ t.turbine = s.turbine ∧
    t.mu = s.mu ∧ t.dc = s.dc ∧ t.rs = s.rs ∧ t.pending = s.pending

/-! ### Standby taking effect -/

/-- The Mode Controller after a standby request has taken effect: the mode, the outcome TAKEN, no request waiting, and
the latch emptied where the clear-wake option asks for it (R176 steps 1 to 3). -/
def standbyTaken (mode : Mode) (clear : Bool) (mc : ModeController) : ModeController :=
  { mc with
    mode := mode, lastStandby := .taken, waitingRequest := none
    latch := if clear then ⟨false, false, Six.all false⟩ else mc.latch }

/-- The Fuel Unit after every ladder is cleared: each request is withdrawn, so that no ladder is joined to the changeover
in flight, which goes on, and a recorded target, left without a requester, is cancelled (R103, R113). -/
def fuelWithdrawn (fu : FuelUnit) : FuelUnit :=
  { fu with flight := fu.flight.map fun c => { c with joined := [] }, recorded := none }

/-- A line's source set once the own claims of the Share Engine are released (R57, R76). -/
def sourcesReleased (l : ClaimLine) (s : State) : List Nat :=
  if l ∈ engineLines s.mc.config ∧ (s.cu.get l).own = true then setRemove s.mc.node.val (s.cu.get l).sources
  else (s.cu.get l).sources

/-- The release of an own claim would have a ladder at TOP undo its step, unless the ladders are cleared before it: the
order is free, notes/assumptions/9.md. -/
def ReleaseMayUndo (s : State) : Prop :=
  ∃ l ∈ engineLines s.mc.config, (s.cu.get l).own = true ∧ (s.cu.get l).sources = [s.mc.node.val] ∧
    (s.rl.get l).state = .top

/-- STANDBY-LISTEN has taken effect at a round expiry, `s` the state before it and `u` after the entry and round 1 of
the mode, before the latch is looked at (R176): want, grant and output at standby and fallback (R47, R49, R52), the
SETPOINT sent at the entry and at the round, own claims released (R57), every ladder IDLE (R103), an asserted line
pending, a line that the release made fall not (R83, R84), every request withdrawn from the Fuel Unit, the changeover
in flight kept (R113). The round computes its results and asks for a STATE, and NODE STATUS is sent last (R37, R38).
Where the release may undo a step at TOP, what that undo does to fuel, flare and messages is left open. -/
structure ListenStandbyEntered (clear : Bool) (s u : State) : Prop where
  modes : u.mc = standbyTaken .standbyListen clear s.mc
  share : u.se = { s.se with
    roundTimer := some s.mc.config.period, roundCount := 1, fallback := true, shortfallCount := 0, excessCount := 0
    setpoint := if wantMain s.mc.config = none then s.se.setpoint else s.mc.config.fallbackSetpoint
    grant := if wantMain s.mc.config = none then s.se.grant else 0
    minGrant := if wantMain s.mc.config = none then s.se.minGrant else 0
    results := u.se.results }
  results : ∀ m, m ∈ computedMains s.mc.config → u.se.results.get m = mainResult m (snapshot u)
  lines : ∀ l, ((u.cu.get l).own = true ↔ (s.cu.get l).own = true ∧ l ∉ engineLines s.mc.config) ∧
    (u.cu.get l).sources = sourcesReleased l s ∧
    ((u.cu.get l).pending = true ↔
      sourcesReleased l s ≠ [] ∨ (s.cu.get l).sources = [] ∧ (s.cu.get l).pending = true)
  ladders : ∀ l, (u.rl.get l).state = .idle ∧ (u.rl.get l).taken = 0 ∧ (u.rl.get l).dwell = none
  fuel : u.fu.recorded = none ∧ u.fu.lastReported = s.fu.lastReported ∧
    ∀ c, s.fu.flight = some c → u.fu.flight = some { c with joined := [] } ∧ u.fu.mode = s.fu.mode
  line : u.liu = { s.liu with tx := u.liu.tx } ∧ ∀ r, s.mc.config.role = some r → s.liu.tx = [] →
    u.liu.tx = ((engineLines s.mc.config).filter fun l => (s.cu.get l).own).map
        (fun l => ⟨.claim l .release, 0, none, false⟩) ++
      [⟨.state r s.mc.config.period (ownRecords u) (ownExtras u), 0, none, false⟩]
  port : u.fp = { s.fp with out := u.fp.out } ∧
    ∃ between, u.fp.out = s.fp.out ++ fallbackSent s.mc.config ++ between ++ fallbackSent s.mc.config ++
      [.nodeStatus (nodeStatus u)] ∧ (¬ReleaseMayUndo s → between = [])
  settled : ¬ReleaseMayUndo s → u.fu = fuelWithdrawn s.fu ∧ u.hu = s.hu ∧
    ∀ l, (u.rl.get l).outcome = (s.rl.get l).outcome
  others : u.peers = s.peers ∧ u.tie = s.tie ∧ u.turbine = s.turbine ∧ u.mu = s.mu ∧ u.dc = s.dc ∧ u.rs = s.rs ∧
    u.pending = s.pending

/-- STANDBY-DEEP has taken effect, `s` the state before it and `u` after the entry, before the latch is looked at
(R176): every waiting entry is gone and the LEAVE queued, behind an entry being sent, which is not to be retried; the
receive queue, a WAKE in it too (notes/assumptions/54.md), the Peer Table and the claim lines are empty (R17, R34,
R88), the Share Engine is at rest (R59), the
output at fallback (R52), every ladder IDLE with its request withdrawn (R103, R113); NODE STATUS is sent and its timer
runs (R170). -/
structure DeepStandbyEntered (clear : Bool) (s u : State) : Prop where
  modes : u.mc = standbyTaken .standbyDeep clear s.mc
  line : u.liu = { s.liu with rx := [], tx := u.liu.tx }
  allWaiting : (∀ e ∈ s.liu.tx, e.sending = none) → u.liu.tx = [⟨.leave .deepStandby, 0, none, false⟩]
  oneSending : ∀ pre e post, s.liu.tx = pre ++ e :: post → (∀ x ∈ pre ++ post, x.sending = none) →
    e.sending ≠ none → u.liu.tx = [{ e with noRetry := true }, ⟨.leave .deepStandby, 0, none, false⟩]
  share : u.se = { s.se with
    roundTimer := none, roundCount := 0, fallback := true, shortfallCount := 0, excessCount := 0
    setpoint := if wantMain s.mc.config = none then s.se.setpoint else s.mc.config.fallbackSetpoint
    grant := 0, minGrant := 0, results := u.se.results }
  results : ∀ m, u.se.results.get m = ⟨0, none, 0, 0⟩
  lines : ∀ l, u.cu.get l = ⟨false, [], false⟩
  ladders : ∀ l, u.rl.get l = ⟨.idle, 0, none, (s.rl.get l).outcome⟩
  fuel : u.fu = fuelWithdrawn s.fu
  port : u.fp = { s.fp with
    statusTimer := some 10
    out := s.fp.out ++ fallbackSent s.mc.config ++ [.nodeStatus (nodeStatus u)] }
  others : u.peers = [] ∧ u.hu = s.hu ∧ u.tie = s.tie ∧ u.turbine = s.turbine ∧ u.mu = s.mu ∧ u.dc = s.dc ∧
    u.rs = { s.rs with slotA := u.rs.slotA, slotB := u.rs.slotB } ∧ u.pending = s.pending

/-! ### The metering second -/

/-- What a metering second does outside the accounting: every timer counted in metering seconds is one second
on, the peer entries are one second older, and nothing else changes (R29, R151). Of the Day Clock it says what
no step and no hold touches. -/
structure SecondFrame (s t : State) : Prop where
  line : t.liu = { s.liu with clash := tick s.liu.clash }
  peers : t.peers = s.peers.map fun x => (x.1, { x.2 with age := Nat.min (x.2.age + 1) 255 })
  share : t.se = { s.se with roundTimer := tick s.se.roundTimer }
  holder : t.hu = { s.hu with
    levelTimer := tick s.hu.levelTimer
    move := s.hu.move.map fun m => { m with timer := m.timer - 1 } }
  claims : t.cu = s.cu
  ladders : ∀ l, t.rl.get l = { s.rl.get l with dwell := tick (s.rl.get l).dwell }
  fuel : t.fu = { s.fu with flight := s.fu.flight.map fun c => { c with timer := c.timer - 1 } }
  turbine : t.turbine = s.turbine
  clock : t.dc.quality = s.dc.quality ∧ t.dc.trim = s.dc.trim ∧ t.dc.resetTime = s.dc.resetTime ∧
    t.dc.syncTimer = tick s.dc.syncTimer ∧ t.dc.timeTimer = tick s.dc.timeTimer
  port : t.fp = { s.fp with linkTimer := tick s.fp.linkTimer, statusTimer := tick s.fp.statusTimer }
  modes : t.mc = { s.mc with
    helloTimer := tick s.mc.helloTimer, readyTimer := tick s.mc.readyTimer
    returnTimer := tick s.mc.returnTimer }
  queue : t.pending = s.pending

/-- The energy of the second that ends in centijoules: flow by temperature difference by 419, and 0 where the second is
missing or reverse (R138). -/
def energyOfSecond (s : State) : Nat :=
  match s.mu.held with
  | none => 0
  | some x => x.flow * (x.supply - x.return_) * 419

/-- A second of energy integrated into an interval `i`, `j` the interval after it (R138, R140): the energy is split by
the purchased fraction, whole kWh pass from the remainders to the counts and nothing is lost; the missing, reverse and
over-range counts take their second, to 65535 at most; the lowest quality is kept. The minute, the peak and the flags
are not said here. -/
structure SecondIntegrated (i j : Interval) (s t : State) : Prop where
  now : t.mu.openInterval = some j
  purchased : j.purchased * 360000000 + t.mu.purchRem =
    i.purchased * 360000000 + s.mu.purchRem + energyOfSecond s * s.mu.fraction / 1000
  whole : j.works * 360000000 + t.mu.worksRem + (j.purchased * 360000000 + t.mu.purchRem) =
    i.works * 360000000 + s.mu.worksRem + (i.purchased * 360000000 + s.mu.purchRem) + energyOfSecond s
  remainders : t.mu.worksRem < 360000000 ∧ t.mu.purchRem < 360000000
  sample : t.mu.held = none
  missing : j.missing = if s.mu.held = none then Nat.min (i.missing + 1) 65535 else i.missing
  reverse : j.reverse = match s.mu.held with
    | none => i.reverse
    | some x => if x.supply ≤ x.return_ then Nat.min (i.reverse + 1) 65535 else i.reverse
  overRange : j.overRange = match s.mu.held with
    | none => i.overRange
    | some x => if x.overRange then Nat.min (i.overRange + 1) 65535 else i.overRange
  quality : j.quality = lowerQuality i.quality s.dc.quality
  kept : j.start = i.start ∧ j.planned = i.planned ∧ j.band = i.band
  others : t.mu.fraction = s.mu.fraction ∧ t.mu.heatBackup = s.mu.heatBackup ∧ t.mu.heatTotal = s.mu.heatTotal ∧
    t.mu.demand = s.mu.demand ∧ t.rs = s.rs ∧ t.tie = s.tie ∧ t.dc.spanStart = s.dc.spanStart

/-- A held second is counted toward the checks of the hold, `n` those counted before it: the 60th and the one at which
the hold ends make a check due, and the count begins again (R141). -/
def HeldSecondCounted (n : Nat) (ends : Prop) (s t : State) : Prop :=
  (n + 1 < 60 → ¬ends → t.mu.heldSeconds = n + 1 ∧ t.mu.holdCheckDue = s.mu.holdCheckDue) ∧
  (60 ≤ n + 1 ∨ ends → t.mu.heldSeconds = 0 ∧ t.mu.holdCheckDue = true)

/-- The gap of a period at a position: 0 where E has reached C, and otherwise the power that delivers the rest in the
time left, rounded up and at most 20000 SU (R125). -/
def GapAt (p : Period) (now : TimePos) (gap : Nat) : Prop :=
  let left := posNumber p.start + p.planned - posNumber now
  ((p.energyC : Int) ≤ p.energyE → gap = 0) ∧
  (p.energyE < p.energyC → ∃ g : Nat,
    (p.energyC - p.energyE) * 36 ≤ (g : Int) * left ∧ (g : Int) * left < (p.energyC - p.energyE) * 36 + left ∧
    gap = Nat.min g 20000)

/-- A second of an open settlement period, its flags changed or not: it is missing without a sample, the mark is
cleared, the lowest quality kept, E, C and P stand, and the gap is that of the position (R124, R125). -/
structure TieSecondCounted (p : Period) (flags : RecordFlags) (now : TimePos) (s t : State) : Prop where
  tie : t.tie = { s.tie with
    openPeriod := some { p with
      missing := if s.tie.mark then p.missing else Nat.min (p.missing + 1) 65535
      quality := lowerQuality p.quality s.dc.quality, flags := flags }
    mark := false
    gap := t.tie.gap }
  gap : GapAt p now t.tie.gap
  others : t.rs = s.rs ∧ t.mu = { s.mu with heldSeconds := t.mu.heldSeconds } ∧ t.dc.spanStart = s.dc.spanStart

/-- A pending time is clamped at the next metering second, to a point: it lies before the span start with no hold, or
before the clamp point of the hold that stands (R157). -/
def ClampsTo (point f : TimePos) (s : State) : Prop :=
  s.dc.pendingStep = some f ∧ posNumber f < posNumber point ∧
    (s.dc.hold = none ∧ s.dc.spanStart = some point ∨ ∃ h, s.dc.hold = some h ∧ h.point = point)

/-- The metering second is a held one, the value standing at the clamp point, and whether the hold ends at it: with no
time adopted it ends as the reference time reaches the point, with one adopted at the point or after it, at once
(R157; notes/assumptions/18.md). -/
def HeldAt (ends : Prop) (s : State) : Prop :=
  ∃ h, s.dc.hold = some h ∧
    (s.dc.pendingStep = none ∧ (ends ↔ posNumber h.point ≤ posNumber (nextSecond h.reference)) ∨
      ∃ f, s.dc.pendingStep = some f ∧ posNumber h.point ≤ posNumber f ∧ ends)

/-! ### A read slot's answer -/

/-- The first answer of a READ for `q` over a store, `x` the slot that asks and `y` as it is settled (R166). A held `q`
below the oldest retained number is answered TRIMMED: notes/assumptions/21.md. -/
structure FirstAnswered (q : Nat) (rs : RecordUnit) (x y : ReadSlot) : Prop where
  nothing : (∀ n ∈ retainedNumbers rs ++ heldNumbers rs, n < q) → y = { x with
    next := q, left := 1, status := .none, waiting := false }
  trimmed : ∀ o, oldestRetained rs = some o → q < o → y = { x with next := o, status := .trimmed, waiting := false }
  waits : (∀ o, oldestRetained rs = some o → o ≤ q) → q ∈ heldNumbers rs → rs.inFlight = true →
    y = { x with next := q, waiting := true }
  served : (∀ o, oldestRetained rs = some o → o ≤ q) → (q ∉ heldNumbers rs ∨ rs.inFlight = false) →
    ∀ n ∈ retainedNumbers rs ++ heldNumbers rs, q ≤ n →
      (∀ k ∈ retainedNumbers rs ++ heldNumbers rs, q ≤ k → n ≤ k) →
      y = { x with next := n, status := .ok, waiting := false }

/-- An answer goes on after record `m` over a store, `x` the slot with what is left to send and `y` what becomes of it
(R167). That numbers overwritten meanwhile are seen by the number after `m` is notes/assumptions/21.md. -/
structure GoesOn (m : Nat) (rs : RecordUnit) (x : ReadSlot) (y : Option ReadSlot) : Prop where
  free : (∀ n ∈ retainedNumbers rs ++ heldNumbers rs, n ≤ m) → y = none
  trimmed : ∀ o, oldestRetained rs = some o → m + 1 < o →
    y = some { x with next := o, status := .trimmed, waiting := false, lastSent := some m }
  next : (∀ o, oldestRetained rs = some o → o ≤ m + 1) → ∀ n ∈ retainedNumbers rs ++ heldNumbers rs, m < n →
    (∀ k ∈ retainedNumbers rs ++ heldNumbers rs, m < k → n ≤ k) →
    (n ∈ heldNumbers rs → rs.inFlight = true →
      y = some { x with next := n, waiting := true, lastSent := some m }) ∧
    (n ∉ heldNumbers rs ∨ rs.inFlight = false →
      y = some { x with next := n, status := .ok, waiting := false, lastSent := some m })

/-- The read slots at the end of a commit, `rs` the store before it and `after` the store after it: a slot that does
not wait stands, and one that waits looks again (R166, R167). -/
structure LookedAgain (rs after : RecordUnit) : Prop where
  free : ∀ i, getSlot i rs = none → getSlot i after = none
  others : ∀ i sl, getSlot i rs = some sl → sl.waiting = false → getSlot i after = some sl
  first : ∀ i sl, getSlot i rs = some sl → sl.waiting = true → sl.lastSent = none →
    ∃ y, getSlot i after = some y ∧ FirstAnswered sl.next after sl y
  onward : ∀ i sl m, getSlot i rs = some sl → sl.waiting = true → sl.lastSent = some m →
    GoesOn m after sl (getSlot i after)

/-! ### Flare moves -/

/-- A valid sample of a level takes a holder into band FLARE: the first at or above every threshold (R61), a later one
at or above the boundary of FLARE plus 20, from any band below (R62). -/
def EntersFlare (level : Nat) (s : State) : Prop :=
  let c := s.mc.config
  s.hu.band = .none ∧ c.t1 ≤ level ∧ c.t2 ≤ level ∧ c.t3 ≤ level ∧ c.t4 ≤ level ∨
    s.hu.band ≠ .none ∧ s.hu.band ≠ .flare ∧ c.t4 + 20 ≤ level

/-- The positions of the FLARE COMMANDs among the messages sent. -/
def flareCommands (out : List FieldOut) : List Nat := out.filterMap fun x =>
  match x with
  | .flareCommand p => some p
  | .setpoint _ _ | .fuelCommand _ | .resetReady | .nodeStatus _ => none

/-- The ladder whose request a flare move was has its take or undo completed with an outcome, and dwells; every other
ladder stands (R68 to R70, R99). -/
structure LadderToldOf (m : FlareMove) (o : ActionOutcome) (s t : State) : Prop where
  took : ∀ r, m.requester = some r → (s.rl.get r.line).state = .stepping →
    (t.rl.get r.line).state = .dwell ∧ (t.rl.get r.line).outcome = some o
  undid : ∀ r, m.requester = some r → (s.rl.get r.line).state = .undoInFlight →
    (t.rl.get r.line).state = .undoDwell ∧ (t.rl.get r.line).outcome = some o
  others : ∀ l, (∀ r, m.requester = some r → r.line ≠ l) → t.rl.get l = s.rl.get l

/-- The end of a flare move leaves the move that follows it, or none, at the position of its target; every request
that waits stands. -/
structure FlareEnded (m : FlareMove) (move : Option FlareMove) (s t : State) : Prop where
  holder : t.hu = { s.hu with position := some m.target, move := move }
  others : t.liu = s.liu ∧ t.peers = s.peers ∧ t.se = s.se ∧ t.cu = s.cu ∧ t.fu = s.fu ∧ t.tie = s.tie ∧
    t.mu = s.mu ∧ t.dc = s.dc ∧ t.rs = s.rs ∧ t.pending = s.pending

/-- A flare move completed by report, with the move that follows it and the messages that move sends (R68). -/
structure FlareReported (m : FlareMove) (move : Option FlareMove) (sent : List FieldOut) (s t : State) : Prop where
  ended : FlareEnded m move s t
  told : LadderToldOf m .completed s t
  port : t.fp = { s.fp with link := .up, linkTimer := some 10, out := s.fp.out ++ sent }
  faults : t.mc = { s.mc with
    faults := s.mc.faults.filter fun x => x.kind != .fieldLinkLost && x.kind != .flareTimeout }

/-- A flare move completed by its timer, with the move that follows it and the messages that move sends (R69). -/
structure FlareTimedOut (m : FlareMove) (move : Option FlareMove) (sent : List FieldOut) (s t : State) : Prop where
  ended : FlareEnded m move s t
  told : LadderToldOf m .timedOut s t
  port : t.fp = { s.fp with out := s.fp.out ++ sent }
  faults : t.mc = { s.mc with faults := faultsRaised .flareTimeout s.dc.time s.mc.faults }

end Sys2Proof.Machine
end

