-- ==== Sys2Proof/Certificates/Slice0/Obligations.lean ====
section
/-! DEFINITION. The statements for the provers, each from numbered rules of spec/ or from the model's own laws. -/

open Sys2Proof Sys2Proof.Machine

/-! ### The queue, resets and the end of LOADING -/

/-- Every step takes the command at the front of the queue and is that command's effect on the rest. With no
command waiting the block idles, the model's own choice: notes/assumptions/3.md. -/
def Obligations.StepRunsFrontCommand : Prop :=
  (∀ (c : Instr) (rest : List Instr) (s : State), s.pending = c :: rest →
     step s = exec c { s with pending := rest }) ∧
  (∀ s : State, s.pending = [] → step s = .next s)

/-- The state after reset and the two resets in any state. A power-on leaves, block by block, the values the
spec gives (R18, R33, R59, R73, R88, R104, R117, R131, R148, R159, R169, R171, R173). POWER_ON_RESET in any
state leaves every block at its reset values, but the nonvolatile slots and sequence numbers of the store
(R169) and the strap and SUPPLY LOW inputs (notes/assumptions/6.md); cause POWER-ON, mode LOADING. PIN_RESET:
the cause follows the warning mark (R173); kept are the remembered tag (R172), the tie's schedule slots and
open period (R131), the interval, remainders and minute accumulator (R148), the time value and, lowered to
FREE, its quality (R159), the store with its hold queue, the commit cut off (R161, R169). The time value at
the reset, from which a kept span counts its missing seconds, is notes/assumptions/23.md; that the gap is 0
until the end of LOADING, notes/assumptions/26.md. That no backoff wait runs and that the sums behind the
purchased fraction are 0 is notes/assumptions/6.md. The messages sent, the free values and the queue are the
model's own. -/
def Obligations.ResetsSetEveryBlock : Prop :=
  ((State.reset.liu.tx = [] ∧ State.reset.liu.rx = [] ∧ State.reset.liu.drops = 0 ∧
     State.reset.liu.backoff = none ∧ State.reset.liu.clash = none ∧
     ∀ l, State.reset.liu.lastEdge.get l = .release) ∧
   State.reset.peers = [] ∧
   (State.reset.se.roundTimer = none ∧ State.reset.se.roundCount = 0 ∧ State.reset.se.grant = 0 ∧
     State.reset.se.minGrant = 0 ∧ State.reset.se.shortfallCount = 0 ∧ State.reset.se.excessCount = 0 ∧
     State.reset.se.capability = none ∧ State.reset.se.measured = none ∧ State.reset.se.fallback = true ∧
     ∀ m, State.reset.se.results.get m = ⟨0, none, 0, 0⟩) ∧
   State.reset.hu = ⟨0, .none, none, none, none, []⟩ ∧
   (∀ l, State.reset.cu.get l = ⟨false, [], false⟩) ∧
   (∀ l, State.reset.rl.get l = ⟨.idle, 0, none, none⟩) ∧
   State.reset.fu = ⟨.unknown, none, none, none⟩ ∧
   State.reset.tie = ⟨none, none, none, false, 0, .none, none⟩ ∧
   (State.reset.turbine.baseMin = 0 ∧ State.reset.turbine.baseMax = 0) ∧
   (State.reset.mu.demand = none ∧ State.reset.mu.held = none ∧ State.reset.mu.fraction = 0 ∧
     State.reset.mu.worksRem = 0 ∧ State.reset.mu.purchRem = 0 ∧ State.reset.mu.minuteAcc = 0 ∧
     State.reset.mu.openInterval = none) ∧
   (State.reset.dc.time = ⟨0, 0⟩ ∧ State.reset.dc.quality = .unset ∧ State.reset.dc.syncTimer = none ∧
     State.reset.dc.pendingStep = none ∧ State.reset.dc.hold = none ∧ State.reset.dc.spanStart = none ∧
     State.reset.dc.timeTimer = none ∧ State.reset.dc.trimAcc = 0) ∧
   (State.reset.rs.holdQueue = [] ∧ State.reset.rs.inFlight = false ∧ State.reset.rs.slotA = none ∧
     State.reset.rs.slotB = none) ∧
   State.reset.fp.link = .up ∧
   (State.reset.mc.mode = .loading ∧ State.reset.mc.cause = .powerOn ∧ State.reset.mc.faults = [] ∧
     State.reset.mc.rememberedTag = none ∧ State.reset.mc.warning = false ∧
     State.reset.mc.waitingRequest = none ∧ State.reset.mc.lastStandby = .none ∧
     State.reset.mc.latch = ⟨false, false, Six.all false⟩)) ∧
  (∀ s : State, ∃ t, exec .powerOnReset s = .next t ∧
     t.liu = State.reset.liu ∧ t.peers = [] ∧ t.se = State.reset.se ∧ t.hu = State.reset.hu ∧
     t.cu = State.reset.cu ∧ t.rl = State.reset.rl ∧ t.fu = State.reset.fu ∧ t.tie = State.reset.tie ∧
     t.turbine = State.reset.turbine ∧ t.mu = State.reset.mu ∧ t.dc = State.reset.dc ∧
     t.rs = { State.reset.rs with slots := s.rs.slots, nextSeq := s.rs.nextSeq, newest := s.rs.newest } ∧
     t.fp = { State.reset.fp with out := s.fp.out } ∧
     t.mc = { State.reset.mc with node := s.mc.node, supplyLow := s.mc.supplyLow } ∧
     t.mc.mode = .loading ∧ t.mc.cause = .powerOn ∧ t.pending = s.pending) ∧
  (∀ s : State, ∃ t, exec .pinReset s = .next t ∧
     t.liu = State.reset.liu ∧ t.peers = [] ∧ t.se = State.reset.se ∧ t.hu = State.reset.hu ∧
     t.cu = State.reset.cu ∧ t.rl = State.reset.rl ∧ t.fu = State.reset.fu ∧ t.turbine = State.reset.turbine ∧
     t.tie = { State.reset.tie with
       slotA := s.tie.slotA, slotB := s.tie.slotB, openPeriod := s.tie.openPeriod } ∧
     t.mu = { State.reset.mu with
       worksRem := s.mu.worksRem, purchRem := s.mu.purchRem, minuteAcc := s.mu.minuteAcc
       openInterval := s.mu.openInterval } ∧
     t.dc = { State.reset.dc with
       time := s.dc.time, resetTime := s.dc.time
       quality := if s.dc.quality = .unset then .unset else .free } ∧
     t.rs = { s.rs with inFlight := false, slotA := none, slotB := none, reads := 0 } ∧
     t.fp = { State.reset.fp with out := s.fp.out } ∧
     t.mc = { State.reset.mc with
       node := s.mc.node, rememberedTag := s.mc.rememberedTag, supplyLow := s.mc.supplyLow
       cause := if s.mc.warning then .pinAfterWarning else .pin } ∧
     t.pending = s.pending)

/-- LOAD_COMPLETE with an image that passes every check: LISTEN-IN with its HELLO the one entry of the queue,
the configuration and its tag taken, the round timer at the period, fallback with the fallback setpoint in
force and its SETPOINT the one message sent, the link timer at 10 s, a holder's level timer at 30 s, a tie's
TIME timer at 60 s (R36, R37, R52, R65, R154, R171, R172, R174). CONFIG STEP is raised, once, exactly where a step
was replaced, and TIME FREE exactly at a TOWNHEAT or EXPORT TIE whose quality is not SYNCED, each with the time value;
no other fault is raised, and one that stands keeps its entry (R92, R153, R180). Which of the two comes first is
notes/assumptions/24.md. -/
def Obligations.GoodImageEntersListenIn : Prop :=
  ∀ (strap : Node) (bytes : List Byte) (img : RawImage) (r : Role) (s : State),
    s.mc.mode = .loading → s.liu.tx = [] → rawImage bytes = some img → outcomeOf strap img = .ok →
    imageRole img = some r →
    ∃ t, exec (.loadComplete strap (some bytes)) s = .next t ∧
      t.mc.mode = .listenIn ∧ t.mc.loadOutcome = .ok ∧ t.mc.node = strap ∧
      t.mc.config = configOf r img ∧ t.mc.config.role = some r ∧ t.mc.rememberedTag = some img.computed ∧
      t.liu = { s.liu with tx :=
        [⟨.hello (some r) (mainsByte (stationMains (configOf r img))) (configOf r img).period img.computed,
          0, none, false⟩] } ∧
      t.se.roundTimer = some (configOf r img).period ∧ t.se.roundCount = 0 ∧ t.se.fallback = true ∧
      (∀ m, wantMain (configOf r img) = some m →
        t.se.setpoint = (configOf r img).fallbackSetpoint ∧
        t.fp.out = s.fp.out ++ [.setpoint m (configOf r img).fallbackSetpoint]) ∧
      (wantMain (configOf r img) = none → t.fp.out = s.fp.out) ∧
      t.fp.linkTimer = some 10 ∧ t.fp.statusTimer = none ∧ t.fp.link = s.fp.link ∧
      t.dc.trim = imageTrim (some img) ∧ t.dc.trimAcc = 0 ∧ t.dc.time = s.dc.time ∧
      t.hu = { s.hu with levelTimer := if r = .holder then some 30 else s.hu.levelTimer } ∧
      t.dc.timeTimer = (if r = .exportTie then some 60 else s.dc.timeTimer) ∧
      (s.mc.faults.length ≤ 6 →
        let raised := fun kind => kind = .configStep ∧ (∃ l, ∃ st ∈ ((configOf r img).lines.get l).steps,
            st.replaced = true) ∨
          kind = .timeFree ∧ (r = .townheat ∨ r = .exportTie) ∧ s.dc.quality ≠ .synced
        ∃ new, t.mc.faults = s.mc.faults ++ new ∧ (new.map FaultEntry.kind).Nodup ∧
          ∀ e, e ∈ new ↔ e.raised = s.dc.time ∧ raised e.kind ∧ ∀ x ∈ s.mc.faults, x.kind ≠ e.kind) ∧
      t.peers = s.peers ∧ t.fu = s.fu ∧ t.rl = s.rl ∧
      (∀ l, (t.cu.get l).own = (s.cu.get l).own ∧ (t.cu.get l).sources = (s.cu.get l).sources) ∧
      t.pending = s.pending

/-- LOAD_COMPLETE with any other outcome: LISTEN-ONLY as an UNCONFIGURED station with the outcome shown, the
LEAVE queued, the HELLO timer at 60 s, the NODE STATUS timer at 10 s, the remembered tag kept; no interval, no
period and no peer entry changes (R17, R170, R172, R174). Where the image passed checks 1 and 2 and its NODE
names a role that wants on a main the image makes known, that main's setpoint output is NODE's fallback value
and SETPOINT sends it; in any other case none is sent (R52). NODE STATUS is the last message of the event,
after the SETPOINT: that order is the model's inference, not R170's or R174's, notes/assumptions/31.md. -/
def Obligations.BadImageEntersListenOnly : Prop :=
  ∀ (strap : Node) (image : Option (List Byte)) (s : State),
    s.mc.mode = .loading → s.liu.tx = [] → loadOutcomeOf strap (image.bind rawImage) ≠ .ok →
    ∃ t, exec (.loadComplete strap image) s = .next t ∧
      t.mc = { s.mc with
        mode := .listenOnly, node := strap, config := StationConfig.unconfigured, helloTimer := some 60
        loadOutcome := loadOutcomeOf strap (image.bind rawImage) } ∧
      t.liu = { s.liu with tx := [⟨.leave .unconfigured, 0, none, false⟩] } ∧
      (∃ sent : Option (Main × Nat),
        t.se = (match sent with
          | some x => { s.se with setpoint := x.2 }
          | none => s.se) ∧
        t.fp = { s.fp with
          statusTimer := some 10, linkTimer := some 10
          out := s.fp.out ++ (match sent with
            | some x => [.setpoint x.1 x.2]
            | none => []) ++ [.nodeStatus (nodeStatus t)] } ∧
        (image.bind rawImage = none → sent = none) ∧
        ∀ img, image.bind rawImage = some img →
          let node := bodyAt img 1
          let mainA := bodyAt img 2
          let value := Nat.min (at2 node 3) 20000
          (img.stored ≠ img.computed ∨ node = [] ∨ 7 ≤ at1 node 1 → sent = none) ∧
          ∀ r, img.stored = img.computed → node ≠ [] → roleCode r = at1 node 1 →
            (r = .turbine ∨ r = .townheat → sent = some (.m2, value)) ∧
            (r = .consumer ∨ r = .boiler → (mainA = [] → sent = none) ∧
              (mainA ≠ [] → ∃ m, mainNumber m = Nat.min (at1 mainA 0) 1 ∧ sent = some (m, value))) ∧
            (r = .producer ∨ r = .holder ∨ r = .exportTie → sent = none)) ∧
      t.dc = { s.dc with trim := imageTrim (image.bind rawImage), trimAcc := 0 } ∧
      t.peers = s.peers ∧ t.hu = s.hu ∧ t.cu = s.cu ∧ t.rl = s.rl ∧ t.fu = s.fu ∧ t.tie = s.tie ∧
      t.turbine = s.turbine ∧ t.mu = s.mu ∧ t.rs.holdQueue = s.rs.holdQueue ∧ t.rs.nextSeq = s.rs.nextSeq ∧
      t.pending = s.pending

/-- R151, R172, R182, R185: the checks of an image and the values taken from it. Seven records in their
places, each of its own kind and of length 0 or its layout's, and the CRC-16 behind them make an image that is
read; the first check that fails gives the load outcome. Every number out of its range is held at the range's
end; an action code above 6, a WAKE of no role and a step not valid for the role stand as NONE, marked
replaced. The trim is NODE's, held within −1023 to 1023, whichever check after the second fails, and 0 where
check 1 or 2 fails or NODE is absent (R151). Classes above 3 in an image are held as 3,
notes/assumptions/33.md. -/
def Obligations.ImageChecksAndClamps : Prop :=
  (∀ bodies : List (List Byte),
     List.Forall₂ (fun b n => b.length = 0 ∨ b.length = n) bodies [9, 29, 4, 132, 1, 24, 2] →
     let recs := bodies.zipIdx.flatMap fun x => byte1 (x.2 + 1) ++ byte1 x.1.length ++ x.1
     ∀ stored rest, stored < 65536 →
       rawImage (recs ++ byte2 stored ++ rest) = some ⟨bodies, stored, crc16 recs⟩) ∧
  (∀ (strap : Node) (image : Option (List Byte)) (s : State), s.mc.mode = .loading →
     ∃ t, exec (.loadComplete strap image) s = .next t ∧
       (image.bind rawImage = none → t.mc.loadOutcome = .readFailure ∧ t.dc.trim = 0) ∧
       t.dc.trimAcc = 0 ∧
       (∀ img, image.bind rawImage = some img →
         let node := bodyAt img 1
         let has := fun place => bodyAt img place ≠ []
         let complete := fun r =>
           (r = Role.exportTie → has 7) ∧ (r ≠ .exportTie → has 2) ∧ (r = .boiler → has 3) ∧ (r = .townheat → has 6)
         let limit := fun o => Nat.min (at2 (bodyAt img 2) o) 1000
         let rising := limit 9 < limit 11 ∧ limit 11 < limit 13 ∧ limit 13 < limit 15
         let trim : Int := if at2 node 7 < 32768 then at2 node 7 else (at2 node 7 : Int) - 65536
         (img.stored = img.computed → has 1 → t.dc.trim = max (-1023) (min trim 1023)) ∧
         (img.stored ≠ img.computed ∨ ¬has 1 → t.dc.trim = 0) ∧
         (img.stored ≠ img.computed → t.mc.loadOutcome = .badCrc) ∧
         (img.stored = img.computed → (¬has 1 ∨ 7 ≤ at1 node 1) → t.mc.loadOutcome = .recordMissing) ∧
         (∀ r, img.stored = img.computed → has 1 → roleCode r = at1 node 1 →
           (at1 node 0 ≠ strap.val → t.mc.loadOutcome = .numberMismatch) ∧
           (at1 node 0 = strap.val → ¬complete r → t.mc.loadOutcome = .recordMissing) ∧
           (at1 node 0 = strap.val → complete r → r = .holder → ¬rising →
             t.mc.loadOutcome = .thresholdsUnordered) ∧
           (at1 node 0 = strap.val → complete r → (r = .holder → rising) → t.mc.loadOutcome = .ok)))) ∧
  (∀ (r : Role) (img : RawImage),
     let c := configOf r img
     let node := bodyAt img 1
     let a := bodyAt img 2
     (c.role = some r ∧ c.tag = img.computed ∧ c.period = Nat.max 2 (Nat.min (at1 node 2) 10) ∧
       c.fallbackSetpoint = Nat.min (at2 node 3) 20000 ∧ c.rampStep = Nat.max 1 (Nat.min (at2 node 5) 2000) ∧
       ∀ l, c.wakeSet.get l = (bodyAt img 5 ≠ [] && (at1 (bodyAt img 5) 0).testBit (lineNumber l))) ∧
     (r = .producer ∨ r = .holder → mainNumber c.main = Nat.min (at1 a 0) 2) ∧
     (r = .consumer ∨ r = .boiler → mainNumber c.main = Nat.min (at1 a 0) 1 ∧ c.min = Nat.min (at2 a 1) 20000 ∧
       c.max = Nat.min (at2 a 3) 20000 ∧ c.capacity = Nat.min (at2 a 5) 20000 ∧
       c.minClass = Nat.min (at1 a 7) 3 ∧ c.headClass = Nat.min (at1 a 8) 3) ∧
     (r = .holder → c.t1 = Nat.min (at2 a 9) 1000 ∧ c.t2 = Nat.min (at2 a 11) 1000 ∧
       c.t3 = Nat.min (at2 a 13) 1000 ∧ c.t4 = Nat.min (at2 a 15) 1000 ∧
       c.drawMax = Nat.min (at2 a 17) 20000 ∧ c.absorbMax = Nat.min (at2 a 19) 20000) ∧
     (r = .boiler → c.changeoverLimit = Nat.max 30 (Nat.min (at2 a 21) 900) ∧
       c.heatCapacity = Nat.min (at2 (bodyAt img 3) 0) 20000 ∧ c.efficiency = Nat.min (at2 (bodyAt img 3) 2) 1000) ∧
     (r = .turbine → c.capacity = Nat.min (at2 a 5) 20000 ∧
       c.electricCapacity = Nat.max 1 (Nat.min (at2 a 23) 20000) ∧
       c.steamRate = Nat.max 1000 (Nat.min (at2 a 25) 9000)) ∧
     (r = .townheat → c.capacity = Nat.min (at2 a 5) 20000 ∧ c.guaranteedMin = Nat.min (at2 a 27) 20000 ∧
       ∀ h, h < 24 → c.tariff[h]? = some (Nat.min (at1 (bodyAt img 6) h) 3)) ∧
     (r = .exportTie → c.tolerance = Nat.min (at2 (bodyAt img 7) 0) 200) ∧
     (bodyAt img 4 = [] → ∀ l, c.lines.get l = ⟨false, []⟩) ∧
     (∀ l : ClaimLine, bodyAt img 4 ≠ [] →
       let o := 22 * lineNumber l
       let count := Nat.min (at1 (bodyAt img 4) (o + 1)) 4
       (c.lines.get l).masked = decide (at1 (bodyAt img 4) o ≠ 0) ∧ (c.lines.get l).steps.length = count ∧
       ∀ j, j < count → ∃ st, (c.lines.get l).steps[j]? = some st ∧
         let code := at1 (bodyAt img 4) (o + 2 + 5 * j)
         let param := at2 (bodyAt img 4) (o + 3 + 5 * j)
         let valid := fun b : Bool => st.replaced = !b
         st.dwell = Nat.max 5 (Nat.min (at2 (bodyAt img 4) (o + 5 + 5 * j)) 3600) ∧
         (st.replaced = true → st.action = .none) ∧
         (code = 0 → st.action = .none ∧ valid true) ∧
         (code = 1 → valid (r = .boiler) ∧ (st.replaced = false → st.action = .fuelBackup)) ∧
         (code = 2 → valid (r = .boiler) ∧ (st.replaced = false → st.action = .fuelGas)) ∧
         (code = 3 → valid (wantMain c = some l.main) ∧
           (st.replaced = false → st.action = .raise (Nat.min param 20000))) ∧
         (code = 4 → valid (wantMain c = some l.main) ∧ (st.replaced = false → st.action = .shed)) ∧
         (code = 5 → valid (r = .holder ∧ c.main ≠ .m2 ∧ c.main = l.main) ∧
           (st.replaced = false → st.action = .flareStep)) ∧
         (code = 6 → (∀ w, roleCode w = param → (st.replaced = false → st.action = .wake w) ∧
             valid (w = .producer ∨ w = .boiler ∨ w = .consumer ∧ l.main ≠ .m2 ∨ w = .turbine ∧ l.main = .m2)) ∧
           (7 ≤ param → valid false)) ∧
         (7 ≤ code → valid false)))

/-- R131, R148, R149, R179: the start of the accounting unit at the end of LOADING, and SUPPLY LOW at it
(R179). At power-on and at a changed tag the protected state of both units is cleared, whatever the role
(notes/assumptions/26.md), and a span opens at the current second with PARTIAL START. At an unchanged tag a
kept span takes RESET DURING, the seconds since the reset, up to its end, as missing, and the quality the Day
Clock holds since the reset where that is lower (R129, R144; that it is lowered at the end of LOADING is
notes/assumptions/43.md): before its end it stays open; past it, it closes at its own end and a new one opens
with PARTIAL START and RESET DURING, as it does where none was kept. A record handed over, to an empty hold
queue, carries GAP where it is the first after a power-on and a number before it is lost (R162); a hold queue
kept over the reset has its head's commit restarted (R169), in a role without a store too
(notes/assumptions/30.md). SUPPLY LOW that stands asserted is told immediately after the start, as an
assertion of it then would be, so a span opened at the start closes at once with length 0 and POWER FAIL. From
which reset the seconds count is notes/assumptions/23.md; a kept span that begins after the present time stays
open, notes/assumptions/51.md. -/
def Obligations.UnitsStartAtTheEndOfLoading : Prop :=
  ∀ (strap : Node) (bytes : List Byte) (img : RawImage) (r : Role) (s : State),
    s.mc.mode = .loading → rawImage bytes = some img → outcomeOf strap img = .ok → imageRole img = some r →
    let now := s.dc.time
    let since := secondsFrom s.dc.resetTime now
    let n := s.rs.nextSeq
    let room := s.rs.holdQueue = [] ∧ s.rs.inFlight = false ∧ n + 1 < 2 ^ 32
    let handed := fun (x : StoreRecord) => { s.rs with
      nextSeq := n + 1, inFlight := true, holdQueue := [x], firstHandOver := false
      slots := assocErase ((n + 1023) % 1024) s.rs.slots }
    let gapped := fun (f g : RecordFlags) => (noneLost s.rs → g = f) ∧ (¬noneLost s.rs → g = { f with gap := true })
    let noRecord := fun (t : State) =>
      (s.rs.holdQueue = [] → t.rs = s.rs) ∧
      (∀ y rest, s.rs.holdQueue = y :: rest → s.rs.inFlight = false → t.rs = { s.rs with
        inFlight := true, slots := assocErase ((recordSeq y + 1023) % 1024) s.rs.slots })
    let unchanged := s.mc.cause ≠ .powerOn ∧ s.mc.rememberedTag = some img.computed
    let opened := fun (t : State) (f : RecordFlags) =>
      (r = .exportTie → ∃ q, t.tie.openPeriod = some q ∧ t.tie.mark = false ∧ q.start = now ∧
        q.planned = 1800 * (now.sec / 1800 + 1) - now.sec ∧ q.energyE = 0 ∧ q.missing = 0 ∧
        q.energyC = q.commitment * q.planned / 36 ∧ q.quality = s.dc.quality ∧
        q.flags = { f with noSchedule := q.flags.noSchedule }) ∧
      (r = .townheat → t.mu.minuteAcc = 0 ∧ t.mu.openInterval = some
        { start := now, planned := 3600 * (now.sec / 3600 + 1) - now.sec
          band := (configOf r img).tariff.getD (now.sec / 3600) 0
          works := 0, purchased := 0, peak := 0, missing := 0, reverse := 0, overRange := 0
          quality := s.dc.quality, flags := f }) ∧
      (r = .exportTie ∨ r = .townheat → t.dc.spanStart = some now)
    let part : RecordFlags := { noFlags with partialStart := true }
    let partReset : RecordFlags := { noFlags with partialStart := true, resetDuring := true }
    let closed := fun (t : State) (f : RecordFlags) =>
      (r = .exportTie → t.tie.openPeriod = none ∧ t.tie.gap = 0 ∧ t.dc.spanStart = none ∧
        ∃ x, t.rs = handed (.settle x) ∧ x.seq = n ∧ x.start = now ∧ x.length = 0 ∧ x.energyC = 0 ∧
          x.energyE = 0 ∧ x.missing = 0 ∧ x.quality = s.dc.quality ∧
          gapped { f with powerFail := true, noSchedule := x.flags.noSchedule } x.flags) ∧
      (r = .townheat → t.mu.openInterval = none ∧ t.mu.minuteAcc = 0 ∧ t.dc.spanStart = none ∧
        ∃ g, gapped { f with powerFail := true } g ∧ t.rs = handed (.bill
          { seq := n, start := now, length := 0, band := (configOf r img).tariff.getD (now.sec / 3600) 0
            quality := s.dc.quality, works := 0, purchased := 0, peak := 0, missing := 0, reverse := 0
            overRange := 0, flags := g }))
    (s.mc.supplyLow = false → ∃ t, exec (.loadComplete strap (some bytes)) s = .next t ∧
      (¬unchanged →
        t.tie.slotA = none ∧ t.tie.slotB = none ∧ t.mu.worksRem = 0 ∧ t.mu.purchRem = 0 ∧ t.mu.minuteAcc = 0 ∧
        (r ≠ .exportTie → t.tie.openPeriod = none) ∧ (r ≠ .townheat → t.mu.openInterval = none) ∧
        noRecord t ∧ opened t part) ∧
      (unchanged →
        t.mu.worksRem = s.mu.worksRem ∧ t.mu.purchRem = s.mu.purchRem ∧
        (r ≠ .exportTie → t.tie = s.tie) ∧ (r ≠ .townheat → t.mu = s.mu) ∧
        (r ≠ .exportTie → r ≠ .townheat → noRecord t) ∧
        (r = .exportTie → s.tie.openPeriod = none → noRecord t ∧ opened t partReset) ∧
        (r = .townheat → s.mu.openInterval = none → noRecord t ∧ opened t partReset) ∧
        (∀ p, r = .exportTie → s.tie.openPeriod = some p →
          let left := posNumber p.start + p.planned - posNumber s.dc.resetTime
          let missing := Nat.min (p.missing + Nat.min since left) 65535
          (since < left → noRecord t ∧ t.tie.slotA = s.tie.slotA ∧ t.tie.slotB = s.tie.slotB ∧
            t.tie.openPeriod = some { p with
              missing := missing, quality := lowerQuality p.quality s.dc.quality
              flags := { p.flags with resetDuring := true } } ∧
            t.dc.spanStart = some p.start) ∧
          (left ≤ since → opened t partReset ∧ (room → ∃ x, t.rs = handed (.settle x) ∧ x.seq = n ∧
            x.start = p.start ∧ x.length = p.planned ∧ x.commitment = p.commitment ∧
            x.energyC = p.commitment * p.planned / 36 ∧ x.energyE = p.energyE ∧ x.missing = missing ∧
            x.quality = lowerQuality p.quality s.dc.quality ∧ gapped { p.flags with resetDuring := true } x.flags))) ∧
        (∀ i, r = .townheat → s.mu.openInterval = some i →
          let left := posNumber i.start + i.planned - posNumber s.dc.resetTime
          let checked := 60 ≤ s.dc.resetTime.sec % 60 + since
          let kept : Interval := { i with
            missing := Nat.min (i.missing + Nat.min since left) 65535
            peak := if checked then Nat.max i.peak (s.mu.minuteAcc / 360000000) else i.peak
            quality := lowerQuality i.quality s.dc.quality
            flags := { i.flags with resetDuring := true } }
          (since < left → noRecord t ∧ t.mu.openInterval = some kept ∧
            t.mu.minuteAcc = (if checked then 0 else s.mu.minuteAcc) ∧ t.dc.spanStart = some i.start) ∧
          (left ≤ since → opened t partReset ∧ (room → ∃ g, gapped kept.flags g ∧ t.rs = handed (.bill
            { seq := n, start := kept.start, length := kept.planned, band := kept.band
              quality := kept.quality, works := kept.works, purchased := kept.purchased, peak := kept.peak
              missing := kept.missing, reverse := kept.reverse, overRange := kept.overRange
              flags := g })))))) ∧
    (s.mc.supplyLow = true → s.rs.holdQueue = [] →
      ∃ t u, exec (.loadComplete strap (some bytes)) { s with mc := { s.mc with supplyLow := false } } = .next u ∧
        exec .supplyLowAsserted u = .next t ∧ exec (.loadComplete strap (some bytes)) s = .next t ∧
        (r ≠ .exportTie → r ≠ .townheat → t.rs = s.rs) ∧
        (room → ¬unchanged → closed t part) ∧
        (room → unchanged →
          (r = .exportTie → s.tie.openPeriod = none) → (r = .townheat → s.mu.openInterval = none) →
          closed t partReset))

/-! ### The Share Line -/

/-- R7, R8, R9, R10, R16: what becomes of an enqueue request. Refused by the mode, it changes nothing. A STATE
replaces a waiting STATE in its place with collision count 0; a CLAIM replaces a waiting CLAIM of its line,
and both go where its edge is the last edge sent (which count the survivor keeps R9 leaves open:
notes/assumptions/10.md). A request that needs a place goes to the tail while fewer than 4 entries stand. In a
full queue the oldest waiting entry of the lowest precedence, no RECORD, makes room, and the request itself is
dropped where it is below every waiting entry. Neither is counted as a drop. -/
def Obligations.EnqueueReplacesPlacesOrDrops : Prop :=
  (∀ (b : TxBody) (s : State),
     (s.mc.mode = .loading ∨ (s.mc.mode = .standbyDeep ∧ b ≠ .leave .deepStandby) ∨
       (s.mc.mode = .leaving ∧ (bodyKind b = .hello ∨ bodyKind b = .state))) → enqueue b s = s) ∧
  (∀ (b : TxBody) (s : State), s.mc.mode ∈ [Mode.listenOnly, .listenIn, .active, .standbyListen] →
     (∀ pre post e, bodyKind b = .state → s.liu.tx = pre ++ e :: post → bodyKind e.body = .state →
       e.sending = none → (∀ x ∈ pre, x.sending = none → bodyKind x.body ≠ .state) →
       enqueue b s = { s with liu := { s.liu with tx := pre ++ ⟨b, 0, none, false⟩ :: post } }) ∧
     (∀ pre post e l g h, b = .claim l g → s.liu.tx = pre ++ e :: post → e.body = .claim l h → e.sending = none →
       (∀ x ∈ pre, x.sending = none → ∀ k, x.body ≠ .claim l k) →
       (g = s.liu.lastEdge.get l → enqueue b s = { s with liu := { s.liu with tx := pre ++ post } }) ∧
       (g ≠ s.liu.lastEdge.get l → ∃ t c, enqueue b s = t ∧ (c = 0 ∨ c = e.collisions) ∧
         t = { s with
           liu := { s.liu with tx := pre ++ { e with body := b, collisions := c } :: post }
           freeNext := t.freeNext })) ∧
     ((bodyKind b = .state → ∀ x ∈ s.liu.tx, x.sending = none → bodyKind x.body ≠ .state) →
       (∀ l g, b = .claim l g → ∀ x ∈ s.liu.tx, x.sending = none → ∀ k, x.body ≠ .claim l k) →
       (s.liu.tx.length < 4 →
         enqueue b s = { s with liu := { s.liu with tx := s.liu.tx ++ [⟨b, 0, none, false⟩] } }) ∧
       (∀ pre post e, s.liu.tx = pre ++ e :: post → s.liu.tx.length = 4 → e.sending = none →
         bodyKind e.body ≠ .record →
         (∀ x ∈ pre, x.sending = none → bodyKind x.body ≠ .record → precedence x.body < precedence e.body) →
         (∀ x ∈ post, x.sending = none → bodyKind x.body ≠ .record → precedence x.body ≤ precedence e.body) →
         precedence b ≤ precedence e.body →
         enqueue b s = { s with liu := { s.liu with tx := pre ++ post ++ [⟨b, 0, none, false⟩] } }) ∧
       (s.liu.tx.length = 4 →
         (∀ x ∈ s.liu.tx, x.sending = none → bodyKind x.body ≠ .record → precedence x.body < precedence b) →
         enqueue b s = s))) ∧
  (∀ s : State, s.dc.timeTimer = some 0 →
    exec .timeTimerExpiry s = .next (enqueue
      (.time (match s.dc.hold with | some h => h.reference | none => s.dc.time) s.dc.quality)
      { s with dc := { s.dc with timeTimer := some 60 } }))

/-- R2, R4, R7, R11: with no attempt in progress and no backoff, the waiting entry that is first of the
highest precedence present starts once the line has been quiet for its gap: 96 µs for a CLAIM or LEAVE, 160 µs
for another kind, and 32 µs for each of (n mod 8). Its frame is built as the station then stands. No attempt
starts before that entry's own gap, with nothing queued, during a backoff wait, or while one is in progress.
-/
def Obligations.AttemptStartsAfterQuietGap : Prop :=
  (∀ (pre post : List TxEntry) (e : TxEntry) (quietUs : Nat) (s : State),
     s.liu.tx = pre ++ e :: post → (∀ x ∈ s.liu.tx, x.sending = none) → s.liu.backoff = none →
     (∀ x ∈ pre, precedence e.body < precedence x.body) →
     (∀ x ∈ post, precedence e.body ≤ precedence x.body) →
     let gap := (if bodyKind e.body = .claim ∨ bodyKind e.body = .leave then 96 else 160) + 32 * (s.mc.node.val % 8)
     (gap ≤ quietUs →
       exec (.lineAttemptStart quietUs) s = .next { s with liu := { s.liu with
         tx := pre ++ { e with sending := some (frameBytes s.mc.node.val (frameKindCode (bodyKind e.body))
           (payloadBytes e.body s)) } :: post } }) ∧
     (quietUs < gap → exec (.lineAttemptStart quietUs) s = .next s)) ∧
  (∀ (quietUs : Nat) (s : State),
     (s.liu.tx = [] ∨ s.liu.backoff ≠ none ∨ (∃ x ∈ s.liu.tx, x.sending ≠ none)) →
     exec (.lineAttemptStart quietUs) s = .next s)

/-- R1, R5, R6, R9, R167: a frame sent whole leaves the queue; the drop count is 0, LINE TX FAIL is cleared, a
CLAIM's edge is the last edge sent of its line. Only the read slot whose RECORD it was learns of it: after a
NONE answer or its last record it is FREE; otherwise it moves to the least number above the one sent that is
retained or held, TRIMMED from the oldest retained where that lies above it, waits while that is held with a
commit in flight, and is FREE where there is none. That numbers overwritten meanwhile are seen by the number
after the one sent is notes/assumptions/21.md. -/
def Obligations.SentWholeLeavesTheQueue : Prop :=
  ∀ (pre post : List TxEntry) (e : TxEntry) (s : State),
    s.liu.tx = pre ++ e :: post → (∀ x ∈ pre, x.sending = none) → e.sending ≠ none →
    ∃ t, exec .frameSentWhole s = .next t ∧
      t.liu.tx = pre ++ post ∧ t.liu.drops = 0 ∧
      (∀ l g, e.body = .claim l g → t.liu.lastEdge = s.liu.lastEdge.set l g) ∧
      (bodyKind e.body ≠ .claim → t.liu.lastEdge = s.liu.lastEdge) ∧
      t.liu.rx = s.liu.rx ∧ t.liu.backoff = s.liu.backoff ∧ t.liu.clash = s.liu.clash ∧
      t.mc = { s.mc with faults := s.mc.faults.filter fun x => x.kind != .lineTxFail } ∧
      t.rs = { s.rs with slotA := t.rs.slotA, slotB := t.rs.slotB } ∧
      ((∀ st k b i, e.body ≠ .record st k b (some i)) → t.rs = s.rs) ∧
      (∀ st k b i, e.body = .record st k b (some i) →
        getSlot (otherSlot i) t.rs = getSlot (otherSlot i) s.rs ∧
        ∀ sl, getSlot i s.rs = some sl →
          (sl.status = .none ∨ sl.left ≤ 1 → getSlot i t.rs = none) ∧
          (sl.status ≠ .none → 1 < sl.left →
            GoesOn sl.next s.rs { sl with left := sl.left - 1, inQueue := false } (getSlot i t.rs))) ∧
      t.peers = s.peers ∧ t.se = s.se ∧ t.hu = s.hu ∧ t.cu = s.cu ∧ t.rl = s.rl ∧ t.fu = s.fu ∧
      t.tie = s.tie ∧ t.turbine = s.turbine ∧ t.mu = s.mu ∧ t.dc = s.dc ∧ t.fp = s.fp ∧
      t.pending = s.pending

/-- R3, R4, R5, R6, R17, R167: a collision with nothing newer waiting in the entry's stead, or of an entry
that a mode entry wants gone. Below the eighth, the entry waits again in its place with its count raised to k,
and the backoff wait of (n + 1) × 64 µs × k runs, until its expiry. The eighth drops an entry of any kind,
with no backoff; the drop count rises by one, at most to 255, and reaching 16 raises LINE TX FAIL; the read
slot whose RECORD it was is FREE. An entry that was being sent as a mode entry removed its kind (R17) is
removed at whichever collision ends its attempt, not retried and not counted; that its backoff wait runs below
the eighth and that the eighth counts no drop is notes/assumptions/11.md, that its read slot is FREE
notes/assumptions/21.md. -/
def Obligations.CollisionBacksOffOrDrops : Prop :=
  (∀ (pre post : List TxEntry) (e : TxEntry) (s : State),
     s.liu.tx = pre ++ e :: post → (∀ x ∈ pre, x.sending = none) → e.sending ≠ none → e.noRetry = false →
     (∀ x ∈ s.liu.tx, x.sending = none → ¬(bodyKind x.body = .state ∧ bodyKind e.body = .state)) →
     (∀ x ∈ s.liu.tx, x.sending = none → ∀ l g h, ¬(x.body = .claim l g ∧ e.body = .claim l h)) →
     (e.collisions < 7 →
       exec .collision s = .next { s with liu := { s.liu with
         tx := pre ++ { e with sending := none, collisions := e.collisions + 1 } :: post
         backoff := some ((s.mc.node.val + 1) * 64 * (e.collisions + 1)) } }) ∧
     (e.collisions = 7 → ∃ t, exec .collision s = .next t ∧
       t = { s with
         liu := { s.liu with tx := pre ++ post, backoff := none, drops := Nat.min (s.liu.drops + 1) 255 }
         mc := { s.mc with faults :=
           if s.liu.drops = 15 then faultsRaised .lineTxFail s.dc.time s.mc.faults else s.mc.faults }
         rs := t.rs } ∧
       (∀ st k b i, e.body = .record st k b (some i) → t.rs = setSlot i none s.rs) ∧
       ((∀ st k b i, e.body ≠ .record st k b (some i)) → t.rs = s.rs))) ∧
  (∀ (pre post : List TxEntry) (e : TxEntry) (s : State),
     s.liu.tx = pre ++ e :: post → (∀ x ∈ pre, x.sending = none) → e.sending ≠ none → e.noRetry = true →
     ∃ t, exec .collision s = .next t ∧
       t = { s with
         liu := { s.liu with
           tx := pre ++ post
           backoff := if e.collisions < 7 then some ((s.mc.node.val + 1) * 64 * (e.collisions + 1)) else none }
         rs := t.rs } ∧
       (∀ st k b i, e.body = .record st k b (some i) → t.rs = setSlot i none s.rs) ∧
       ((∀ st k b i, e.body ≠ .record st k b (some i)) → t.rs = s.rs)) ∧
  (∀ s : State, exec .backoffExpiry s = .next { s with liu := { s.liu with backoff := none } })

/-- R8, R9: an entry that collides while a newer one stands in its stead, at any of its collisions. A STATE is
removed as superseded. A CLAIM and the newer CLAIM of its line are both removed where the newer edge equals
the last edge sent; otherwise the newer one takes its place, with a count that R9 leaves open
(notes/assumptions/10.md). Neither is retried or counted as a drop, at the eighth collision too:
notes/assumptions/11.md. -/
def Obligations.SupersededEntriesAreRemoved : Prop :=
  (∀ (pre post : List TxEntry) (e newer : TxEntry) (s : State),
    s.liu.tx = pre ++ e :: post → (∀ x ∈ pre, x.sending = none) → e.sending ≠ none →
    bodyKind e.body = .state → newer ∈ pre ++ post → newer.sending = none → bodyKind newer.body = .state →
    exec .collision s = .next { s with liu := { s.liu with
      tx := pre ++ post
      backoff := if e.collisions < 7 then some ((s.mc.node.val + 1) * 64 * (e.collisions + 1)) else none } }) ∧
  (∀ (pre mid post : List TxEntry) (e newer : TxEntry) (l : ClaimLine) (g h : Edge) (s : State),
    s.liu.tx = pre ++ e :: mid ++ newer :: post → (∀ x ∈ pre ++ mid, x.sending = none) →
    e.sending ≠ none → e.noRetry = false → e.body = .claim l g →
    newer.sending = none → newer.body = .claim l h →
    (∀ x ∈ pre ++ mid, ∀ k, x.body ≠ .claim l k) →
    ∃ t, exec .collision s = .next t ∧
      t.liu.backoff = (if e.collisions < 7 then some ((s.mc.node.val + 1) * 64 * (e.collisions + 1)) else none) ∧
      (h = s.liu.lastEdge.get l →
        t = { s with liu := { s.liu with tx := pre ++ mid ++ post, backoff := t.liu.backoff } }) ∧
      (h ≠ s.liu.lastEdge.get l → ∃ c, (c = 0 ∨ c = e.collisions + 1 ∧ c < 8) ∧
        t = { s with
          liu := { s.liu with
            tx := pre ++ { newer with collisions := c } :: mid ++ post, backoff := t.liu.backoff }
          freeNext := t.freeNext }))

/-- R12, R13, R14, R15, R16, R183: frames heard and frames no block takes. A good frame of another number,
heard in any mode that listens, is placed at the tail of the receive queue while fewer than 8 frames stand in
it, and lost when it is full. In STANDBY-DEEP only a matching WAKE is; a frame that fails the checks, and any
frame in LOADING or during an own attempt, changes nothing. One with the station's own number starts the 64 s
clash timer, raises NUMBER CLASH and is passed to no block; the timer's end clears the fault. A RECORD at the
head, a frame whose code fields lie outside the layouts' tables, and a WAKE whose selector names another
station leave the receive queue and change nothing else. That a WAKE with a node selector matches by its
number whatever its third byte is the model's choice, notes/assumptions/53.md. -/
def Obligations.FramesHeardAreQueuedOrDiscarded : Prop :=
  (∀ (bytes : List Byte) (s : State),
     (∀ f, goodFrame bytes = some f → f.sender ≠ s.mc.node.val → s.mc.mode ≠ .loading →
       (∀ x ∈ s.liu.tx, x.sending = none) →
       (s.mc.mode = .standbyDeep → f.kind = .wake ∧ wakeMatches f.payload s = true) →
       exec (.frameReceived bytes) s = .next (if s.liu.rx.length < 8 then
         { s with liu := { s.liu with rx := s.liu.rx ++ [f] } } else s)) ∧
     (∀ f, goodFrame bytes = some f → f.sender ≠ s.mc.node.val → s.mc.mode = .standbyDeep →
       ¬(f.kind = .wake ∧ wakeMatches f.payload s = true) → exec (.frameReceived bytes) s = .next s) ∧
     (goodFrame bytes = none ∨ s.mc.mode = .loading ∨ (∃ x ∈ s.liu.tx, x.sending ≠ none) →
       exec (.frameReceived bytes) s = .next s)) ∧
  (∀ (bytes : List Byte) (f : Frame) (s : State),
     goodFrame bytes = some f → f.sender = s.mc.node.val → s.mc.mode ≠ .loading →
     (∀ x ∈ s.liu.tx, x.sending = none) →
     exec (.frameReceived bytes) s = .next { s with
       liu := { s.liu with clash := some 64 }
       mc := { s.mc with faults := faultsRaised .numberClash s.dc.time s.mc.faults } }) ∧
  (∀ s : State, s.liu.clash = some 0 →
    exec .clashTimerExpiry s = .next { s with
      liu := { s.liu with clash := none }
      mc := { s.mc with faults := s.mc.faults.filter fun x => x.kind != .numberClash } }) ∧
  (∀ (f : Frame) (rest : List Frame) (s : State), s.liu.rx = f :: rest → f.kind = .record →
    exec .recordFrameDiscarded s = .next { s with liu := { s.liu with rx := rest } }) ∧
  (∀ (f : Frame) (rest : List Frame) (s : State), s.liu.rx = f :: rest →
    (f.kind = .state →
      (7 ≤ at1 f.payload 0 ∨ at1 f.payload 2 = 0 ∨ 4 ≤ at1 f.payload 2 ∨ 4 ≤ at1 f.payload 3) →
      exec .stateDelivered s = .next { s with liu := { s.liu with rx := rest } }) ∧
    (f.kind = .hello →
      (8 ≤ at1 f.payload 0 ∨ at1 f.payload 5 = 0 ∨ 4 ≤ at1 f.payload 5) →
      exec .helloDelivered s = .next { s with liu := { s.liu with rx := rest } }) ∧
    (f.kind = .claim → (6 ≤ at1 f.payload 0 ∨ 2 ≤ at1 f.payload 1) →
      exec .claimDelivered s = .next { s with liu := { s.liu with rx := rest } }) ∧
    (f.kind = .time → 3 ≤ at1 f.payload 6 →
      exec .timeDelivered s = .next { s with liu := { s.liu with rx := rest } }) ∧
    (f.kind = .wake → wakeMatches f.payload s = false →
      exec .wakeDelivered s = .next { s with liu := { s.liu with rx := rest } }))

/-! ### Frames as bytes -/

/-- R1, R11, R12, R50, R182, R183: a frame built for a node number, a kind and a payload of a length allowed
for the kind is heard as exactly that frame; with any other CRC-16 the same bytes are no good frame. That
bytes after the stated length belong to no frame is notes/assumptions/12.md. CLAIM, LEAVE, TIME, HELLO and
WAKE frames as this station sends them are good frames, and a receiver reads in them the fields the station
named (layouts of 13). Of a STATE it reads the role, period, mode, severity, own claim set, every main record
it keeps and the gap or capacity of the extras; a holder's level and band and the second extra, a tie's
commitment or a turbine's steam rate, no receiver keeps: they stand in the payload's bytes. -/
def Obligations.FramesReadBackAsSent : Prop :=
  (∀ (node : Node) (k : FrameKind) (payload rest : List Byte), lengthAllowed k payload = true →
     goodFrame (frameBytes node.val (frameKindCode k) payload ++ rest) = some ⟨node.val, k, payload⟩ ∧
     ∀ c, c < 65536 → c ≠ crc16 (headerAndPayload node.val (frameKindCode k) payload) →
       goodFrame (headerAndPayload node.val (frameKindCode k) payload ++ byte2 c ++ rest) = none) ∧
  (∀ s : State,
     (∀ l e, goodFrame (attemptBytes (.claim l e) s) = some ⟨s.mc.node.val, .claim, payloadBytes (.claim l e) s⟩ ∧
       readClaim (payloadBytes (.claim l e) s) = some (l, e)) ∧
     (∀ r, goodFrame (attemptBytes (.leave r) s) = some ⟨s.mc.node.val, .leave, payloadBytes (.leave r) s⟩) ∧
     (∀ p q, posOk p →
       goodFrame (attemptBytes (.time p q) s) = some ⟨s.mc.node.val, .time, payloadBytes (.time p q) s⟩ ∧
       readTime (payloadBytes (.time p q) s) = some (p, q)) ∧
     (∀ r (mains : Three Bool) period tag, 2 ≤ period → period ≤ 10 → tag < 65536 →
       goodFrame (attemptBytes (.hello (some r) (mainsByte mains) period tag) s) =
         some ⟨s.mc.node.val, .hello, payloadBytes (.hello (some r) (mainsByte mains) period tag) s⟩ ∧
       readHello (payloadBytes (.hello (some r) (mainsByte mains) period tag) s) =
         .configured ⟨r, mains, period, tag, s.mc.cause⟩) ∧
     (∀ mains period tag,
       goodFrame (attemptBytes (.hello none mains period tag) s) =
         some ⟨s.mc.node.val, .hello, payloadBytes (.hello none mains period tag) s⟩ ∧
       readHello (payloadBytes (.hello none mains period tag) s) = .unconfigured) ∧
     (∀ r m (receiver : State),
       goodFrame (attemptBytes (.wake r m) s) = some ⟨s.mc.node.val, .wake, payloadBytes (.wake r m) s⟩ ∧
       (wakeMatches (payloadBytes (.wake r m) s) receiver = true ↔
         receiver.mc.config.role = some r ∧ (stationMains receiver.mc.config).get m = true))) ∧
  (∀ (role : Role) (period : Nat) (records : List StateRecord) (extras : Option (Nat × Nat)) (m : PeerMode)
    (s : State),
    2 ≤ period → period ≤ 10 → records.length ≤ 2 → (∀ r ∈ records, r.inRange) →
    records.Pairwise (fun a b => sameKindAndMain (keptRecord a) (keptRecord b) = false) →
    (extras.isSome = true ↔ role = .exportTie ∨ role = .turbine) →
    (∀ x, extras = some x → x.1 ≤ 20000 ∧ x.2 ≤ 20000) →
    s.mc.mode = (match m with
      | .active => .active | .standbyListen => .standbyListen | .listenIn => .listenIn) →
    goodFrame (attemptBytes (.state role period records extras) s) =
      some ⟨s.mc.node.val, .state, payloadBytes (.state role period records extras) s⟩ ∧
    readState (payloadBytes (.state role period records extras) s) = some
      { role := role, period := period, mode := m, severity := severity s, claims := ownClaimSet s
        carries := !records.isEmpty, records := records.map keptRecord
        extras := match role, extras with
          | .exportTie, some x => .tie x.1
          | .turbine, some x => .turbine x.1
          | _, _ => .none } ∧
    (∀ (i : Nat) main level band draw absorb, records[i]? = some (.holder main level band draw absorb) →
      at2 (payloadBytes (.state role period records extras) s) (8 + 9 * i) = level ∧
      at1 (payloadBytes (.state role period records extras) s) (10 + 9 * i) = bandCode band) ∧
    (∀ x, extras = some x →
      at2 (payloadBytes (.state role period records extras) s) (8 + 9 * records.length) = x.2))

/-! ### The Peer Table and the claim lines -/

/-- R15, R22, R23, R30, R32, R79, R133, R139: a STATE at the head of the receive queue. Its sender's entry is
created, updated in place, or, on another role, replaced whole, with the values the STATE carries; where it
carries records, the mains are those of the accepted ones, none where all were discarded (R183); of an EXPORT
TIE it holds no records (R30; that its mains are then none is notes/assumptions/41.md); no other entry
changes; the sender stands in the source sets of exactly the lines it claims, every other number where it
stood. A TOWNHEAT hearing of a BOILER or PRODUCER with main 2 recomputes the purchased fraction floor(1000 ×
Hb / Ht), 0 where Ht is 0; a TURBINE hearing of an EXPORT TIE or TURBINE its share min(floor(Gx × K / ΣK), K)
and its base want; so does the removal of an entry that is replaced whole. Which entries Hb, Ht, Gx and ΣK
count stands in fractionOfTable and turbineOfTable (R31, R32); a tie without extras: notes/assumptions/35.md.
-/
def Obligations.StateUpdatesTheEntry : Prop :=
  ∀ (f : Frame) (rest : List Frame) (x : StateRead) (s : State),
    s.liu.rx = f :: rest → f.kind = .state → readState f.payload = some x →
    let records := if x.role = .exportTie then [] else x.records
    ∃ t e, exec .stateDelivered s = .next t ∧ t.liu.rx = rest ∧
      assocGet f.sender t.peers = some e ∧
      (e.role = x.role ∧ e.period = x.period ∧ e.mode = x.mode ∧ e.severity = x.severity ∧
        e.claims = x.claims ∧ e.records = records ∧ e.extras = x.extras ∧ e.age = 0 ∧ e.stale = false) ∧
      (∀ old, assocGet f.sender s.peers = some old → old.role = x.role →
        e.tag = old.tag ∧ e.cause = old.cause ∧ (x.carries = false → e.mains = old.mains)) ∧
      ((∀ old, assocGet f.sender s.peers = some old → old.role ≠ x.role) → e.tag = none ∧ e.cause = none) ∧
      ((x.carries = true ∨ ∀ old, assocGet f.sender s.peers = some old → old.role ≠ x.role) →
        ∀ m, e.mains.get m = true ↔ ∃ r ∈ records, recordMain r = m) ∧
      (∀ n, n ≠ f.sender → assocGet n t.peers = assocGet n s.peers) ∧
      (∀ l, f.sender ∈ (t.cu.get l).sources ↔ x.claims.get l = true) ∧
      (∀ l n, n ≠ f.sender → (n ∈ (t.cu.get l).sources ↔ n ∈ (s.cu.get l).sources)) ∧
      (s.mc.config.role = some .townheat → (x.role = .boiler ∨ x.role = .producer) → e.mains.m2 = true →
        fractionOfTable t) ∧
      (s.mc.config.role = some .turbine → (x.role = .exportTie ∨ x.role = .turbine) →
        turbineOfTable t ∧ gapOfTable t) ∧
      (∀ old, assocGet f.sender s.peers = some old → old.role ≠ x.role →
        (s.mc.config.role = some .townheat → (old.role = .boiler ∨ old.role = .producer) →
          old.mains.m2 = true → fractionOfTable t) ∧
        (s.mc.config.role = some .turbine → (old.role = .exportTie ∨ old.role = .turbine) →
          turbineOfTable t ∧ gapOfTable t)) ∧
      (s.mc.config.role ≠ some .townheat → t.mu = s.mu) ∧
      (s.mc.config.role ≠ some .turbine → t.turbine = s.turbine) ∧
      PeerEventFrame s t

/-- R21, R24, R25, R26, R32: a HELLO with a configured role. From an ABSENT number it creates an entry in
LISTEN-IN without records or claims. Of a PRESENT entry of its role and tag it sets mains, period, tag and
cause; where the cause is new it announces a restart: the claim set empties and the mode is LISTEN-IN. With
another role or a known tag that differs the entry is replaced whole. A removal, alone or in a replacement, is
reported to the block it concerns; a HELLO that removes nothing moves neither the purchased fraction nor the
turbine's want. No other entry and no other number's claim changes. A HELLO of role UNCONFIGURED creates no
entry; a PRESENT entry of its sender is removed with its claims, whatever the HELLO's mains, period and tag (R25). One
whose reset cause lies outside 1 to 3 is discarded (R183): FramesHeardAreQueuedOrDiscarded. A recomputation passes over
a tie without extras: notes/assumptions/35.md. -/
def Obligations.HelloUpdatesOrRemovesTheEntry : Prop :=
  (∀ (f : Frame) (rest : List Frame) (h : HelloRead) (s : State),
     s.liu.rx = f :: rest → f.kind = .hello → readHello f.payload = .configured h →
     ∃ t e, exec .helloDelivered s = .next t ∧ t.liu.rx = rest ∧
       assocGet f.sender t.peers = some e ∧
       (e.role = h.role ∧ e.mains = h.mains ∧ e.period = h.period ∧ e.tag = some h.tag ∧
         e.cause = some h.cause) ∧
       (∀ old, assocGet f.sender s.peers = some old → old.role = h.role →
         (old.tag = none ∨ old.tag = some h.tag) →
         e.records = old.records ∧ e.extras = old.extras ∧ e.age = old.age ∧ e.stale = old.stale ∧
           e.severity = old.severity ∧
           ((old.cause = none ∨ old.cause = some h.cause) → e.claims = old.claims ∧ e.mode = old.mode ∧
             ∀ l, f.sender ∈ (t.cu.get l).sources ↔ f.sender ∈ (s.cu.get l).sources) ∧
           (∀ c, old.cause = some c → c ≠ h.cause → e.mode = .listenIn ∧
             ∀ l, e.claims.get l = false ∧ f.sender ∉ (t.cu.get l).sources)) ∧
       ((assocGet f.sender s.peers = none ∨
           ∃ old, assocGet f.sender s.peers = some old ∧
             (old.role ≠ h.role ∨ ∃ g, old.tag = some g ∧ g ≠ h.tag)) →
         e.mode = .listenIn ∧ e.severity = .none ∧ e.records = [] ∧ e.extras = .none ∧ e.age = 0 ∧
           e.stale = false ∧ (∀ l, e.claims.get l = false) ∧
           (assocGet f.sender s.peers ≠ none → ∀ l, f.sender ∉ (t.cu.get l).sources)) ∧
       (∀ old, assocGet f.sender s.peers = some old →
         (old.role ≠ h.role ∨ ∃ g, old.tag = some g ∧ g ≠ h.tag) → ReportedFor old s t ∧
          (s.mc.config.role = some .turbine → old.role = .exportTie ∨ old.role = .turbine → gapOfTable t)) ∧
       ((∀ old, assocGet f.sender s.peers = some old →
           old.role = h.role ∧ (old.tag = none ∨ old.tag = some h.tag)) →
         t.mu = s.mu ∧ t.turbine = s.turbine) ∧
       (∀ n, n ≠ f.sender → assocGet n t.peers = assocGet n s.peers) ∧
       (∀ l n, n ≠ f.sender → (n ∈ (t.cu.get l).sources ↔ n ∈ (s.cu.get l).sources)) ∧
       PeerEventFrame s t) ∧
  (∀ (f : Frame) (rest : List Frame) (s : State),
     s.liu.rx = f :: rest → f.kind = .hello → at1 f.payload 0 = 7 →
     1 ≤ at1 f.payload 5 → at1 f.payload 5 ≤ 3 →
     ∃ t, exec .helloDelivered s = .next t ∧ t.liu.rx = rest ∧
       assocGet f.sender t.peers = none ∧
       (assocGet f.sender s.peers ≠ none → ∀ l, f.sender ∉ (t.cu.get l).sources) ∧
       (∀ old, assocGet f.sender s.peers = some old → ReportedFor old s t ∧
         (s.mc.config.role = some .turbine → old.role = .exportTie ∨ old.role = .turbine → gapOfTable t)) ∧
       (assocGet f.sender s.peers = none → t.mu = s.mu ∧ t.turbine = s.turbine) ∧
       (∀ n, n ≠ f.sender → assocGet n t.peers = assocGet n s.peers) ∧
       (∀ l n, n ≠ f.sender → (n ∈ (t.cu.get l).sources ↔ n ∈ (s.cu.get l).sources)) ∧
       PeerEventFrame s t)

/-- R28: a CLAIM of a PRESENT sender marks its entry and sets or clears its number in the line's source set;
of an ABSENT sender it is discarded. Age, standing and every other entry, line and number stand. -/
def Obligations.ClaimSetsTheSendersBit : Prop :=
  ∀ (f : Frame) (rest : List Frame) (l : ClaimLine) (g : Edge) (s : State),
    s.liu.rx = f :: rest → f.kind = .claim → readClaim f.payload = some (l, g) →
    (assocGet f.sender s.peers = none →
      exec .claimDelivered s = .next { s with liu := { s.liu with rx := rest } }) ∧
    (∀ e, assocGet f.sender s.peers = some e →
      ∃ t, exec .claimDelivered s = .next t ∧ t.liu.rx = rest ∧
        assocGet f.sender t.peers = some { e with claims := e.claims.set l (g == .assert) } ∧
        (∀ n, n ≠ f.sender → assocGet n t.peers = assocGet n s.peers) ∧
        (f.sender ∈ (t.cu.get l).sources ↔ g = .assert) ∧
        (∀ k n, (k ≠ l ∨ n ≠ f.sender) → (n ∈ (t.cu.get k).sources ↔ n ∈ (s.cu.get k).sources)) ∧
        PeerEventFrame s t)

/-- R27: a LEAVE of a PRESENT sender removes its entry at once, whatever its reason: the entry is ABSENT and
its number in no source set (R21), and the removal is reported (R32). Of an ABSENT sender it is taken and has
no effect on the table. -/
def Obligations.LeaveRemovesTheEntry : Prop :=
  ∀ (f : Frame) (rest : List Frame) (s : State), s.liu.rx = f :: rest → f.kind = .leave →
    (assocGet f.sender s.peers = none →
      exec .leaveDelivered s = .next { s with liu := { s.liu with rx := rest } }) ∧
    (∀ e, assocGet f.sender s.peers = some e →
      ∃ t, exec .leaveDelivered s = .next t ∧ t.liu.rx = rest ∧
        assocGet f.sender t.peers = none ∧ (∀ l, f.sender ∉ (t.cu.get l).sources) ∧
        (∀ n, n ≠ f.sender → assocGet n t.peers = assocGet n s.peers) ∧
        (∀ l n, n ≠ f.sender → (n ∈ (t.cu.get l).sources ↔ n ∈ (s.cu.get l).sources)) ∧
        ReportedFor e s t ∧ PeerEventFrame s t)

/-- R21, R29, R32: the thresholds of ageing. An entry whose age exceeds three of its periods becomes STALE and
keeps its claims; one whose age exceeds eight is removed with its claims. Each is reported to the block it
concerns, which recomputes the purchased fraction or the turbine's want (a tie without extras:
notes/assumptions/35.md). At or below its threshold an entry stands. -/
def Obligations.AgeingThresholds : Prop :=
  ∀ (node : Node) (e : PeerEntry) (s : State), assocGet node.val s.peers = some e →
    (e.stale = false → 3 * e.period < e.age →
      ∃ t, exec (.entryGoesStale node) s = .next t ∧
        assocGet node.val t.peers = some { e with stale := true } ∧
        (∀ n, n ≠ node.val → assocGet n t.peers = assocGet n s.peers) ∧ t.cu = s.cu ∧ t.rl = s.rl ∧
        t.liu = s.liu ∧ ReportedFor e s t ∧
        (s.mc.config.role = some .turbine → e.role = .exportTie ∨ e.role = .turbine → gapOfTable t) ∧
        PeerEventFrame s t) ∧
    (e.age ≤ 3 * e.period → exec (.entryGoesStale node) s = .next s) ∧
    (8 * e.period < e.age →
      ∃ t, exec (.entryGoesAbsent node) s = .next t ∧
        assocGet node.val t.peers = none ∧ (∀ l, node.val ∉ (t.cu.get l).sources) ∧
        (∀ n, n ≠ node.val → assocGet n t.peers = assocGet n s.peers) ∧
        (∀ l n, n ≠ node.val → (n ∈ (t.cu.get l).sources ↔ n ∈ (s.cu.get l).sources)) ∧
        t.liu.rx = s.liu.rx ∧ ReportedFor e s t ∧
        (s.mc.config.role = some .turbine → e.role = .exportTie ∨ e.role = .turbine → gapOfTable t) ∧
        PeerEventFrame s t) ∧
    (e.age ≤ 8 * e.period → exec (.entryGoesAbsent node) s = .next s)

/-- R75, R81, R83, R84, R85, R86, R94, R98, R99, R177: the first ASSERT of a line whose ladder is IDLE. On a line
that is no wake line: masked by configuration or by LISTEN-IN, it marks the line pending and reaches no
ladder. Open in ACTIVE, the ladder takes step 0: a NONE step completes at once and its dwell runs. On a wake
line the CLAIM RISE is latched too, and wakes a station in STANDBY-LISTEN to ACTIVE, with the latch cleared and each
pending, open, asserted line resampled, its IDLE ladder taking step 0 (R85, EntersActive in Safety.lean); that it does
so where a DEEP request waits is the model's reading of R177 against R181, notes/assumptions/52.md. -/
def Obligations.FirstAssertReachesTheLadder : Prop :=
  ∀ (f : Frame) (rest : List Frame) (l : ClaimLine) (e : PeerEntry) (s : State),
    s.liu.rx = f :: rest → f.kind = .claim → readClaim f.payload = some (l, .assert) →
    assocGet f.sender s.peers = some e → (s.cu.get l).sources = [] → (s.rl.get l).state = .idle →
    (s.mc.config.wakeSet.get l = false →
      ((s.mc.config.lines.get l).masked = true ∨ s.mc.mode = .listenIn →
        exec .claimDelivered s = .next { s with
          liu := { s.liu with rx := rest }
          peers := assocPut f.sender { e with claims := e.claims.set l true } s.peers
          cu := s.cu.set l { s.cu.get l with sources := [f.sender], pending := true } }) ∧
      (∀ st more, (s.mc.config.lines.get l).masked = false → s.mc.mode = .active →
        (s.mc.config.lines.get l).steps = st :: more → st.action = .none → (s.rl.get l).taken = 0 →
        exec .claimDelivered s = .next { s with
          liu := { s.liu with rx := rest }
          peers := assocPut f.sender { e with claims := e.claims.set l true } s.peers
          cu := s.cu.set l { s.cu.get l with sources := [f.sender] }
          rl := s.rl.set l ⟨.dwell, 1, some st.dwell, some .completed⟩ })) ∧
    (s.mc.config.wakeSet.get l = true →
      (s.mc.mode ∈ [Mode.listenIn, .active, .leaving] →
        ∃ t, exec .claimDelivered s = .next t ∧
          t.mc = { s.mc with latch := { s.mc.latch with claimRise := s.mc.latch.claimRise.set l true } } ∧
          (t.cu.get l).sources = [f.sender] ∧
          ((s.mc.config.lines.get l).masked = true ∨ s.mc.mode = .listenIn →
            (t.cu.get l).pending = true ∧ t.rl = s.rl) ∧
          ((s.mc.config.lines.get l).masked = false → s.mc.mode ≠ .listenIn →
            (s.mc.config.lines.get l).steps = [] → (s.rl.get l).taken = 0 →
            (t.cu.get l).pending = (s.cu.get l).pending ∧ t.rl = s.rl) ∧
          t.liu.rx = rest ∧ t.tie = s.tie ∧ t.mu = s.mu ∧ t.dc = s.dc ∧ t.rs = s.rs ∧ t.pending = s.pending) ∧
      (s.mc.mode = .standbyListen →
        ∃ t, exec .claimDelivered s = .next t ∧ EntersActive { s with
            liu := { s.liu with rx := rest }
            peers := assocPut f.sender { e with claims := e.claims.set l true } s.peers
            cu := s.cu.set l { s.cu.get l with sources := [f.sender], pending := true } } t))

/-! ### The Day Clock -/

/-- R151, R152, R156, R157: a metering second outside LOADING, in every role: the timers count, the peer
entries age, and but for the accounting of a TOWNHEAT or EXPORT TIE nothing else changes. With no step and no
hold the time value advances by one second; 86399 is followed by second 0 of the next day, day 65535 by day 0.
The trim accumulator takes the trim's magnitude at every second; each 1024 of it are paid by a second one base
period longer or shorter, and every other second has 32768. In LOADING the time value alone runs on and no
block receives the second: the model's reading of R152 and R159, notes/assumptions/25.md; that the trim is
paid at the metering second is notes/assumptions/19.md. A pending step not before the span start is taken, the
value one second on; one before it is clamped to the span start and held, the reference time running from the
pending time until it reaches the clamp point. A hold that stands keeps the value and runs the reference on; a
time adopted during it and before the clamp point clamps again, one up to one second after it ends the hold.
Which second is the first held one, and which ends a hold, is notes/assumptions/18.md. -/
def Obligations.MeteringSecondEffect : Prop :=
  (∀ s : State, s.mc.mode ≠ .loading →
     ∃ t, exec .meteringSecond s = .next t ∧ SecondFrame s t ∧
       (s.dc.hold = none → s.dc.pendingStep = none →
         t.dc.time = (if s.dc.time.sec < 86399 then ⟨s.dc.time.day, s.dc.time.sec + 1⟩
           else ⟨(s.dc.time.day + 1) % 65536, 0⟩) ∧ t.dc.hold = none ∧ t.dc.pendingStep = none) ∧
       (s.mc.config.role ≠ some .townheat → s.mc.config.role ≠ some .exportTie →
         t.tie = s.tie ∧ t.rs = s.rs ∧ t.mu = { s.mu with heldSeconds := t.mu.heldSeconds } ∧
         (s.dc.hold = none → s.dc.pendingStep = none → t.mu = s.mu ∧ t.freeNext = s.freeNext ∧
           t.dc.spanStart = s.dc.spanStart))) ∧
  (∀ s : State, s.mc.mode = .loading →
     exec .meteringSecond s = .next { s with dc := { s.dc with
       time := if s.dc.time.sec < 86399 then ⟨s.dc.time.day, s.dc.time.sec + 1⟩
         else ⟨(s.dc.time.day + 1) % 65536, 0⟩ } }) ∧
  (∀ s : State, s.mc.mode ≠ .loading → s.dc.trim.natAbs ≤ 1023 → s.dc.trimAcc ≤ 1023 →
     ∃ t, exec .meteringSecond s = .next t ∧ t.dc.trimAcc ≤ 1023 ∧
       ((t.dc.secondLength = 32768 ∧ t.dc.trimAcc = s.dc.trimAcc + s.dc.trim.natAbs) ∨
         (t.dc.secondLength = (if 0 < s.dc.trim then 32769 else 32767) ∧
           t.dc.trimAcc + 1024 = s.dc.trimAcc + s.dc.trim.natAbs))) ∧
  (∀ s : State, s.mc.mode ≠ .loading →
    (∀ f, s.dc.hold = none → s.dc.pendingStep = some f →
      (∀ p, s.dc.spanStart = some p → posNumber p ≤ posNumber f) →
      ∃ t, exec .meteringSecond s = .next t ∧ SecondFrame s t ∧
        t.dc.time = nextSecond f ∧ t.dc.pendingStep = none ∧ t.dc.hold = none) ∧
    (∀ f p, s.dc.hold = none → s.dc.pendingStep = some f → s.dc.spanStart = some p →
      posNumber f < posNumber p →
      ∃ t, exec .meteringSecond s = .next t ∧ SecondFrame s t ∧
        t.dc.time = p ∧ t.dc.pendingStep = none ∧
        t.dc.hold = (if posNumber p ≤ posNumber (nextSecond f) then none else some ⟨p, nextSecond f⟩)) ∧
    (∀ h, s.dc.hold = some h → s.dc.pendingStep = none →
      ∃ t, exec .meteringSecond s = .next t ∧ SecondFrame s t ∧
        t.dc.time = s.dc.time ∧ t.dc.pendingStep = none ∧
        t.dc.hold = if posNumber h.point ≤ posNumber (nextSecond h.reference) then none
          else some ⟨h.point, nextSecond h.reference⟩) ∧
    (∀ h f, s.dc.hold = some h → s.dc.pendingStep = some f → posNumber f < posNumber h.point →
      ∃ t, exec .meteringSecond s = .next t ∧ SecondFrame s t ∧
        t.dc.time = h.point ∧ t.dc.pendingStep = none ∧
        t.dc.hold = if posNumber h.point ≤ posNumber (nextSecond f) then none else some ⟨h.point, nextSecond f⟩) ∧
    (∀ h f, s.dc.hold = some h → s.dc.pendingStep = some f → posNumber h.point ≤ posNumber f →
      posNumber f ≤ posNumber h.point + 1 →
      ∃ t, exec .meteringSecond s = .next t ∧ SecondFrame s t ∧
        t.dc.time = s.dc.time ∧ t.dc.pendingStep = none ∧ t.dc.hold = none))

/-- R153, R154, R155, R157: a TIME SET at the tie, and a TIME frame of quality SYNCED at every other station,
with a second of day that is one, adopts the time: quality SYNCED, the sync timer at 600 s, TIME FREE cleared,
and, with no hold standing, a pending step where the time differs from the value by more than one second.
During a hold the time is the pending step whatever its distance, and ends the hold where it lies more than
one second after the clamp point (that it stands as the pending step until the next second:
notes/assumptions/18.md). A TIME SET whose second of day exceeds 86399 changes nothing but the link; a TIME
frame at the tie, of a lower quality, or with such a second of day only leaves the receive queue. -/
def Obligations.AdoptionSyncsTheClock : Prop :=
  ((∀ (day sec : Nat) (s : State), day < 65536 → sec ≤ 86399 → s.mc.config.role = some .exportTie →
     s.mc.mode ≠ .loading → s.dc.hold = none →
     exec (.timeSet day sec) s = .next { s with
       dc := { s.dc with
         quality := .synced, syncTimer := some 600
         pendingStep :=
           if posNumber ⟨day, sec⟩ ≤ posNumber s.dc.time + 1 ∧ posNumber s.dc.time ≤ posNumber ⟨day, sec⟩ + 1
           then none else some ⟨day, sec⟩ }
       fp := { s.fp with link := .up, linkTimer := some 10 }
       mc := { s.mc with faults := s.mc.faults.filter fun x =>
         x.kind != .fieldLinkLost && x.kind != .timeFree } }) ∧
   (∀ (f : Frame) (rest : List Frame) (p : TimePos) (s : State), s.liu.rx = f :: rest → f.kind = .time →
     readTime f.payload = some (p, .synced) → p.sec ≤ 86399 → s.mc.config.role ≠ some .exportTie →
     s.dc.hold = none →
     exec .timeDelivered s = .next { s with
       liu := { s.liu with rx := rest }
       dc := { s.dc with
         quality := .synced, syncTimer := some 600
         pendingStep :=
           if posNumber p ≤ posNumber s.dc.time + 1 ∧ posNumber s.dc.time ≤ posNumber p + 1
           then none else some p }
       mc := { s.mc with faults := s.mc.faults.filter fun x => x.kind != .timeFree } })) ∧
  ((∀ (day sec : Nat) (s : State), day < 65536 → 86399 < sec → s.mc.config.role = some .exportTie →
     s.mc.mode ≠ .loading →
     exec (.timeSet day sec) s = .next { s with
       fp := { s.fp with link := .up, linkTimer := some 10 }
       mc := { s.mc with faults := s.mc.faults.filter fun x => x.kind != .fieldLinkLost } }) ∧
   (∀ (f : Frame) (rest : List Frame) (p : TimePos) (q : Quality) (s : State), s.liu.rx = f :: rest →
     f.kind = .time → readTime f.payload = some (p, q) →
     (s.mc.config.role = some .exportTie ∨ q ≠ .synced ∨ 86399 < p.sec) →
     exec .timeDelivered s = .next { s with liu := { s.liu with rx := rest } })) ∧
  ((∀ (day sec : Nat) (h : Hold) (s : State), day < 65536 → sec ≤ 86399 → s.mc.config.role = some .exportTie →
     s.mc.mode ≠ .loading → s.dc.hold = some h →
     exec (.timeSet day sec) s = .next { s with
       dc := { s.dc with
         quality := .synced, syncTimer := some 600, pendingStep := some ⟨day, sec⟩
         hold := if posNumber ⟨day, sec⟩ ≤ posNumber h.point + 1 then some h else none }
       fp := { s.fp with link := .up, linkTimer := some 10 }
       mc := { s.mc with faults := s.mc.faults.filter fun x =>
         x.kind != .fieldLinkLost && x.kind != .timeFree } }) ∧
   (∀ (f : Frame) (rest : List Frame) (p : TimePos) (h : Hold) (s : State), s.liu.rx = f :: rest → f.kind = .time →
     readTime f.payload = some (p, .synced) → p.sec ≤ 86399 → s.mc.config.role ≠ some .exportTie →
     s.dc.hold = some h →
     exec .timeDelivered s = .next { s with
       liu := { s.liu with rx := rest }
       dc := { s.dc with
         quality := .synced, syncTimer := some 600, pendingStep := some p
         hold := if posNumber p ≤ posNumber h.point + 1 then some h else none }
       mc := { s.mc with faults := s.mc.faults.filter fun x => x.kind != .timeFree } }))

/-! ### Metering and settlement -/

/-- R138 to R141, R145, R157: a metering second of a TOWNHEAT that is no hour boundary and takes no step forward. The
energy of the second, F × (Ts − Tr) × 419 centijoules of the held sample and 0 where it is missing or reverse, is
split by the purchased fraction; whole kWh pass from the remainders to the counts, and nothing is lost. The missing,
reverse and over-range counts each take their second, to 65535 at most, and the lowest time quality is kept
(which quality a second reads at which the sync timer expires: notes/assumptions/49.md). With no hold the minute check
comes at each aligned minute. A held second is integrated too, makes no check itself, and is counted: each 60th, and
the one at which the hold ends, makes the hold's check due. At a clamp the minute check comes first, the interval
stays open, flagged TIME STEPPED, the second is integrated and is the first held one (notes/assumptions/18.md). With
no interval open the held sample is cleared and nothing is counted. Counts that would pass 32 bits are left out:
notes/assumptions/20.md. -/
def Obligations.TownSecondConservesEnergy : Prop :=
  (∀ (i : Interval) (s : State), s.mc.mode ≠ .loading → s.mc.config.role = some .townheat →
    s.mu.openInterval = some i → s.mu.fraction ≤ 1000 →
    s.mu.worksRem < 360000000 → s.mu.purchRem < 360000000 →
    let e := energyOfSecond s
    i.works + (s.mu.worksRem + e) / 360000000 < 2 ^ 32 →
    i.purchased + (s.mu.purchRem + e) / 360000000 < 2 ^ 32 →
    (s.dc.hold = none → s.dc.pendingStep = none → (nextSecond s.dc.time).sec % 3600 ≠ 0 →
      ∃ t j, exec .meteringSecond s = .next t ∧ SecondFrame s t ∧ SecondIntegrated i j s t ∧ j.flags = i.flags ∧
        ((nextSecond s.dc.time).sec % 60 ≠ 0 → t.mu.minuteAcc = s.mu.minuteAcc + e ∧ j.peak = i.peak) ∧
        ((nextSecond s.dc.time).sec % 60 = 0 →
          t.mu.minuteAcc = 0 ∧ j.peak = Nat.max i.peak ((s.mu.minuteAcc + e) / 360000000)) ∧
        t.mu.heldSeconds = s.mu.heldSeconds ∧ t.mu.holdCheckDue = s.mu.holdCheckDue) ∧
    (∀ ends, HeldAt ends s →
      ∃ t j, exec .meteringSecond s = .next t ∧ SecondFrame s t ∧ SecondIntegrated i j s t ∧ j.flags = i.flags ∧
        t.mu.minuteAcc = s.mu.minuteAcc + e ∧ j.peak = i.peak ∧ HeldSecondCounted s.mu.heldSeconds ends s t) ∧
    (∀ point f, ClampsTo point f s → posNumber point < posNumber i.start + i.planned →
      ∃ t j, exec .meteringSecond s = .next t ∧ SecondFrame s t ∧ SecondIntegrated i j s t ∧
        j.flags = { i.flags with timeStepped := true } ∧
        t.mu.minuteAcc = e ∧ j.peak = Nat.max i.peak (s.mu.minuteAcc / 360000000) ∧
        HeldSecondCounted 0 (posNumber point ≤ posNumber (nextSecond f)) s t)) ∧
  (∀ s : State, s.mc.mode ≠ .loading → s.mc.config.role = some .townheat → s.mu.openInterval = none →
    s.dc.pendingStep = none →
    ∃ t, exec .meteringSecond s = .next t ∧ SecondFrame s t ∧
      t.mu = { s.mu with
        held := none, heldSeconds := t.mu.heldSeconds, holdCheckDue := t.mu.holdCheckDue
        minuteAcc := if s.dc.hold = none ∧ (nextSecond s.dc.time).sec % 60 = 0 then 0 else s.mu.minuteAcc } ∧
      (s.dc.hold = none → t.mu.heldSeconds = s.mu.heldSeconds ∧ t.mu.holdCheckDue = s.mu.holdCheckDue) ∧
      t.rs = s.rs ∧ t.tie = s.tie ∧ t.dc.spanStart = s.dc.spanStart)

/-- R138, R140 to R144: the second that ends a clock hour of an open interval. The second is integrated first,
with a sample held or without: its energy is split by the purchased fraction, whole kWh pass from the
remainders to the counts, and the missing, reverse and over-range counts take it. Then the peak minute is
taken, the BILL record is handed over with the hour's counts and committed, and the next interval opens at the
boundary with the band of its hour, the remainders standing. Counts that would pass 32 bits are left out:
notes/assumptions/20.md. Which quality a second reads at which the sync timer expires:
notes/assumptions/49.md. -/
def Obligations.HourBoundaryBillsTheInterval : Prop :=
  ∀ (i : Interval) (s : State), s.mc.mode ≠ .loading → s.mc.config.role = some .townheat →
    s.dc.hold = none → s.dc.pendingStep = none → (nextSecond s.dc.time).sec % 3600 = 0 →
    s.mu.openInterval = some i → (s.mu.held ≠ none → s.mu.fraction ≤ 1000) →
    s.mu.worksRem < 360000000 → s.mu.purchRem < 360000000 →
    let e := match s.mu.held with
      | none => 0
      | some x => x.flow * (x.supply - x.return_) * 419
    i.works + (s.mu.worksRem + e) / 360000000 < 2 ^ 32 →
    i.purchased + (s.mu.purchRem + e) / 360000000 < 2 ^ 32 →
    secondsFrom i.start (nextSecond s.dc.time) = i.planned → i.planned ≤ 3600 →
    s.rs.holdQueue = [] → s.rs.inFlight = false → noneLost s.rs → s.rs.nextSeq + 1 < 2 ^ 32 →
    ∃ t works purchased, exec .meteringSecond s = .next t ∧ SecondFrame s t ∧
      (purchased * 360000000 + t.mu.purchRem =
        i.purchased * 360000000 + s.mu.purchRem + e * s.mu.fraction / 1000) ∧
      (works * 360000000 + t.mu.worksRem + (purchased * 360000000 + t.mu.purchRem) =
        i.works * 360000000 + s.mu.worksRem + (i.purchased * 360000000 + s.mu.purchRem) + e) ∧
      t.mu.worksRem < 360000000 ∧ t.mu.purchRem < 360000000 ∧
      t.rs = { s.rs with
        nextSeq := s.rs.nextSeq + 1, firstHandOver := false, inFlight := true
        slots := assocErase ((s.rs.nextSeq + 1023) % 1024) s.rs.slots
        holdQueue := [.bill
          { seq := s.rs.nextSeq, start := i.start, length := i.planned, band := i.band
            quality := lowerQuality i.quality s.dc.quality, works := works, purchased := purchased
            peak := Nat.max i.peak ((s.mu.minuteAcc + e) / 360000000)
            missing := if s.mu.held = none then Nat.min (i.missing + 1) 65535 else i.missing
            reverse := match s.mu.held with
              | none => i.reverse
              | some x => if x.supply ≤ x.return_ then Nat.min (i.reverse + 1) 65535 else i.reverse
            overRange := match s.mu.held with
              | none => i.overRange
              | some x => if x.overRange then Nat.min (i.overRange + 1) 65535 else i.overRange
            flags := i.flags }] } ∧
      t.mu = { s.mu with
        held := none, worksRem := t.mu.worksRem, purchRem := t.mu.purchRem, minuteAcc := 0
        openInterval := some
          { start := nextSecond s.dc.time, planned := 3600
            band := s.mc.config.tariff.getD ((nextSecond s.dc.time).sec / 3600) 0
            works := 0, purchased := 0, peak := 0, missing := 0, reverse := 0, overRange := 0
            quality := s.dc.quality, flags := noFlags } } ∧
      t.dc.spanStart = some (nextSecond s.dc.time) ∧ t.tie = s.tie

/-- R124, R125, R127, R157: a metering second of an EXPORT TIE that is no half hour and takes no step forward. A second
of an open settlement period without a sample is missing, the mark is cleared, the lowest quality kept; the gap is 0
where E has reached C, and otherwise the power that delivers the rest in the time left, rounded up and at most 20000
SU. A held second is counted so too, the time left standing as the time value stands at the clamp point. At a clamp the
period stays open, flagged TIME STEPPED, with E, C and P as they stand, the second is counted, and the time left is
that of the clamp point (that it is the first held second: notes/assumptions/18.md). With no period open nothing is
counted, no period is opened, and the gap is 0. -/
def Obligations.TieSecondCountsAndRecomputesTheGap : Prop :=
  (∀ (p : Period) (s : State), s.mc.mode ≠ .loading → s.mc.config.role = some .exportTie →
    s.tie.openPeriod = some p →
    (s.dc.hold = none → s.dc.pendingStep = none → (nextSecond s.dc.time).sec % 1800 ≠ 0 →
      posNumber (nextSecond s.dc.time) < posNumber p.start + p.planned →
      ∃ t, exec .meteringSecond s = .next t ∧ SecondFrame s t ∧
        TieSecondCounted p p.flags (nextSecond s.dc.time) s t ∧ t.mu = s.mu) ∧
    (∀ ends, HeldAt ends s → posNumber s.dc.time < posNumber p.start + p.planned →
      ∃ t, exec .meteringSecond s = .next t ∧ SecondFrame s t ∧
        TieSecondCounted p p.flags s.dc.time s t ∧ t.mu = s.mu) ∧
    (∀ point f, ClampsTo point f s → posNumber point < posNumber p.start + p.planned →
      ∃ t, exec .meteringSecond s = .next t ∧ SecondFrame s t ∧
        TieSecondCounted p { p.flags with timeStepped := true } point s t)) ∧
  (∀ s : State, s.mc.mode ≠ .loading → s.mc.config.role = some .exportTie → s.tie.openPeriod = none →
    s.dc.pendingStep = none →
    ∃ t, exec .meteringSecond s = .next t ∧ SecondFrame s t ∧
      (s.dc.hold ≠ none ∨ (nextSecond s.dc.time).sec % 1800 ≠ 0 → t.tie = { s.tie with gap := 0 }) ∧
      (s.dc.hold = none → (nextSecond s.dc.time).sec % 1800 = 0 →
        t.tie = { s.tie with slotA := t.tie.slotA, slotB := t.tie.slotB }) ∧
      t.rs = s.rs ∧ t.mu = s.mu ∧ t.dc.spanStart = s.dc.spanStart)

/-- R120, R122, R126, R129: the second that ends a half hour of an open settlement period. Against C = floor(P
× L / 36) the deviation E − C and the tolerance floor(C × tolerance / 1000) give the verdict and the penalty;
the SETTLE record is handed over and committed, and the next period opens at the boundary with the schedule's
entry for it, or 0 and NO SCHEDULE where there is none. -/
def Obligations.HalfHourBoundarySettlesThePeriod : Prop :=
  ∀ (p : Period) (s : State), s.mc.mode ≠ .loading → s.mc.config.role = some .exportTie →
    s.dc.hold = none → s.dc.pendingStep = none → (nextSecond s.dc.time).sec % 1800 = 0 →
    s.tie.openPeriod = some p → p.planned ≤ 1800 → p.commitment ≤ 20000 →
    secondsFrom p.start (nextSecond s.dc.time) = p.planned →
    -2147483648 ≤ p.energyE - ((p.commitment * p.planned / 36 : Nat) : Int) → p.energyE ≤ 2147483647 →
    s.rs.holdQueue = [] → s.rs.inFlight = false → noneLost s.rs → s.rs.nextSeq + 1 < 2 ^ 32 →
    let c := p.commitment * p.planned / 36
    let dev := p.energyE - (c : Int)
    let tol := c * s.mc.config.tolerance / 1000
    let verdict := if dev.natAbs ≤ tol then Verdict.within else if dev < 0 then .under else .over
    let entry := (slotOfDay (nextSecond s.dc.time).day s.tie).bind fun d =>
      (d.entries[(nextSecond s.dc.time).sec / 1800]?).join
    ∃ t q, exec .meteringSecond s = .next t ∧ SecondFrame s t ∧
      t.rs = { s.rs with
        nextSeq := s.rs.nextSeq + 1, firstHandOver := false, inFlight := true
        slots := assocErase ((s.rs.nextSeq + 1023) % 1024) s.rs.slots
        holdQueue := [.settle
          { seq := s.rs.nextSeq, start := p.start, length := p.planned, commitment := p.commitment
            energyC := c, energyE := p.energyE, deviation := dev, tolerance := tol
            penalty := dev.natAbs - tol
            verdict := verdict, quality := lowerQuality p.quality s.dc.quality
            missing := if s.tie.mark then p.missing else Nat.min (p.missing + 1) 65535
            flags := p.flags }] } ∧
      t.tie.lastVerdict = some (verdict, dev.natAbs - tol) ∧
      t.tie.openPeriod = some q ∧ t.tie.mark = false ∧
      (q.start = nextSecond s.dc.time ∧ q.planned = 1800 ∧ q.energyE = 0 ∧ q.missing = 0 ∧
        q.quality = s.dc.quality ∧ q.energyC = q.commitment * 1800 / 36) ∧
      q.commitment = entry.getD 0 ∧ q.flags = { noFlags with noSchedule := entry.isNone } ∧
      t.dc.spanStart = some (nextSecond s.dc.time) ∧ t.mu = s.mu

/-- R127, R145, R156: a pending step taken at a metering second, the second after it no boundary of the span
and without a sample. To a position before the end of the open span, the span stays open, flagged TIME
STEPPED. To a later one, the span closes at its own end, flagged TIME STEPPED, and a new one opens at the
start of the half hour or hour of the new time, flagged TIME STEPPED; the interval's minute check comes first.
The seconds passed over are no missing seconds: the one second that ends is. A record's time quality takes in
the Day Clock's at the close (notes/assumptions/43.md). What a clamp and its hold do is in
TownSecondConservesEnergy and TieSecondCountsAndRecomputesTheGap. -/
def Obligations.TimeStepsAreAccounted : Prop :=
  ∀ (f : TimePos) (s : State), s.mc.mode ≠ .loading → s.dc.hold = none → s.dc.pendingStep = some f →
    (∀ p, s.dc.spanStart = some p → posNumber p ≤ posNumber f) →
    s.rs.holdQueue = [] → s.rs.inFlight = false → noneLost s.rs → s.rs.nextSeq + 1 < 2 ^ 32 →
    let handed := fun (x : StoreRecord) => { s.rs with
      nextSeq := s.rs.nextSeq + 1, firstHandOver := false, inFlight := true, holdQueue := [x]
      slots := assocErase ((s.rs.nextSeq + 1023) % 1024) s.rs.slots }
    (∀ p, s.mc.config.role = some .exportTie → s.tie.openPeriod = some p → (nextSecond f).sec % 1800 ≠ 0 →
      (posNumber f < posNumber p.start + p.planned →
        ∃ t, exec .meteringSecond s = .next t ∧ SecondFrame s t ∧ t.dc.time = nextSecond f ∧
          t.tie = { s.tie with
            openPeriod := some { p with
              missing := if s.tie.mark then p.missing else Nat.min (p.missing + 1) 65535
              quality := lowerQuality p.quality s.dc.quality, flags := { p.flags with timeStepped := true } }
            mark := false, gap := t.tie.gap } ∧
          t.rs = s.rs ∧ t.mu = s.mu ∧ t.dc.spanStart = s.dc.spanStart) ∧
      (posNumber p.start + p.planned ≤ posNumber f →
        ∃ t x q, exec .meteringSecond s = .next t ∧ SecondFrame s t ∧ t.dc.time = nextSecond f ∧
          t.rs = handed (.settle x) ∧
          x.seq = s.rs.nextSeq ∧ x.start = p.start ∧ x.length = p.planned ∧ x.commitment = p.commitment ∧
          x.energyC = p.commitment * p.planned / 36 ∧ x.energyE = p.energyE ∧ x.missing = p.missing ∧
          x.quality = lowerQuality p.quality s.dc.quality ∧ x.flags = { p.flags with timeStepped := true } ∧
          t.tie.openPeriod = some q ∧ q.start = ⟨f.day, 1800 * (f.sec / 1800)⟩ ∧ q.planned = 1800 ∧
          q.energyE = 0 ∧ q.missing = 1 ∧
          q.flags = { noFlags with timeStepped := true, noSchedule := q.flags.noSchedule } ∧
          t.dc.spanStart = some q.start ∧ t.mu = s.mu)) ∧
    (∀ i, s.mc.config.role = some .townheat → s.mu.openInterval = some i → s.mu.held = none →
      (nextSecond f).sec % 3600 ≠ 0 → s.mu.worksRem < 360000000 → s.mu.purchRem < 360000000 →
      i.works < 2 ^ 32 → i.purchased < 2 ^ 32 →
      let peak := Nat.max i.peak (s.mu.minuteAcc / 360000000)
      (posNumber f < posNumber i.start + i.planned →
        ∃ t, exec .meteringSecond s = .next t ∧ SecondFrame s t ∧ t.dc.time = nextSecond f ∧
          t.mu = { s.mu with
            minuteAcc := 0
            openInterval := some { i with
              peak := peak, missing := Nat.min (i.missing + 1) 65535
              quality := lowerQuality i.quality s.dc.quality, flags := { i.flags with timeStepped := true } } } ∧
          t.rs = s.rs ∧ t.tie = s.tie ∧ t.dc.spanStart = s.dc.spanStart) ∧
      (posNumber i.start + i.planned ≤ posNumber f →
        ∃ t, exec .meteringSecond s = .next t ∧ SecondFrame s t ∧ t.dc.time = nextSecond f ∧
          t.rs = handed (.bill
            { seq := s.rs.nextSeq, start := i.start, length := i.planned, band := i.band
              quality := lowerQuality i.quality s.dc.quality
              works := i.works, purchased := i.purchased, peak := peak, missing := i.missing
              reverse := i.reverse, overRange := i.overRange, flags := { i.flags with timeStepped := true } }) ∧
          t.mu = { s.mu with
            minuteAcc := 0
            openInterval := some
              { start := ⟨f.day, 3600 * (f.sec / 3600)⟩, planned := 3600
                band := s.mc.config.tariff.getD (f.sec / 3600) 0
                works := 0, purchased := 0, peak := 0, missing := 1, reverse := 0, overRange := 0
                quality := s.dc.quality, flags := { noFlags with timeStepped := true } } } ∧
          t.tie = s.tie ∧ t.dc.spanStart = some ⟨f.day, 3600 * (f.sec / 3600)⟩))

/-! ### The share -/

/-- R46, R48, R49, R136, R137: CAPABILITY, GAS MEASURE, HEAT OUT and DEMAND hold their value within 20000 SU.
A capability or a demand changes the want, which the grants, and outside fallback the output, come down to at
once, SETPOINT sent where the output falls (R48). A HEAT SAMPLE holds each value within its range and marks
the sample over-range where one was held; a BAD one leaves the held sample. All are messages, so the link is
UP with its timer at 10 s. -/
def Obligations.MeasuresAreHeldWithinRange : Prop :=
  (∀ (flow supply return_ : Nat) (s : State), s.mc.mode ≠ .loading → s.mc.config.role = some .townheat →
    exec (.heatSample .ok flow supply return_) s = .next { s with
      mu := { s.mu with
        held := some ⟨Nat.min flow 50000, Nat.min supply 20000, Nat.min return_ 20000,
          decide (50000 < flow ∨ 20000 < supply ∨ 20000 < return_)⟩ }
      fp := { s.fp with link := .up, linkTimer := some 10 }
      mc := { s.mc with faults := s.mc.faults.filter fun x => x.kind != .fieldLinkLost } } ∧
    exec (.heatSample .bad flow supply return_) s = .next { s with
      fp := { s.fp with link := .up, linkTimer := some 10 }
      mc := { s.mc with faults := s.mc.faults.filter fun x => x.kind != .fieldLinkLost } }) ∧
  (∀ (su : Nat) (s : State), s.mc.mode ≠ .loading → s.mc.config.role = some .townheat →
    ∃ t, exec (.demand su) s = .next t ∧
      baseWant t = (Nat.min s.mc.config.guaranteedMin (Nat.min su 20000), Nat.min su 20000) ∧
      LoweredToWant s t ∧
      t = { s with
        mu := { s.mu with demand := some (Nat.min su 20000) }
        se := t.se
        fp := { s.fp with link := .up, linkTimer := some 10, out := s.fp.out ++ setpointSent s t }
        mc := { s.mc with faults := s.mc.faults.filter fun x => x.kind != .fieldLinkLost } }) ∧
  (∀ (su : Nat) (s : State), s.mc.mode ≠ .loading →
    s.mc.config.role = some .consumer ∨ s.mc.config.role = some .boiler →
    ∃ t, exec (.capability su) s = .next t ∧
      LoweredToWant { s with se := { s.se with capability := some (Nat.min su 20000) } } t ∧
      t = { s with
        se := t.se
        fp := { s.fp with link := .up, linkTimer := some 10, out := s.fp.out ++ setpointSent s t }
        mc := { s.mc with faults := s.mc.faults.filter fun x => x.kind != .fieldLinkLost } }) ∧
  (∀ (su : Nat) (s : State), s.mc.mode ≠ .loading → s.mc.config.role = some .producer →
    (s.mc.config.main ≠ .m2 → exec (.gasMeasure su) s = .next { s with
      se := { s.se with measured := some (Nat.min su 20000) }
      fp := { s.fp with link := .up, linkTimer := some 10 }
      mc := { s.mc with faults := s.mc.faults.filter fun x => x.kind != .fieldLinkLost } }) ∧
    (s.mc.config.main = .m2 → exec (.heatOut su) s = .next { s with
      se := { s.se with measured := some (Nat.min su 20000) }
      fp := { s.fp with link := .up, linkTimer := some 10 }
      mc := { s.mc with faults := s.mc.faults.filter fun x => x.kind != .fieldLinkLost } })) ∧
  (∀ (su : Nat) (s : State), s.mc.mode ≠ .loading → s.mc.config.role = some .boiler →
    exec (.heatOut su) s = .next { s with
      se := { s.se with measured := some (Nat.min su 20000) }
      fp := { s.fp with link := .up, linkTimer := some 10 }
      mc := { s.mc with faults := s.mc.faults.filter fun x => x.kind != .fieldLinkLost } })

/-- R45, R46, R47, R49, R50, R94, R115, R116, R132: the want, the offer and the role extras a station states.
In standby both are 0. Otherwise a SHED step standing taken on the want main makes the max the base min, and
else the RAISE amounts standing taken there lift a max that is not 0; the max comes down to the capacity and
the min to the max. A BOILER's base want and its offer follow the fuel mode; a PRODUCER's offer is its latest
measured value. The extras of an EXPORT TIE are the export gap and the open period's commitment, both 0 while
none is open, where the gap is 0 (TablesStayCanonical); those of a TURBINE its capacity and steam rate; no
other role has any. -/
def Obligations.WantAndOfferFollowTheirRules : Prop :=
  (∀ (m : Main) (s : State), wantMain s.mc.config = some m →
     let c := s.mc.config
     let lo := Nat.min (baseWant s).1 20000
     let hi := Nat.min (baseWant s).2 20000
     let standing := (c.lines.get ⟨m, .shortfall⟩).steps.take (s.rl.get ⟨m, .shortfall⟩).taken ++
       (c.lines.get ⟨m, .surplus⟩).steps.take (s.rl.get ⟨m, .surplus⟩).taken
     let raised := sumOf (standing.map fun x => match x.action with | .raise n => n | _ => 0)
     (s.mc.mode = .standbyListen ∨ s.mc.mode = .standbyDeep → effectiveWant s = (0, 0)) ∧
     (s.mc.mode ≠ .standbyListen → s.mc.mode ≠ .standbyDeep →
       (∀ x ∈ standing, x.action = .shed → effectiveWant s = (Nat.min lo c.capacity, Nat.min lo c.capacity)) ∧
       ((∀ x ∈ standing, x.action ≠ .shed) → hi = 0 → effectiveWant s = (0, 0)) ∧
       ((∀ x ∈ standing, x.action ≠ .shed) → 0 < hi →
         (effectiveWant s).2 = Nat.min (hi + raised) c.capacity ∧
         (effectiveWant s).1 = Nat.min lo (Nat.min (hi + raised) c.capacity)))) ∧
  (∀ s : State, let c := s.mc.config
     let gas := match s.se.capability with | some v => Nat.min c.max v | none => c.max
     let offered := s.mc.mode ≠ .standbyListen ∧ s.mc.mode ≠ .standbyDeep
     (c.role = some .consumer → baseWant s = (c.min, gas) ∧ ownRecords s =
       [.want c.main (effectiveWant s).1 (effectiveWant s).2 c.minClass c.headClass]) ∧
     (c.role = some .boiler →
       ∃ offer fuel, ownRecords s =
         [.want c.main (effectiveWant s).1 (effectiveWant s).2 c.minClass c.headClass,
          .offer .m2 offer (s.se.measured.getD 0) fuel] ∧
       (¬offered → offer = 0) ∧
       (s.fu.mode = .gas → baseWant s = (c.min, gas) ∧ fuel = .gas ∧
         (offered → offer = Nat.min (s.se.setpoint * c.efficiency / 1000) c.heatCapacity)) ∧
       (s.fu.mode = .toBackup ∨ s.fu.mode = .toGas → baseWant s = (0, gas / 2) ∧ fuel = .changeover ∧
         (offered → offer = c.heatCapacity / 2)) ∧
       (s.fu.mode = .backup → baseWant s = (0, 0) ∧ fuel = .backup ∧ (offered → offer = c.heatCapacity)) ∧
       (s.fu.mode = .unknown → baseWant s = (0, 0) ∧ fuel = .unknown ∧ offer = 0)) ∧
     (c.role = some .producer → ownRecords s =
       [.offer c.main (if offered then s.se.measured.getD 0 else 0) (s.se.measured.getD 0) .none]) ∧
     (c.role = some .turbine → baseWant s = (s.turbine.baseMin, s.turbine.baseMax) ∧
       ownRecords s = [.want .m2 (effectiveWant s).1 (effectiveWant s).2 1 3]) ∧
     (c.role = some .townheat → (s.mu.demand = none → baseWant s = (0, 0)) ∧
       ownRecords s = [.want .m2 (effectiveWant s).1 (effectiveWant s).2 0 2]) ∧
     (c.role = some .holder → ownRecords s = [.holder c.main s.hu.level s.hu.band (drawLimit s) (absorbLimit s)]) ∧
     (c.role = some .exportTie → ownRecords s = [] ∧
       (∀ p, s.tie.openPeriod = some p → ownExtras s = some (s.tie.gap, p.commitment)) ∧
       (s.tie.openPeriod = none → s.tie.gap = 0 → ownExtras s = some (0, 0))) ∧
     (c.role = some .turbine → ownExtras s = some (c.electricCapacity, c.steamRate)) ∧
     (c.role ≠ some .exportTie → c.role ≠ some .turbine → ownExtras s = none))

/-- R30, R39 to R43: the walk of a main. A snapshot counts an entry that is STALE or FAILED with offer, draw
and absorb 0 and of its want the min alone, and every other entry, the own one too, as recorded. The tiers are
the minimums of classes 0 to 3, then the headrooms. A tier is full where the demands up to it are within the
supply, and a member's grant in it is then its whole amount; the first that is not is short, its number
recorded, the rest 0 and a member's grant in it floor(rest × amount / Dt); after it every grant is 0. So no
more is granted than the supply, a grant is at most the minimum and headroom amounts together, and the minimum
grant at most the minimum. The unallocated supply is the final rest; the excess is what it has beyond ΣD + ΣA.
-/
def Obligations.GrantsAndExcessStayWithinSupply : Prop :=
  (∀ (ws : List WantMember) (sup : Nat), (∀ w ∈ ws, w.minClass ≤ 3 ∧ w.headClass ≤ 3) →
     sumOf (ws.map (grantOf ws sup)) + (walkThrough ws sup 8).rest ≤ sup) ∧
  (∀ (ws : List WantMember) (sup : Nat) (w : WantMember), w ∈ ws → w.minClass ≤ 3 → w.headClass ≤ 3 →
     minGrantOf ws sup w ≤ w.minimum ∧ grantOf ws sup w ≤ w.minimum + w.headroom ∧
     ((walkThrough ws sup 8).short = none →
       minGrantOf ws sup w = w.minimum ∧ grantOf ws sup w = w.minimum + w.headroom)) ∧
  (∀ (ws : List WantMember) (sup : Nat),
     let demand := fun k : Nat => sumOf (ws.map fun w =>
       if k < 4 then (if w.minClass = k then w.minimum else 0)
       else if w.headClass + 4 = k then w.headroom else 0)
     let served := fun k : Nat => sumOf ((List.range k).map demand)
     let granted := fun k amount : Nat =>
       if served (k + 1) ≤ sup then amount
       else if served k ≤ sup then (sup - served k) * amount / demand k
       else 0
     (served 8 ≤ sup → walkThrough ws sup 8 = ⟨sup - served 8, none⟩) ∧
     (∀ k, k < 8 → served k ≤ sup → sup < served (k + 1) → walkThrough ws sup 8 = ⟨0, some (k + 1)⟩) ∧
     ∀ w ∈ ws, w.minClass ≤ 3 → w.headClass ≤ 3 →
       minGrantOf ws sup w = granted w.minClass w.minimum ∧
       grantOf ws sup w = granted w.minClass w.minimum + granted (w.headClass + 4) w.headroom) ∧
  (∀ (m : Main) (s : State), s.mc.mode ≠ .loading →
     let es := snapshot s
     let ownSum := fun f : StateRecord → Nat =>
       if severity s = .failed then 0 else sumOf ((ownRecords s).map f)
     let peerSum := fun f : MainRecord → Nat => sumOf (s.peers.map fun x =>
       if x.2.stale = false ∧ x.2.severity ≠ .failed then sumOf (x.2.records.map f) else 0)
     offerSum m es =
       ownSum (fun r => match r with | .offer n o _ _ => if n = m then o else 0 | _ => 0) +
       peerSum (fun r => match r with | .offer n o _ _ => if n = m then o else 0 | _ => 0) ∧
     drawSum m es =
       ownSum (fun r => match r with | .holder n _ _ d _ => if n = m then d else 0 | _ => 0) +
       peerSum (fun r => match r with | .holder n d _ => if n = m then d else 0 | _ => 0) ∧
     absorbSum m es =
       ownSum (fun r => match r with | .holder n _ _ _ a => if n = m then a else 0 | _ => 0) +
       peerSum (fun r => match r with | .holder n _ a => if n = m then a else 0 | _ => 0) ∧
     wantMembers m es =
       (ownRecords s).filterMap (fun r => match r with
         | .want n lo hi c h =>
           if n = m then some ⟨lo, if severity s = .failed then 0 else hi - lo, c, h⟩ else none
         | _ => none) ++
       s.peers.flatMap fun x => x.2.records.filterMap fun r => match r with
         | .want n lo hi c h =>
           if n = m then
             some ⟨lo, if x.2.stale = false ∧ x.2.severity ≠ .failed then hi - lo else 0, c, h⟩
           else none
         | _ => none) ∧
  (∀ (m : Main) (es : List SnapEntry),
    let r := mainResult m es
    r.supply = offerSum m es + drawSum m es ∧
    r.shortTier = (walkThrough (wantMembers m es) r.supply 8).short ∧
    r.unallocated = (walkThrough (wantMembers m es) r.supply 8).rest ∧
    (r.shortTier ≠ none → r.unallocated = 0) ∧
    (r.shortTier = none →
      r.unallocated + sumOf ((List.range 8).map fun t => tierDemand (t + 1) (wantMembers m es)) = r.supply) ∧
    (r.unallocated ≤ drawSum m es + absorbSum m es → r.excess = 0) ∧
    (drawSum m es + absorbSum m es < r.unallocated →
      r.excess + drawSum m es + absorbSum m es = r.unallocated))

/-- R37, R38, R42, R50, R51, R53, R55: a round of ACTIVE of a station that wants, with severity below FAILED,
no request waiting, its own SHORTFALL released and its minimum grant not short. The grant is computed from the
snapshot, the output falls to it at once or rises by at most the ramp step, the STATE is requested (and a
HELLO at each 64th round) and NODE STATUS, as the blocks then stand, sent last. Ladders, claims and every
other block stand. -/
def Obligations.ActiveRoundMovesTheSetpoint : Prop :=
  ∀ (m : Main) (w : WantMember) (r : Role) (s : State),
    s.se.roundTimer = some 0 → s.mc.mode = .active → severity s ≠ .failed → s.mc.waitingRequest = none →
    s.mc.config.role = some r → wantMain s.mc.config = some m → s.liu.tx = [] →
    (s.cu.get ⟨m, .shortfall⟩).own = false →
    w = ⟨(effectiveWant s).1, (effectiveWant s).2 - (effectiveWant s).1, (wantClasses s.mc.config).1,
      (wantClasses s.mc.config).2⟩ →
    let es := snapshot s
    let g := grantOf (wantMembers m es) (supply m es) w
    let mg := minGrantOf (wantMembers m es) (supply m es) w
    (effectiveWant s).1 ≤ mg →
    ∃ t, exec .roundExpiry s = .next t ∧
      t.se = { s.se with
        roundTimer := some s.mc.config.period, roundCount := (s.se.roundCount + 1) % 2 ^ 32
        results := t.se.results, grant := g, minGrant := mg
        setpoint := if g ≤ s.se.setpoint + s.mc.config.rampStep then g
          else s.se.setpoint + s.mc.config.rampStep
        fallback := false, shortfallCount := 0 } ∧
      t.se.results.get m = mainResult m es ∧
      t.liu = { s.liu with tx :=
        ⟨.state r s.mc.config.period (ownRecords t) (ownExtras t), 0, none, false⟩ ::
          (if (s.se.roundCount + 1) % 2 ^ 32 % 64 = 0 then
            [⟨.hello (some r) (mainsByte (stationMains s.mc.config)) s.mc.config.period s.mc.config.tag, 0, none,
              false⟩]
          else []) } ∧
      t.fp = { s.fp with out := s.fp.out ++ [.setpoint m t.se.setpoint, .nodeStatus (nodeStatus t)] } ∧
      t.peers = s.peers ∧ t.hu = s.hu ∧ t.cu = s.cu ∧ t.rl = s.rl ∧ t.fu = s.fu ∧ t.tie = s.tie ∧
      t.turbine = s.turbine ∧ t.mu = s.mu ∧ t.dc = s.dc ∧ t.rs = s.rs ∧ t.mc = s.mc ∧ t.pending = s.pending

/-- R37, R38, R42, R49, R50, R51, R52, R53, R54, R56, R85, R98, R174, R177: rounds other than those of a sound ACTIVE
station that wants. The first two of LISTEN-IN, and those of STANDBY-LISTEN with no request waiting, keep the mode, send the fallback
value and then NODE STATUS, and compute their results; they request a STATE at every round of LISTEN-IN and at
rounds 1, 5, 9 and every fourth after of STANDBY-LISTEN. The third of LISTEN-IN enters ACTIVE, the wake latch
cleared and each pending, open, asserted line resampled, its IDLE ladder taking step 0 (R85, R98, R174, R177,
EntersActive in Safety.lean), and is its round 1: with no request waiting, the very round that the state so entered
would run as an ACTIVE one. Where no ladder starts, at a sound station that wants, its own SHORTFALL released and
its minimum grant not short, that round is stated whole: the grant of the snapshot, the output from the fallback
value down to it at once or up by the ramp step at most, fallback left, the STATE requested, no HELLO, SETPOINT and
NODE STATUS sent (R42, R50, R51, R53). A round of ACTIVE while FAILED sends and keeps the fallback value, and still
computes its results and grant. A PRODUCER with nothing to change in its SURPLUS, a HOLDER and an EXPORT TIE compute their results,
leave fallback and request their STATE. Where no round is due nothing happens (R36). -/
def Obligations.RoundsByModeAndRole : Prop :=
  (∀ s : State, s.se.roundTimer = some 0 →
    (s.mc.mode = .listenIn ∧ s.se.roundCount < 2 ∨ s.mc.mode = .standbyListen ∧ s.mc.waitingRequest = none) →
    ∃ t, exec .roundExpiry s = .next t ∧ t.mc = s.mc ∧
      t.se.roundTimer = some s.mc.config.period ∧ t.se.roundCount = (s.se.roundCount + 1) % 2 ^ 32 ∧
      t.se.fallback = true ∧
      (wantMain s.mc.config ≠ none → t.se.setpoint = s.mc.config.fallbackSetpoint) ∧
      (∀ m, m ∈ computedMains s.mc.config → t.se.results.get m = mainResult m (snapshot s)) ∧
      t.fp = { s.fp with out := s.fp.out ++
        (match wantMain s.mc.config with
          | some m => [.setpoint m s.mc.config.fallbackSetpoint]
          | none => []) ++ [.nodeStatus (nodeStatus t)] } ∧
      (∀ r, s.mc.config.role = some r → s.liu.tx = [] →
        t.liu = { s.liu with tx :=
          if s.mc.mode = .listenIn ∨ t.se.roundCount % 4 = 1 then
            [⟨.state r s.mc.config.period (ownRecords t) (ownExtras t), 0, none, false⟩]
          else [] }) ∧
      t.peers = s.peers ∧ t.hu = s.hu ∧ t.cu = s.cu ∧ t.rl = s.rl ∧ t.fu = s.fu ∧ t.tie = s.tie ∧
      t.turbine = s.turbine ∧ t.mu = s.mu ∧ t.dc = s.dc ∧ t.rs = s.rs ∧ t.pending = s.pending) ∧
  (∀ s : State, s.se.roundTimer = some 0 → s.mc.mode = .listenIn → s.se.roundCount = 2 →
    ∃ u t, EntersActive { s with se := { s.se with roundTimer := some s.mc.config.period } } u ∧
      exec .roundExpiry s = .next t ∧
      (s.mc.waitingRequest = none →
        exec .roundExpiry { u with se := { u.se with roundTimer := some 0 } } = .next t) ∧
      t.mc.mode = .active ∧ t.se.roundCount = 1 ∧
      t.se.roundTimer = some s.mc.config.period ∧ (severity s ≠ .failed → t.se.fallback = false) ∧
      (∀ l, (t.cu.get l).pending = true → (s.mc.config.lines.get l).masked = true) ∧
      t.peers = s.peers ∧ t.tie = s.tie ∧ t.mu = s.mu ∧ t.dc = s.dc ∧ t.rs = s.rs ∧
      t.mc.config = s.mc.config ∧ t.mc.faults = s.mc.faults ∧ t.pending = s.pending) ∧
  (∀ (m : Main) (w : WantMember) (r : Role) (s : State), s.se.roundTimer = some 0 → s.mc.mode = .listenIn →
    s.se.roundCount = 2 → severity s ≠ .failed → s.mc.config.role = some r → wantMain s.mc.config = some m →
    s.liu.tx = [] → s.se.fallback = true → (s.cu.get ⟨m, .shortfall⟩).own = false →
    (∀ l st, ¬StartsAtEntry l st s) →
    w = ⟨(effectiveWant s).1, (effectiveWant s).2 - (effectiveWant s).1, (wantClasses s.mc.config).1,
      (wantClasses s.mc.config).2⟩ →
    let es := snapshot s
    let g := grantOf (wantMembers m es) (supply m es) w
    let mg := minGrantOf (wantMembers m es) (supply m es) w
    (effectiveWant s).1 ≤ mg →
    ∃ t, exec .roundExpiry s = .next t ∧
      t.mc = { s.mc with mode := .active, latch := ⟨false, false, Six.all false⟩ } ∧
      t.se = { s.se with
        roundTimer := some s.mc.config.period, roundCount := 1
        results := t.se.results, grant := g, minGrant := mg
        setpoint := if g ≤ s.se.setpoint + s.mc.config.rampStep then g
          else s.se.setpoint + s.mc.config.rampStep
        fallback := false, shortfallCount := 0 } ∧
      t.se.results.get m = mainResult m es ∧
      t.liu = { s.liu with tx := [⟨.state r s.mc.config.period (ownRecords t) (ownExtras t), 0, none, false⟩] } ∧
      t.fp = { s.fp with out := s.fp.out ++ [.setpoint m t.se.setpoint, .nodeStatus (nodeStatus t)] } ∧
      (∀ l, t.cu.get l =
        { s.cu.get l with pending := (s.cu.get l).pending && (s.mc.config.lines.get l).masked }) ∧
      t.rl = s.rl ∧ t.peers = s.peers ∧ t.hu = s.hu ∧ t.fu = s.fu ∧ t.tie = s.tie ∧ t.turbine = s.turbine ∧
      t.mu = s.mu ∧ t.dc = s.dc ∧ t.rs = s.rs ∧ t.pending = s.pending) ∧
  (∀ s : State, s.se.roundTimer ≠ some 0 → exec .roundExpiry s = .next s) ∧
  (∀ s : State, s.se.roundTimer = some 0 → s.mc.mode = .active → severity s = .failed →
    s.mc.waitingRequest = none →
    ∃ t, exec .roundExpiry s = .next t ∧ t.mc.mode = .active ∧ t.mc.faults = s.mc.faults ∧ t.se.fallback = true ∧
      t.se.roundTimer = some s.mc.config.period ∧ t.se.roundCount = (s.se.roundCount + 1) % 2 ^ 32 ∧
      (∀ m, wantMain s.mc.config = some m →
        let es := snapshot s
        let w : WantMember := ⟨(effectiveWant s).1, 0, (wantClasses s.mc.config).1, (wantClasses s.mc.config).2⟩
        t.se.setpoint = s.mc.config.fallbackSetpoint ∧ t.se.results.get m = mainResult m es ∧
        (∃ more, t.fp.out = s.fp.out ++ .setpoint m s.mc.config.fallbackSetpoint :: more) ∧
        ((s.cu.get ⟨m, .shortfall⟩).own = false →
          (effectiveWant s).1 ≤ minGrantOf (wantMembers m es) (supply m es) w →
          t.se.grant = grantOf (wantMembers m es) (supply m es) w)) ∧
      t.peers = s.peers ∧ t.tie = s.tie ∧ t.mu = s.mu ∧ t.dc = s.dc ∧ t.rs = s.rs ∧ t.pending = s.pending) ∧
  (∀ (r : Role) (s : State), s.se.roundTimer = some 0 → s.mc.mode = .active → severity s ≠ .failed →
    s.mc.waitingRequest = none → s.mc.config.role = some r → r ∈ [Role.producer, .holder, .exportTie] →
    s.liu.tx = [] →
    (r = .producer → (0 < (mainResult s.mc.config.main (snapshot s)).excess ↔
      (s.cu.get ⟨s.mc.config.main, .surplus⟩).own = true)) →
    ∃ t, exec .roundExpiry s = .next t ∧
      t.se = { s.se with
        roundTimer := some s.mc.config.period, roundCount := (s.se.roundCount + 1) % 2 ^ 32
        results := t.se.results, fallback := false
        excessCount := if r = .producer then 0 else s.se.excessCount } ∧
      (r ≠ .exportTie → t.se.results.get s.mc.config.main = mainResult s.mc.config.main (snapshot s)) ∧
      t.liu = { s.liu with tx :=
        ⟨.state r s.mc.config.period (ownRecords s) (ownExtras s), 0, none, false⟩ ::
          (if (s.se.roundCount + 1) % 2 ^ 32 % 64 = 0 then
            [⟨.hello (some r) (mainsByte (stationMains s.mc.config)) s.mc.config.period s.mc.config.tag, 0, none,
              false⟩]
          else []) } ∧
      t.fp = { s.fp with out := s.fp.out ++ [.nodeStatus (nodeStatus t)] } ∧
      t.peers = s.peers ∧ t.hu = s.hu ∧ t.cu = s.cu ∧ t.rl = s.rl ∧ t.fu = s.fu ∧ t.tie = s.tie ∧
      t.turbine = s.turbine ∧ t.mu = s.mu ∧ t.dc = s.dc ∧ t.rs = s.rs ∧ t.mc = s.mc ∧ t.pending = s.pending)

/-- R55, R56, R58, R76: the own claim of a round of ACTIVE. A station that wants asserts SHORTFALL of its want
main where its minimum grant is below the effective min, and releases it at the second round in a row without;
a PRODUCER asserts SURPLUS at the second round in a row with excess on its main and releases it at the second
in a row without. Each change puts the own number into or out of the line's source set and a CLAIM of its edge
into the transmit queue; no other own claim changes. The STATE of the round carries the records as they stood
at the expiry, a BOILER's offer with the setpoint output the round has settled (R38, R49, R51, R53): a step
that the claim's own ladder takes or undoes comes after the round (R58; which parts of the claim's edge wait
is notes/assumptions/47.md). -/
def Obligations.OwnClaimsAtARound : Prop :=
  (∀ (m : Main) (s : State), s.se.roundTimer = some 0 → s.mc.mode = .active → s.mc.waitingRequest = none →
     wantMain s.mc.config = some m → s.liu.tx = [] →
     let l : ClaimLine := ⟨m, .shortfall⟩
     let lo := (effectiveWant s).1
     let own := (s.cu.get l).own
     let w : WantMember := ⟨lo, if severity s = .failed then 0 else (effectiveWant s).2 - lo,
       (wantClasses s.mc.config).1, (wantClasses s.mc.config).2⟩
     let mg := minGrantOf (wantMembers m (snapshot s)) (supply m (snapshot s)) w
     let g := grantOf (wantMembers m (snapshot s)) (supply m (snapshot s)) w
     let settled := if severity s = .failed then s.mc.config.fallbackSetpoint
       else if g ≤ s.se.setpoint + s.mc.config.rampStep then g
       else s.se.setpoint + s.mc.config.rampStep
     ∃ t, exec .roundExpiry s = .next t ∧
       (mg < lo → (t.cu.get l).own = true ∧ t.se.shortfallCount = 0 ∧
         (own = false → s.mc.node.val ∈ (t.cu.get l).sources ∧ ⟨.claim l .assert, 0, none, false⟩ ∈ t.liu.tx)) ∧
       (lo ≤ mg → own = false → (t.cu.get l).own = false ∧ t.se.shortfallCount = 0) ∧
       (lo ≤ mg → own = true → s.se.shortfallCount = 0 →
         (t.cu.get l).own = true ∧ t.se.shortfallCount = 1) ∧
       (lo ≤ mg → own = true → 1 ≤ s.se.shortfallCount → (t.cu.get l).own = false ∧ t.se.shortfallCount = 0 ∧
         s.mc.node.val ∉ (t.cu.get l).sources ∧ ⟨.claim l .release, 0, none, false⟩ ∈ t.liu.tx) ∧
       (∀ r, s.mc.config.role = some r →
         ⟨.state r s.mc.config.period (ownRecords { s with se := { s.se with setpoint := settled } })
           (ownExtras s), 0, none, false⟩ ∈ t.liu.tx) ∧
       (∀ k, k ≠ l → t.cu.get k = s.cu.get k) ∧
       t.peers = s.peers ∧ t.tie = s.tie ∧ t.mu = s.mu ∧ t.dc = s.dc ∧ t.rs = s.rs ∧
       t.mc.config = s.mc.config ∧ t.mc.faults = s.mc.faults ∧ t.pending = s.pending) ∧
  (∀ s : State, s.se.roundTimer = some 0 → s.mc.mode = .active → s.mc.waitingRequest = none →
     s.mc.config.role = some .producer → s.liu.tx = [] →
     let l : ClaimLine := ⟨s.mc.config.main, .surplus⟩
     let own := (s.cu.get l).own
     let x := (mainResult s.mc.config.main (snapshot s)).excess
     ∃ t, exec .roundExpiry s = .next t ∧
       ((0 < x ↔ own = true) → (t.cu.get l).own = own ∧ t.se.excessCount = 0) ∧
       (¬(0 < x ↔ own = true) → s.se.excessCount = 0 → (t.cu.get l).own = own ∧ t.se.excessCount = 1) ∧
       (0 < x → own = false → 1 ≤ s.se.excessCount → (t.cu.get l).own = true ∧ t.se.excessCount = 0 ∧
         s.mc.node.val ∈ (t.cu.get l).sources ∧ ⟨.claim l .assert, 0, none, false⟩ ∈ t.liu.tx) ∧
       (x = 0 → own = true → 1 ≤ s.se.excessCount → (t.cu.get l).own = false ∧ t.se.excessCount = 0 ∧
         s.mc.node.val ∉ (t.cu.get l).sources ∧ ⟨.claim l .release, 0, none, false⟩ ∈ t.liu.tx) ∧
       (∀ r, s.mc.config.role = some r →
         ⟨.state r s.mc.config.period (ownRecords s) (ownExtras s), 0, none, false⟩ ∈ t.liu.tx) ∧
       (∀ k, k ≠ l → t.cu.get k = s.cu.get k) ∧
       t.peers = s.peers ∧ t.tie = s.tie ∧ t.mu = s.mu ∧ t.dc = s.dc ∧ t.rs = s.rs ∧
       t.mc.config = s.mc.config ∧ t.mc.faults = s.mc.faults ∧ t.pending = s.pending)

/-! ### Response ladders, fuel and holders -/

/-- R81, R93, R94, R98 to R101: what moves a ladder, its steps here ones whose action completes at once. A
rise handed to it in IDLE takes its next step, step 0; an expired dwell with the OR asserted takes the next
step from DWELL, with none left TOP, and from UNDO DWELL takes again the step just undone. A fall handed to it
in TOP, and an expired dwell with the OR released, undo the highest step standing; from UNDO DWELL with no
step standing the ladder is IDLE. A rise in any state but IDLE and a fall in any state but TOP leave it as it
is. Of all these nothing else changes but what the CLAIM, LEAVE or removal itself does. -/
def Obligations.DwellExpiriesMoveTheLadder : Prop :=
  (∀ (c : Instr) (l : ClaimLine) (s u : State),
     (∀ st, TakesFrom c l s u → (ladderSteps l s)[(s.rl.get l).taken]? = some st → st.action = .none →
       exec c s = .next { u with
         rl := s.rl.set l ⟨.dwell, (s.rl.get l).taken + 1, some st.dwell, some .completed⟩ }) ∧
     (∀ st k, UndoesFrom c l s u → (s.rl.get l).taken = k + 1 → (ladderSteps l s)[k]? = some st →
       st.action = .none →
       exec c s = .next { u with rl := s.rl.set l ⟨.undoDwell, k, some st.dwell, some .completed⟩ }) ∧
     (RisesAt c l s u → (s.rl.get l).state ≠ .idle → exec c s = .next u) ∧
     (FallsAt c l s u → (s.rl.get l).state ≠ .top → exec c s = .next u)) ∧
  (∀ (l : ClaimLine) (s : State), (s.rl.get l).dwell = some 0 →
     ((s.rl.get l).state = .dwell → (s.cu.get l).sources ≠ [] →
       (ladderSteps l s).length = (s.rl.get l).taken →
       exec (.dwellExpiry l) s = .next { s with
         rl := s.rl.set l { s.rl.get l with state := .top, dwell := none } }) ∧
     ((s.rl.get l).state = .undoDwell → (s.cu.get l).sources = [] → (s.rl.get l).taken = 0 →
       exec (.undoDwellExpiry l) s = .next { s with
         rl := s.rl.set l { s.rl.get l with state := .idle, dwell := none } }))

/-- R67, R94, R96, R97, R99 to R101: a step taken or undone, its action of another block: taken by a rise in
IDLE or an expired dwell with the OR asserted, undone by a fall in TOP or an expired dwell with the OR
released. A SHED or RAISE stands in the effective want at once, or no longer does, and completes; what the
want falls below comes down with it, SETPOINT sent where the output falls (R48). A WAKE asks for its frame and
completes; its undo does nothing. A FLARE STEP at a gas holder moves the flare one up, and its undo one down,
not below the floor: the ladder waits for the move, behind one in flight, and completes at once where the
target is the position. -/
def Obligations.StepsActOnTheirBlocks : Prop :=
  (∀ (c : Instr) (l : ClaimLine) (st : Step) (s u : State), TakesFrom c l s u →
     (ladderSteps l s)[(s.rl.get l).taken]? = some st →
     let n := (s.rl.get l).taken + 1
     let done := s.rl.set l ⟨.dwell, n, some st.dwell, some .completed⟩
     let waits := s.rl.set l ⟨.stepping, n, none, (s.rl.get l).outcome⟩
     (st.action = .shed ∨ (∃ k, st.action = .raise k) →
       ∃ t, exec c s = .next t ∧ LoweredToWant u t ∧
         t = { u with rl := done, se := t.se, fp := { u.fp with out := u.fp.out ++ setpointSent u t } }) ∧
     (∀ r, st.action = .wake r → s.mc.mode ≠ .loading → s.mc.mode ≠ .standbyDeep → s.liu.tx.length < 4 →
       exec c s = .next { u with
         rl := done
         liu := { u.liu with tx := u.liu.tx ++ [⟨.wake r l.main, 0, none, false⟩] } }) ∧
     (st.action = .flareStep →
       (∀ p, s.hu.position.getD 0 = p → s.hu.move = none → s.hu.waiting = [] → p < 4 →
         exec c s = .next { u with
           rl := waits
           hu := { u.hu with move := some ⟨p + 1, some ⟨l, false⟩, 60⟩ }
           fp := { u.fp with out := u.fp.out ++ [.flareCommand (p + 1)] } }) ∧
       (s.hu.position = some 4 → s.hu.move = none → s.hu.waiting = [] → exec c s = .next { u with rl := done }) ∧
       (s.hu.move ≠ none →
         exec c s = .next { u with
           rl := waits
           hu := { u.hu with waiting := u.hu.waiting ++ [⟨l, false⟩] } }))) ∧
  (∀ (c : Instr) (l : ClaimLine) (st : Step) (k : Nat) (s u : State), UndoesFrom c l s u →
     (s.rl.get l).taken = k + 1 → (ladderSteps l s)[k]? = some st →
     let done := s.rl.set l ⟨.undoDwell, k, some st.dwell, some .completed⟩
     let waits := s.rl.set l ⟨.undoInFlight, k, none, (s.rl.get l).outcome⟩
     (st.action = .shed ∨ (∃ j, st.action = .raise j) →
       ∃ t, exec c s = .next t ∧ LoweredToWant u t ∧
         t = { u with rl := done, se := t.se, fp := { u.fp with out := u.fp.out ++ setpointSent u t } }) ∧
     (∀ r, st.action = .wake r → exec c s = .next { u with rl := done }) ∧
     (st.action = .flareStep →
       let floor := if s.hu.band = .flare then 1 else 0
       (∀ p, s.hu.position = some p → s.hu.move = none → s.hu.waiting = [] → floor < p →
         exec c s = .next { u with
           rl := waits
           hu := { u.hu with move := some ⟨p - 1, some ⟨l, true⟩, 60⟩ }
           fp := { u.fp with out := u.fp.out ++ [.flareCommand (p - 1)] } }) ∧
       (s.hu.position.getD 0 = floor → s.hu.move = none → s.hu.waiting = [] →
         exec c s = .next { u with rl := done }) ∧
       (s.hu.move ≠ none →
         exec c s = .next { u with
           rl := waits
           hu := { u.hu with waiting := u.hu.waiting ++ [⟨l, true⟩] } })))

/-- R95, R100, R101, R108, R109: a ladder's request for a fuel f, by the take of a FUEL BACKUP or FUEL GAS
step or by the undo of the other: taken by a rise in IDLE or an expired dwell with the OR asserted, undone by
a fall in TOP or an expired dwell with the OR released. With nothing in flight it completes at once in the
mode of f, and otherwise starts a changeover it has joined, with FUEL COMMAND. It joins a changeover toward f;
a recorded target is cancelled and its waiting ladders are SUPERSEDED. Against a changeover the other way f
becomes the recorded target, the joined ladders SUPERSEDED, or the ladder waits with those already on it. The
want and offer follow the TO mode at once, and after FUEL COMMAND a SETPOINT is sent where the output falls
(R48). -/
def Obligations.FuelStepsAskTheFuelUnit : Prop :=
  ∀ (cmd : Instr) (l : ClaimLine) (st : Step) (f : Fuel) (asked done : Ladder) (s u : State),
    (TakesFrom cmd l s u ∧ (ladderSteps l s)[(s.rl.get l).taken]? = some st ∧
        (st.action = .fuelBackup ∧ f = .backup ∨ st.action = .fuelGas ∧ f = .gas) ∧
        asked = ⟨.stepping, (s.rl.get l).taken + 1, none, (s.rl.get l).outcome⟩ ∧
        done = ⟨.dwell, (s.rl.get l).taken + 1, some st.dwell, some .completed⟩ ∨
      UndoesFrom cmd l s u ∧ ∃ k, (s.rl.get l).taken = k + 1 ∧ (ladderSteps l s)[k]? = some st ∧
        (st.action = .fuelBackup ∧ f = .gas ∨ st.action = .fuelGas ∧ f = .backup) ∧
        asked = ⟨.undoInFlight, k, none, (s.rl.get l).outcome⟩ ∧
        done = ⟨.undoDwell, k, some st.dwell, some .completed⟩) →
    (s.fu.flight = none → s.fu.mode = settledMode f → exec cmd s = .next { u with rl := s.rl.set l done }) ∧
    (s.fu.flight = none → s.fu.mode ≠ settledMode f →
      ∃ t, exec cmd s = .next t ∧ LoweredToWant u t ∧
        t = { u with
          rl := s.rl.set l asked
          fu := { s.fu with mode := toMode f, flight := some ⟨f, s.mc.config.changeoverLimit, [l]⟩ }
          se := t.se
          fp := { u.fp with out := u.fp.out ++ .fuelCommand f :: setpointSent u t } }) ∧
    (∀ c, s.fu.flight = some c → c.target = f → s.fu.recorded = none →
      exec cmd s = .next { u with
        rl := s.rl.set l asked, fu := { s.fu with flight := some { c with joined := c.joined ++ [l] } } }) ∧
    (∀ c r, s.fu.flight = some c → c.target = f → s.fu.recorded = some r →
      ∃ t, exec cmd s = .next t ∧
        t = { u with
          rl := t.rl
          fu := { s.fu with flight := some { c with joined := c.joined ++ [l] }, recorded := none } } ∧
        (l ∉ r.waiting → t.rl.get l = asked) ∧
        (∀ k, k ≠ l → k ∈ r.waiting → (s.rl.get k).state = .stepping →
          (t.rl.get k).state = .dwell ∧ (t.rl.get k).outcome = some .superseded) ∧
        (∀ k, k ≠ l → k ∈ r.waiting → (s.rl.get k).state = .undoInFlight →
          (t.rl.get k).state = .undoDwell ∧ (t.rl.get k).outcome = some .superseded) ∧
        (∀ k, k ≠ l → k ∉ r.waiting → t.rl.get k = s.rl.get k)) ∧
    (∀ c, s.fu.flight = some c → c.target ≠ f → s.fu.recorded = none →
      ∃ t, exec cmd s = .next t ∧
        t = { u with
          rl := t.rl
          fu := { s.fu with flight := some { c with joined := [] }, recorded := some ⟨f, [l]⟩ } } ∧
        (l ∉ c.joined → t.rl.get l = asked) ∧
        (∀ k, k ≠ l → k ∈ c.joined → (s.rl.get k).state = .stepping →
          (t.rl.get k).state = .dwell ∧ (t.rl.get k).outcome = some .superseded) ∧
        (∀ k, k ≠ l → k ∈ c.joined → (s.rl.get k).state = .undoInFlight →
          (t.rl.get k).state = .undoDwell ∧ (t.rl.get k).outcome = some .superseded) ∧
        (∀ k, k ≠ l → k ∉ c.joined → t.rl.get k = s.rl.get k)) ∧
    (∀ c r, s.fu.flight = some c → c.target ≠ f → s.fu.recorded = some r →
      exec cmd s = .next { u with
        rl := s.rl.set l asked, fu := { s.fu with recorded := some { r with waiting := r.waiting ++ [l] } } })

/-- R107, R110, R111: a FUEL STATUS with no changeover in flight is unsolicited: it is the last reported fuel
and the settled fuel mode. With one in flight toward the other fuel only the last reported fuel is set. With
the target of the one in flight it completes it: the fuel is reported and settled, CHANGEOVER TIMEOUT is
cleared, every joined ladder with its action in flight completes and dwells; a recorded target is started at
once, FUEL COMMAND sent, with its waiting requesters joined. The want follows the new mode at once, and a
SETPOINT is sent where the output falls (R48). -/
def Obligations.FuelStatusReportsTheFuel : Prop :=
  (∀ (f : Fuel) (s : State), s.mc.mode ≠ .loading → s.mc.config.role = some .boiler →
     (s.fu.flight = none →
       ∃ t, exec (.fuelStatus f) s = .next t ∧ LoweredToWant s t ∧
         t = { s with
           fu := { s.fu with mode := (match f with | .gas => .gas | .backup => .backup), lastReported := some f }
           se := t.se
           fp := { s.fp with link := .up, linkTimer := some 10, out := s.fp.out ++ setpointSent s t }
           mc := { s.mc with faults := s.mc.faults.filter fun x => x.kind != .fieldLinkLost } }) ∧
     (∀ c, s.fu.flight = some c → c.target ≠ f →
       exec (.fuelStatus f) s = .next { s with
         fu := { s.fu with lastReported := some f }
         fp := { s.fp with link := .up, linkTimer := some 10 }
         mc := { s.mc with faults := s.mc.faults.filter fun x => x.kind != .fieldLinkLost } })) ∧
  (∀ (c : Changeover) (s : State), s.mc.mode ≠ .loading → s.mc.config.role = some .boiler →
     s.fu.flight = some c →
     ∃ t, exec (.fuelStatus c.target) s = .next t ∧
       t.fu.lastReported = some c.target ∧ LoweredToWant s t ∧
       t.fp = { s.fp with
         link := .up, linkTimer := some 10
         out := s.fp.out ++ (match s.fu.recorded with
           | some r => [.fuelCommand r.target]
           | none => []) ++ setpointSent s t } ∧
       t.mc = { s.mc with faults := s.mc.faults.filter fun x =>
         x.kind != .fieldLinkLost && x.kind != .changeoverTimeout } ∧
       (s.fu.recorded = none → t.fu.mode = settledMode c.target ∧ t.fu.flight = none) ∧
       (∀ r, s.fu.recorded = some r → t.fu.mode = toMode r.target ∧
         t.fu.flight = some ⟨r.target, s.mc.config.changeoverLimit, r.waiting⟩) ∧
       t.fu.recorded = none ∧
       (∀ l, l ∈ c.joined → (s.rl.get l).state = .stepping →
         (t.rl.get l).state = .dwell ∧ (t.rl.get l).outcome = some .completed ∧
           (t.rl.get l).taken = (s.rl.get l).taken) ∧
       (∀ l, l ∈ c.joined → (s.rl.get l).state = .undoInFlight →
         (t.rl.get l).state = .undoDwell ∧ (t.rl.get l).outcome = some .completed) ∧
       (∀ l, l ∉ c.joined → t.rl.get l = s.rl.get l) ∧
       t.liu = s.liu ∧ t.peers = s.peers ∧ t.hu = s.hu ∧ t.cu = s.cu ∧ t.tie = s.tie ∧ t.mu = s.mu ∧
       t.dc = s.dc ∧ t.rs = s.rs ∧ t.pending = s.pending)

/-- R112: the changeover timer expires: CHANGEOVER TIMEOUT, the mode of the last reported fuel or UNKNOWN,
every joined ladder completes its take or undo as TIMED OUT and dwells. A recorded target that the mode now
equals completes its waiting ladders as COMPLETED; another is started with them joined. With none started, a
SETPOINT is sent where the output falls with the want (R48; that the mode is delivered at once,
notes/assumptions/17.md). -/
def Obligations.ChangeoverTimesOut : Prop :=
  ∀ (c : Changeover) (s : State), s.fu.flight = some c → c.timer = 0 →
    let m := match s.fu.lastReported with
      | some .gas => FuelMode.gas
      | some .backup => .backup
      | none => .unknown
    ∃ t, exec .changeoverTimeout s = .next t ∧
      t.fu.lastReported = s.fu.lastReported ∧
      t.mc = { s.mc with faults := faultsRaised .changeoverTimeout s.dc.time s.mc.faults } ∧
      t.fu.recorded = none ∧
      ((s.fu.recorded = none ∨ ∃ r, s.fu.recorded = some r ∧ m = settledMode r.target) →
        t.fu.mode = m ∧ t.fu.flight = none ∧ LoweredToWant s t ∧
        t.fp = { s.fp with out := s.fp.out ++ setpointSent s t }) ∧
      (∀ r, s.fu.recorded = some r → m ≠ settledMode r.target →
        t.fu.mode = toMode r.target ∧
        t.fu.flight = some ⟨r.target, s.mc.config.changeoverLimit, r.waiting⟩) ∧
      (∀ l, l ∈ c.joined → (∀ r, s.fu.recorded = some r → l ∉ r.waiting) → (s.rl.get l).state = .stepping →
        (t.rl.get l).state = .dwell ∧ (t.rl.get l).outcome = some .timedOut) ∧
      (∀ l, l ∈ c.joined → (∀ r, s.fu.recorded = some r → l ∉ r.waiting) → (s.rl.get l).state = .undoInFlight →
        (t.rl.get l).state = .undoDwell ∧ (t.rl.get l).outcome = some .timedOut) ∧
      (∀ r l, s.fu.recorded = some r → l ∈ r.waiting → l ∉ c.joined →
        (m = settledMode r.target →
          ((s.rl.get l).state = .stepping →
            (t.rl.get l).state = .dwell ∧ (t.rl.get l).outcome = some .completed) ∧
          ((s.rl.get l).state = .undoInFlight →
            (t.rl.get l).state = .undoDwell ∧ (t.rl.get l).outcome = some .completed)) ∧
        (m ≠ settledMode r.target → t.rl.get l = s.rl.get l)) ∧
      (∀ l, l ∉ c.joined → (∀ r, s.fu.recorded = some r → l ∉ r.waiting) → t.rl.get l = s.rl.get l) ∧
      t.liu = s.liu ∧ t.peers = s.peers ∧ t.hu = s.hu ∧ t.cu = s.cu ∧ t.tie = s.tie ∧ t.mu = s.mu ∧
      t.dc = s.dc ∧ t.rs = s.rs ∧ t.pending = s.pending

/-- R63: the draw and absorb limits follow the band. -/
def Obligations.LimitsFollowTheBand : Prop :=
  ∀ s : State,
    (faultPresent .levelLost s.mc.faults = false →
      (s.hu.band = .none → drawLimit s = 0 ∧ absorbLimit s = 0) ∧
      (s.hu.band = .emptyGuard → drawLimit s = 0 ∧ absorbLimit s = s.mc.config.absorbMax) ∧
      (s.hu.band = .low → drawLimit s = s.mc.config.drawMax / 2 ∧ absorbLimit s = s.mc.config.absorbMax) ∧
      (s.hu.band = .normal → drawLimit s = s.mc.config.drawMax ∧ absorbLimit s = s.mc.config.absorbMax) ∧
      (s.hu.band = .high → drawLimit s = s.mc.config.drawMax ∧ absorbLimit s = s.mc.config.absorbMax / 2) ∧
      (s.hu.band = .flare → drawLimit s = s.mc.config.drawMax ∧ absorbLimit s = 0)) ∧
    (faultPresent .levelLost s.mc.faults = true → drawLimit s = 0 ∧ absorbLimit s = 0)

/-- R61, R62, R64, R65: a valid LEVEL sample of a holder. The level is held within 1000, the level timer is
restarted at 30 s, LEVEL LOST is cleared; the first sample bands directly, a later one moves the band only
past a boundary by 20 per mille; in LISTEN-IN and ACTIVE the own claims are those of a band that changed. A
BAD sample leaves level, band and timer as they stand; the level timer's expiry raises LEVEL LOST, which sets
both limits to 0, and changes nothing else. -/
def Obligations.LevelSampleBandsTheHolder : Prop :=
  (∀ (v : Nat) (s : State), s.mc.mode ≠ .loading → s.mc.config.role = some .holder →
     let c := s.mc.config
     let level := Nat.min v 1000
     ∃ t, exec (.level .ok v) s = .next t ∧
       t.hu.level = level ∧ t.hu.levelTimer = some 30 ∧ faultPresent .levelLost t.mc.faults = false ∧
       t.fp.link = .up ∧ t.fp.linkTimer = some 10 ∧
       (s.hu.band = .none →
         t.hu.band = if level < c.t1 then .emptyGuard else if level < c.t2 then .low
           else if level < c.t3 then .normal else if level < c.t4 then .high else .flare) ∧
       (s.hu.band ≠ .none →
         (∀ b, bandCode s.hu.band < bandCode b → lowerBoundary c b + 20 ≤ level →
           bandCode b ≤ bandCode t.hu.band) ∧
         (bandCode s.hu.band < bandCode t.hu.band → lowerBoundary c t.hu.band + 20 ≤ level) ∧
         ((∀ b, bandCode s.hu.band < bandCode b → level < lowerBoundary c b + 20) →
           bandCode t.hu.band ≤ bandCode s.hu.band ∧ t.hu.band ≠ .none ∧
           (∀ b, bandCode t.hu.band < bandCode b → bandCode b ≤ bandCode s.hu.band →
             level + 20 < lowerBoundary c b) ∧
           (t.hu.band ≠ .emptyGuard → lowerBoundary c t.hu.band ≤ level + 20))) ∧
       ((s.mc.mode = .listenIn ∨ s.mc.mode = .active) → t.hu.band ≠ s.hu.band →
         ((t.cu.get ⟨c.main, .shortfall⟩).own = true ↔ t.hu.band = .emptyGuard ∨ t.hu.band = .low) ∧
         ((t.cu.get ⟨c.main, .surplus⟩).own = true ↔ t.hu.band = .high ∨ t.hu.band = .flare)) ∧
       (t.hu.band = s.hu.band → t.cu = s.cu ∧ t.rl = s.rl ∧ t.liu = s.liu ∧ t.hu.move = s.hu.move ∧
         t.mc.mode = s.mc.mode ∧ t.mc.latch = s.mc.latch) ∧
       t.hu.position = s.hu.position ∧ t.peers = s.peers ∧ t.tie = s.tie ∧ t.mu = s.mu ∧
       t.dc = s.dc ∧ t.rs = s.rs ∧ t.pending = s.pending) ∧
  ((∀ (v : Nat) (s : State), s.mc.mode ≠ .loading → s.mc.config.role = some .holder →
     exec (.level .bad v) s = .next { s with
       fp := { s.fp with link := .up, linkTimer := some 10 }
       mc := { s.mc with faults := s.mc.faults.filter fun x => x.kind != .fieldLinkLost } }) ∧
   (∀ s : State, s.hu.levelTimer = some 0 → s.mc.faults.length < 8 →
     ∃ t, exec .levelLost s = .next t ∧
       t = { s with mc := { s.mc with faults := faultsRaised .levelLost s.dc.time s.mc.faults } } ∧
       drawLimit t = 0 ∧ absorbLimit t = 0))

/-- R66 to R71: a FLARE STATUS at a gas holder, and the expiry of a move's timer. A report of the target in flight
sets the position, clears FLARE TIMEOUT and completes the move, and its ladder's take or undo, which dwells; the timer
expiring raises FLARE TIMEOUT, takes the target as the position and completes the take or undo as TIMED OUT. In any
band, with nothing waiting and, in band FLARE, a target of 1 or more, no further move is commanded. In band FLARE a
move that completes at 0 is followed by a floor move to 1, ahead of every waiting request, which stands. Outside band
FLARE a report of another position, or with no move in flight, is adopted and starts nothing; above 4 it is held as 4.
In band FLARE a report of 0 against a
position of 1 or more leaves it at 1 and, with no move in flight, commands a floor move to 1: that it is
commanded although the position is 1 already is the model's reading of R71 against R67,
notes/assumptions/15.md. With one in flight it stays in flight and nothing is commanded. A report there of 1
or more, or of 0 against 0 or UNKNOWN, is adopted and starts nothing. -/
def Obligations.FlareMovesEnd : Prop :=
  (∀ (p : Nat) (m : FlareMove) (s : State), s.mc.mode ≠ .loading → s.mc.config.role = some .holder →
     s.mc.config.main ≠ .m2 → s.hu.move = some m → Nat.min p 4 = m.target →
     (s.hu.waiting = [] → (s.hu.band = .flare → m.target ≠ 0) →
       ∃ t, exec (.flareStatus p) s = .next t ∧ FlareReported m none [] s t) ∧
     (s.hu.band = .flare → m.target = 0 →
       ∃ t, exec (.flareStatus p) s = .next t ∧ FlareReported m (some ⟨1, none, 60⟩) [.flareCommand 1] s t)) ∧
  (∀ (p : Nat) (s : State), s.mc.mode ≠ .loading → s.mc.config.role = some .holder → s.mc.config.main ≠ .m2 →
     s.hu.band ≠ .flare → (∀ m, s.hu.move = some m → Nat.min p 4 ≠ m.target) →
     exec (.flareStatus p) s = .next { s with
       hu := { s.hu with position := some (Nat.min p 4) }
       fp := { s.fp with link := .up, linkTimer := some 10 }
       mc := { s.mc with faults := s.mc.faults.filter fun x => x.kind != .fieldLinkLost } }) ∧
  (∀ (m : FlareMove) (s : State), s.hu.move = some m → m.timer = 0 →
     (s.hu.waiting = [] → (s.hu.band = .flare → m.target ≠ 0) →
       ∃ t, exec .flareTimeout s = .next t ∧ FlareTimedOut m none [] s t) ∧
     (s.hu.band = .flare → m.target = 0 →
       ∃ t, exec .flareTimeout s = .next t ∧ FlareTimedOut m (some ⟨1, none, 60⟩) [.flareCommand 1] s t)) ∧
  (∀ (k : Nat) (s : State), s.mc.mode ≠ .loading → s.mc.config.role = some .holder → s.mc.config.main ≠ .m2 →
     s.hu.band = .flare → s.hu.position = some (k + 1) → s.hu.move = none →
     exec (.flareStatus 0) s = .next { s with
       hu := { s.hu with position := some 1, move := some ⟨1, none, 60⟩ }
       fp := { s.fp with link := .up, linkTimer := some 10, out := s.fp.out ++ [.flareCommand 1] }
       mc := { s.mc with faults := s.mc.faults.filter fun x => x.kind != .fieldLinkLost } }) ∧
  (∀ (p : Nat) (s : State), s.mc.mode ≠ .loading → s.mc.config.role = some .holder → s.mc.config.main ≠ .m2 →
     s.hu.band = .flare → (∀ m, s.hu.move = some m → Nat.min p 4 ≠ m.target) →
     let holding := fun (position : Nat) => { s with
       hu := { s.hu with position := some position }
       fp := { s.fp with link := .up, linkTimer := some 10 }
       mc := { s.mc with faults := s.mc.faults.filter fun x => x.kind != .fieldLinkLost } }
     (1 ≤ p → exec (.flareStatus p) s = .next (holding (Nat.min p 4))) ∧
     (p = 0 → s.hu.position.getD 0 = 0 → exec (.flareStatus p) s = .next (holding 0)) ∧
     (p = 0 → 1 ≤ s.hu.position.getD 0 → s.hu.move ≠ none → exec (.flareStatus p) s = .next (holding 1)))

/-- R61, R67, R68, R70, R72: the flare floor and the waiting requests of a gas holder. A LEVEL sample that takes it into
band FLARE, the first sample or one from any band below, commands a floor move to 1 from position 0 or UNKNOWN with no
move in flight, retargets a move toward 0 to 1 with its timer anew and its requester kept, and otherwise moves nothing.
Nothing else changes where the claims do not: in a mode in which they do not follow the band (R64), or with SURPLUS
asserted and SHORTFALL not. Where they do, the floor follows them: where the ladder of a SURPLUS that rises takes a
FLARE STEP, that is the move in flight and no floor move starts, the model's order, notes/assumptions/16.md. As a move
completes by report, the first waiting request starts from the new position, a FLARE STEP one up and an undo one down,
not below the floor; one whose target is the position completes at once. -/
def Obligations.FlareFloorAndWaitingRequests : Prop :=
  (∀ (v : Nat) (s : State), s.mc.mode ≠ .loading → s.mc.config.role = some .holder → s.mc.config.main ≠ .m2 →
     EntersFlare (Nat.min v 1000) s →
     (s.mc.mode = .listenIn ∨ s.mc.mode = .active →
       (s.cu.get ⟨s.mc.config.main, .surplus⟩).own = true ∧
         (s.cu.get ⟨s.mc.config.main, .shortfall⟩).own = false) →
     let entered : State := { s with
       hu := { s.hu with level := Nat.min v 1000, levelTimer := some 30, band := .flare }
       fp := { s.fp with link := .up, linkTimer := some 10 }
       mc := { s.mc with faults := s.mc.faults.filter fun x => x.kind != .fieldLinkLost && x.kind != .levelLost } }
     let moving := fun (move : Option FlareMove) (out : List FieldOut) => { entered with
       hu := { entered.hu with move := move }, fp := { entered.fp with out := s.fp.out ++ out } }
     (s.hu.move = none → s.hu.position.getD 0 = 0 →
       exec (.level .ok v) s = .next (moving (some ⟨1, none, 60⟩) [.flareCommand 1])) ∧
     (s.hu.move = none → s.hu.position.getD 0 ≠ 0 → exec (.level .ok v) s = .next entered) ∧
     (∀ m, s.hu.move = some m → m.target = 0 →
       exec (.level .ok v) s = .next (moving (some ⟨1, m.requester, 60⟩) [.flareCommand 1])) ∧
     (∀ m, s.hu.move = some m → m.target ≠ 0 → exec (.level .ok v) s = .next entered)) ∧
  (∀ (v : Nat) (s : State), s.mc.mode ≠ .loading → s.mc.config.role = some .holder → s.mc.config.main ≠ .m2 →
     EntersFlare (Nat.min v 1000) s →
     (∀ st ∈ ladderSteps ⟨s.mc.config.main, .shortfall⟩ s ++ ladderSteps ⟨s.mc.config.main, .surplus⟩ s,
       st.action ≠ .flareStep) →
     ∃ t, exec (.level .ok v) s = .next t ∧
       t.hu = { s.hu with level := Nat.min v 1000, levelTimer := some 30, band := .flare, move := t.hu.move } ∧
       (s.hu.move = none → s.hu.position.getD 0 = 0 →
         t.hu.move = some ⟨1, none, 60⟩ ∧ flareCommands t.fp.out = flareCommands s.fp.out ++ [1]) ∧
       (s.hu.move = none → s.hu.position.getD 0 ≠ 0 →
         t.hu.move = none ∧ flareCommands t.fp.out = flareCommands s.fp.out) ∧
       (∀ m, s.hu.move = some m → m.target = 0 →
         t.hu.move = some ⟨1, m.requester, 60⟩ ∧ flareCommands t.fp.out = flareCommands s.fp.out ++ [1]) ∧
       (∀ m, s.hu.move = some m → m.target ≠ 0 →
         t.hu.move = some m ∧ flareCommands t.fp.out = flareCommands s.fp.out)) ∧
  (∀ (v : Nat) (st : Step) (s : State), s.mc.mode = .active → s.mc.config.role = some .holder →
     s.mc.config.main ≠ .m2 → EntersFlare (Nat.min v 1000) s →
     let l : ClaimLine := ⟨s.mc.config.main, .surplus⟩
     s.hu.move = none → s.hu.waiting = [] → s.hu.position.getD 0 < 4 →
     (s.cu.get ⟨s.mc.config.main, .shortfall⟩).own = false → (s.cu.get l).own = false → (s.cu.get l).sources = [] →
     (s.mc.config.lines.get l).masked = false → (s.rl.get l).state = .idle →
     (ladderSteps l s)[(s.rl.get l).taken]? = some st → st.action = .flareStep →
     ∃ t, exec (.level .ok v) s = .next t ∧
       t.hu = { s.hu with
         level := Nat.min v 1000, levelTimer := some 30, band := .flare
         move := some ⟨s.hu.position.getD 0 + 1, some ⟨l, false⟩, 60⟩ } ∧
       flareCommands t.fp.out = flareCommands s.fp.out ++ [s.hu.position.getD 0 + 1] ∧
       (t.rl.get l).state = .stepping ∧ (t.rl.get l).taken = (s.rl.get l).taken + 1) ∧
  (∀ (m : FlareMove) (s : State), s.mc.mode ≠ .loading → s.mc.config.role = some .holder →
     s.mc.config.main ≠ .m2 → s.hu.move = some m → m.target ≤ 4 →
     let floor := if s.hu.band = .flare then 1 else 0
     (∀ r rest, s.hu.waiting = r :: rest → floor ≤ m.target →
       (r.undo = false → m.target < 4 →
         ∃ t, exec (.flareStatus m.target) s = .next t ∧
           t.hu = { s.hu with
             position := some m.target, move := some ⟨m.target + 1, some r, 60⟩, waiting := rest } ∧
           t.fp.out = s.fp.out ++ [.flareCommand (m.target + 1)]) ∧
       (r.undo = true → floor < m.target →
         ∃ t, exec (.flareStatus m.target) s = .next t ∧
           t.hu = { s.hu with
             position := some m.target, move := some ⟨m.target - 1, some r, 60⟩, waiting := rest } ∧
           t.fp.out = s.fp.out ++ [.flareCommand (m.target - 1)]) ∧
       ((r.undo = false ∧ m.target = 4 ∨ r.undo = true ∧ m.target = floor) → rest = [] →
         ∃ t, exec (.flareStatus m.target) s = .next t ∧
           t.hu = { s.hu with position := some m.target, move := none, waiting := [] } ∧ t.fp.out = s.fp.out ∧
           ((s.rl.get r.line).state = .stepping → (t.rl.get r.line).state = .dwell ∧
             (t.rl.get r.line).outcome = some .completed) ∧
           ((s.rl.get r.line).state = .undoInFlight → (t.rl.get r.line).state = .undoDwell ∧
             (t.rl.get r.line).outcome = some .completed))))

/-! ### The tie's messages and the Record Store -/

/-- R120, R121, R123: the messages of the grid meter concentrator. A SCHEDULE for another day than today or
tomorrow is refused; tomorrow's is taken whole; today's is taken for the periods after the one in progress,
with the refused entries counted. Entries are held within 20000 SU and the other day's slot stands. An OK
sample adds to E of the open period and sets the mark; a BAD one, or one with no period open, is discarded. -/
def Obligations.ScheduleAndEnergyAreTaken : Prop :=
  (∀ (day : Nat) (entries : List Nat) (s : State), day < 65536 → entries.length = 48 →
    s.mc.config.role = some .exportTie → s.mc.mode ≠ .loading →
    (slotOfDay day s.tie ≠ none ∨ s.tie.slotA = none ∨ s.tie.slotB = none) →
    let old := slotOfDay day s.tie
    let k := s.dc.time.sec / 1800
    ∃ t, exec (.schedule day entries) s = .next t ∧
      t = { s with
        tie := { s.tie with
          slotA := t.tie.slotA, slotB := t.tie.slotB, lastSchedule := t.tie.lastSchedule }
        fp := { s.fp with link := .up, linkTimer := some 10 }
        mc := { s.mc with faults := s.mc.faults.filter fun x => x.kind != .fieldLinkLost } } ∧
      (∀ d, d ≠ day → slotOfDay d t.tie = slotOfDay d s.tie) ∧
      (day ≠ s.dc.time.day → day ≠ (s.dc.time.day + 1) % 65536 →
        t.tie.lastSchedule = .refusedWrongDay ∧ t.tie.slotA = s.tie.slotA ∧ t.tie.slotB = s.tie.slotB) ∧
      (day ≠ s.dc.time.day → day = (s.dc.time.day + 1) % 65536 →
        t.tie.lastSchedule = .accepted ∧
        slotOfDay day t.tie = some ⟨day, entries.map fun e => some (Nat.min e 20000)⟩) ∧
      (day = s.dc.time.day →
        t.tie.lastSchedule = .partly (k + 1) ∧
        ∃ d, slotOfDay day t.tie = some d ∧ d.day = day ∧ d.entries.length = 48 ∧
          (∀ i, i < 48 → i ≤ k → d.entries[i]? = some (old.bind fun x => (x.entries[i]?).join)) ∧
          (∀ i e, k < i → entries[i]? = some e → d.entries[i]? = some (some (Nat.min e 20000))))) ∧
  (∀ (kwh : Int) (p : Period) (s : State), -32768 ≤ kwh → kwh ≤ 32767 →
    s.mc.config.role = some .exportTie → s.mc.mode ≠ .loading → s.tie.openPeriod = some p →
    -2147483648 ≤ p.energyE + kwh → p.energyE + kwh ≤ 2147483647 →
    exec (.exportEnergy .ok kwh) s = .next { s with
      tie := { s.tie with openPeriod := some { p with energyE := p.energyE + kwh }, mark := true }
      fp := { s.fp with link := .up, linkTimer := some 10 }
      mc := { s.mc with faults := s.mc.faults.filter fun x => x.kind != .fieldLinkLost } }) ∧
  (∀ (st : SampleStatus) (kwh : Int) (s : State), -32768 ≤ kwh → kwh ≤ 32767 →
    s.mc.config.role = some .exportTie → s.mc.mode ≠ .loading → (st = .bad ∨ s.tie.openPeriod = none) →
    exec (.exportEnergy st kwh) s = .next { s with
      fp := { s.fp with link := .up, linkTimer := some 10 }
      mc := { s.mc with faults := s.mc.faults.filter fun x => x.kind != .fieldLinkLost } })

/-- R160, R162, R163, R165: a record is handed over, as SUPPLY LOW hands over the tie's. It takes the next
number. A POWER FAIL record goes ahead of every waiting record but earlier POWER FAIL records, behind a commit
in flight; another goes to the tail. A full queue first drops the waiting record of least number, never the
one in flight, and the new record is flagged GAP; so is the first after a power-on where one of the four
numbers before it is lost. With no commit in flight, as under STORE FAULT, the head's commit starts. Which
place a POWER FAIL record takes where the rules of its place conflict is notes/assumptions/45.md. -/
def Obligations.HandOversQueueAndDrop : Prop :=
  (∀ (r : StoreRecord) (s : State), s.rs.nextSeq + 1 < 2 ^ 32 →
     let n := s.rs.nextSeq
     let full := 4 ≤ s.rs.holdQueue.length
     let lost := s.rs.firstHandOver = true ∧ ∃ k ∈ [1, 2, 3, 4], k < n ∧ n - k ∉ retainedNumbers s.rs
     ∃ x t, handOver r s = t ∧ t = { s with rs := t.rs } ∧
       t.rs.nextSeq = n + 1 ∧ t.rs.firstHandOver = false ∧ t.rs.inFlight = true ∧ t.rs.newest = s.rs.newest ∧
       t.rs.slotA = s.rs.slotA ∧ t.rs.slotB = s.rs.slotB ∧
       ((full ∨ lost) → x = withGap (withSeq n r)) ∧ (¬full → ¬lost → x = withSeq n r) ∧
       (s.rs.inFlight = true → t.rs.slots = s.rs.slots) ∧
       (s.rs.inFlight = false → ∀ y, t.rs.holdQueue.head? = some y →
         t.rs.slots = assocErase ((recordSeq y + 1023) % 1024) s.rs.slots) ∧
       (∀ inFlight waiting kept, s.rs.holdQueue = inFlight ++ waiting →
         inFlight.length = (if s.rs.inFlight then 1 else 0) →
         (¬full → kept = waiting) →
         (full → ∃ pre old post, waiting = pre ++ old :: post ∧ kept = pre ++ post ∧
           (∀ y ∈ pre, recordSeq old < recordSeq y) ∧ (∀ y ∈ post, recordSeq old ≤ recordSeq y)) →
         ((recordFlags r).powerFail = false → t.rs.holdQueue = inFlight ++ kept ++ [x]) ∧
         (∀ a b, (recordFlags r).powerFail = true → kept = a ++ b → (∀ y ∈ a, (recordFlags y).powerFail = true) →
           (∀ y, b.head? = some y → (recordFlags y).powerFail = false) →
           t.rs.holdQueue = inFlight ++ a ++ x :: b))) ∧
  (∀ (p : Period) (s : State), s.mc.mode ≠ .loading → s.mc.supplyLow = false → s.mc.config.role = some .exportTie →
     s.tie.openPeriod = some p →
     ∃ t y, exec .supplyLowAsserted s = .next t ∧ y.flags = { p.flags with powerFail := true } ∧
       t.rs = (handOver (.settle y) s).rs)

/-- R161, R164, R165, R178: a commit ends. Written whole, the head stands in its slot, the newest number is
raised to it, the next head's commit starts with its slot's old record gone, STORE FAULT is cleared, and an
emptied queue answers a RESET WARNING that waits. With a write error the head stays, no commit runs and STORE
FAULT is raised. A read slot that does not wait stands. One that waits looks again at the store as the commit's end
leaves it: with no record sent yet it decides its first answer anew for the number it was asked (R166), and after record
m it goes on from m (R167); how a held number below the oldest retained one and numbers overwritten meanwhile are
answered is notes/assumptions/21.md. With no commit in flight no read slot waits on. -/
def Obligations.CommitEndKeepsOrRetries : Prop :=
  ∀ (r : StoreRecord) (rest : List StoreRecord) (s : State),
    s.rs.inFlight = true → s.rs.holdQueue = r :: rest →
    let ready := rest = [] ∧ s.mc.mode = .leaving ∧ s.mc.readyTimer ≠ none
    (∃ t, exec (.commitEnd .whole) s = .next t ∧
      t.rs = { s.rs with
        slots := (match rest with
          | [] => assocPut (slotOf (recordSeq r)) r s.rs.slots
          | n :: _ => assocErase (slotOf (recordSeq n)) (assocPut (slotOf (recordSeq r)) r s.rs.slots))
        newest := Nat.max s.rs.newest (recordSeq r), holdQueue := rest, inFlight := !rest.isEmpty
        slotA := t.rs.slotA, slotB := t.rs.slotB } ∧
      (ready → t.fp = { s.fp with out := s.fp.out ++ [.resetReady] } ∧
        t.mc = { s.mc with
          faults := s.mc.faults.filter fun x => x.kind != .storeFault
          readyTimer := none, returnTimer := some 10 }) ∧
      (¬ready → t.fp = s.fp ∧
        t.mc = { s.mc with faults := s.mc.faults.filter fun x => x.kind != .storeFault }) ∧
      LookedAgain s.rs t.rs ∧
      (rest = [] → ∀ i sl, getSlot i t.rs = some sl → sl.waiting = false) ∧
      t = { s with rs := t.rs, fp := t.fp, mc := t.mc }) ∧
    (∃ t, exec (.commitEnd .error) s = .next t ∧
      t.rs = { s.rs with inFlight := false, slotA := t.rs.slotA, slotB := t.rs.slotB } ∧
      LookedAgain s.rs t.rs ∧
      (∀ i sl, getSlot i t.rs = some sl → sl.waiting = false) ∧
      t = { s with
        rs := t.rs
        mc := { s.mc with faults := faultsRaised .storeFault s.dc.time s.mc.faults } })

/-- R15, R166, R167: a READ of this node takes the first FREE read slot (slot A where both are:
notes/assumptions/46.md) with its count held within 1 to 4, and its first answer follows the store: NONE where
nothing from q on stands or the kind is not kept, TRIMMED from the oldest retained where q lies below it (a
held q too: notes/assumptions/21.md), a wait where q is held with a commit in flight, otherwise the least
number from q on. With both slots BUSY it is answered BUSY where the transmit queue has room, and else not. A
READ of another node, or in LISTEN-ONLY, is discarded. A BUSY slot that waits on nothing places its RECORD
where the transmit queue has room for it: a RECORD with the slot's status and the record of its number, read
from the hold queue or from its slot, or an empty RECORD of status NONE. A slot that waits, or whose previous
RECORD is not done, or a full queue, places nothing. -/
def Obligations.ReadsAreTakenAndServed : Prop :=
  (∀ (f : Frame) (rest : List Frame) (s : State), s.liu.rx = f :: rest → f.kind = .read →
    let kept := ∃ k, keptKind s.mc.config = some k ∧ recordKindCode k = at1 f.payload 1
    ((at1 f.payload 0 ≠ s.mc.node.val ∨ s.mc.mode = .listenOnly) →
      exec .readDelivered s = .next { s with liu := { s.liu with rx := rest } }) ∧
    (∀ i, at1 f.payload 0 = s.mc.node.val → s.mc.mode ≠ .listenOnly →
      (i = .a ∧ s.rs.slotA = none ∨ i = .b ∧ s.rs.slotA ≠ none ∧ s.rs.slotB = none) →
      ∃ sl, exec .readDelivered s = .next { s with
          liu := { s.liu with rx := rest }
          rs := setSlot i (some sl) { s.rs with reads := s.rs.reads + 1 } } ∧
        sl.inQueue = false ∧ sl.lastSent = none ∧ sl.taken = s.rs.reads ∧
        (¬kept → sl.status = .none ∧ sl.left = 1 ∧ sl.waiting = false) ∧
        (kept → ∃ fresh, fresh.left = Nat.max 1 (Nat.min (at1 f.payload 6) 4) ∧
          FirstAnswered (at4 f.payload 2) s.rs fresh sl)) ∧
    (at1 f.payload 0 = s.mc.node.val → s.mc.mode ≠ .listenOnly → s.rs.slotA ≠ none → s.rs.slotB ≠ none →
      exec .readDelivered s = .next { s with liu := { s.liu with
        rx := rest
        tx := s.liu.tx ++
          (if s.liu.tx.length < 4 ∧ (s.liu.tx.filter fun e => bodyKind e.body == .record).length < 2 ∧
              s.mc.mode ≠ .loading ∧ s.mc.mode ≠ .standbyDeep then
            [⟨.record .busy 0 [] none, 0, none, false⟩]
          else []) } })) ∧
  (∀ (i : ReadSlotId) (sl : ReadSlot) (s : State), getSlot i s.rs = some sl →
    (sl.waiting = true ∨ sl.inQueue = true ∨ 4 ≤ s.liu.tx.length ∨
        2 ≤ (s.liu.tx.filter fun e => bodyKind e.body == .record).length →
      exec (.recordPlace i) s = .next s) ∧
    (sl.waiting = false → sl.inQueue = false → s.liu.tx.length < 3 →
      (∀ e ∈ s.liu.tx, bodyKind e.body ≠ .record) → s.mc.mode ≠ .loading → s.mc.mode ≠ .standbyDeep →
      (sl.status = .none →
        exec (.recordPlace i) s = .next { s with
          liu := { s.liu with tx := s.liu.tx ++ [⟨.record .none 0 [] (some i), 0, none, false⟩] }
          rs := setSlot i (some { sl with inQueue := true }) s.rs }) ∧
      (∀ r kind, sl.status ≠ .none → sl.next ∈ retainedNumbers s.rs ++ heldNumbers s.rs →
        keptKind s.mc.config = some kind → servedRecord sl.next s.rs = some r →
        ((∃ b, r = .bill b ∧ kind = .bill) ∨ ∃ b, r = .settle b ∧ kind = .settle) →
        exec (.recordPlace i) s = .next { s with
          liu := { s.liu with tx := s.liu.tx ++
            [⟨.record sl.status (recordKindCode kind) (bodyBytes r) (some i), 0, none, false⟩] }
          rs := setSlot i (some { sl with inQueue := true }) s.rs })))

/-! ### The Field Port and the Mode Controller -/

/-- R141, R153, R154, R170, R171, R174: messages discarded, and timers that expire. A bad message changes
nothing and a good one of a kind the role does not use restores the link; that the command's own kind field
may name any kind is notes/assumptions/27.md. The link timer's end with the link UP raises FIELD LINK LOST,
which is FAILED and in ACTIVE enters fallback (R52). NODE STATUS goes out every 10 s and, in LISTEN-ONLY, the
UNCONFIGURED HELLO every 60 s, its other fields and their draw notes/assumptions/13.md. The sync timer's end
lowers the quality to FREE and, at a TOWNHEAT or EXPORT TIE, raises TIME FREE; the tie's TIME timer requests a
TIME with the time value, or the reference time during a hold, and starts anew; the minute check due during a
hold takes the peak minute and clears the accumulator. -/
def Obligations.LinkAndTimersAct : Prop :=
  (∀ s : State, exec (.fieldMessageDiscarded .bad) s = .next s) ∧
  (∀ (k : FieldKind) (s : State), s.mc.mode ≠ .loading →
    exec (.fieldMessageDiscarded (.unused k)) s = .next { s with
      fp := { s.fp with link := .up, linkTimer := some 10 }
      mc := { s.mc with faults := s.mc.faults.filter fun x => x.kind != .fieldLinkLost } }) ∧
  (∀ s : State, s.fp.linkTimer = some 0 → s.fp.link = .up → s.mc.faults.length < 8 →
    ∃ t, exec .fieldLinkLost s = .next t ∧ severity t = .failed ∧
      t.mc = { s.mc with faults := faultsRaised .fieldLinkLost s.dc.time s.mc.faults } ∧
      t.fp.link = .lost ∧ t.fp.linkTimer = some 0 ∧
      ((s.mc.mode ≠ .active ∨ severity s = .failed) → t.se = s.se ∧ t.fp.out = s.fp.out) ∧
      (s.mc.mode = .active → severity s ≠ .failed →
        (∀ m, wantMain s.mc.config = some m →
          t.se = { s.se with fallback := true, setpoint := s.mc.config.fallbackSetpoint } ∧
          t.fp.out = s.fp.out ++ [.setpoint m s.mc.config.fallbackSetpoint]) ∧
        (wantMain s.mc.config = none → t.se = { s.se with fallback := true } ∧ t.fp.out = s.fp.out)) ∧
      t = { s with se := t.se, fp := { s.fp with link := .lost, out := t.fp.out }, mc := t.mc }) ∧
  (∀ s : State, s.fp.statusTimer = some 0 →
    exec .nodeStatusTimer s = .next { s with fp := { s.fp with
      statusTimer := some 10, out := s.fp.out ++ [.nodeStatus (nodeStatus s)] } }) ∧
  (∀ s : State, s.mc.helloTimer = some 0 → s.mc.mode = .listenOnly → s.liu.tx.length < 4 →
    ∃ mains period tag, exec .listenOnlyHelloTimer s = .next { s with
      liu := { s.liu with tx := s.liu.tx ++ [⟨.hello none mains period tag, 0, none, false⟩] }
      mc := { s.mc with helloTimer := some 60 }
      freeNext := s.freeNext + 1 }) ∧
  (∀ s : State, s.dc.syncTimer = some 0 →
    exec .syncTimerExpiry s = .next { s with
      dc := { s.dc with quality := .free, syncTimer := none }
      mc := { s.mc with faults :=
        if s.mc.config.role ∈ [some Role.townheat, some Role.exportTie]
        then faultsRaised .timeFree s.dc.time s.mc.faults else s.mc.faults } }) ∧
  (∀ s : State, s.dc.timeTimer = some 0 → s.mc.mode ≠ .loading → s.mc.mode ≠ .standbyDeep →
    s.liu.tx.length < 4 →
    exec .timeTimerExpiry s = .next { s with
      liu := { s.liu with tx := s.liu.tx ++
        [⟨.time (match s.dc.hold with | some h => h.reference | none => s.dc.time) s.dc.quality, 0, none, false⟩] }
      dc := { s.dc with timeTimer := some 60 } }) ∧
  (∀ s : State, s.mu.holdCheckDue = true →
    exec .holdMinuteCheck s = .next { s with mu := { s.mu with
      holdCheckDue := false, minuteAcc := 0
      openInterval := s.mu.openInterval.map fun i =>
        { i with peak := Nat.max i.peak (s.mu.minuteAcc / 360000000) } } })

/-- R54, R74, R89, R105, R118, R132, R134, R150, R159, R169, R170: NODE STATUS as its timer sends it shows
each block as it stands: the mains computed with their results and, of the want main, grant, minimum grant and
setpoint; the six lines and ladders; the holder, fuel, tie, turbine and meter of the role alone; clock and
store; mode, severity, faults, link, load outcome, reset cause, last standby outcome and wake latch. That a
tie with no period open shows zeros, no start and no flags is notes/assumptions/44.md. -/
def Obligations.NodeStatusShowsTheBlocks : Prop :=
  ∀ s : State, s.fp.statusTimer = some 0 →
    let c := s.mc.config
    let slotShown := fun x : Option ReadSlot => x.map fun sl => (sl.next, sl.left)
    let given := fun day : Nat => match slotOfDay day s.tie with
      | some d => (d.entries.filter Option.isSome).length
      | none => 0
    ∃ n, exec .nodeStatusTimer s = .next { s with fp := { s.fp with
        statusTimer := some 10, out := s.fp.out ++ [.nodeStatus n] } } ∧
      (n.mode = s.mc.mode ∧ n.severity = severity s ∧ n.faults = s.mc.faults ∧ n.link = s.fp.link ∧
        n.loadOutcome = s.mc.loadOutcome ∧ n.cause = s.mc.cause ∧ n.lastStandby = s.mc.lastStandby ∧
        n.latch = s.mc.latch) ∧
      (n.shares.map ShareStatus.main = (match c.role with
          | some .consumer | some .producer | some .holder => [c.main]
          | some .boiler => [c.main, .m2]
          | some .turbine | some .townheat => [.m2]
          | some .exportTie | none => []) ∧
        ∀ x ∈ n.shares, x.result = s.se.results.get x.main ∧
          x.want = if wantMain c = some x.main then some (s.se.grant, s.se.minGrant, s.se.setpoint) else none) ∧
      (∀ l, n.lines.get l = ⟨(s.cu.get l).own, decide ((s.cu.get l).sources ≠ []), (s.cu.get l).sources.length,
          (c.lines.get l).masked, (s.cu.get l).pending⟩ ∧
        n.ladders.get l = ⟨(s.rl.get l).state, (s.rl.get l).taken, (c.lines.get l).steps.length,
          (match (s.rl.get l).state with
            | .stepping => some ((s.rl.get l).taken - 1, false)
            | .undoInFlight => some ((s.rl.get l).taken, true)
            | _ => none),
          (s.rl.get l).dwell, (s.rl.get l).outcome, (c.lines.get l).steps.map Step.replaced⟩) ∧
      (c.role = some .holder → n.holder = some ⟨s.hu.level, s.hu.band, drawLimit s, absorbLimit s,
        if c.main = .m2 then some 0 else s.hu.position, s.hu.move.map FlareMove.target⟩) ∧
      (c.role = some .boiler → n.fuel = some ⟨s.fu.mode, s.fu.lastReported,
        s.fu.flight.map fun x => (x.target, x.timer), s.fu.recorded.map RecordedTarget.target,
        ((s.fu.flight.map Changeover.joined).getD []).length,
        ((s.fu.recorded.map RecordedTarget.waiting).getD []).length⟩) ∧
      (c.role = some .exportTie → ∃ x, n.tie = some x ∧ x.gap = s.tie.gap ∧
        x.todayEntries = given s.dc.time.day ∧ x.tomorrowEntries = given ((s.dc.time.day + 1) % 65536) ∧
        x.lastSchedule = s.tie.lastSchedule ∧ x.lastVerdict = s.tie.lastVerdict ∧
        (∀ p, s.tie.openPeriod = some p → x.start = some p.start ∧ x.planned = p.planned ∧
          x.commitment = p.commitment ∧ x.energyC = p.energyC ∧ x.energyE = p.energyE ∧ x.missing = p.missing ∧
          x.flags = some p.flags) ∧
        (s.tie.openPeriod = none → x.start = none ∧ x.planned = 0 ∧ x.commitment = 0 ∧ x.energyC = 0 ∧
          x.energyE = 0 ∧ x.missing = 0 ∧ x.flags = none)) ∧
      (c.role = some .turbine → n.turbine = some s.turbine) ∧
      (c.role = some .townheat → n.meter = some ⟨s.mu.demand, s.mu.fraction, s.mu.heatBackup, s.mu.heatTotal,
        s.mu.held, s.mu.openInterval, s.mu.worksRem, s.mu.purchRem⟩) ∧
      ((c.role ≠ some .holder → n.holder = none) ∧ (c.role ≠ some .boiler → n.fuel = none) ∧
        (c.role ≠ some .exportTie → n.tie = none) ∧ (c.role ≠ some .turbine → n.turbine = none) ∧
        (c.role ≠ some .townheat → n.meter = none)) ∧
      n.clock = ⟨s.dc.time, s.dc.quality, s.dc.syncTimer, s.dc.trim, s.dc.trimAcc, s.dc.pendingStep, s.dc.hold,
        s.dc.spanStart⟩ ∧
      n.store = ⟨oldestRetained s.rs, s.rs.newest, s.rs.nextSeq, s.rs.holdQueue.length,
        if s.rs.inFlight then s.rs.holdQueue.head?.map recordSeq else none, slotShown s.rs.slotA,
        slotShown s.rs.slotB, faultPresent .storeFault s.mc.faults⟩

/-- R17, R34, R57, R59, R83, R88, R103, R113, R170, R175, R176, R177: a STANDBY REQUEST by mode and role: refused of a
HOLDER, TOWNHEAT or EXPORT TIE and in LEAVING, the waiting request in LISTEN-IN, ACTIVE and, for level DEEP,
STANDBY-LISTEN, taken with no change otherwise. Nothing else changes but the link. A waiting request takes
effect at its round expiry, the entry made whole (DeepStandbyEntered and ListenStandbyEntered in Safety.lean say all
of it), the last standby outcome TAKEN; then the latch, emptied before where clear-wake asks for it, is looked at
(R176 step 4). STANDBY-DEEP: every waiting entry is gone and the LEAVE is queued, behind an entry being sent, which
is not to be retried; the receive queue and the table are empty, no claim stands, every ladder is IDLE and its
request withdrawn, the round timer is stopped and the output is at fallback; a latched WAKE FRAME or RESUME then
wakes it at once to LISTEN-IN, a CLAIM RISE alone does not. STANDBY-LISTEN: the expiry is its round 1, the engine's
claims are released, every ladder is IDLE, asserted lines are pending (R83), the Fuel Unit has lost each request but
keeps its changeover (R103, R113); any latched cause then wakes it at once to ACTIVE. That the wake comes after the
whole round 1 is notes/assumptions/14.md; that a WAKE in the receive queue at entry to STANDBY-DEEP is gone with the
queue and wakes nothing is the model's reading of R17 against R181, notes/assumptions/54.md. -/
def Obligations.StandbyRequestsWaitAndTakeEffect : Prop :=
  (∀ (level : StandbyLevel) (clear : Bool) (r : Role) (s : State),
    s.mc.config.role = some r → s.mc.mode ≠ .loading → s.mc.mode ≠ .listenOnly →
    exec (.standbyRequest level clear) s = .next { s with
      fp := { s.fp with link := .up, linkTimer := some 10 }
      mc := { s.mc with
        faults := s.mc.faults.filter fun x => x.kind != .fieldLinkLost
        waitingRequest :=
          if r ∈ [Role.holder, .townheat, .exportTie] ∨ s.mc.mode = .leaving then s.mc.waitingRequest
          else if s.mc.mode = .active ∨ s.mc.mode = .listenIn ∨ (s.mc.mode = .standbyListen ∧ level = .deep)
          then some ⟨level, clear⟩ else s.mc.waitingRequest
        lastStandby :=
          if r ∈ [Role.holder, .townheat, .exportTie] ∨ s.mc.mode = .leaving then .refused
          else if s.mc.mode = .active ∨ s.mc.mode = .listenIn ∨ (s.mc.mode = .standbyListen ∧ level = .deep)
          then .waiting else .taken } }) ∧
  (∀ (r : StandbyRequest) (s : State), s.se.roundTimer = some 0 →
    (s.mc.mode = .active ∨ s.mc.mode = .standbyListen) → s.mc.waitingRequest = some r →
    let wakesDeep := r.clearWake = false ∧ (s.mc.latch.wakeFrame = true ∨ s.mc.latch.resume = true)
    let wakesListen := r.clearWake = false ∧ s.mc.latch ≠ ⟨false, false, Six.all false⟩
    (r.level = .deep → ∃ u, DeepStandbyEntered r.clearWake s u ∧
      (¬wakesDeep → exec .roundExpiry s = .next u) ∧
      (wakesDeep → ∃ t, exec .roundExpiry s = .next t ∧ EntersListenIn u t)) ∧
    (r.level = .listen → ∃ u, ListenStandbyEntered r.clearWake s u ∧
      (¬wakesListen → exec .roundExpiry s = .next u) ∧
      (wakesListen → ∃ t, exec .roundExpiry s = .next t ∧ EntersActive u t)))

/-- R15, R177: a RESUME and a matching WAKE are wake causes. In LISTEN-IN, ACTIVE and LEAVING they are only
latched; in STANDBY-LISTEN the station enters ACTIVE, its latch cleared and its round count 0, the IDLE ladder of
each pending, open, asserted line taking step 0 and the others standing (R85, R98, EntersActive in Safety.lean); in
STANDBY-DEEP it enters LISTEN-IN with its HELLO queued, the round timer at the period and the cause still latched.
That it wakes from STANDBY-LISTEN, its latch cleared, where a DEEP request waits is the model's reading of R177
against R181, notes/assumptions/52.md; that a node selector matches whatever its third byte,
notes/assumptions/53.md. -/
def Obligations.WakeCausesLatchAndWake : Prop :=
  ∀ s : State, s.mc.config.role ≠ none →
    ((s.mc.mode = .listenIn ∨ s.mc.mode = .active ∨ s.mc.mode = .leaving) →
      exec .resume s = .next { s with
        fp := { s.fp with link := .up, linkTimer := some 10 }
        mc := { s.mc with
          faults := s.mc.faults.filter fun x => x.kind != .fieldLinkLost
          latch := { s.mc.latch with resume := true } } } ∧
      ∀ f rest, s.liu.rx = f :: rest → f.kind = .wake → wakeMatches f.payload s = true →
        exec .wakeDelivered s = .next { s with
          liu := { s.liu with rx := rest }
          mc := { s.mc with latch := { s.mc.latch with wakeFrame := true } } }) ∧
    (∀ c u, (c = .resume ∧ u = { s with
          fp := { s.fp with link := .up, linkTimer := some 10 }
          mc := { s.mc with
            faults := s.mc.faults.filter fun x => x.kind != .fieldLinkLost
            latch := { s.mc.latch with resume := true } } } ∨
        c = .wakeDelivered ∧ ∃ f rest, s.liu.rx = f :: rest ∧ f.kind = .wake ∧ wakeMatches f.payload s = true ∧
          u = { s with
            liu := { s.liu with rx := rest }
            mc := { s.mc with latch := { s.mc.latch with wakeFrame := true } } }) →
      (s.mc.mode = .standbyListen → ∃ t, exec c s = .next t ∧ EntersActive u t) ∧
      (s.mc.mode = .standbyDeep → ∃ t, exec c s = .next t ∧ EntersListenIn u t))

/-- R17, R36, R52, R57, R64, R178: a RESET WARNING of a configured role without a store: the station is
LEAVING, the warning mark set, a waiting request gone, the round timer stopped, own claims released, no HELLO
or STATE waiting and one being sent not to be retried, the output at fallback, RESET READY sent at once where
nothing is held and the ready timer at 2 s where something is (which of the two holds for a queue kept from
another role is notes/assumptions/30.md). In LISTEN-ONLY it sets the mark and RESET READY is sent; in LEAVING
it has no effect but on the link. The ready timer's end sends RESET READY and starts the return timer. The
return timer's end clears the warning mark; from LEAVING the station enters LISTEN-IN with its HELLO queued,
the round timer at the period and the output at fallback, its ladders as they stand, and a HOLDER asks again
for the claim its band calls for (R64); LISTEN-ONLY stays. -/
def Obligations.ResetWarningLeavesAndReturns : Prop :=
  (∀ s : State, s.mc.mode ∈ [Mode.listenIn, .active, .standbyListen, .standbyDeep] → keptKind s.mc.config = none →
    ∃ t, exec .resetWarning s = .next t ∧ t.mc.mode = .leaving ∧ t.mc.warning = true ∧
      t.mc.waitingRequest = none ∧ t.se.roundTimer = none ∧ t.se.fallback = true ∧
      t.se.shortfallCount = 0 ∧ t.se.excessCount = 0 ∧
      (wantMain s.mc.config ≠ none → t.se.setpoint = s.mc.config.fallbackSetpoint) ∧
      (∀ x ∈ fallbackSent s.mc.config, x ∈ t.fp.out.drop s.fp.out.length) ∧
      (∀ l, l ∈ engineLines s.mc.config ∨ l ∈ holderLines s.mc.config → (t.cu.get l).own = false) ∧
      (∀ l, l ∉ engineLines s.mc.config → l ∉ holderLines s.mc.config → t.cu.get l = s.cu.get l) ∧
      (∀ l n, n ≠ s.mc.node.val → (n ∈ (t.cu.get l).sources ↔ n ∈ (s.cu.get l).sources)) ∧
      (s.liu.tx = [] → ⟨.leave .resetWarning, 0, none, false⟩ ∈ t.liu.tx) ∧
      (∀ e ∈ t.liu.tx, bodyKind e.body = .hello ∨ bodyKind e.body = .state → e.sending ≠ none ∧ e.noRetry = true) ∧
      (s.rs.holdQueue = [] → .resetReady ∈ t.fp.out.drop s.fp.out.length ∧ t.mc.readyTimer = none ∧
        t.mc.returnTimer = some 10) ∧
      (s.rs.holdQueue ≠ [] → t.mc.readyTimer = some 2 ∧ t.mc.returnTimer = s.mc.returnTimer) ∧
      t.fp.statusTimer = some 10 ∧ t.fp.link = .up ∧ t.fp.linkTimer = some 10 ∧ t.liu.rx = s.liu.rx ∧
      t.peers = s.peers ∧ t.tie = s.tie ∧ t.mu = s.mu ∧ t.dc = s.dc ∧ t.rs = s.rs ∧
      t.mc.config = s.mc.config ∧ t.mc.latch = s.mc.latch ∧ t.mc.cause = s.mc.cause ∧ t.pending = s.pending) ∧
  (∀ s : State, s.mc.mode = .listenOnly →
    exec .resetWarning s = .next { s with
      fp := { s.fp with link := .up, linkTimer := some 10, out := s.fp.out ++ [.resetReady] }
      mc := { s.mc with
        faults := s.mc.faults.filter fun x => x.kind != .fieldLinkLost
        warning := true, readyTimer := none, returnTimer := some 10 } }) ∧
  (∀ s : State, s.mc.mode = .leaving →
    exec .resetWarning s = .next { s with
      fp := { s.fp with link := .up, linkTimer := some 10 }
      mc := { s.mc with faults := s.mc.faults.filter fun x => x.kind != .fieldLinkLost } }) ∧
  (∀ s : State, s.mc.readyTimer = some 0 →
    exec .readyTimerExpiry s = .next { s with
      fp := { s.fp with out := s.fp.out ++ [.resetReady] }
      mc := { s.mc with readyTimer := none, returnTimer := some 10 } }) ∧
  (∀ s : State, s.mc.returnTimer = some 0 → s.mc.mode ≠ .leaving →
    exec .returnTimerExpiry s = .next { s with mc := { s.mc with warning := false, returnTimer := none } }) ∧
  (∀ (r : Role) (s : State), s.mc.returnTimer = some 0 → s.mc.mode = .leaving → s.mc.config.role = some r →
    r ≠ .holder → s.liu.tx = [] →
    ∃ t, exec .returnTimerExpiry s = .next t ∧
      t.mc = { s.mc with mode := .listenIn, warning := false, returnTimer := none } ∧
      t.liu = { s.liu with tx := [⟨.hello (some r) (mainsByte (stationMains s.mc.config)) s.mc.config.period
        s.mc.config.tag, 0, none, false⟩] } ∧
      t.se.roundTimer = some s.mc.config.period ∧ t.se.roundCount = 0 ∧ t.se.fallback = true ∧
      (wantMain s.mc.config ≠ none → t.se.setpoint = s.mc.config.fallbackSetpoint) ∧
      t.fp = { s.fp with statusTimer := none, out := s.fp.out ++ fallbackSent s.mc.config } ∧
      (∀ l, (t.cu.get l).own = (s.cu.get l).own ∧ (t.cu.get l).sources = (s.cu.get l).sources ∧
        ((t.cu.get l).pending = true ↔ (s.cu.get l).pending = true ∨
          (s.cu.get l).sources ≠ [] ∧ (s.rl.get l).state = .idle)) ∧
      t.rl = s.rl ∧ t.fu = s.fu ∧ t.hu = s.hu ∧ t.peers = s.peers ∧ t.tie = s.tie ∧ t.mu = s.mu ∧
      t.dc = s.dc ∧ t.rs = s.rs ∧ t.pending = s.pending) ∧
  (∀ s : State, s.mc.returnTimer = some 0 → s.mc.mode = .leaving → s.mc.config.role = some .holder →
    s.liu.tx = [] → (∀ l ∈ holderLines s.mc.config, (s.cu.get l).own = false) →
    let called : List ClaimLine := match s.hu.band with
      | .none | .normal => []
      | .emptyGuard | .low => [⟨s.mc.config.main, .shortfall⟩]
      | .high | .flare => [⟨s.mc.config.main, .surplus⟩]
    ∃ t, exec .returnTimerExpiry s = .next t ∧
      t.mc = { s.mc with mode := .listenIn, warning := false, returnTimer := none, latch := t.mc.latch } ∧
      t.liu = { s.liu with tx :=
        ⟨.hello (some .holder) (mainsByte (stationMains s.mc.config)) s.mc.config.period s.mc.config.tag, 0, none,
          false⟩ :: called.map fun l => ⟨.claim l .assert, 0, none, false⟩ } ∧
      (∀ l ∈ called, (t.cu.get l).own = true ∧ s.mc.node.val ∈ (t.cu.get l).sources ∧
        (s.mc.config.wakeSet.get l = true → (s.cu.get l).sources = [] → t.mc.latch.claimRise.get l = true)) ∧
      (∀ l, l ∉ called → (t.cu.get l).own = (s.cu.get l).own ∧ (t.cu.get l).sources = (s.cu.get l).sources) ∧
      (∀ l n, n ≠ s.mc.node.val → (n ∈ (t.cu.get l).sources ↔ n ∈ (s.cu.get l).sources)) ∧
      t.se.roundTimer = some s.mc.config.period ∧ t.se.roundCount = 0 ∧ t.se.fallback = true ∧
      t.fp = { s.fp with statusTimer := none } ∧
      t.rl = s.rl ∧ t.fu = s.fu ∧ t.hu = s.hu ∧ t.peers = s.peers ∧ t.tie = s.tie ∧ t.mu = s.mu ∧
      t.dc = s.dc ∧ t.rs = s.rs ∧ t.pending = s.pending)

/-- R128, R146, R164, R178: a RESET WARNING at a TOWNHEAT or EXPORT TIE. The open span closes at the current
second with flag SHORT, the interval after a minute check, its record is handed over and its commit starts; a
new span opens at that second with PARTIAL START; the station is LEAVING and the ready timer runs. With none
open, as while SUPPLY LOW stands, nothing is closed or opened, and with an empty hold queue RESET READY is
sent at once. The record's time quality takes in the Day Clock's at the close (notes/assumptions/43.md). -/
def Obligations.ResetWarningClosesShort : Prop :=
  ∀ s : State, s.mc.mode ∈ [Mode.listenIn, .active, .standbyListen, .standbyDeep] →
    s.rs.holdQueue = [] → s.rs.inFlight = false →
    noneLost s.rs → s.rs.nextSeq + 1 < 2 ^ 32 →
    let handed := fun (x : StoreRecord) => { s.rs with
      nextSeq := s.rs.nextSeq + 1, firstHandOver := false, inFlight := true, holdQueue := [x]
      slots := assocErase ((s.rs.nextSeq + 1023) % 1024) s.rs.slots }
    (∀ p, s.mc.config.role = some .exportTie → s.tie.openPeriod = some p →
      secondsFrom p.start s.dc.time ≤ 1800 →
      ∃ t x q, exec .resetWarning s = .next t ∧ t.mc.mode = .leaving ∧ t.mc.warning = true ∧
        t.mc.readyTimer = some 2 ∧ t.mc.returnTimer = s.mc.returnTimer ∧ t.rs = handed (.settle x) ∧
        x.seq = s.rs.nextSeq ∧ x.start = p.start ∧ x.length = secondsFrom p.start s.dc.time ∧
        x.commitment = p.commitment ∧ x.energyC = p.commitment * x.length / 36 ∧ x.energyE = p.energyE ∧
        x.missing = p.missing ∧ x.quality = lowerQuality p.quality s.dc.quality ∧
        x.flags = { p.flags with short := true } ∧
        t.tie.lastVerdict = some (x.verdict, x.penalty) ∧ t.tie.openPeriod = some q ∧ t.tie.mark = false ∧
        q.start = s.dc.time ∧ q.planned = 1800 * (s.dc.time.sec / 1800 + 1) - s.dc.time.sec ∧
        q.energyE = 0 ∧ q.missing = 0 ∧
        q.flags = { noFlags with partialStart := true, noSchedule := q.flags.noSchedule } ∧
        q.energyC = q.commitment * q.planned / 36 ∧ q.quality = s.dc.quality ∧
        t.tie.slotA = s.tie.slotA ∧ t.tie.slotB = s.tie.slotB ∧
        t.dc = { s.dc with spanStart := some s.dc.time } ∧ t.mu = s.mu ∧ t.peers = s.peers ∧ t.pending = s.pending) ∧
    (∀ i, s.mc.config.role = some .townheat → s.mu.openInterval = some i →
      secondsFrom i.start s.dc.time ≤ 3600 →
      ∃ t, exec .resetWarning s = .next t ∧ t.mc.mode = .leaving ∧ t.mc.warning = true ∧
        t.mc.readyTimer = some 2 ∧ t.mc.returnTimer = s.mc.returnTimer ∧
        t.rs = handed (.bill
          { seq := s.rs.nextSeq, start := i.start, length := secondsFrom i.start s.dc.time, band := i.band
            quality := lowerQuality i.quality s.dc.quality, works := i.works, purchased := i.purchased
            peak := Nat.max i.peak (s.mu.minuteAcc / 360000000), missing := i.missing, reverse := i.reverse
            overRange := i.overRange, flags := { i.flags with short := true } }) ∧
        t.mu = { s.mu with
          minuteAcc := 0
          openInterval := some
            { start := s.dc.time, planned := 3600 * (s.dc.time.sec / 3600 + 1) - s.dc.time.sec
              band := s.mc.config.tariff.getD (s.dc.time.sec / 3600) 0
              works := 0, purchased := 0, peak := 0, missing := 0, reverse := 0, overRange := 0
              quality := s.dc.quality, flags := { noFlags with partialStart := true } } } ∧
        t.dc = { s.dc with spanStart := some s.dc.time } ∧ t.tie = s.tie ∧ t.peers = s.peers ∧
        t.pending = s.pending) ∧
    ((s.mc.config.role = some .exportTie ∧ s.tie.openPeriod = none ∨
        s.mc.config.role = some .townheat ∧ s.mu.openInterval = none) →
      ∃ t, exec .resetWarning s = .next t ∧ t.mc.mode = .leaving ∧ t.mc.warning = true ∧
        t.mc.readyTimer = none ∧ t.mc.returnTimer = some 10 ∧ .resetReady ∈ t.fp.out.drop s.fp.out.length ∧
        t.rs = s.rs ∧ t.tie = s.tie ∧ t.mu = s.mu ∧ t.dc = s.dc ∧ t.peers = s.peers ∧ t.pending = s.pending)

/-- R125, R128, R146, R179: SUPPLY LOW. An assertion closes the tie's open period, and the town's open
interval after a minute check, with POWER FAIL and holds none open; a release opens one at that second with
PARTIAL START. Every other role, LISTEN-ONLY and LOADING only note the input. The record's time quality takes
in the Day Clock's at the close (notes/assumptions/43.md). -/
def Obligations.SupplyLowClosesAndOpens : Prop :=
  (∀ s : State, (s.mc.mode = .loading ∨ keptKind s.mc.config = none) →
    exec .supplyLowAsserted s = .next { s with mc := { s.mc with supplyLow := true } } ∧
    exec .supplyLowReleased s = .next { s with mc := { s.mc with supplyLow := false } }) ∧
  (∀ s : State, s.mc.mode ≠ .loading → s.mc.supplyLow = false → s.rs.holdQueue = [] → s.rs.inFlight = false →
    noneLost s.rs → s.rs.nextSeq + 1 < 2 ^ 32 →
    (∀ p, s.mc.config.role = some .exportTie → s.tie.openPeriod = some p →
      ∃ t x, exec .supplyLowAsserted s = .next t ∧
        t = { s with
          tie := { s.tie with openPeriod := none, gap := 0, lastVerdict := t.tie.lastVerdict }
          dc := { s.dc with spanStart := none }
          rs := { s.rs with
            nextSeq := s.rs.nextSeq + 1, firstHandOver := false, inFlight := true, holdQueue := [.settle x]
            slots := assocErase ((s.rs.nextSeq + 1023) % 1024) s.rs.slots }
          mc := { s.mc with supplyLow := true } } ∧
        x.seq = s.rs.nextSeq ∧ x.start = p.start ∧ x.commitment = p.commitment ∧ x.energyE = p.energyE ∧
        x.missing = p.missing ∧ x.quality = lowerQuality p.quality s.dc.quality ∧
        x.flags = { p.flags with powerFail := true } ∧
        (secondsFrom p.start s.dc.time ≤ 1800 →
          x.length = secondsFrom p.start s.dc.time ∧
          x.energyC = p.commitment * secondsFrom p.start s.dc.time / 36)) ∧
    (∀ i, s.mc.config.role = some .townheat → s.mu.openInterval = some i →
      ∃ t x, exec .supplyLowAsserted s = .next t ∧
        t = { s with
          mu := { s.mu with openInterval := none, minuteAcc := 0 }
          dc := { s.dc with spanStart := none }
          rs := { s.rs with
            nextSeq := s.rs.nextSeq + 1, firstHandOver := false, inFlight := true, holdQueue := [.bill x]
            slots := assocErase ((s.rs.nextSeq + 1023) % 1024) s.rs.slots }
          mc := { s.mc with supplyLow := true } } ∧
        x.seq = s.rs.nextSeq ∧ x.start = i.start ∧ x.band = i.band ∧ x.works = i.works ∧
        x.purchased = i.purchased ∧ x.peak = Nat.max i.peak (s.mu.minuteAcc / 360000000) ∧
        x.missing = i.missing ∧ x.reverse = i.reverse ∧ x.overRange = i.overRange ∧
        x.quality = lowerQuality i.quality s.dc.quality ∧
        x.flags = { i.flags with powerFail := true } ∧
        (secondsFrom i.start s.dc.time ≤ 3600 → x.length = secondsFrom i.start s.dc.time))) ∧
  (∀ s : State, s.mc.mode ≠ .loading → s.mc.supplyLow = true →
    (s.mc.config.role = some .exportTie → s.tie.openPeriod = none →
      ∃ t p, exec .supplyLowReleased s = .next t ∧ t.tie.openPeriod = some p ∧ t.tie.mark = false ∧
        p.start = s.dc.time ∧ p.planned = 1800 * (s.dc.time.sec / 1800 + 1) - s.dc.time.sec ∧
        p.energyE = 0 ∧ p.missing = 0 ∧ p.flags.partialStart = true ∧ p.flags.powerFail = false ∧
        p.energyC = p.commitment * p.planned / 36 ∧
        t = { s with
          tie := t.tie, dc := { s.dc with spanStart := some s.dc.time }, mc := { s.mc with supplyLow := false } }) ∧
    (s.mc.config.role = some .townheat → s.mu.openInterval = none →
      ∃ t i, exec .supplyLowReleased s = .next t ∧ t.mu = { s.mu with minuteAcc := 0, openInterval := some i } ∧
        i.start = s.dc.time ∧ i.planned = 3600 * (s.dc.time.sec / 3600 + 1) - s.dc.time.sec ∧
        i.works = 0 ∧ i.purchased = 0 ∧ i.peak = 0 ∧ i.missing = 0 ∧ i.flags = { noFlags with partialStart := true } ∧
        t = { s with
          mu := t.mu, dc := { s.dc with spanStart := some s.dc.time }, mc := { s.mc with supplyLow := false } }))

/-! ### Safety and the laws of the device -/

/-- Every command whose operands a message can carry goes on, in every state, and leaves the queue behind it
as it stands; a SCHEDULE, EXPORT ENERGY or TIME SET outside its field ranges is refused as ill-formed, the
model's own rule (notes/assumptions/28.md); so a queue of well-formed commands runs to its end. -/
def Obligations.WellFormedCommandsGoOn : Prop :=
  (∀ (c : Instr) (s : State), c.wellFormed = true → ∃ t, exec c s = .next t ∧ t.pending = s.pending) ∧
  (∀ (c : Instr) (s : State), c.wellFormed = false → exec c s = .refused .illFormed) ∧
  (∀ s : State, queueWellFormed s → runsSafely s)

/-- The state after reset keeps every law below. -/
def Obligations.LawsHoldAtReset : Prop :=
  QueuesBounded State.reset ∧ FuelLaw State.reset ∧ LadderLaw State.reset ∧ ClaimLaw State.reset ∧
    ShareLaw State.reset ∧ ClockLaw State.reset ∧ TablesCanonical State.reset

/-- R3, R5, R7, R14, R162: no step lets a queue pass its capacity, two entries be sent at once, an entry live
through eight collisions, or the drop count pass 255. -/
def Obligations.QueuesStayBounded : Prop :=
  ∀ s t : State, QueuesBounded s → step s = .next t → QueuesBounded t

/-- R93, R103, R107, R109: every step keeps the fuel mode and the changeover in flight in agreement, and every
ladder within its steps. -/
def Obligations.FuelAndLaddersStayLawful : Prop :=
  (∀ s t : State, FuelLaw s → step s = .next t → FuelLaw t) ∧
  (∀ s t : State, LadderLaw s → step s = .next t → LadderLaw t)

/-- R19, R28, R75: every step keeps the source sets to the own number, while the own claim stands, and the
numbers of PRESENT peers. -/
def Obligations.ClaimsStayBacked : Prop :=
  ∀ s t : State, ClaimLaw s → step s = .next t → ClaimLaw t

/-- R48, R51, R52, R53: after every step the output is at fallback outside ACTIVE and while FAILED, and
otherwise within the grant, the grant within the effective want. -/
def Obligations.OutputStaysWithinTheGrant : Prop :=
  ∀ s t : State, ShareLaw s → step s = .next t → ShareLaw t

/-- R151 to R157: every step keeps the time value, the trim and every position kept within their ranges, and
the sync timer running exactly while the quality is SYNCED. -/
def Obligations.ClockStaysWithinRange : Prop :=
  ∀ s t : State, ClockLaw s → step s = .next t → ClockLaw t

/-- R19, R30, R75, R125, R131, R140, R160, R180: every step keeps the keyed tables in their one form, each
record in the slot of its number, no main record at an EXPORT TIE's entry, one fault of a kind, and the
remainders below one kWh; and the export gap at 0 with no period open (R125) and in LOADING
(notes/assumptions/26.md). -/
def Obligations.TablesStayCanonical : Prop :=
  ∀ s t : State, TablesCanonical s → step s = .next t → TablesCanonical t
end

