-- ==== Sys2Proof/Laws/State.lean ====
section
/-! SUPPORT. What each update of one block leaves of the state: one equation per field. -/

namespace Sys2Proof.Machine

variable (s : State)

@[simp] theorem setLiu_liu (x : LineUnit) : (s.setLiu x).liu = x := rfl
@[simp] theorem setLiu_peers (x : LineUnit) : (s.setLiu x).peers = s.peers := rfl
@[simp] theorem setLiu_se (x : LineUnit) : (s.setLiu x).se = s.se := rfl
@[simp] theorem setLiu_hu (x : LineUnit) : (s.setLiu x).hu = s.hu := rfl
@[simp] theorem setLiu_cu (x : LineUnit) : (s.setLiu x).cu = s.cu := rfl
@[simp] theorem setLiu_rl (x : LineUnit) : (s.setLiu x).rl = s.rl := rfl
@[simp] theorem setLiu_fu (x : LineUnit) : (s.setLiu x).fu = s.fu := rfl
@[simp] theorem setLiu_tie (x : LineUnit) : (s.setLiu x).tie = s.tie := rfl
@[simp] theorem setLiu_turbine (x : LineUnit) : (s.setLiu x).turbine = s.turbine := rfl
@[simp] theorem setLiu_mu (x : LineUnit) : (s.setLiu x).mu = s.mu := rfl
@[simp] theorem setLiu_dc (x : LineUnit) : (s.setLiu x).dc = s.dc := rfl
@[simp] theorem setLiu_rs (x : LineUnit) : (s.setLiu x).rs = s.rs := rfl
@[simp] theorem setLiu_fp (x : LineUnit) : (s.setLiu x).fp = s.fp := rfl
@[simp] theorem setLiu_mc (x : LineUnit) : (s.setLiu x).mc = s.mc := rfl
@[simp] theorem setLiu_freeNext (x : LineUnit) : (s.setLiu x).freeNext = s.freeNext := rfl
@[simp] theorem setLiu_pending (x : LineUnit) : (s.setLiu x).pending = s.pending := rfl

@[simp] theorem setPeers_liu (x : List (Nat × PeerEntry)) : (s.setPeers x).liu = s.liu := rfl
@[simp] theorem setPeers_peers (x : List (Nat × PeerEntry)) : (s.setPeers x).peers = x := rfl
@[simp] theorem setPeers_se (x : List (Nat × PeerEntry)) : (s.setPeers x).se = s.se := rfl
@[simp] theorem setPeers_hu (x : List (Nat × PeerEntry)) : (s.setPeers x).hu = s.hu := rfl
@[simp] theorem setPeers_cu (x : List (Nat × PeerEntry)) : (s.setPeers x).cu = s.cu := rfl
@[simp] theorem setPeers_rl (x : List (Nat × PeerEntry)) : (s.setPeers x).rl = s.rl := rfl
@[simp] theorem setPeers_fu (x : List (Nat × PeerEntry)) : (s.setPeers x).fu = s.fu := rfl
@[simp] theorem setPeers_tie (x : List (Nat × PeerEntry)) : (s.setPeers x).tie = s.tie := rfl
@[simp] theorem setPeers_turbine (x : List (Nat × PeerEntry)) : (s.setPeers x).turbine = s.turbine := rfl
@[simp] theorem setPeers_mu (x : List (Nat × PeerEntry)) : (s.setPeers x).mu = s.mu := rfl
@[simp] theorem setPeers_dc (x : List (Nat × PeerEntry)) : (s.setPeers x).dc = s.dc := rfl
@[simp] theorem setPeers_rs (x : List (Nat × PeerEntry)) : (s.setPeers x).rs = s.rs := rfl
@[simp] theorem setPeers_fp (x : List (Nat × PeerEntry)) : (s.setPeers x).fp = s.fp := rfl
@[simp] theorem setPeers_mc (x : List (Nat × PeerEntry)) : (s.setPeers x).mc = s.mc := rfl
@[simp] theorem setPeers_freeNext (x : List (Nat × PeerEntry)) : (s.setPeers x).freeNext = s.freeNext := rfl
@[simp] theorem setPeers_pending (x : List (Nat × PeerEntry)) : (s.setPeers x).pending = s.pending := rfl

@[simp] theorem setSe_liu (x : ShareEngine) : (s.setSe x).liu = s.liu := rfl
@[simp] theorem setSe_peers (x : ShareEngine) : (s.setSe x).peers = s.peers := rfl
@[simp] theorem setSe_se (x : ShareEngine) : (s.setSe x).se = x := rfl
@[simp] theorem setSe_hu (x : ShareEngine) : (s.setSe x).hu = s.hu := rfl
@[simp] theorem setSe_cu (x : ShareEngine) : (s.setSe x).cu = s.cu := rfl
@[simp] theorem setSe_rl (x : ShareEngine) : (s.setSe x).rl = s.rl := rfl
@[simp] theorem setSe_fu (x : ShareEngine) : (s.setSe x).fu = s.fu := rfl
@[simp] theorem setSe_tie (x : ShareEngine) : (s.setSe x).tie = s.tie := rfl
@[simp] theorem setSe_turbine (x : ShareEngine) : (s.setSe x).turbine = s.turbine := rfl
@[simp] theorem setSe_mu (x : ShareEngine) : (s.setSe x).mu = s.mu := rfl
@[simp] theorem setSe_dc (x : ShareEngine) : (s.setSe x).dc = s.dc := rfl
@[simp] theorem setSe_rs (x : ShareEngine) : (s.setSe x).rs = s.rs := rfl
@[simp] theorem setSe_fp (x : ShareEngine) : (s.setSe x).fp = s.fp := rfl
@[simp] theorem setSe_mc (x : ShareEngine) : (s.setSe x).mc = s.mc := rfl
@[simp] theorem setSe_freeNext (x : ShareEngine) : (s.setSe x).freeNext = s.freeNext := rfl
@[simp] theorem setSe_pending (x : ShareEngine) : (s.setSe x).pending = s.pending := rfl

@[simp] theorem setHu_liu (x : HolderUnit) : (s.setHu x).liu = s.liu := rfl
@[simp] theorem setHu_peers (x : HolderUnit) : (s.setHu x).peers = s.peers := rfl
@[simp] theorem setHu_se (x : HolderUnit) : (s.setHu x).se = s.se := rfl
@[simp] theorem setHu_hu (x : HolderUnit) : (s.setHu x).hu = x := rfl
@[simp] theorem setHu_cu (x : HolderUnit) : (s.setHu x).cu = s.cu := rfl
@[simp] theorem setHu_rl (x : HolderUnit) : (s.setHu x).rl = s.rl := rfl
@[simp] theorem setHu_fu (x : HolderUnit) : (s.setHu x).fu = s.fu := rfl
@[simp] theorem setHu_tie (x : HolderUnit) : (s.setHu x).tie = s.tie := rfl
@[simp] theorem setHu_turbine (x : HolderUnit) : (s.setHu x).turbine = s.turbine := rfl
@[simp] theorem setHu_mu (x : HolderUnit) : (s.setHu x).mu = s.mu := rfl
@[simp] theorem setHu_dc (x : HolderUnit) : (s.setHu x).dc = s.dc := rfl
@[simp] theorem setHu_rs (x : HolderUnit) : (s.setHu x).rs = s.rs := rfl
@[simp] theorem setHu_fp (x : HolderUnit) : (s.setHu x).fp = s.fp := rfl
@[simp] theorem setHu_mc (x : HolderUnit) : (s.setHu x).mc = s.mc := rfl
@[simp] theorem setHu_freeNext (x : HolderUnit) : (s.setHu x).freeNext = s.freeNext := rfl
@[simp] theorem setHu_pending (x : HolderUnit) : (s.setHu x).pending = s.pending := rfl

@[simp] theorem setCu_liu (x : Six LineState) : (s.setCu x).liu = s.liu := rfl
@[simp] theorem setCu_peers (x : Six LineState) : (s.setCu x).peers = s.peers := rfl
@[simp] theorem setCu_se (x : Six LineState) : (s.setCu x).se = s.se := rfl
@[simp] theorem setCu_hu (x : Six LineState) : (s.setCu x).hu = s.hu := rfl
@[simp] theorem setCu_cu (x : Six LineState) : (s.setCu x).cu = x := rfl
@[simp] theorem setCu_rl (x : Six LineState) : (s.setCu x).rl = s.rl := rfl
@[simp] theorem setCu_fu (x : Six LineState) : (s.setCu x).fu = s.fu := rfl
@[simp] theorem setCu_tie (x : Six LineState) : (s.setCu x).tie = s.tie := rfl
@[simp] theorem setCu_turbine (x : Six LineState) : (s.setCu x).turbine = s.turbine := rfl
@[simp] theorem setCu_mu (x : Six LineState) : (s.setCu x).mu = s.mu := rfl
@[simp] theorem setCu_dc (x : Six LineState) : (s.setCu x).dc = s.dc := rfl
@[simp] theorem setCu_rs (x : Six LineState) : (s.setCu x).rs = s.rs := rfl
@[simp] theorem setCu_fp (x : Six LineState) : (s.setCu x).fp = s.fp := rfl
@[simp] theorem setCu_mc (x : Six LineState) : (s.setCu x).mc = s.mc := rfl
@[simp] theorem setCu_freeNext (x : Six LineState) : (s.setCu x).freeNext = s.freeNext := rfl
@[simp] theorem setCu_pending (x : Six LineState) : (s.setCu x).pending = s.pending := rfl

@[simp] theorem setRl_liu (x : Six Ladder) : (s.setRl x).liu = s.liu := rfl
@[simp] theorem setRl_peers (x : Six Ladder) : (s.setRl x).peers = s.peers := rfl
@[simp] theorem setRl_se (x : Six Ladder) : (s.setRl x).se = s.se := rfl
@[simp] theorem setRl_hu (x : Six Ladder) : (s.setRl x).hu = s.hu := rfl
@[simp] theorem setRl_cu (x : Six Ladder) : (s.setRl x).cu = s.cu := rfl
@[simp] theorem setRl_rl (x : Six Ladder) : (s.setRl x).rl = x := rfl
@[simp] theorem setRl_fu (x : Six Ladder) : (s.setRl x).fu = s.fu := rfl
@[simp] theorem setRl_tie (x : Six Ladder) : (s.setRl x).tie = s.tie := rfl
@[simp] theorem setRl_turbine (x : Six Ladder) : (s.setRl x).turbine = s.turbine := rfl
@[simp] theorem setRl_mu (x : Six Ladder) : (s.setRl x).mu = s.mu := rfl
@[simp] theorem setRl_dc (x : Six Ladder) : (s.setRl x).dc = s.dc := rfl
@[simp] theorem setRl_rs (x : Six Ladder) : (s.setRl x).rs = s.rs := rfl
@[simp] theorem setRl_fp (x : Six Ladder) : (s.setRl x).fp = s.fp := rfl
@[simp] theorem setRl_mc (x : Six Ladder) : (s.setRl x).mc = s.mc := rfl
@[simp] theorem setRl_freeNext (x : Six Ladder) : (s.setRl x).freeNext = s.freeNext := rfl
@[simp] theorem setRl_pending (x : Six Ladder) : (s.setRl x).pending = s.pending := rfl

@[simp] theorem setFu_liu (x : FuelUnit) : (s.setFu x).liu = s.liu := rfl
@[simp] theorem setFu_peers (x : FuelUnit) : (s.setFu x).peers = s.peers := rfl
@[simp] theorem setFu_se (x : FuelUnit) : (s.setFu x).se = s.se := rfl
@[simp] theorem setFu_hu (x : FuelUnit) : (s.setFu x).hu = s.hu := rfl
@[simp] theorem setFu_cu (x : FuelUnit) : (s.setFu x).cu = s.cu := rfl
@[simp] theorem setFu_rl (x : FuelUnit) : (s.setFu x).rl = s.rl := rfl
@[simp] theorem setFu_fu (x : FuelUnit) : (s.setFu x).fu = x := rfl
@[simp] theorem setFu_tie (x : FuelUnit) : (s.setFu x).tie = s.tie := rfl
@[simp] theorem setFu_turbine (x : FuelUnit) : (s.setFu x).turbine = s.turbine := rfl
@[simp] theorem setFu_mu (x : FuelUnit) : (s.setFu x).mu = s.mu := rfl
@[simp] theorem setFu_dc (x : FuelUnit) : (s.setFu x).dc = s.dc := rfl
@[simp] theorem setFu_rs (x : FuelUnit) : (s.setFu x).rs = s.rs := rfl
@[simp] theorem setFu_fp (x : FuelUnit) : (s.setFu x).fp = s.fp := rfl
@[simp] theorem setFu_mc (x : FuelUnit) : (s.setFu x).mc = s.mc := rfl
@[simp] theorem setFu_freeNext (x : FuelUnit) : (s.setFu x).freeNext = s.freeNext := rfl
@[simp] theorem setFu_pending (x : FuelUnit) : (s.setFu x).pending = s.pending := rfl

@[simp] theorem setTie_liu (x : TieUnit) : (s.setTie x).liu = s.liu := rfl
@[simp] theorem setTie_peers (x : TieUnit) : (s.setTie x).peers = s.peers := rfl
@[simp] theorem setTie_se (x : TieUnit) : (s.setTie x).se = s.se := rfl
@[simp] theorem setTie_hu (x : TieUnit) : (s.setTie x).hu = s.hu := rfl
@[simp] theorem setTie_cu (x : TieUnit) : (s.setTie x).cu = s.cu := rfl
@[simp] theorem setTie_rl (x : TieUnit) : (s.setTie x).rl = s.rl := rfl
@[simp] theorem setTie_fu (x : TieUnit) : (s.setTie x).fu = s.fu := rfl
@[simp] theorem setTie_tie (x : TieUnit) : (s.setTie x).tie = x := rfl
@[simp] theorem setTie_turbine (x : TieUnit) : (s.setTie x).turbine = s.turbine := rfl
@[simp] theorem setTie_mu (x : TieUnit) : (s.setTie x).mu = s.mu := rfl
@[simp] theorem setTie_dc (x : TieUnit) : (s.setTie x).dc = s.dc := rfl
@[simp] theorem setTie_rs (x : TieUnit) : (s.setTie x).rs = s.rs := rfl
@[simp] theorem setTie_fp (x : TieUnit) : (s.setTie x).fp = s.fp := rfl
@[simp] theorem setTie_mc (x : TieUnit) : (s.setTie x).mc = s.mc := rfl
@[simp] theorem setTie_freeNext (x : TieUnit) : (s.setTie x).freeNext = s.freeNext := rfl
@[simp] theorem setTie_pending (x : TieUnit) : (s.setTie x).pending = s.pending := rfl

@[simp] theorem setTurbine_liu (x : TurbineUnit) : (s.setTurbine x).liu = s.liu := rfl
@[simp] theorem setTurbine_peers (x : TurbineUnit) : (s.setTurbine x).peers = s.peers := rfl
@[simp] theorem setTurbine_se (x : TurbineUnit) : (s.setTurbine x).se = s.se := rfl
@[simp] theorem setTurbine_hu (x : TurbineUnit) : (s.setTurbine x).hu = s.hu := rfl
@[simp] theorem setTurbine_cu (x : TurbineUnit) : (s.setTurbine x).cu = s.cu := rfl
@[simp] theorem setTurbine_rl (x : TurbineUnit) : (s.setTurbine x).rl = s.rl := rfl
@[simp] theorem setTurbine_fu (x : TurbineUnit) : (s.setTurbine x).fu = s.fu := rfl
@[simp] theorem setTurbine_tie (x : TurbineUnit) : (s.setTurbine x).tie = s.tie := rfl
@[simp] theorem setTurbine_turbine (x : TurbineUnit) : (s.setTurbine x).turbine = x := rfl
@[simp] theorem setTurbine_mu (x : TurbineUnit) : (s.setTurbine x).mu = s.mu := rfl
@[simp] theorem setTurbine_dc (x : TurbineUnit) : (s.setTurbine x).dc = s.dc := rfl
@[simp] theorem setTurbine_rs (x : TurbineUnit) : (s.setTurbine x).rs = s.rs := rfl
@[simp] theorem setTurbine_fp (x : TurbineUnit) : (s.setTurbine x).fp = s.fp := rfl
@[simp] theorem setTurbine_mc (x : TurbineUnit) : (s.setTurbine x).mc = s.mc := rfl
@[simp] theorem setTurbine_freeNext (x : TurbineUnit) : (s.setTurbine x).freeNext = s.freeNext := rfl
@[simp] theorem setTurbine_pending (x : TurbineUnit) : (s.setTurbine x).pending = s.pending := rfl

@[simp] theorem setMu_liu (x : MeteringUnit) : (s.setMu x).liu = s.liu := rfl
@[simp] theorem setMu_peers (x : MeteringUnit) : (s.setMu x).peers = s.peers := rfl
@[simp] theorem setMu_se (x : MeteringUnit) : (s.setMu x).se = s.se := rfl
@[simp] theorem setMu_hu (x : MeteringUnit) : (s.setMu x).hu = s.hu := rfl
@[simp] theorem setMu_cu (x : MeteringUnit) : (s.setMu x).cu = s.cu := rfl
@[simp] theorem setMu_rl (x : MeteringUnit) : (s.setMu x).rl = s.rl := rfl
@[simp] theorem setMu_fu (x : MeteringUnit) : (s.setMu x).fu = s.fu := rfl
@[simp] theorem setMu_tie (x : MeteringUnit) : (s.setMu x).tie = s.tie := rfl
@[simp] theorem setMu_turbine (x : MeteringUnit) : (s.setMu x).turbine = s.turbine := rfl
@[simp] theorem setMu_mu (x : MeteringUnit) : (s.setMu x).mu = x := rfl
@[simp] theorem setMu_dc (x : MeteringUnit) : (s.setMu x).dc = s.dc := rfl
@[simp] theorem setMu_rs (x : MeteringUnit) : (s.setMu x).rs = s.rs := rfl
@[simp] theorem setMu_fp (x : MeteringUnit) : (s.setMu x).fp = s.fp := rfl
@[simp] theorem setMu_mc (x : MeteringUnit) : (s.setMu x).mc = s.mc := rfl
@[simp] theorem setMu_freeNext (x : MeteringUnit) : (s.setMu x).freeNext = s.freeNext := rfl
@[simp] theorem setMu_pending (x : MeteringUnit) : (s.setMu x).pending = s.pending := rfl

@[simp] theorem setDc_liu (x : DayClock) : (s.setDc x).liu = s.liu := rfl
@[simp] theorem setDc_peers (x : DayClock) : (s.setDc x).peers = s.peers := rfl
@[simp] theorem setDc_se (x : DayClock) : (s.setDc x).se = s.se := rfl
@[simp] theorem setDc_hu (x : DayClock) : (s.setDc x).hu = s.hu := rfl
@[simp] theorem setDc_cu (x : DayClock) : (s.setDc x).cu = s.cu := rfl
@[simp] theorem setDc_rl (x : DayClock) : (s.setDc x).rl = s.rl := rfl
@[simp] theorem setDc_fu (x : DayClock) : (s.setDc x).fu = s.fu := rfl
@[simp] theorem setDc_tie (x : DayClock) : (s.setDc x).tie = s.tie := rfl
@[simp] theorem setDc_turbine (x : DayClock) : (s.setDc x).turbine = s.turbine := rfl
@[simp] theorem setDc_mu (x : DayClock) : (s.setDc x).mu = s.mu := rfl
@[simp] theorem setDc_dc (x : DayClock) : (s.setDc x).dc = x := rfl
@[simp] theorem setDc_rs (x : DayClock) : (s.setDc x).rs = s.rs := rfl
@[simp] theorem setDc_fp (x : DayClock) : (s.setDc x).fp = s.fp := rfl
@[simp] theorem setDc_mc (x : DayClock) : (s.setDc x).mc = s.mc := rfl
@[simp] theorem setDc_freeNext (x : DayClock) : (s.setDc x).freeNext = s.freeNext := rfl
@[simp] theorem setDc_pending (x : DayClock) : (s.setDc x).pending = s.pending := rfl

@[simp] theorem setRs_liu (x : RecordUnit) : (s.setRs x).liu = s.liu := rfl
@[simp] theorem setRs_peers (x : RecordUnit) : (s.setRs x).peers = s.peers := rfl
@[simp] theorem setRs_se (x : RecordUnit) : (s.setRs x).se = s.se := rfl
@[simp] theorem setRs_hu (x : RecordUnit) : (s.setRs x).hu = s.hu := rfl
@[simp] theorem setRs_cu (x : RecordUnit) : (s.setRs x).cu = s.cu := rfl
@[simp] theorem setRs_rl (x : RecordUnit) : (s.setRs x).rl = s.rl := rfl
@[simp] theorem setRs_fu (x : RecordUnit) : (s.setRs x).fu = s.fu := rfl
@[simp] theorem setRs_tie (x : RecordUnit) : (s.setRs x).tie = s.tie := rfl
@[simp] theorem setRs_turbine (x : RecordUnit) : (s.setRs x).turbine = s.turbine := rfl
@[simp] theorem setRs_mu (x : RecordUnit) : (s.setRs x).mu = s.mu := rfl
@[simp] theorem setRs_dc (x : RecordUnit) : (s.setRs x).dc = s.dc := rfl
@[simp] theorem setRs_rs (x : RecordUnit) : (s.setRs x).rs = x := rfl
@[simp] theorem setRs_fp (x : RecordUnit) : (s.setRs x).fp = s.fp := rfl
@[simp] theorem setRs_mc (x : RecordUnit) : (s.setRs x).mc = s.mc := rfl
@[simp] theorem setRs_freeNext (x : RecordUnit) : (s.setRs x).freeNext = s.freeNext := rfl
@[simp] theorem setRs_pending (x : RecordUnit) : (s.setRs x).pending = s.pending := rfl

@[simp] theorem setFp_liu (x : FieldPort) : (s.setFp x).liu = s.liu := rfl
@[simp] theorem setFp_peers (x : FieldPort) : (s.setFp x).peers = s.peers := rfl
@[simp] theorem setFp_se (x : FieldPort) : (s.setFp x).se = s.se := rfl
@[simp] theorem setFp_hu (x : FieldPort) : (s.setFp x).hu = s.hu := rfl
@[simp] theorem setFp_cu (x : FieldPort) : (s.setFp x).cu = s.cu := rfl
@[simp] theorem setFp_rl (x : FieldPort) : (s.setFp x).rl = s.rl := rfl
@[simp] theorem setFp_fu (x : FieldPort) : (s.setFp x).fu = s.fu := rfl
@[simp] theorem setFp_tie (x : FieldPort) : (s.setFp x).tie = s.tie := rfl
@[simp] theorem setFp_turbine (x : FieldPort) : (s.setFp x).turbine = s.turbine := rfl
@[simp] theorem setFp_mu (x : FieldPort) : (s.setFp x).mu = s.mu := rfl
@[simp] theorem setFp_dc (x : FieldPort) : (s.setFp x).dc = s.dc := rfl
@[simp] theorem setFp_rs (x : FieldPort) : (s.setFp x).rs = s.rs := rfl
@[simp] theorem setFp_fp (x : FieldPort) : (s.setFp x).fp = x := rfl
@[simp] theorem setFp_mc (x : FieldPort) : (s.setFp x).mc = s.mc := rfl
@[simp] theorem setFp_freeNext (x : FieldPort) : (s.setFp x).freeNext = s.freeNext := rfl
@[simp] theorem setFp_pending (x : FieldPort) : (s.setFp x).pending = s.pending := rfl

@[simp] theorem setMc_liu (x : ModeController) : (s.setMc x).liu = s.liu := rfl
@[simp] theorem setMc_peers (x : ModeController) : (s.setMc x).peers = s.peers := rfl
@[simp] theorem setMc_se (x : ModeController) : (s.setMc x).se = s.se := rfl
@[simp] theorem setMc_hu (x : ModeController) : (s.setMc x).hu = s.hu := rfl
@[simp] theorem setMc_cu (x : ModeController) : (s.setMc x).cu = s.cu := rfl
@[simp] theorem setMc_rl (x : ModeController) : (s.setMc x).rl = s.rl := rfl
@[simp] theorem setMc_fu (x : ModeController) : (s.setMc x).fu = s.fu := rfl
@[simp] theorem setMc_tie (x : ModeController) : (s.setMc x).tie = s.tie := rfl
@[simp] theorem setMc_turbine (x : ModeController) : (s.setMc x).turbine = s.turbine := rfl
@[simp] theorem setMc_mu (x : ModeController) : (s.setMc x).mu = s.mu := rfl
@[simp] theorem setMc_dc (x : ModeController) : (s.setMc x).dc = s.dc := rfl
@[simp] theorem setMc_rs (x : ModeController) : (s.setMc x).rs = s.rs := rfl
@[simp] theorem setMc_fp (x : ModeController) : (s.setMc x).fp = s.fp := rfl
@[simp] theorem setMc_mc (x : ModeController) : (s.setMc x).mc = x := rfl
@[simp] theorem setMc_freeNext (x : ModeController) : (s.setMc x).freeNext = s.freeNext := rfl
@[simp] theorem setMc_pending (x : ModeController) : (s.setMc x).pending = s.pending := rfl

@[simp] theorem setLine_liu (l : ClaimLine) (x : LineState) : (setLine l x s).liu = s.liu := rfl
@[simp] theorem setLine_peers (l : ClaimLine) (x : LineState) : (setLine l x s).peers = s.peers := rfl
@[simp] theorem setLine_se (l : ClaimLine) (x : LineState) : (setLine l x s).se = s.se := rfl
@[simp] theorem setLine_hu (l : ClaimLine) (x : LineState) : (setLine l x s).hu = s.hu := rfl
@[simp] theorem setLine_cu (l : ClaimLine) (x : LineState) : (setLine l x s).cu = s.cu.set l x := rfl
@[simp] theorem setLine_rl (l : ClaimLine) (x : LineState) : (setLine l x s).rl = s.rl := rfl
@[simp] theorem setLine_fu (l : ClaimLine) (x : LineState) : (setLine l x s).fu = s.fu := rfl
@[simp] theorem setLine_tie (l : ClaimLine) (x : LineState) : (setLine l x s).tie = s.tie := rfl
@[simp] theorem setLine_turbine (l : ClaimLine) (x : LineState) : (setLine l x s).turbine = s.turbine := rfl
@[simp] theorem setLine_mu (l : ClaimLine) (x : LineState) : (setLine l x s).mu = s.mu := rfl
@[simp] theorem setLine_dc (l : ClaimLine) (x : LineState) : (setLine l x s).dc = s.dc := rfl
@[simp] theorem setLine_rs (l : ClaimLine) (x : LineState) : (setLine l x s).rs = s.rs := rfl
@[simp] theorem setLine_fp (l : ClaimLine) (x : LineState) : (setLine l x s).fp = s.fp := rfl
@[simp] theorem setLine_mc (l : ClaimLine) (x : LineState) : (setLine l x s).mc = s.mc := rfl
@[simp] theorem setLine_freeNext (l : ClaimLine) (x : LineState) : (setLine l x s).freeNext = s.freeNext := rfl
@[simp] theorem setLine_pending (l : ClaimLine) (x : LineState) : (setLine l x s).pending = s.pending := rfl

@[simp] theorem setLadder_liu (l : ClaimLine) (x : Ladder) : (setLadder l x s).liu = s.liu := rfl
@[simp] theorem setLadder_peers (l : ClaimLine) (x : Ladder) : (setLadder l x s).peers = s.peers := rfl
@[simp] theorem setLadder_se (l : ClaimLine) (x : Ladder) : (setLadder l x s).se = s.se := rfl
@[simp] theorem setLadder_hu (l : ClaimLine) (x : Ladder) : (setLadder l x s).hu = s.hu := rfl
@[simp] theorem setLadder_cu (l : ClaimLine) (x : Ladder) : (setLadder l x s).cu = s.cu := rfl
@[simp] theorem setLadder_rl (l : ClaimLine) (x : Ladder) : (setLadder l x s).rl = s.rl.set l x := rfl
@[simp] theorem setLadder_fu (l : ClaimLine) (x : Ladder) : (setLadder l x s).fu = s.fu := rfl
@[simp] theorem setLadder_tie (l : ClaimLine) (x : Ladder) : (setLadder l x s).tie = s.tie := rfl
@[simp] theorem setLadder_turbine (l : ClaimLine) (x : Ladder) : (setLadder l x s).turbine = s.turbine := rfl
@[simp] theorem setLadder_mu (l : ClaimLine) (x : Ladder) : (setLadder l x s).mu = s.mu := rfl
@[simp] theorem setLadder_dc (l : ClaimLine) (x : Ladder) : (setLadder l x s).dc = s.dc := rfl
@[simp] theorem setLadder_rs (l : ClaimLine) (x : Ladder) : (setLadder l x s).rs = s.rs := rfl
@[simp] theorem setLadder_fp (l : ClaimLine) (x : Ladder) : (setLadder l x s).fp = s.fp := rfl
@[simp] theorem setLadder_mc (l : ClaimLine) (x : Ladder) : (setLadder l x s).mc = s.mc := rfl
@[simp] theorem setLadder_freeNext (l : ClaimLine) (x : Ladder) : (setLadder l x s).freeNext = s.freeNext := rfl
@[simp] theorem setLadder_pending (l : ClaimLine) (x : Ladder) : (setLadder l x s).pending = s.pending := rfl

@[simp] theorem drawn_liu : (drawn s).liu = s.liu := rfl
@[simp] theorem drawn_peers : (drawn s).peers = s.peers := rfl
@[simp] theorem drawn_se : (drawn s).se = s.se := rfl
@[simp] theorem drawn_hu : (drawn s).hu = s.hu := rfl
@[simp] theorem drawn_cu : (drawn s).cu = s.cu := rfl
@[simp] theorem drawn_rl : (drawn s).rl = s.rl := rfl
@[simp] theorem drawn_fu : (drawn s).fu = s.fu := rfl
@[simp] theorem drawn_tie : (drawn s).tie = s.tie := rfl
@[simp] theorem drawn_turbine : (drawn s).turbine = s.turbine := rfl
@[simp] theorem drawn_mu : (drawn s).mu = s.mu := rfl
@[simp] theorem drawn_dc : (drawn s).dc = s.dc := rfl
@[simp] theorem drawn_rs : (drawn s).rs = s.rs := rfl
@[simp] theorem drawn_fp : (drawn s).fp = s.fp := rfl
@[simp] theorem drawn_mc : (drawn s).mc = s.mc := rfl
@[simp] theorem drawn_freeNext : (drawn s).freeNext = s.freeNext + 1 := rfl
@[simp] theorem drawn_pending : (drawn s).pending = s.pending := rfl

@[simp] theorem sendField_liu (m : FieldOut) : (sendField m s).liu = s.liu := rfl
@[simp] theorem sendField_peers (m : FieldOut) : (sendField m s).peers = s.peers := rfl
@[simp] theorem sendField_se (m : FieldOut) : (sendField m s).se = s.se := rfl
@[simp] theorem sendField_hu (m : FieldOut) : (sendField m s).hu = s.hu := rfl
@[simp] theorem sendField_cu (m : FieldOut) : (sendField m s).cu = s.cu := rfl
@[simp] theorem sendField_rl (m : FieldOut) : (sendField m s).rl = s.rl := rfl
@[simp] theorem sendField_fu (m : FieldOut) : (sendField m s).fu = s.fu := rfl
@[simp] theorem sendField_tie (m : FieldOut) : (sendField m s).tie = s.tie := rfl
@[simp] theorem sendField_turbine (m : FieldOut) : (sendField m s).turbine = s.turbine := rfl
@[simp] theorem sendField_mu (m : FieldOut) : (sendField m s).mu = s.mu := rfl
@[simp] theorem sendField_dc (m : FieldOut) : (sendField m s).dc = s.dc := rfl
@[simp] theorem sendField_rs (m : FieldOut) : (sendField m s).rs = s.rs := rfl
@[simp] theorem sendField_fp (m : FieldOut) : (sendField m s).fp = { s.fp with out := s.fp.out ++ [m] } := rfl
@[simp] theorem sendField_mc (m : FieldOut) : (sendField m s).mc = s.mc := rfl
@[simp] theorem sendField_freeNext (m : FieldOut) : (sendField m s).freeNext = s.freeNext := rfl
@[simp] theorem sendField_pending (m : FieldOut) : (sendField m s).pending = s.pending := rfl

end Sys2Proof.Machine
end

