-- ==== Sys2Proof/Laws/Lines.lean ====
section
/-! SUPPORT. Reading and writing the values of the six claim lines and of the three mains. -/

namespace Sys2Proof.Machine

variable {α : Type}

@[simp] theorem Six.get_set_self (x : Six α) (l : ClaimLine) (v : α) : (x.set l v).get l = v := by
  rcases l with ⟨_ | _ | _, _ | _⟩ <;> rfl

theorem Six.get_set_of_ne (x : Six α) {l k : ClaimLine} (v : α) (h : k ≠ l) : (x.set l v).get k = x.get k := by
  rcases l with ⟨_ | _ | _, _ | _⟩ <;> rcases k with ⟨_ | _ | _, _ | _⟩ <;> first | rfl | exact absurd rfl h

theorem Six.get_set (x : Six α) (l k : ClaimLine) (v : α) :
    (x.set l v).get k = if k = l then v else x.get k := by
  by_cases h : k = l
  · subst h; simp
  · simp [h, Six.get_set_of_ne x v h]

/-- A part that the new value shares with the old one stands on every line. -/
theorem Six.part_get_set {β : Type} (f : α → β) (x : Six α) (l k : ClaimLine) (v : α) (h : f v = f (x.get l)) :
    f ((x.set l v).get k) = f (x.get k) := by
  rw [Six.get_set]; split
  · next e => rw [e, h]
  · rfl

@[simp] theorem Six.get_build (f : ClaimLine → α) (l : ClaimLine) : (Six.build f).get l = f l := by
  rcases l with ⟨_ | _ | _, _ | _⟩ <;> rfl

@[simp] theorem Six.get_all (v : α) (l : ClaimLine) : (Six.all v).get l = v := by
  rcases l with ⟨_ | _ | _, _ | _⟩ <;> rfl

theorem Six.ext_get {x y : Six α} (h : ∀ l, x.get l = y.get l) : x = y := by
  have := h ⟨.m0, .shortfall⟩; have := h ⟨.m0, .surplus⟩; have := h ⟨.m1, .shortfall⟩
  have := h ⟨.m1, .surplus⟩; have := h ⟨.m2, .shortfall⟩; have := h ⟨.m2, .surplus⟩
  cases x; cases y; simp_all [Six.get]

@[simp] theorem Six.set_set (x : Six α) (l : ClaimLine) (v w : α) : (x.set l v).set l w = x.set l w := by
  rcases l with ⟨_ | _ | _, _ | _⟩ <;> rfl

@[simp] theorem Six.set_get (x : Six α) (l : ClaimLine) : x.set l (x.get l) = x := by
  rcases l with ⟨_ | _ | _, _ | _⟩ <;> rfl

/-- Every claim line stands in the list of all lines. -/
theorem mem_allLines (l : ClaimLine) : l ∈ allLines := by
  rcases l with ⟨_ | _ | _, _ | _⟩ <;> decide

@[simp] theorem Three.get_set_self (x : Three α) (m : Main) (v : α) : (x.set m v).get m = v := by
  cases m <;> rfl

theorem Three.get_set_of_ne (x : Three α) {m k : Main} (v : α) (h : k ≠ m) : (x.set m v).get k = x.get k := by
  cases m <;> cases k <;> first | rfl | exact absurd rfl h

theorem Three.get_set (x : Three α) (m k : Main) (v : α) :
    (x.set m v).get k = if k = m then v else x.get k := by
  cases m <;> cases k <;> rfl

end Sys2Proof.Machine
end

