-- ==== Sys2Proof/Laws/Frame1.lean ====
section
/-! SUPPORT. What each ladder, fuel, flare, queue and store operation leaves of the state, as one equation list per operation. -/

namespace Sys2Proof.Machine

variable (s : State)

@[simp] theorem orderDrawn_frame {α : Type} (l : List α) :
    (orderDrawn l s).liu = s.liu ∧ (orderDrawn l s).peers = s.peers ∧ (orderDrawn l s).se = s.se ∧
    (orderDrawn l s).hu = s.hu ∧ (orderDrawn l s).cu = s.cu ∧ (orderDrawn l s).rl = s.rl ∧
    (orderDrawn l s).fu = s.fu ∧ (orderDrawn l s).tie = s.tie ∧ (orderDrawn l s).turbine = s.turbine ∧
    (orderDrawn l s).mu = s.mu ∧ (orderDrawn l s).dc = s.dc ∧ (orderDrawn l s).rs = s.rs ∧
    (orderDrawn l s).fp = s.fp ∧ (orderDrawn l s).mc = s.mc ∧ (orderDrawn l s).pending = s.pending := by
  simp only [orderDrawn]; (repeat' split) <;> simp [*]

@[simp] theorem enterFallback_frame :
    (enterFallback s).liu = s.liu ∧ (enterFallback s).peers = s.peers ∧
    (enterFallback s).se.roundTimer = s.se.roundTimer ∧ (enterFallback s).se.capability = s.se.capability ∧
    (enterFallback s).se.measured = s.se.measured ∧ (enterFallback s).hu = s.hu ∧ (enterFallback s).cu = s.cu ∧
    (enterFallback s).rl = s.rl ∧ (enterFallback s).fu = s.fu ∧ (enterFallback s).tie = s.tie ∧
    (enterFallback s).turbine = s.turbine ∧ (enterFallback s).mu = s.mu ∧ (enterFallback s).dc = s.dc ∧
    (enterFallback s).rs = s.rs ∧ (enterFallback s).fp.link = s.fp.link ∧
    (enterFallback s).fp.linkTimer = s.fp.linkTimer ∧ (enterFallback s).mc = s.mc ∧
    (enterFallback s).freeNext = s.freeNext ∧ (enterFallback s).pending = s.pending := by
  simp only [enterFallback]; (repeat' split) <;> simp [*]

@[simp] theorem raiseFault_frame (k : FaultKind) :
    (raiseFault k s).liu = s.liu ∧ (raiseFault k s).peers = s.peers ∧
    (raiseFault k s).se.roundTimer = s.se.roundTimer ∧ (raiseFault k s).se.capability = s.se.capability ∧
    (raiseFault k s).se.measured = s.se.measured ∧ (raiseFault k s).hu = s.hu ∧ (raiseFault k s).cu = s.cu ∧
    (raiseFault k s).rl = s.rl ∧ (raiseFault k s).fu = s.fu ∧ (raiseFault k s).tie = s.tie ∧
    (raiseFault k s).turbine = s.turbine ∧ (raiseFault k s).mu = s.mu ∧ (raiseFault k s).dc = s.dc ∧
    (raiseFault k s).rs = s.rs ∧ (raiseFault k s).fp.link = s.fp.link ∧
    (raiseFault k s).fp.linkTimer = s.fp.linkTimer ∧ (raiseFault k s).mc.mode = s.mc.mode ∧
    (raiseFault k s).mc.node = s.mc.node ∧ (raiseFault k s).mc.config = s.mc.config ∧
    (raiseFault k s).mc.warning = s.mc.warning ∧ (raiseFault k s).mc.supplyLow = s.mc.supplyLow ∧
    (raiseFault k s).freeNext = s.freeNext ∧ (raiseFault k s).pending = s.pending := by
  simp only [raiseFault]; (repeat' split) <;> simp [*]

@[simp] theorem clearFault_frame (k : FaultKind) :
    (clearFault k s).liu = s.liu ∧ (clearFault k s).peers = s.peers ∧ (clearFault k s).se = s.se ∧
    (clearFault k s).hu = s.hu ∧ (clearFault k s).cu = s.cu ∧ (clearFault k s).rl = s.rl ∧
    (clearFault k s).fu = s.fu ∧ (clearFault k s).tie = s.tie ∧ (clearFault k s).turbine = s.turbine ∧
    (clearFault k s).mu = s.mu ∧ (clearFault k s).dc = s.dc ∧ (clearFault k s).rs = s.rs ∧
    (clearFault k s).fp = s.fp ∧ (clearFault k s).mc.mode = s.mc.mode ∧ (clearFault k s).mc.node = s.mc.node ∧
    (clearFault k s).mc.config = s.mc.config ∧ (clearFault k s).mc.warning = s.mc.warning ∧
    (clearFault k s).mc.supplyLow = s.mc.supplyLow ∧ (clearFault k s).freeNext = s.freeNext ∧
    (clearFault k s).pending = s.pending := by
  simp only [clearFault]; (repeat' split) <;> simp [*]

@[simp] theorem survivorDrawn_frame (old : Nat) :
    (survivorDrawn old s).liu = s.liu ∧ (survivorDrawn old s).peers = s.peers ∧
    (survivorDrawn old s).se = s.se ∧ (survivorDrawn old s).hu = s.hu ∧ (survivorDrawn old s).cu = s.cu ∧
    (survivorDrawn old s).rl = s.rl ∧ (survivorDrawn old s).fu = s.fu ∧ (survivorDrawn old s).tie = s.tie ∧
    (survivorDrawn old s).turbine = s.turbine ∧ (survivorDrawn old s).mu = s.mu ∧
    (survivorDrawn old s).dc = s.dc ∧ (survivorDrawn old s).rs = s.rs ∧ (survivorDrawn old s).fp = s.fp ∧
    (survivorDrawn old s).mc = s.mc ∧ (survivorDrawn old s).pending = s.pending := by
  simp only [survivorDrawn]; (repeat' split) <;> simp [*]

@[simp] theorem enqueueClaim_frame (l : ClaimLine) (e : Edge) :
    (enqueueClaim l e s).liu.rx = s.liu.rx ∧ (enqueueClaim l e s).liu.drops = s.liu.drops ∧
    (enqueueClaim l e s).liu.lastEdge = s.liu.lastEdge ∧ (enqueueClaim l e s).liu.clash = s.liu.clash ∧
    (enqueueClaim l e s).liu.backoff = s.liu.backoff ∧ (enqueueClaim l e s).peers = s.peers ∧
    (enqueueClaim l e s).se = s.se ∧ (enqueueClaim l e s).hu = s.hu ∧ (enqueueClaim l e s).cu = s.cu ∧
    (enqueueClaim l e s).rl = s.rl ∧ (enqueueClaim l e s).fu = s.fu ∧ (enqueueClaim l e s).tie = s.tie ∧
    (enqueueClaim l e s).turbine = s.turbine ∧ (enqueueClaim l e s).mu = s.mu ∧ (enqueueClaim l e s).dc = s.dc ∧
    (enqueueClaim l e s).rs = s.rs ∧ (enqueueClaim l e s).fp = s.fp ∧ (enqueueClaim l e s).mc = s.mc ∧
    (enqueueClaim l e s).pending = s.pending := by
  simp only [enqueueClaim]; (repeat' split) <;> simp [*]

@[simp] theorem enqueue_frame (b : TxBody) :
    (enqueue b s).liu.rx = s.liu.rx ∧ (enqueue b s).liu.drops = s.liu.drops ∧
    (enqueue b s).liu.lastEdge = s.liu.lastEdge ∧ (enqueue b s).liu.clash = s.liu.clash ∧
    (enqueue b s).liu.backoff = s.liu.backoff ∧ (enqueue b s).peers = s.peers ∧ (enqueue b s).se = s.se ∧
    (enqueue b s).hu = s.hu ∧ (enqueue b s).cu = s.cu ∧ (enqueue b s).rl = s.rl ∧ (enqueue b s).fu = s.fu ∧
    (enqueue b s).tie = s.tie ∧ (enqueue b s).turbine = s.turbine ∧ (enqueue b s).mu = s.mu ∧
    (enqueue b s).dc = s.dc ∧ (enqueue b s).rs = s.rs ∧ (enqueue b s).fp = s.fp ∧ (enqueue b s).mc = s.mc ∧
    (enqueue b s).pending = s.pending := by
  simp only [enqueue]; (repeat' split) <;> simp [*]

@[simp] theorem rebuildWant_frame :
    (rebuildWant s).liu = s.liu ∧ (rebuildWant s).peers = s.peers ∧
    (rebuildWant s).se.roundTimer = s.se.roundTimer ∧ (rebuildWant s).se.fallback = s.se.fallback ∧
    (rebuildWant s).se.capability = s.se.capability ∧ (rebuildWant s).se.measured = s.se.measured ∧
    (rebuildWant s).hu = s.hu ∧ (rebuildWant s).cu = s.cu ∧ (rebuildWant s).rl = s.rl ∧
    (rebuildWant s).fu = s.fu ∧ (rebuildWant s).tie = s.tie ∧ (rebuildWant s).turbine = s.turbine ∧
    (rebuildWant s).mu = s.mu ∧ (rebuildWant s).dc = s.dc ∧ (rebuildWant s).rs = s.rs ∧
    (rebuildWant s).fp.link = s.fp.link ∧ (rebuildWant s).fp.linkTimer = s.fp.linkTimer ∧
    (rebuildWant s).mc = s.mc ∧ (rebuildWant s).freeNext = s.freeNext ∧
    (rebuildWant s).pending = s.pending := by
  simp only [rebuildWant]; (repeat' split) <;> simp [*, seLowered]

/-- The completion of an action changes its own ladder alone, and no taken count (R99, R101). -/
@[simp] theorem completeAction_frame (l : ClaimLine) (o : ActionOutcome) :
    (completeAction l o s).liu = s.liu ∧ (completeAction l o s).peers = s.peers ∧
    (completeAction l o s).se = s.se ∧ (completeAction l o s).hu = s.hu ∧ (completeAction l o s).cu = s.cu ∧
    (∀ k, ((completeAction l o s).rl.get k).taken = (s.rl.get k).taken) ∧ (completeAction l o s).fu = s.fu ∧
    (completeAction l o s).tie = s.tie ∧ (completeAction l o s).turbine = s.turbine ∧
    (completeAction l o s).mu = s.mu ∧ (completeAction l o s).dc = s.dc ∧ (completeAction l o s).rs = s.rs ∧
    (completeAction l o s).fp = s.fp ∧ (completeAction l o s).mc = s.mc ∧
    (completeAction l o s).freeNext = s.freeNext ∧ (completeAction l o s).pending = s.pending := by
  simp only [completeAction]
  split <;> simp only [setLadder_liu, setLadder_peers, setLadder_se, setLadder_hu, setLadder_cu, setLadder_fu,
    setLadder_tie, setLadder_turbine, setLadder_mu, setLadder_dc, setLadder_rs, setLadder_fp, setLadder_mc,
    setLadder_freeNext, setLadder_pending, setLadder_rl, Six.get_set, true_and, and_true, implies_true] <;>
    (intro k; split <;> simp_all)

@[simp] theorem completeAll_frame (ls : List ClaimLine) (o : ActionOutcome) :
    (completeAll ls o s).liu = s.liu ∧ (completeAll ls o s).peers = s.peers ∧ (completeAll ls o s).se = s.se ∧
    (completeAll ls o s).hu = s.hu ∧ (completeAll ls o s).cu = s.cu ∧
    (∀ k, ((completeAll ls o s).rl.get k).taken = (s.rl.get k).taken) ∧ (completeAll ls o s).fu = s.fu ∧
    (completeAll ls o s).tie = s.tie ∧ (completeAll ls o s).turbine = s.turbine ∧
    (completeAll ls o s).mu = s.mu ∧ (completeAll ls o s).dc = s.dc ∧ (completeAll ls o s).rs = s.rs ∧
    (completeAll ls o s).fp = s.fp ∧ (completeAll ls o s).mc = s.mc ∧
    (completeAll ls o s).freeNext = s.freeNext ∧ (completeAll ls o s).pending = s.pending := by
  induction ls generalizing s with
  | nil => simp only [completeAll]; (repeat' split) <;> simp [*]
  | cons a as ih => simp only [completeAll]; (repeat' split) <;> simp [*]

@[simp] theorem setFuelMode_frame (m : FuelMode) :
    (setFuelMode m s).liu = s.liu ∧ (setFuelMode m s).peers = s.peers ∧
    (setFuelMode m s).se.roundTimer = s.se.roundTimer ∧ (setFuelMode m s).se.fallback = s.se.fallback ∧
    (setFuelMode m s).se.capability = s.se.capability ∧ (setFuelMode m s).se.measured = s.se.measured ∧
    (setFuelMode m s).hu = s.hu ∧ (setFuelMode m s).cu = s.cu ∧ (setFuelMode m s).rl = s.rl ∧
    (setFuelMode m s).fu.flight = s.fu.flight ∧ (setFuelMode m s).fu.recorded = s.fu.recorded ∧
    (setFuelMode m s).tie = s.tie ∧ (setFuelMode m s).turbine = s.turbine ∧ (setFuelMode m s).mu = s.mu ∧
    (setFuelMode m s).dc = s.dc ∧ (setFuelMode m s).rs = s.rs ∧ (setFuelMode m s).fp.link = s.fp.link ∧
    (setFuelMode m s).fp.linkTimer = s.fp.linkTimer ∧ (setFuelMode m s).mc = s.mc ∧
    (setFuelMode m s).freeNext = s.freeNext ∧ (setFuelMode m s).pending = s.pending := by
  simp only [setFuelMode]; (repeat' split) <;> simp [*]

@[simp] theorem startChangeover_frame (f : Fuel) (joined : List ClaimLine) :
    (startChangeover f joined s).liu = s.liu ∧ (startChangeover f joined s).peers = s.peers ∧
    (startChangeover f joined s).se.roundTimer = s.se.roundTimer ∧
    (startChangeover f joined s).se.fallback = s.se.fallback ∧
    (startChangeover f joined s).se.capability = s.se.capability ∧
    (startChangeover f joined s).se.measured = s.se.measured ∧ (startChangeover f joined s).hu = s.hu ∧
    (startChangeover f joined s).cu = s.cu ∧ (startChangeover f joined s).rl = s.rl ∧
    (startChangeover f joined s).fu.recorded = s.fu.recorded ∧ (startChangeover f joined s).tie = s.tie ∧
    (startChangeover f joined s).turbine = s.turbine ∧ (startChangeover f joined s).mu = s.mu ∧
    (startChangeover f joined s).dc = s.dc ∧ (startChangeover f joined s).rs = s.rs ∧
    (startChangeover f joined s).fp.link = s.fp.link ∧
    (startChangeover f joined s).fp.linkTimer = s.fp.linkTimer ∧ (startChangeover f joined s).mc = s.mc ∧
    (startChangeover f joined s).freeNext = s.freeNext ∧ (startChangeover f joined s).pending = s.pending := by
  simp only [startChangeover]; (repeat' split) <;> simp [*]

@[simp] theorem joinFlight_frame (c : Changeover) (l : ClaimLine) :
    (joinFlight c l s).liu = s.liu ∧ (joinFlight c l s).peers = s.peers ∧ (joinFlight c l s).se = s.se ∧
    (joinFlight c l s).hu = s.hu ∧ (joinFlight c l s).cu = s.cu ∧
    (∀ k, ((joinFlight c l s).rl.get k).taken = (s.rl.get k).taken) ∧ (joinFlight c l s).fu.mode = s.fu.mode ∧
    (joinFlight c l s).tie = s.tie ∧ (joinFlight c l s).turbine = s.turbine ∧ (joinFlight c l s).mu = s.mu ∧
    (joinFlight c l s).dc = s.dc ∧ (joinFlight c l s).rs = s.rs ∧ (joinFlight c l s).fp = s.fp ∧
    (joinFlight c l s).mc = s.mc ∧ (joinFlight c l s).freeNext = s.freeNext ∧
    (joinFlight c l s).pending = s.pending := by
  simp only [joinFlight]; (repeat' split) <;> simp [*]

@[simp] theorem recordTarget_frame (f : Fuel) (c : Changeover) (l : ClaimLine) :
    (recordTarget f c l s).liu = s.liu ∧ (recordTarget f c l s).peers = s.peers ∧
    (recordTarget f c l s).se = s.se ∧ (recordTarget f c l s).hu = s.hu ∧ (recordTarget f c l s).cu = s.cu ∧
    (∀ k, ((recordTarget f c l s).rl.get k).taken = (s.rl.get k).taken) ∧
    (recordTarget f c l s).fu.mode = s.fu.mode ∧ (recordTarget f c l s).tie = s.tie ∧
    (recordTarget f c l s).turbine = s.turbine ∧ (recordTarget f c l s).mu = s.mu ∧
    (recordTarget f c l s).dc = s.dc ∧ (recordTarget f c l s).rs = s.rs ∧ (recordTarget f c l s).fp = s.fp ∧
    (recordTarget f c l s).mc = s.mc ∧ (recordTarget f c l s).freeNext = s.freeNext ∧
    (recordTarget f c l s).pending = s.pending := by
  simp only [recordTarget]; (repeat' split) <;> simp [*]

@[simp] theorem fuelRequest_frame (f : Fuel) (l : ClaimLine) :
    (fuelRequest f l s).liu = s.liu ∧ (fuelRequest f l s).peers = s.peers ∧
    (fuelRequest f l s).se.roundTimer = s.se.roundTimer ∧ (fuelRequest f l s).se.fallback = s.se.fallback ∧
    (fuelRequest f l s).se.capability = s.se.capability ∧ (fuelRequest f l s).se.measured = s.se.measured ∧
    (fuelRequest f l s).hu = s.hu ∧ (fuelRequest f l s).cu = s.cu ∧
    (∀ k, ((fuelRequest f l s).rl.get k).taken = (s.rl.get k).taken) ∧ (fuelRequest f l s).tie = s.tie ∧
    (fuelRequest f l s).turbine = s.turbine ∧ (fuelRequest f l s).mu = s.mu ∧ (fuelRequest f l s).dc = s.dc ∧
    (fuelRequest f l s).rs = s.rs ∧ (fuelRequest f l s).fp.link = s.fp.link ∧
    (fuelRequest f l s).fp.linkTimer = s.fp.linkTimer ∧ (fuelRequest f l s).mc = s.mc ∧
    (fuelRequest f l s).freeNext = s.freeNext ∧ (fuelRequest f l s).pending = s.pending := by
  simp only [fuelRequest]; (repeat' split) <;> simp [*]

@[simp] theorem startRecorded_frame (r : RecordedTarget) :
    (startRecorded r s).liu = s.liu ∧ (startRecorded r s).peers = s.peers ∧
    (startRecorded r s).se.roundTimer = s.se.roundTimer ∧ (startRecorded r s).se.fallback = s.se.fallback ∧
    (startRecorded r s).se.capability = s.se.capability ∧ (startRecorded r s).se.measured = s.se.measured ∧
    (startRecorded r s).hu = s.hu ∧ (startRecorded r s).cu = s.cu ∧ (startRecorded r s).rl = s.rl ∧
    (startRecorded r s).tie = s.tie ∧ (startRecorded r s).turbine = s.turbine ∧ (startRecorded r s).mu = s.mu ∧
    (startRecorded r s).dc = s.dc ∧ (startRecorded r s).rs = s.rs ∧ (startRecorded r s).fp.link = s.fp.link ∧
    (startRecorded r s).fp.linkTimer = s.fp.linkTimer ∧ (startRecorded r s).mc = s.mc ∧
    (startRecorded r s).freeNext = s.freeNext ∧ (startRecorded r s).pending = s.pending := by
  simp only [startRecorded]; (repeat' split) <;> simp [*]

@[simp] theorem completeChangeover_frame (f : Fuel) (c : Changeover) :
    (completeChangeover f c s).liu = s.liu ∧ (completeChangeover f c s).peers = s.peers ∧
    (completeChangeover f c s).se.roundTimer = s.se.roundTimer ∧
    (completeChangeover f c s).se.fallback = s.se.fallback ∧
    (completeChangeover f c s).se.capability = s.se.capability ∧
    (completeChangeover f c s).se.measured = s.se.measured ∧ (completeChangeover f c s).hu = s.hu ∧
    (completeChangeover f c s).cu = s.cu ∧
    (∀ k, ((completeChangeover f c s).rl.get k).taken = (s.rl.get k).taken) ∧
    (completeChangeover f c s).tie = s.tie ∧ (completeChangeover f c s).turbine = s.turbine ∧
    (completeChangeover f c s).mu = s.mu ∧ (completeChangeover f c s).dc = s.dc ∧
    (completeChangeover f c s).rs = s.rs ∧ (completeChangeover f c s).fp.link = s.fp.link ∧
    (completeChangeover f c s).fp.linkTimer = s.fp.linkTimer ∧ (completeChangeover f c s).mc.mode = s.mc.mode ∧
    (completeChangeover f c s).mc.node = s.mc.node ∧ (completeChangeover f c s).mc.config = s.mc.config ∧
    (completeChangeover f c s).mc.warning = s.mc.warning ∧
    (completeChangeover f c s).mc.supplyLow = s.mc.supplyLow ∧
    (completeChangeover f c s).freeNext = s.freeNext ∧ (completeChangeover f c s).pending = s.pending := by
  simp only [completeChangeover]; (repeat' split) <;> simp [*]

@[simp] theorem fuelReport_frame (f : Fuel) :
    (fuelReport f s).liu = s.liu ∧ (fuelReport f s).peers = s.peers ∧
    (fuelReport f s).se.roundTimer = s.se.roundTimer ∧ (fuelReport f s).se.fallback = s.se.fallback ∧
    (fuelReport f s).se.capability = s.se.capability ∧ (fuelReport f s).se.measured = s.se.measured ∧
    (fuelReport f s).hu = s.hu ∧ (fuelReport f s).cu = s.cu ∧
    (∀ k, ((fuelReport f s).rl.get k).taken = (s.rl.get k).taken) ∧ (fuelReport f s).tie = s.tie ∧
    (fuelReport f s).turbine = s.turbine ∧ (fuelReport f s).mu = s.mu ∧ (fuelReport f s).dc = s.dc ∧
    (fuelReport f s).rs = s.rs ∧ (fuelReport f s).fp.link = s.fp.link ∧
    (fuelReport f s).fp.linkTimer = s.fp.linkTimer ∧ (fuelReport f s).mc.mode = s.mc.mode ∧
    (fuelReport f s).mc.node = s.mc.node ∧ (fuelReport f s).mc.config = s.mc.config ∧
    (fuelReport f s).mc.warning = s.mc.warning ∧ (fuelReport f s).mc.supplyLow = s.mc.supplyLow ∧
    (fuelReport f s).freeNext = s.freeNext ∧ (fuelReport f s).pending = s.pending := by
  simp only [fuelReport]; (repeat' split) <;> simp [*]

@[simp] theorem changeoverExpires_frame (c : Changeover) :
    (changeoverExpires c s).liu = s.liu ∧ (changeoverExpires c s).peers = s.peers ∧
    (changeoverExpires c s).se.roundTimer = s.se.roundTimer ∧
    (changeoverExpires c s).se.capability = s.se.capability ∧
    (changeoverExpires c s).se.measured = s.se.measured ∧ (changeoverExpires c s).hu = s.hu ∧
    (changeoverExpires c s).cu = s.cu ∧ (∀ k, ((changeoverExpires c s).rl.get k).taken = (s.rl.get k).taken) ∧
    (changeoverExpires c s).tie = s.tie ∧ (changeoverExpires c s).turbine = s.turbine ∧
    (changeoverExpires c s).mu = s.mu ∧ (changeoverExpires c s).dc = s.dc ∧ (changeoverExpires c s).rs = s.rs ∧
    (changeoverExpires c s).fp.link = s.fp.link ∧ (changeoverExpires c s).fp.linkTimer = s.fp.linkTimer ∧
    (changeoverExpires c s).mc.mode = s.mc.mode ∧ (changeoverExpires c s).mc.node = s.mc.node ∧
    (changeoverExpires c s).mc.config = s.mc.config ∧ (changeoverExpires c s).mc.warning = s.mc.warning ∧
    (changeoverExpires c s).mc.supplyLow = s.mc.supplyLow ∧ (changeoverExpires c s).freeNext = s.freeNext ∧
    (changeoverExpires c s).pending = s.pending := by
  simp only [changeoverExpires]; (repeat' split) <;> simp [*]

@[simp] theorem withdrawFuel_frame (l : ClaimLine) :
    (withdrawFuel l s).liu = s.liu ∧ (withdrawFuel l s).peers = s.peers ∧ (withdrawFuel l s).se = s.se ∧
    (withdrawFuel l s).hu = s.hu ∧ (withdrawFuel l s).cu = s.cu ∧ (withdrawFuel l s).rl = s.rl ∧
    (withdrawFuel l s).fu.mode = s.fu.mode ∧ (withdrawFuel l s).tie = s.tie ∧
    (withdrawFuel l s).turbine = s.turbine ∧ (withdrawFuel l s).mu = s.mu ∧ (withdrawFuel l s).dc = s.dc ∧
    (withdrawFuel l s).rs = s.rs ∧ (withdrawFuel l s).fp = s.fp ∧ (withdrawFuel l s).mc = s.mc ∧
    (withdrawFuel l s).freeNext = s.freeNext ∧ (withdrawFuel l s).pending = s.pending := by
  simp only [withdrawFuel]; (repeat' split) <;> simp [*]

@[simp] theorem commandFlare_frame (target : Nat) (requester : Option FlareRequest) :
    (commandFlare target requester s).liu = s.liu ∧ (commandFlare target requester s).peers = s.peers ∧
    (commandFlare target requester s).se = s.se ∧ (commandFlare target requester s).hu.level = s.hu.level ∧
    (commandFlare target requester s).hu.band = s.hu.band ∧
    (commandFlare target requester s).hu.position = s.hu.position ∧
    (commandFlare target requester s).cu = s.cu ∧ (commandFlare target requester s).rl = s.rl ∧
    (commandFlare target requester s).fu = s.fu ∧ (commandFlare target requester s).tie = s.tie ∧
    (commandFlare target requester s).turbine = s.turbine ∧ (commandFlare target requester s).mu = s.mu ∧
    (commandFlare target requester s).dc = s.dc ∧ (commandFlare target requester s).rs = s.rs ∧
    (commandFlare target requester s).fp.link = s.fp.link ∧
    (commandFlare target requester s).fp.linkTimer = s.fp.linkTimer ∧
    (commandFlare target requester s).mc = s.mc ∧ (commandFlare target requester s).freeNext = s.freeNext ∧
    (commandFlare target requester s).pending = s.pending := by
  simp only [commandFlare]; (repeat' split) <;> simp [*]

@[simp] theorem startFlare_frame (r : FlareRequest) :
    (startFlare r s).liu = s.liu ∧ (startFlare r s).peers = s.peers ∧ (startFlare r s).se = s.se ∧
    (startFlare r s).hu.level = s.hu.level ∧ (startFlare r s).hu.band = s.hu.band ∧
    (startFlare r s).hu.position = s.hu.position ∧ (startFlare r s).cu = s.cu ∧
    (∀ k, ((startFlare r s).rl.get k).taken = (s.rl.get k).taken) ∧ (startFlare r s).fu = s.fu ∧
    (startFlare r s).tie = s.tie ∧ (startFlare r s).turbine = s.turbine ∧ (startFlare r s).mu = s.mu ∧
    (startFlare r s).dc = s.dc ∧ (startFlare r s).rs = s.rs ∧ (startFlare r s).fp.link = s.fp.link ∧
    (startFlare r s).fp.linkTimer = s.fp.linkTimer ∧ (startFlare r s).mc = s.mc ∧
    (startFlare r s).freeNext = s.freeNext ∧ (startFlare r s).pending = s.pending := by
  simp only [startFlare]; (repeat' split) <;> simp [*]

@[simp] theorem startWaiting_frame (ls : List FlareRequest) :
    (startWaiting ls s).liu = s.liu ∧ (startWaiting ls s).peers = s.peers ∧ (startWaiting ls s).se = s.se ∧
    (startWaiting ls s).hu.level = s.hu.level ∧ (startWaiting ls s).hu.band = s.hu.band ∧
    (startWaiting ls s).hu.position = s.hu.position ∧ (startWaiting ls s).cu = s.cu ∧
    (∀ k, ((startWaiting ls s).rl.get k).taken = (s.rl.get k).taken) ∧ (startWaiting ls s).fu = s.fu ∧
    (startWaiting ls s).tie = s.tie ∧ (startWaiting ls s).turbine = s.turbine ∧ (startWaiting ls s).mu = s.mu ∧
    (startWaiting ls s).dc = s.dc ∧ (startWaiting ls s).rs = s.rs ∧ (startWaiting ls s).fp.link = s.fp.link ∧
    (startWaiting ls s).fp.linkTimer = s.fp.linkTimer ∧ (startWaiting ls s).mc = s.mc ∧
    (startWaiting ls s).freeNext = s.freeNext ∧ (startWaiting ls s).pending = s.pending := by
  induction ls generalizing s with
  | nil => simp only [startWaiting]; (repeat' split) <;> simp [*]
  | cons a as ih => simp only [startWaiting]; (repeat' split) <;> simp [*]

@[simp] theorem flareRequest_frame (r : FlareRequest) :
    (flareRequest r s).liu = s.liu ∧ (flareRequest r s).peers = s.peers ∧ (flareRequest r s).se = s.se ∧
    (flareRequest r s).hu.level = s.hu.level ∧ (flareRequest r s).hu.band = s.hu.band ∧
    (flareRequest r s).hu.position = s.hu.position ∧ (flareRequest r s).cu = s.cu ∧
    (∀ k, ((flareRequest r s).rl.get k).taken = (s.rl.get k).taken) ∧ (flareRequest r s).fu = s.fu ∧
    (flareRequest r s).tie = s.tie ∧ (flareRequest r s).turbine = s.turbine ∧ (flareRequest r s).mu = s.mu ∧
    (flareRequest r s).dc = s.dc ∧ (flareRequest r s).rs = s.rs ∧ (flareRequest r s).fp.link = s.fp.link ∧
    (flareRequest r s).fp.linkTimer = s.fp.linkTimer ∧ (flareRequest r s).mc = s.mc ∧
    (flareRequest r s).freeNext = s.freeNext ∧ (flareRequest r s).pending = s.pending := by
  simp only [flareRequest]; (repeat' split) <;> simp [*]

@[simp] theorem afterFlareMove_frame :
    (afterFlareMove s).liu = s.liu ∧ (afterFlareMove s).peers = s.peers ∧ (afterFlareMove s).se = s.se ∧
    (afterFlareMove s).hu.level = s.hu.level ∧ (afterFlareMove s).hu.band = s.hu.band ∧
    (afterFlareMove s).hu.position = s.hu.position ∧ (afterFlareMove s).cu = s.cu ∧
    (∀ k, ((afterFlareMove s).rl.get k).taken = (s.rl.get k).taken) ∧ (afterFlareMove s).fu = s.fu ∧
    (afterFlareMove s).tie = s.tie ∧ (afterFlareMove s).turbine = s.turbine ∧ (afterFlareMove s).mu = s.mu ∧
    (afterFlareMove s).dc = s.dc ∧ (afterFlareMove s).rs = s.rs ∧ (afterFlareMove s).fp.link = s.fp.link ∧
    (afterFlareMove s).fp.linkTimer = s.fp.linkTimer ∧ (afterFlareMove s).mc = s.mc ∧
    (afterFlareMove s).freeNext = s.freeNext ∧ (afterFlareMove s).pending = s.pending := by
  simp only [afterFlareMove]; (repeat' split) <;> simp [*]

@[simp] theorem reportFlare_frame (m : FlareMove) (o : ActionOutcome) :
    (reportFlare m o s).liu = s.liu ∧ (reportFlare m o s).peers = s.peers ∧ (reportFlare m o s).se = s.se ∧
    (reportFlare m o s).hu = s.hu ∧ (reportFlare m o s).cu = s.cu ∧
    (∀ k, ((reportFlare m o s).rl.get k).taken = (s.rl.get k).taken) ∧ (reportFlare m o s).fu = s.fu ∧
    (reportFlare m o s).tie = s.tie ∧ (reportFlare m o s).turbine = s.turbine ∧ (reportFlare m o s).mu = s.mu ∧
    (reportFlare m o s).dc = s.dc ∧ (reportFlare m o s).rs = s.rs ∧ (reportFlare m o s).fp = s.fp ∧
    (reportFlare m o s).mc = s.mc ∧ (reportFlare m o s).freeNext = s.freeNext ∧
    (reportFlare m o s).pending = s.pending := by
  simp only [reportFlare]; (repeat' split) <;> simp [*]

@[simp] theorem completeFlare_frame (m : FlareMove) (o : ActionOutcome) :
    (completeFlare m o s).liu = s.liu ∧ (completeFlare m o s).peers = s.peers ∧
    (completeFlare m o s).se = s.se ∧ (completeFlare m o s).hu.level = s.hu.level ∧
    (completeFlare m o s).hu.band = s.hu.band ∧ (completeFlare m o s).cu = s.cu ∧
    (∀ k, ((completeFlare m o s).rl.get k).taken = (s.rl.get k).taken) ∧ (completeFlare m o s).fu = s.fu ∧
    (completeFlare m o s).tie = s.tie ∧ (completeFlare m o s).turbine = s.turbine ∧
    (completeFlare m o s).mu = s.mu ∧ (completeFlare m o s).dc = s.dc ∧ (completeFlare m o s).rs = s.rs ∧
    (completeFlare m o s).fp.link = s.fp.link ∧ (completeFlare m o s).fp.linkTimer = s.fp.linkTimer ∧
    (completeFlare m o s).mc = s.mc ∧ (completeFlare m o s).freeNext = s.freeNext ∧
    (completeFlare m o s).pending = s.pending := by
  simp only [completeFlare]; (repeat' split) <;> simp [*]

@[simp] theorem flareReport_frame (reported : Nat) :
    (flareReport reported s).liu = s.liu ∧ (flareReport reported s).peers = s.peers ∧
    (flareReport reported s).se = s.se ∧ (flareReport reported s).hu.level = s.hu.level ∧
    (flareReport reported s).hu.band = s.hu.band ∧ (flareReport reported s).cu = s.cu ∧
    (∀ k, ((flareReport reported s).rl.get k).taken = (s.rl.get k).taken) ∧ (flareReport reported s).fu = s.fu ∧
    (flareReport reported s).tie = s.tie ∧ (flareReport reported s).turbine = s.turbine ∧
    (flareReport reported s).mu = s.mu ∧ (flareReport reported s).dc = s.dc ∧
    (flareReport reported s).rs = s.rs ∧ (flareReport reported s).fp.link = s.fp.link ∧
    (flareReport reported s).fp.linkTimer = s.fp.linkTimer ∧ (flareReport reported s).mc.mode = s.mc.mode ∧
    (flareReport reported s).mc.node = s.mc.node ∧ (flareReport reported s).mc.config = s.mc.config ∧
    (flareReport reported s).mc.warning = s.mc.warning ∧
    (flareReport reported s).mc.supplyLow = s.mc.supplyLow ∧ (flareReport reported s).freeNext = s.freeNext ∧
    (flareReport reported s).pending = s.pending := by
  simp only [flareReport]; (repeat' split) <;> simp [*]

@[simp] theorem flareExpires_frame (m : FlareMove) :
    (flareExpires m s).liu = s.liu ∧ (flareExpires m s).peers = s.peers ∧
    (flareExpires m s).se.roundTimer = s.se.roundTimer ∧ (flareExpires m s).se.capability = s.se.capability ∧
    (flareExpires m s).se.measured = s.se.measured ∧ (flareExpires m s).hu.level = s.hu.level ∧
    (flareExpires m s).hu.band = s.hu.band ∧ (flareExpires m s).cu = s.cu ∧
    (∀ k, ((flareExpires m s).rl.get k).taken = (s.rl.get k).taken) ∧ (flareExpires m s).fu = s.fu ∧
    (flareExpires m s).tie = s.tie ∧ (flareExpires m s).turbine = s.turbine ∧ (flareExpires m s).mu = s.mu ∧
    (flareExpires m s).dc = s.dc ∧ (flareExpires m s).rs = s.rs ∧ (flareExpires m s).fp.link = s.fp.link ∧
    (flareExpires m s).fp.linkTimer = s.fp.linkTimer ∧ (flareExpires m s).mc.mode = s.mc.mode ∧
    (flareExpires m s).mc.node = s.mc.node ∧ (flareExpires m s).mc.config = s.mc.config ∧
    (flareExpires m s).mc.warning = s.mc.warning ∧ (flareExpires m s).mc.supplyLow = s.mc.supplyLow ∧
    (flareExpires m s).freeNext = s.freeNext ∧ (flareExpires m s).pending = s.pending := by
  simp only [flareExpires]; (repeat' split) <;> simp [*]

@[simp] theorem floorEntry_frame :
    (floorEntry s).liu = s.liu ∧ (floorEntry s).peers = s.peers ∧ (floorEntry s).se = s.se ∧
    (floorEntry s).hu.level = s.hu.level ∧ (floorEntry s).hu.band = s.hu.band ∧
    (floorEntry s).hu.position = s.hu.position ∧ (floorEntry s).cu = s.cu ∧ (floorEntry s).rl = s.rl ∧
    (floorEntry s).fu = s.fu ∧ (floorEntry s).tie = s.tie ∧ (floorEntry s).turbine = s.turbine ∧
    (floorEntry s).mu = s.mu ∧ (floorEntry s).dc = s.dc ∧ (floorEntry s).rs = s.rs ∧
    (floorEntry s).fp.link = s.fp.link ∧ (floorEntry s).fp.linkTimer = s.fp.linkTimer ∧
    (floorEntry s).mc = s.mc ∧ (floorEntry s).freeNext = s.freeNext ∧ (floorEntry s).pending = s.pending := by
  simp only [floorEntry]; (repeat' split) <;> simp [*]

@[simp] theorem askTake_frame (a : Action) (l : ClaimLine) :
    (askTake a l s).liu.rx = s.liu.rx ∧ (askTake a l s).liu.drops = s.liu.drops ∧
    (askTake a l s).liu.lastEdge = s.liu.lastEdge ∧ (askTake a l s).liu.clash = s.liu.clash ∧
    (askTake a l s).liu.backoff = s.liu.backoff ∧ (askTake a l s).peers = s.peers ∧
    (askTake a l s).se.roundTimer = s.se.roundTimer ∧ (askTake a l s).se.fallback = s.se.fallback ∧
    (askTake a l s).se.capability = s.se.capability ∧ (askTake a l s).se.measured = s.se.measured ∧
    (askTake a l s).hu.level = s.hu.level ∧ (askTake a l s).hu.band = s.hu.band ∧
    (askTake a l s).hu.position = s.hu.position ∧ (askTake a l s).cu = s.cu ∧
    (∀ k, ((askTake a l s).rl.get k).taken = (s.rl.get k).taken) ∧ (askTake a l s).tie = s.tie ∧
    (askTake a l s).turbine = s.turbine ∧ (askTake a l s).mu = s.mu ∧ (askTake a l s).dc = s.dc ∧
    (askTake a l s).rs = s.rs ∧ (askTake a l s).fp.link = s.fp.link ∧
    (askTake a l s).fp.linkTimer = s.fp.linkTimer ∧ (askTake a l s).mc = s.mc ∧
    (askTake a l s).pending = s.pending := by
  simp only [askTake]; (repeat' split) <;> simp [*]

@[simp] theorem askUndo_frame (a : Action) (l : ClaimLine) :
    (askUndo a l s).liu = s.liu ∧ (askUndo a l s).peers = s.peers ∧
    (askUndo a l s).se.roundTimer = s.se.roundTimer ∧ (askUndo a l s).se.fallback = s.se.fallback ∧
    (askUndo a l s).se.capability = s.se.capability ∧ (askUndo a l s).se.measured = s.se.measured ∧
    (askUndo a l s).hu.level = s.hu.level ∧ (askUndo a l s).hu.band = s.hu.band ∧
    (askUndo a l s).hu.position = s.hu.position ∧ (askUndo a l s).cu = s.cu ∧
    (∀ k, ((askUndo a l s).rl.get k).taken = (s.rl.get k).taken) ∧ (askUndo a l s).tie = s.tie ∧
    (askUndo a l s).turbine = s.turbine ∧ (askUndo a l s).mu = s.mu ∧ (askUndo a l s).dc = s.dc ∧
    (askUndo a l s).rs = s.rs ∧ (askUndo a l s).fp.link = s.fp.link ∧
    (askUndo a l s).fp.linkTimer = s.fp.linkTimer ∧ (askUndo a l s).mc = s.mc ∧
    (askUndo a l s).freeNext = s.freeNext ∧ (askUndo a l s).pending = s.pending := by
  simp only [askUndo]; (repeat' split) <;> simp [*]

@[simp] theorem takeStep_frame (l : ClaimLine) :
    (takeStep l s).liu.rx = s.liu.rx ∧ (takeStep l s).liu.drops = s.liu.drops ∧
    (takeStep l s).liu.lastEdge = s.liu.lastEdge ∧ (takeStep l s).liu.clash = s.liu.clash ∧
    (takeStep l s).liu.backoff = s.liu.backoff ∧ (takeStep l s).peers = s.peers ∧
    (takeStep l s).se.roundTimer = s.se.roundTimer ∧ (takeStep l s).se.fallback = s.se.fallback ∧
    (takeStep l s).se.capability = s.se.capability ∧ (takeStep l s).se.measured = s.se.measured ∧
    (takeStep l s).hu.level = s.hu.level ∧ (takeStep l s).hu.band = s.hu.band ∧
    (takeStep l s).hu.position = s.hu.position ∧ (takeStep l s).cu = s.cu ∧ (takeStep l s).tie = s.tie ∧
    (takeStep l s).turbine = s.turbine ∧ (takeStep l s).mu = s.mu ∧ (takeStep l s).dc = s.dc ∧
    (takeStep l s).rs = s.rs ∧ (takeStep l s).fp.link = s.fp.link ∧
    (takeStep l s).fp.linkTimer = s.fp.linkTimer ∧ (takeStep l s).mc = s.mc ∧
    (takeStep l s).pending = s.pending := by
  simp only [takeStep]; (repeat' split) <;> simp [*]

@[simp] theorem undoStep_frame (l : ClaimLine) :
    (undoStep l s).liu = s.liu ∧ (undoStep l s).peers = s.peers ∧
    (undoStep l s).se.roundTimer = s.se.roundTimer ∧ (undoStep l s).se.fallback = s.se.fallback ∧
    (undoStep l s).se.capability = s.se.capability ∧ (undoStep l s).se.measured = s.se.measured ∧
    (undoStep l s).hu.level = s.hu.level ∧ (undoStep l s).hu.band = s.hu.band ∧
    (undoStep l s).hu.position = s.hu.position ∧ (undoStep l s).cu = s.cu ∧ (undoStep l s).tie = s.tie ∧
    (undoStep l s).turbine = s.turbine ∧ (undoStep l s).mu = s.mu ∧ (undoStep l s).dc = s.dc ∧
    (undoStep l s).rs = s.rs ∧ (undoStep l s).fp.link = s.fp.link ∧
    (undoStep l s).fp.linkTimer = s.fp.linkTimer ∧ (undoStep l s).mc = s.mc ∧
    (undoStep l s).freeNext = s.freeNext ∧ (undoStep l s).pending = s.pending := by
  simp only [undoStep]; (repeat' split) <;> simp [*]

@[simp] theorem ladderRise_frame (l : ClaimLine) :
    (ladderRise l s).liu.rx = s.liu.rx ∧ (ladderRise l s).liu.drops = s.liu.drops ∧
    (ladderRise l s).liu.lastEdge = s.liu.lastEdge ∧ (ladderRise l s).liu.clash = s.liu.clash ∧
    (ladderRise l s).liu.backoff = s.liu.backoff ∧ (ladderRise l s).peers = s.peers ∧
    (ladderRise l s).se.roundTimer = s.se.roundTimer ∧ (ladderRise l s).se.fallback = s.se.fallback ∧
    (ladderRise l s).se.capability = s.se.capability ∧ (ladderRise l s).se.measured = s.se.measured ∧
    (ladderRise l s).hu.level = s.hu.level ∧ (ladderRise l s).hu.band = s.hu.band ∧
    (ladderRise l s).hu.position = s.hu.position ∧ (ladderRise l s).cu = s.cu ∧ (ladderRise l s).tie = s.tie ∧
    (ladderRise l s).turbine = s.turbine ∧ (ladderRise l s).mu = s.mu ∧ (ladderRise l s).dc = s.dc ∧
    (ladderRise l s).rs = s.rs ∧ (ladderRise l s).fp.link = s.fp.link ∧
    (ladderRise l s).fp.linkTimer = s.fp.linkTimer ∧ (ladderRise l s).mc = s.mc ∧
    (ladderRise l s).pending = s.pending := by
  simp only [ladderRise]; (repeat' split) <;> simp [*]

@[simp] theorem ladderFall_frame (l : ClaimLine) :
    (ladderFall l s).liu = s.liu ∧ (ladderFall l s).peers = s.peers ∧
    (ladderFall l s).se.roundTimer = s.se.roundTimer ∧ (ladderFall l s).se.fallback = s.se.fallback ∧
    (ladderFall l s).se.capability = s.se.capability ∧ (ladderFall l s).se.measured = s.se.measured ∧
    (ladderFall l s).hu.level = s.hu.level ∧ (ladderFall l s).hu.band = s.hu.band ∧
    (ladderFall l s).hu.position = s.hu.position ∧ (ladderFall l s).cu = s.cu ∧ (ladderFall l s).tie = s.tie ∧
    (ladderFall l s).turbine = s.turbine ∧ (ladderFall l s).mu = s.mu ∧ (ladderFall l s).dc = s.dc ∧
    (ladderFall l s).rs = s.rs ∧ (ladderFall l s).fp.link = s.fp.link ∧
    (ladderFall l s).fp.linkTimer = s.fp.linkTimer ∧ (ladderFall l s).mc = s.mc ∧
    (ladderFall l s).freeNext = s.freeNext ∧ (ladderFall l s).pending = s.pending := by
  simp only [ladderFall]; (repeat' split) <;> simp [*]

@[simp] theorem withdrawAll_frame (ls : List ClaimLine) :
    (withdrawAll ls s).liu = s.liu ∧ (withdrawAll ls s).peers = s.peers ∧ (withdrawAll ls s).se = s.se ∧
    (withdrawAll ls s).hu = s.hu ∧ (withdrawAll ls s).cu = s.cu ∧ (withdrawAll ls s).rl = s.rl ∧
    (withdrawAll ls s).fu.mode = s.fu.mode ∧ (withdrawAll ls s).tie = s.tie ∧
    (withdrawAll ls s).turbine = s.turbine ∧ (withdrawAll ls s).mu = s.mu ∧ (withdrawAll ls s).dc = s.dc ∧
    (withdrawAll ls s).rs = s.rs ∧ (withdrawAll ls s).fp = s.fp ∧ (withdrawAll ls s).mc = s.mc ∧
    (withdrawAll ls s).freeNext = s.freeNext ∧ (withdrawAll ls s).pending = s.pending := by
  induction ls generalizing s with
  | nil => simp only [withdrawAll]; (repeat' split) <;> simp [*]
  | cons a as ih => simp only [withdrawAll]; (repeat' split) <;> simp [*]

@[simp] theorem clearLadders_frame :
    (clearLadders s).liu = s.liu ∧ (clearLadders s).peers = s.peers ∧
    (clearLadders s).se.roundTimer = s.se.roundTimer ∧ (clearLadders s).se.fallback = s.se.fallback ∧
    (clearLadders s).se.capability = s.se.capability ∧ (clearLadders s).se.measured = s.se.measured ∧
    (clearLadders s).hu = s.hu ∧ (clearLadders s).cu = s.cu ∧ (clearLadders s).fu.mode = s.fu.mode ∧
    (clearLadders s).tie = s.tie ∧ (clearLadders s).turbine = s.turbine ∧ (clearLadders s).mu = s.mu ∧
    (clearLadders s).dc = s.dc ∧ (clearLadders s).rs = s.rs ∧ (clearLadders s).fp.link = s.fp.link ∧
    (clearLadders s).fp.linkTimer = s.fp.linkTimer ∧ (clearLadders s).mc = s.mc ∧
    (clearLadders s).freeNext = s.freeNext ∧ (clearLadders s).pending = s.pending := by
  simp only [clearLadders]; (repeat' split) <;> simp [*, clearedLadder]

@[simp] theorem resampleDwell_frame (l : ClaimLine) :
    (resampleDwell l s).liu.rx = s.liu.rx ∧ (resampleDwell l s).liu.drops = s.liu.drops ∧
    (resampleDwell l s).liu.lastEdge = s.liu.lastEdge ∧ (resampleDwell l s).liu.clash = s.liu.clash ∧
    (resampleDwell l s).liu.backoff = s.liu.backoff ∧ (resampleDwell l s).peers = s.peers ∧
    (resampleDwell l s).se.roundTimer = s.se.roundTimer ∧ (resampleDwell l s).se.fallback = s.se.fallback ∧
    (resampleDwell l s).se.capability = s.se.capability ∧ (resampleDwell l s).se.measured = s.se.measured ∧
    (resampleDwell l s).hu.level = s.hu.level ∧ (resampleDwell l s).hu.band = s.hu.band ∧
    (resampleDwell l s).hu.position = s.hu.position ∧ (resampleDwell l s).cu = s.cu ∧
    (resampleDwell l s).tie = s.tie ∧ (resampleDwell l s).turbine = s.turbine ∧ (resampleDwell l s).mu = s.mu ∧
    (resampleDwell l s).dc = s.dc ∧ (resampleDwell l s).rs = s.rs ∧ (resampleDwell l s).fp.link = s.fp.link ∧
    (resampleDwell l s).fp.linkTimer = s.fp.linkTimer ∧ (resampleDwell l s).mc = s.mc ∧
    (resampleDwell l s).pending = s.pending := by
  simp only [resampleDwell]; (repeat' split) <;> simp [*]

@[simp] theorem resampleUndoDwell_frame (l : ClaimLine) :
    (resampleUndoDwell l s).liu.rx = s.liu.rx ∧ (resampleUndoDwell l s).liu.drops = s.liu.drops ∧
    (resampleUndoDwell l s).liu.lastEdge = s.liu.lastEdge ∧ (resampleUndoDwell l s).liu.clash = s.liu.clash ∧
    (resampleUndoDwell l s).liu.backoff = s.liu.backoff ∧ (resampleUndoDwell l s).peers = s.peers ∧
    (resampleUndoDwell l s).se.roundTimer = s.se.roundTimer ∧
    (resampleUndoDwell l s).se.fallback = s.se.fallback ∧
    (resampleUndoDwell l s).se.capability = s.se.capability ∧
    (resampleUndoDwell l s).se.measured = s.se.measured ∧ (resampleUndoDwell l s).hu.level = s.hu.level ∧
    (resampleUndoDwell l s).hu.band = s.hu.band ∧ (resampleUndoDwell l s).hu.position = s.hu.position ∧
    (resampleUndoDwell l s).cu = s.cu ∧ (resampleUndoDwell l s).tie = s.tie ∧
    (resampleUndoDwell l s).turbine = s.turbine ∧ (resampleUndoDwell l s).mu = s.mu ∧
    (resampleUndoDwell l s).dc = s.dc ∧ (resampleUndoDwell l s).rs = s.rs ∧
    (resampleUndoDwell l s).fp.link = s.fp.link ∧ (resampleUndoDwell l s).fp.linkTimer = s.fp.linkTimer ∧
    (resampleUndoDwell l s).mc = s.mc ∧ (resampleUndoDwell l s).pending = s.pending := by
  simp only [resampleUndoDwell]; (repeat' split) <;> simp [*]

@[simp] theorem startCommit_frame (rs : RecordUnit) :
    (startCommit rs).nextSeq = rs.nextSeq ∧ (startCommit rs).newest = rs.newest ∧
    (startCommit rs).holdQueue = rs.holdQueue ∧ (startCommit rs).slotA = rs.slotA ∧
    (startCommit rs).slotB = rs.slotB := by
  unfold startCommit; split <;> simp

@[simp] theorem startIfIdle_frame (rs : RecordUnit) :
    (startIfIdle rs).nextSeq = rs.nextSeq ∧ (startIfIdle rs).newest = rs.newest ∧
    (startIfIdle rs).holdQueue = rs.holdQueue ∧ (startIfIdle rs).slotA = rs.slotA ∧
    (startIfIdle rs).slotB = rs.slotB := by
  unfold startIfIdle; split <;> simp

@[simp] theorem setSlot_frame (i : ReadSlotId) (x : Option ReadSlot) (rs : RecordUnit) :
    (setSlot i x rs).slots = rs.slots ∧ (setSlot i x rs).nextSeq = rs.nextSeq ∧
    (setSlot i x rs).newest = rs.newest ∧ (setSlot i x rs).holdQueue = rs.holdQueue ∧
    (setSlot i x rs).inFlight = rs.inFlight := by
  cases i <;> simp [setSlot]

@[simp] theorem slotsLookAgain_frame (rs : RecordUnit) :
    (slotsLookAgain rs).slots = rs.slots ∧ (slotsLookAgain rs).nextSeq = rs.nextSeq ∧
    (slotsLookAgain rs).newest = rs.newest ∧ (slotsLookAgain rs).holdQueue = rs.holdQueue ∧
    (slotsLookAgain rs).inFlight = rs.inFlight := by
  simp [slotsLookAgain]

@[simp] theorem committed_frame (r : StoreRecord) (rest : List StoreRecord) (rs : RecordUnit) :
    (committed r rest rs).holdQueue = rest ∧ (committed r rest rs).nextSeq = rs.nextSeq ∧
    (committed r rest rs).newest = Nat.max rs.newest (recordSeq r) := by
  simp [committed]

@[simp] theorem handOver_frame (r : StoreRecord) :
    (handOver r s).liu = s.liu ∧ (handOver r s).peers = s.peers ∧ (handOver r s).se = s.se ∧
    (handOver r s).hu = s.hu ∧ (handOver r s).cu = s.cu ∧ (handOver r s).rl = s.rl ∧ (handOver r s).fu = s.fu ∧
    (handOver r s).tie = s.tie ∧ (handOver r s).turbine = s.turbine ∧ (handOver r s).mu = s.mu ∧
    (handOver r s).dc = s.dc ∧ (handOver r s).rs.newest = s.rs.newest ∧ (handOver r s).fp = s.fp ∧
    (handOver r s).mc = s.mc ∧ (handOver r s).pending = s.pending := by
  simp only [handOver]; (repeat' split) <;> simp [*]

@[simp] theorem recordSent_frame (i : ReadSlotId) :
    (recordSent i s).liu = s.liu ∧ (recordSent i s).peers = s.peers ∧ (recordSent i s).se = s.se ∧
    (recordSent i s).hu = s.hu ∧ (recordSent i s).cu = s.cu ∧ (recordSent i s).rl = s.rl ∧
    (recordSent i s).fu = s.fu ∧ (recordSent i s).tie = s.tie ∧ (recordSent i s).turbine = s.turbine ∧
    (recordSent i s).mu = s.mu ∧ (recordSent i s).dc = s.dc ∧ (recordSent i s).rs.holdQueue = s.rs.holdQueue ∧
    (recordSent i s).rs.slots = s.rs.slots ∧ (recordSent i s).rs.newest = s.rs.newest ∧
    (recordSent i s).rs.nextSeq = s.rs.nextSeq ∧ (recordSent i s).fp = s.fp ∧ (recordSent i s).mc = s.mc ∧
    (recordSent i s).freeNext = s.freeNext ∧ (recordSent i s).pending = s.pending := by
  simp only [recordSent]; (repeat' split) <;> simp [*]

@[simp] theorem recordGone_frame (i : ReadSlotId) :
    (recordGone i s).liu = s.liu ∧ (recordGone i s).peers = s.peers ∧ (recordGone i s).se = s.se ∧
    (recordGone i s).hu = s.hu ∧ (recordGone i s).cu = s.cu ∧ (recordGone i s).rl = s.rl ∧
    (recordGone i s).fu = s.fu ∧ (recordGone i s).tie = s.tie ∧ (recordGone i s).turbine = s.turbine ∧
    (recordGone i s).mu = s.mu ∧ (recordGone i s).dc = s.dc ∧ (recordGone i s).rs.holdQueue = s.rs.holdQueue ∧
    (recordGone i s).rs.slots = s.rs.slots ∧ (recordGone i s).rs.newest = s.rs.newest ∧
    (recordGone i s).rs.nextSeq = s.rs.nextSeq ∧ (recordGone i s).fp = s.fp ∧ (recordGone i s).mc = s.mc ∧
    (recordGone i s).freeNext = s.freeNext ∧ (recordGone i s).pending = s.pending := by
  simp only [recordGone]; (repeat' split) <;> simp [*]

@[simp] theorem reportRecord_frame (b : TxBody) (sent : Bool) :
    (reportRecord b sent s).liu = s.liu ∧ (reportRecord b sent s).peers = s.peers ∧
    (reportRecord b sent s).se = s.se ∧ (reportRecord b sent s).hu = s.hu ∧ (reportRecord b sent s).cu = s.cu ∧
    (reportRecord b sent s).rl = s.rl ∧ (reportRecord b sent s).fu = s.fu ∧
    (reportRecord b sent s).tie = s.tie ∧ (reportRecord b sent s).turbine = s.turbine ∧
    (reportRecord b sent s).mu = s.mu ∧ (reportRecord b sent s).dc = s.dc ∧
    (reportRecord b sent s).rs.holdQueue = s.rs.holdQueue ∧ (reportRecord b sent s).rs.slots = s.rs.slots ∧
    (reportRecord b sent s).rs.newest = s.rs.newest ∧ (reportRecord b sent s).rs.nextSeq = s.rs.nextSeq ∧
    (reportRecord b sent s).fp = s.fp ∧ (reportRecord b sent s).mc = s.mc ∧
    (reportRecord b sent s).freeNext = s.freeNext ∧ (reportRecord b sent s).pending = s.pending := by
  simp only [reportRecord]; (repeat' split) <;> simp [*]

@[simp] theorem servedDrawn_frame (sl : ReadSlot) :
    (servedDrawn sl s).liu = s.liu ∧ (servedDrawn sl s).peers = s.peers ∧ (servedDrawn sl s).se = s.se ∧
    (servedDrawn sl s).hu = s.hu ∧ (servedDrawn sl s).cu = s.cu ∧ (servedDrawn sl s).rl = s.rl ∧
    (servedDrawn sl s).fu = s.fu ∧ (servedDrawn sl s).tie = s.tie ∧ (servedDrawn sl s).turbine = s.turbine ∧
    (servedDrawn sl s).mu = s.mu ∧ (servedDrawn sl s).dc = s.dc ∧ (servedDrawn sl s).rs = s.rs ∧
    (servedDrawn sl s).fp = s.fp ∧ (servedDrawn sl s).mc = s.mc ∧ (servedDrawn sl s).pending = s.pending := by
  simp only [servedDrawn]; (repeat' split) <;> simp [*]

@[simp] theorem placeRecord_frame (i : ReadSlotId) :
    (placeRecord i s).liu.rx = s.liu.rx ∧ (placeRecord i s).liu.drops = s.liu.drops ∧
    (placeRecord i s).liu.lastEdge = s.liu.lastEdge ∧ (placeRecord i s).liu.clash = s.liu.clash ∧
    (placeRecord i s).liu.backoff = s.liu.backoff ∧ (placeRecord i s).peers = s.peers ∧
    (placeRecord i s).se = s.se ∧ (placeRecord i s).hu = s.hu ∧ (placeRecord i s).cu = s.cu ∧
    (placeRecord i s).rl = s.rl ∧ (placeRecord i s).fu = s.fu ∧ (placeRecord i s).tie = s.tie ∧
    (placeRecord i s).turbine = s.turbine ∧ (placeRecord i s).mu = s.mu ∧ (placeRecord i s).dc = s.dc ∧
    (placeRecord i s).rs.holdQueue = s.rs.holdQueue ∧ (placeRecord i s).rs.slots = s.rs.slots ∧
    (placeRecord i s).rs.newest = s.rs.newest ∧ (placeRecord i s).rs.nextSeq = s.rs.nextSeq ∧
    (placeRecord i s).fp = s.fp ∧ (placeRecord i s).mc = s.mc ∧ (placeRecord i s).pending = s.pending := by
  simp only [placeRecord]; (repeat' split) <;> simp [*]

@[simp] theorem takeRead_frame (kind q count : Nat) :
    (takeRead kind q count s).liu.rx = s.liu.rx ∧ (takeRead kind q count s).liu.drops = s.liu.drops ∧
    (takeRead kind q count s).liu.lastEdge = s.liu.lastEdge ∧
    (takeRead kind q count s).liu.clash = s.liu.clash ∧ (takeRead kind q count s).liu.backoff = s.liu.backoff ∧
    (takeRead kind q count s).peers = s.peers ∧ (takeRead kind q count s).se = s.se ∧
    (takeRead kind q count s).hu = s.hu ∧ (takeRead kind q count s).cu = s.cu ∧
    (takeRead kind q count s).rl = s.rl ∧ (takeRead kind q count s).fu = s.fu ∧
    (takeRead kind q count s).tie = s.tie ∧ (takeRead kind q count s).turbine = s.turbine ∧
    (takeRead kind q count s).mu = s.mu ∧ (takeRead kind q count s).dc = s.dc ∧
    (takeRead kind q count s).rs.holdQueue = s.rs.holdQueue ∧ (takeRead kind q count s).rs.slots = s.rs.slots ∧
    (takeRead kind q count s).rs.newest = s.rs.newest ∧ (takeRead kind q count s).rs.nextSeq = s.rs.nextSeq ∧
    (takeRead kind q count s).fp = s.fp ∧ (takeRead kind q count s).mc = s.mc ∧
    (takeRead kind q count s).pending = s.pending := by
  simp only [takeRead]; (repeat' split) <;> simp [*]

@[simp] theorem sendResetReady_frame :
    (sendResetReady s).liu = s.liu ∧ (sendResetReady s).peers = s.peers ∧ (sendResetReady s).se = s.se ∧
    (sendResetReady s).hu = s.hu ∧ (sendResetReady s).cu = s.cu ∧ (sendResetReady s).rl = s.rl ∧
    (sendResetReady s).fu = s.fu ∧ (sendResetReady s).tie = s.tie ∧ (sendResetReady s).turbine = s.turbine ∧
    (sendResetReady s).mu = s.mu ∧ (sendResetReady s).dc = s.dc ∧ (sendResetReady s).rs = s.rs ∧
    (sendResetReady s).fp.link = s.fp.link ∧ (sendResetReady s).fp.linkTimer = s.fp.linkTimer ∧
    (sendResetReady s).mc.mode = s.mc.mode ∧ (sendResetReady s).mc.node = s.mc.node ∧
    (sendResetReady s).mc.config = s.mc.config ∧ (sendResetReady s).mc.faults = s.mc.faults ∧
    (sendResetReady s).mc.warning = s.mc.warning ∧ (sendResetReady s).mc.supplyLow = s.mc.supplyLow ∧
    (sendResetReady s).freeNext = s.freeNext ∧ (sendResetReady s).pending = s.pending := by
  simp only [sendResetReady]; (repeat' split) <;> simp [*]

@[simp] theorem reportEmpty_frame :
    (reportEmpty s).liu = s.liu ∧ (reportEmpty s).peers = s.peers ∧ (reportEmpty s).se = s.se ∧
    (reportEmpty s).hu = s.hu ∧ (reportEmpty s).cu = s.cu ∧ (reportEmpty s).rl = s.rl ∧
    (reportEmpty s).fu = s.fu ∧ (reportEmpty s).tie = s.tie ∧ (reportEmpty s).turbine = s.turbine ∧
    (reportEmpty s).mu = s.mu ∧ (reportEmpty s).dc = s.dc ∧ (reportEmpty s).rs = s.rs ∧
    (reportEmpty s).fp.link = s.fp.link ∧ (reportEmpty s).fp.linkTimer = s.fp.linkTimer ∧
    (reportEmpty s).mc.mode = s.mc.mode ∧ (reportEmpty s).mc.node = s.mc.node ∧
    (reportEmpty s).mc.config = s.mc.config ∧ (reportEmpty s).mc.faults = s.mc.faults ∧
    (reportEmpty s).mc.warning = s.mc.warning ∧ (reportEmpty s).mc.supplyLow = s.mc.supplyLow ∧
    (reportEmpty s).freeNext = s.freeNext ∧ (reportEmpty s).pending = s.pending := by
  simp only [reportEmpty]; (repeat' split) <;> simp [*]

@[simp] theorem commitEnds_frame (result : WriteResult) (r : StoreRecord) (rest : List StoreRecord) :
    (commitEnds result r rest s).liu = s.liu ∧ (commitEnds result r rest s).peers = s.peers ∧
    (commitEnds result r rest s).se.roundTimer = s.se.roundTimer ∧
    (commitEnds result r rest s).se.capability = s.se.capability ∧
    (commitEnds result r rest s).se.measured = s.se.measured ∧ (commitEnds result r rest s).hu = s.hu ∧
    (commitEnds result r rest s).cu = s.cu ∧ (commitEnds result r rest s).rl = s.rl ∧
    (commitEnds result r rest s).fu = s.fu ∧ (commitEnds result r rest s).tie = s.tie ∧
    (commitEnds result r rest s).turbine = s.turbine ∧ (commitEnds result r rest s).mu = s.mu ∧
    (commitEnds result r rest s).dc = s.dc ∧ (commitEnds result r rest s).rs.nextSeq = s.rs.nextSeq ∧
    (commitEnds result r rest s).fp.link = s.fp.link ∧
    (commitEnds result r rest s).fp.linkTimer = s.fp.linkTimer ∧
    (commitEnds result r rest s).mc.mode = s.mc.mode ∧ (commitEnds result r rest s).mc.node = s.mc.node ∧
    (commitEnds result r rest s).mc.config = s.mc.config ∧
    (commitEnds result r rest s).mc.warning = s.mc.warning ∧
    (commitEnds result r rest s).mc.supplyLow = s.mc.supplyLow ∧
    (commitEnds result r rest s).freeNext = s.freeNext ∧ (commitEnds result r rest s).pending = s.pending := by
  simp only [commitEnds]; (repeat' split) <;> simp [*]

end Sys2Proof.Machine
end

