-- ==== Sys2Proof/Laws/Frame2.lean ====
section
/-! SUPPORT. What each claim, line and peer-table operation leaves of the state, as one equation list per operation. -/

namespace Sys2Proof.Machine

variable (s : State)

/-- A pending flag written changes no own claim and no source set. -/
@[simp] theorem setPending_frame (b : Bool) (l : ClaimLine) :
    (setPending b l s).liu = s.liu ∧ (setPending b l s).peers = s.peers ∧ (setPending b l s).se = s.se ∧
    (setPending b l s).hu = s.hu ∧ (∀ k, ((setPending b l s).cu.get k).own = (s.cu.get k).own) ∧
    (∀ k, ((setPending b l s).cu.get k).sources = (s.cu.get k).sources) ∧ (setPending b l s).rl = s.rl ∧
    (setPending b l s).fu = s.fu ∧ (setPending b l s).tie = s.tie ∧ (setPending b l s).turbine = s.turbine ∧
    (setPending b l s).mu = s.mu ∧ (setPending b l s).dc = s.dc ∧ (setPending b l s).rs = s.rs ∧
    (setPending b l s).fp = s.fp ∧ (setPending b l s).mc = s.mc ∧ (setPending b l s).freeNext = s.freeNext ∧
    (setPending b l s).pending = s.pending := by
  simp only [setPending, setLine_liu, setLine_peers, setLine_se, setLine_hu, setLine_rl, setLine_fu, setLine_tie,
    setLine_turbine, setLine_mu, setLine_dc, setLine_rs, setLine_fp, setLine_mc, setLine_freeNext,
    setLine_pending, setLine_cu, Six.get_set, true_and, and_true]
  constructor <;> (intro k; split <;> simp_all)

@[simp] theorem clearPending_frame (ls : List ClaimLine) :
    (clearPending ls s).liu = s.liu ∧ (clearPending ls s).peers = s.peers ∧ (clearPending ls s).se = s.se ∧
    (clearPending ls s).hu = s.hu ∧ (∀ k, ((clearPending ls s).cu.get k).own = (s.cu.get k).own) ∧
    (∀ k, ((clearPending ls s).cu.get k).sources = (s.cu.get k).sources) ∧ (clearPending ls s).rl = s.rl ∧
    (clearPending ls s).fu = s.fu ∧ (clearPending ls s).tie = s.tie ∧ (clearPending ls s).turbine = s.turbine ∧
    (clearPending ls s).mu = s.mu ∧ (clearPending ls s).dc = s.dc ∧ (clearPending ls s).rs = s.rs ∧
    (clearPending ls s).fp = s.fp ∧ (clearPending ls s).mc = s.mc ∧ (clearPending ls s).freeNext = s.freeNext ∧
    (clearPending ls s).pending = s.pending := by
  induction ls generalizing s with
  | nil => simp only [clearPending]; (repeat' split) <;> simp [*]
  | cons a as ih => simp only [clearPending]; (repeat' split) <;> simp [*]

@[simp] theorem handRises_frame (ls : List ClaimLine) :
    (handRises ls s).liu.rx = s.liu.rx ∧ (handRises ls s).liu.drops = s.liu.drops ∧
    (handRises ls s).liu.lastEdge = s.liu.lastEdge ∧ (handRises ls s).liu.clash = s.liu.clash ∧
    (handRises ls s).liu.backoff = s.liu.backoff ∧ (handRises ls s).peers = s.peers ∧
    (handRises ls s).se.roundTimer = s.se.roundTimer ∧ (handRises ls s).se.fallback = s.se.fallback ∧
    (handRises ls s).se.capability = s.se.capability ∧ (handRises ls s).se.measured = s.se.measured ∧
    (handRises ls s).hu.level = s.hu.level ∧ (handRises ls s).hu.band = s.hu.band ∧
    (handRises ls s).hu.position = s.hu.position ∧ (handRises ls s).cu = s.cu ∧ (handRises ls s).tie = s.tie ∧
    (handRises ls s).turbine = s.turbine ∧ (handRises ls s).mu = s.mu ∧ (handRises ls s).dc = s.dc ∧
    (handRises ls s).rs = s.rs ∧ (handRises ls s).fp.link = s.fp.link ∧
    (handRises ls s).fp.linkTimer = s.fp.linkTimer ∧ (handRises ls s).mc = s.mc ∧
    (handRises ls s).pending = s.pending := by
  induction ls generalizing s with
  | nil => simp only [handRises]; (repeat' split) <;> simp [*]
  | cons a as ih => simp only [handRises]; (repeat' split) <;> simp [*]

@[simp] theorem resamplePending_frame :
    (resamplePending s).liu.rx = s.liu.rx ∧ (resamplePending s).liu.drops = s.liu.drops ∧
    (resamplePending s).liu.lastEdge = s.liu.lastEdge ∧ (resamplePending s).liu.clash = s.liu.clash ∧
    (resamplePending s).liu.backoff = s.liu.backoff ∧ (resamplePending s).peers = s.peers ∧
    (resamplePending s).se.roundTimer = s.se.roundTimer ∧ (resamplePending s).se.fallback = s.se.fallback ∧
    (resamplePending s).se.capability = s.se.capability ∧ (resamplePending s).se.measured = s.se.measured ∧
    (resamplePending s).hu.level = s.hu.level ∧ (resamplePending s).hu.band = s.hu.band ∧
    (resamplePending s).hu.position = s.hu.position ∧
    (∀ k, ((resamplePending s).cu.get k).own = (s.cu.get k).own) ∧
    (∀ k, ((resamplePending s).cu.get k).sources = (s.cu.get k).sources) ∧ (resamplePending s).tie = s.tie ∧
    (resamplePending s).turbine = s.turbine ∧ (resamplePending s).mu = s.mu ∧ (resamplePending s).dc = s.dc ∧
    (resamplePending s).rs = s.rs ∧ (resamplePending s).fp.link = s.fp.link ∧
    (resamplePending s).fp.linkTimer = s.fp.linkTimer ∧ (resamplePending s).mc = s.mc ∧
    (resamplePending s).pending = s.pending := by
  simp only [resamplePending]; (repeat' split) <;> simp [*]

/-- The pending marks change no own claim and no source set. -/
@[simp] theorem markPending_frame :
    (markPending s).liu = s.liu ∧ (markPending s).peers = s.peers ∧ (markPending s).se = s.se ∧
    (markPending s).hu = s.hu ∧ (∀ k, ((markPending s).cu.get k).own = (s.cu.get k).own) ∧
    (∀ k, ((markPending s).cu.get k).sources = (s.cu.get k).sources) ∧ (markPending s).rl = s.rl ∧
    (markPending s).fu = s.fu ∧ (markPending s).tie = s.tie ∧ (markPending s).turbine = s.turbine ∧
    (markPending s).mu = s.mu ∧ (markPending s).dc = s.dc ∧ (markPending s).rs = s.rs ∧
    (markPending s).fp = s.fp ∧ (markPending s).mc = s.mc ∧ (markPending s).freeNext = s.freeNext ∧
    (markPending s).pending = s.pending := by
  simp only [markPending, setCu_liu, setCu_peers, setCu_se, setCu_hu, setCu_rl, setCu_fu, setCu_tie,
    setCu_turbine, setCu_mu, setCu_dc, setCu_rs, setCu_fp, setCu_mc, setCu_freeNext, setCu_pending, setCu_cu,
    Six.get_build, true_and, and_true]
  constructor <;> (intro k; split <;> simp_all)

@[simp] theorem enterActive_frame :
    (enterActive s).liu.rx = s.liu.rx ∧ (enterActive s).liu.drops = s.liu.drops ∧
    (enterActive s).liu.lastEdge = s.liu.lastEdge ∧ (enterActive s).liu.clash = s.liu.clash ∧
    (enterActive s).liu.backoff = s.liu.backoff ∧ (enterActive s).peers = s.peers ∧
    (enterActive s).se.roundTimer = s.se.roundTimer ∧ (enterActive s).se.fallback = s.se.fallback ∧
    (enterActive s).se.capability = s.se.capability ∧ (enterActive s).se.measured = s.se.measured ∧
    (enterActive s).hu.level = s.hu.level ∧ (enterActive s).hu.band = s.hu.band ∧
    (enterActive s).hu.position = s.hu.position ∧ (∀ k, ((enterActive s).cu.get k).own = (s.cu.get k).own) ∧
    (∀ k, ((enterActive s).cu.get k).sources = (s.cu.get k).sources) ∧ (enterActive s).tie = s.tie ∧
    (enterActive s).turbine = s.turbine ∧ (enterActive s).mu = s.mu ∧ (enterActive s).dc = s.dc ∧
    (enterActive s).rs = s.rs ∧ (enterActive s).fp.link = s.fp.link ∧
    (enterActive s).fp.linkTimer = s.fp.linkTimer ∧ (enterActive s).mc.node = s.mc.node ∧
    (enterActive s).mc.config = s.mc.config ∧ (enterActive s).mc.faults = s.mc.faults ∧
    (enterActive s).mc.warning = s.mc.warning ∧ (enterActive s).mc.supplyLow = s.mc.supplyLow ∧
    (enterActive s).pending = s.pending := by
  simp only [enterActive]; (repeat' split) <;> simp [*]

@[simp] theorem enterListenIn_frame :
    (enterListenIn s).liu.rx = s.liu.rx ∧ (enterListenIn s).liu.drops = s.liu.drops ∧
    (enterListenIn s).liu.lastEdge = s.liu.lastEdge ∧ (enterListenIn s).liu.clash = s.liu.clash ∧
    (enterListenIn s).liu.backoff = s.liu.backoff ∧ (enterListenIn s).peers = s.peers ∧
    (enterListenIn s).se.capability = s.se.capability ∧ (enterListenIn s).se.measured = s.se.measured ∧
    (enterListenIn s).hu = s.hu ∧ (∀ k, ((enterListenIn s).cu.get k).own = (s.cu.get k).own) ∧
    (∀ k, ((enterListenIn s).cu.get k).sources = (s.cu.get k).sources) ∧ (enterListenIn s).rl = s.rl ∧
    (enterListenIn s).fu = s.fu ∧ (enterListenIn s).tie = s.tie ∧ (enterListenIn s).turbine = s.turbine ∧
    (enterListenIn s).mu = s.mu ∧ (enterListenIn s).dc = s.dc ∧ (enterListenIn s).rs = s.rs ∧
    (enterListenIn s).fp.link = s.fp.link ∧ (enterListenIn s).fp.linkTimer = s.fp.linkTimer ∧
    (enterListenIn s).mc.node = s.mc.node ∧ (enterListenIn s).mc.config = s.mc.config ∧
    (enterListenIn s).mc.faults = s.mc.faults ∧ (enterListenIn s).mc.warning = s.mc.warning ∧
    (enterListenIn s).mc.supplyLow = s.mc.supplyLow ∧ (enterListenIn s).pending = s.pending := by
  simp only [enterListenIn]; (repeat' split) <;> simp [*]

@[simp] theorem actOnLatch_frame :
    (actOnLatch s).liu.rx = s.liu.rx ∧ (actOnLatch s).liu.drops = s.liu.drops ∧
    (actOnLatch s).liu.lastEdge = s.liu.lastEdge ∧ (actOnLatch s).liu.clash = s.liu.clash ∧
    (actOnLatch s).liu.backoff = s.liu.backoff ∧ (actOnLatch s).peers = s.peers ∧
    (actOnLatch s).se.capability = s.se.capability ∧ (actOnLatch s).se.measured = s.se.measured ∧
    (actOnLatch s).hu.level = s.hu.level ∧ (actOnLatch s).hu.band = s.hu.band ∧
    (actOnLatch s).hu.position = s.hu.position ∧ (∀ k, ((actOnLatch s).cu.get k).own = (s.cu.get k).own) ∧
    (∀ k, ((actOnLatch s).cu.get k).sources = (s.cu.get k).sources) ∧ (actOnLatch s).tie = s.tie ∧
    (actOnLatch s).turbine = s.turbine ∧ (actOnLatch s).mu = s.mu ∧ (actOnLatch s).dc = s.dc ∧
    (actOnLatch s).rs = s.rs ∧ (actOnLatch s).fp.link = s.fp.link ∧
    (actOnLatch s).fp.linkTimer = s.fp.linkTimer ∧ (actOnLatch s).mc.node = s.mc.node ∧
    (actOnLatch s).mc.config = s.mc.config ∧ (actOnLatch s).mc.faults = s.mc.faults ∧
    (actOnLatch s).mc.warning = s.mc.warning ∧ (actOnLatch s).mc.supplyLow = s.mc.supplyLow ∧
    (actOnLatch s).pending = s.pending := by
  simp only [actOnLatch]; (repeat' split) <;> simp [*]

@[simp] theorem latchCause_frame (c : WakeCause) :
    (latchCause c s).liu.rx = s.liu.rx ∧ (latchCause c s).liu.drops = s.liu.drops ∧
    (latchCause c s).liu.lastEdge = s.liu.lastEdge ∧ (latchCause c s).liu.clash = s.liu.clash ∧
    (latchCause c s).liu.backoff = s.liu.backoff ∧ (latchCause c s).peers = s.peers ∧
    (latchCause c s).se.capability = s.se.capability ∧ (latchCause c s).se.measured = s.se.measured ∧
    (latchCause c s).hu.level = s.hu.level ∧ (latchCause c s).hu.band = s.hu.band ∧
    (latchCause c s).hu.position = s.hu.position ∧ (∀ k, ((latchCause c s).cu.get k).own = (s.cu.get k).own) ∧
    (∀ k, ((latchCause c s).cu.get k).sources = (s.cu.get k).sources) ∧ (latchCause c s).tie = s.tie ∧
    (latchCause c s).turbine = s.turbine ∧ (latchCause c s).mu = s.mu ∧ (latchCause c s).dc = s.dc ∧
    (latchCause c s).rs = s.rs ∧ (latchCause c s).fp.link = s.fp.link ∧
    (latchCause c s).fp.linkTimer = s.fp.linkTimer ∧ (latchCause c s).mc.node = s.mc.node ∧
    (latchCause c s).mc.config = s.mc.config ∧ (latchCause c s).mc.faults = s.mc.faults ∧
    (latchCause c s).mc.warning = s.mc.warning ∧ (latchCause c s).mc.supplyLow = s.mc.supplyLow ∧
    (latchCause c s).pending = s.pending := by
  simp only [latchCause]; (repeat' split) <;> simp [*]

@[simp] theorem noteRise_frame (l : ClaimLine) :
    (noteRise l s).liu.rx = s.liu.rx ∧ (noteRise l s).liu.drops = s.liu.drops ∧
    (noteRise l s).liu.lastEdge = s.liu.lastEdge ∧ (noteRise l s).liu.clash = s.liu.clash ∧
    (noteRise l s).liu.backoff = s.liu.backoff ∧ (noteRise l s).peers = s.peers ∧
    (noteRise l s).se.capability = s.se.capability ∧ (noteRise l s).se.measured = s.se.measured ∧
    (noteRise l s).hu.level = s.hu.level ∧ (noteRise l s).hu.band = s.hu.band ∧
    (noteRise l s).hu.position = s.hu.position ∧
    (∀ k, ((noteRise l s).cu.get k).own = (s.cu.get k).own) ∧
    (∀ k, ((noteRise l s).cu.get k).sources = (s.cu.get k).sources) ∧ (noteRise l s).tie = s.tie ∧
    (noteRise l s).turbine = s.turbine ∧ (noteRise l s).mu = s.mu ∧ (noteRise l s).dc = s.dc ∧
    (noteRise l s).rs = s.rs ∧
    (noteRise l s).fp.link = s.fp.link ∧ (noteRise l s).fp.linkTimer = s.fp.linkTimer ∧
    (noteRise l s).mc.node = s.mc.node ∧
    (noteRise l s).mc.config = s.mc.config ∧ (noteRise l s).mc.faults = s.mc.faults ∧
    (noteRise l s).mc.warning = s.mc.warning ∧ (noteRise l s).mc.supplyLow = s.mc.supplyLow ∧
    (noteRise l s).pending = s.pending := by
  simp only [noteRise]; (repeat' split) <;> simp [*]

@[simp] theorem rise_frame (l : ClaimLine) :
    (rise l s).liu.rx = s.liu.rx ∧ (rise l s).liu.drops = s.liu.drops ∧
    (rise l s).liu.lastEdge = s.liu.lastEdge ∧ (rise l s).liu.clash = s.liu.clash ∧
    (rise l s).liu.backoff = s.liu.backoff ∧ (rise l s).peers = s.peers ∧
    (rise l s).se.capability = s.se.capability ∧ (rise l s).se.measured = s.se.measured ∧
    (rise l s).hu.level = s.hu.level ∧ (rise l s).hu.band = s.hu.band ∧ (rise l s).hu.position = s.hu.position ∧
    (∀ k, ((rise l s).cu.get k).own = (s.cu.get k).own) ∧
    (∀ k, ((rise l s).cu.get k).sources = (s.cu.get k).sources) ∧ (rise l s).tie = s.tie ∧
    (rise l s).turbine = s.turbine ∧ (rise l s).mu = s.mu ∧ (rise l s).dc = s.dc ∧ (rise l s).rs = s.rs ∧
    (rise l s).fp.link = s.fp.link ∧ (rise l s).fp.linkTimer = s.fp.linkTimer ∧ (rise l s).mc.node = s.mc.node ∧
    (rise l s).mc.config = s.mc.config ∧ (rise l s).mc.faults = s.mc.faults ∧
    (rise l s).mc.warning = s.mc.warning ∧ (rise l s).mc.supplyLow = s.mc.supplyLow ∧
    (rise l s).pending = s.pending := by
  simp only [rise]; (repeat' split) <;> simp [*]

@[simp] theorem fall_frame (l : ClaimLine) :
    (fall l s).liu = s.liu ∧ (fall l s).peers = s.peers ∧ (fall l s).se.roundTimer = s.se.roundTimer ∧
    (fall l s).se.fallback = s.se.fallback ∧ (fall l s).se.capability = s.se.capability ∧
    (fall l s).se.measured = s.se.measured ∧ (fall l s).hu.level = s.hu.level ∧ (fall l s).hu.band = s.hu.band ∧
    (fall l s).hu.position = s.hu.position ∧ (∀ k, ((fall l s).cu.get k).own = (s.cu.get k).own) ∧
    (∀ k, ((fall l s).cu.get k).sources = (s.cu.get k).sources) ∧ (fall l s).tie = s.tie ∧
    (fall l s).turbine = s.turbine ∧ (fall l s).mu = s.mu ∧ (fall l s).dc = s.dc ∧ (fall l s).rs = s.rs ∧
    (fall l s).fp.link = s.fp.link ∧ (fall l s).fp.linkTimer = s.fp.linkTimer ∧ (fall l s).mc = s.mc ∧
    (fall l s).freeNext = s.freeNext ∧ (fall l s).pending = s.pending := by
  simp only [fall]; (repeat' split) <;> simp [*]

@[simp] theorem setBit_frame (n : Nat) (l : ClaimLine) :
    (setBit n l s).liu.rx = s.liu.rx ∧ (setBit n l s).liu.drops = s.liu.drops ∧
    (setBit n l s).liu.lastEdge = s.liu.lastEdge ∧ (setBit n l s).liu.clash = s.liu.clash ∧
    (setBit n l s).liu.backoff = s.liu.backoff ∧ (setBit n l s).peers = s.peers ∧
    (setBit n l s).se.capability = s.se.capability ∧ (setBit n l s).se.measured = s.se.measured ∧
    (setBit n l s).hu.level = s.hu.level ∧ (setBit n l s).hu.band = s.hu.band ∧
    (setBit n l s).hu.position = s.hu.position ∧ (∀ k, ((setBit n l s).cu.get k).own = (s.cu.get k).own) ∧
    (setBit n l s).tie = s.tie ∧ (setBit n l s).turbine = s.turbine ∧ (setBit n l s).mu = s.mu ∧
    (setBit n l s).dc = s.dc ∧ (setBit n l s).rs = s.rs ∧ (setBit n l s).fp.link = s.fp.link ∧
    (setBit n l s).fp.linkTimer = s.fp.linkTimer ∧ (setBit n l s).mc.node = s.mc.node ∧
    (setBit n l s).mc.config = s.mc.config ∧ (setBit n l s).mc.faults = s.mc.faults ∧
    (setBit n l s).mc.warning = s.mc.warning ∧ (setBit n l s).mc.supplyLow = s.mc.supplyLow ∧
    (setBit n l s).pending = s.pending := by
  simp only [setBit, setBitWith]; (repeat' split) <;> simp [*] <;>
    exact fun k => Six.part_get_set LineState.own s.cu l k _ rfl

@[simp] theorem clearBit_frame (n : Nat) (l : ClaimLine) :
    (clearBit n l s).liu = s.liu ∧ (clearBit n l s).peers = s.peers ∧
    (clearBit n l s).se.roundTimer = s.se.roundTimer ∧ (clearBit n l s).se.fallback = s.se.fallback ∧
    (clearBit n l s).se.capability = s.se.capability ∧ (clearBit n l s).se.measured = s.se.measured ∧
    (clearBit n l s).hu.level = s.hu.level ∧ (clearBit n l s).hu.band = s.hu.band ∧
    (clearBit n l s).hu.position = s.hu.position ∧ (∀ k, ((clearBit n l s).cu.get k).own = (s.cu.get k).own) ∧
    (clearBit n l s).tie = s.tie ∧ (clearBit n l s).turbine = s.turbine ∧ (clearBit n l s).mu = s.mu ∧
    (clearBit n l s).dc = s.dc ∧ (clearBit n l s).rs = s.rs ∧ (clearBit n l s).fp.link = s.fp.link ∧
    (clearBit n l s).fp.linkTimer = s.fp.linkTimer ∧ (clearBit n l s).mc = s.mc ∧
    (clearBit n l s).freeNext = s.freeNext ∧ (clearBit n l s).pending = s.pending := by
  simp only [clearBit, clearBitWith]; (repeat' split) <;> simp [*] <;>
    exact fun k => Six.part_get_set LineState.own s.cu l k _ rfl

@[simp] theorem assertOwn_frame (l : ClaimLine) :
    (assertOwn l s).liu.rx = s.liu.rx ∧ (assertOwn l s).liu.drops = s.liu.drops ∧
    (assertOwn l s).liu.lastEdge = s.liu.lastEdge ∧ (assertOwn l s).liu.clash = s.liu.clash ∧
    (assertOwn l s).liu.backoff = s.liu.backoff ∧ (assertOwn l s).peers = s.peers ∧
    (assertOwn l s).se.capability = s.se.capability ∧ (assertOwn l s).se.measured = s.se.measured ∧
    (assertOwn l s).hu.level = s.hu.level ∧ (assertOwn l s).hu.band = s.hu.band ∧
    (assertOwn l s).hu.position = s.hu.position ∧ (assertOwn l s).tie = s.tie ∧
    (assertOwn l s).turbine = s.turbine ∧ (assertOwn l s).mu = s.mu ∧ (assertOwn l s).dc = s.dc ∧
    (assertOwn l s).rs = s.rs ∧ (assertOwn l s).fp.link = s.fp.link ∧
    (assertOwn l s).fp.linkTimer = s.fp.linkTimer ∧ (assertOwn l s).mc.node = s.mc.node ∧
    (assertOwn l s).mc.config = s.mc.config ∧ (assertOwn l s).mc.faults = s.mc.faults ∧
    (assertOwn l s).mc.warning = s.mc.warning ∧ (assertOwn l s).mc.supplyLow = s.mc.supplyLow ∧
    (assertOwn l s).pending = s.pending := by
  simp only [assertOwn, assertOwnWith, setBitWith]; (repeat' split) <;> simp [*]

@[simp] theorem assertInRound_frame (l : ClaimLine) :
    (assertInRound l s).liu.rx = s.liu.rx ∧ (assertInRound l s).liu.drops = s.liu.drops ∧
    (assertInRound l s).liu.lastEdge = s.liu.lastEdge ∧ (assertInRound l s).liu.clash = s.liu.clash ∧
    (assertInRound l s).liu.backoff = s.liu.backoff ∧ (assertInRound l s).peers = s.peers ∧
    (assertInRound l s).se.capability = s.se.capability ∧ (assertInRound l s).se.measured = s.se.measured ∧
    (assertInRound l s).hu.level = s.hu.level ∧ (assertInRound l s).hu.band = s.hu.band ∧
    (assertInRound l s).hu.position = s.hu.position ∧ (assertInRound l s).tie = s.tie ∧
    (assertInRound l s).turbine = s.turbine ∧ (assertInRound l s).mu = s.mu ∧ (assertInRound l s).dc = s.dc ∧
    (assertInRound l s).rs = s.rs ∧ (assertInRound l s).fp.link = s.fp.link ∧
    (assertInRound l s).fp.linkTimer = s.fp.linkTimer ∧ (assertInRound l s).mc.node = s.mc.node ∧
    (assertInRound l s).mc.config = s.mc.config ∧ (assertInRound l s).mc.faults = s.mc.faults ∧
    (assertInRound l s).mc.warning = s.mc.warning ∧ (assertInRound l s).mc.supplyLow = s.mc.supplyLow ∧
    (assertInRound l s).pending = s.pending := by
  simp only [assertInRound, assertOwnWith, setBitWith]; (repeat' split) <;> simp [*]

@[simp] theorem releaseOwn_frame (l : ClaimLine) :
    (releaseOwn l s).liu.rx = s.liu.rx ∧ (releaseOwn l s).liu.drops = s.liu.drops ∧
    (releaseOwn l s).liu.lastEdge = s.liu.lastEdge ∧ (releaseOwn l s).liu.clash = s.liu.clash ∧
    (releaseOwn l s).liu.backoff = s.liu.backoff ∧ (releaseOwn l s).peers = s.peers ∧
    (releaseOwn l s).se.roundTimer = s.se.roundTimer ∧ (releaseOwn l s).se.fallback = s.se.fallback ∧
    (releaseOwn l s).se.capability = s.se.capability ∧ (releaseOwn l s).se.measured = s.se.measured ∧
    (releaseOwn l s).hu.level = s.hu.level ∧ (releaseOwn l s).hu.band = s.hu.band ∧
    (releaseOwn l s).hu.position = s.hu.position ∧ (releaseOwn l s).tie = s.tie ∧
    (releaseOwn l s).turbine = s.turbine ∧ (releaseOwn l s).mu = s.mu ∧ (releaseOwn l s).dc = s.dc ∧
    (releaseOwn l s).rs = s.rs ∧ (releaseOwn l s).fp.link = s.fp.link ∧
    (releaseOwn l s).fp.linkTimer = s.fp.linkTimer ∧ (releaseOwn l s).mc = s.mc ∧
    (releaseOwn l s).pending = s.pending := by
  simp only [releaseOwn, releaseOwnWith, clearBitWith]; (repeat' split) <;> simp [*]

@[simp] theorem releaseInRound_frame (l : ClaimLine) :
    (releaseInRound l s).liu.rx = s.liu.rx ∧ (releaseInRound l s).liu.drops = s.liu.drops ∧
    (releaseInRound l s).liu.lastEdge = s.liu.lastEdge ∧ (releaseInRound l s).liu.clash = s.liu.clash ∧
    (releaseInRound l s).liu.backoff = s.liu.backoff ∧ (releaseInRound l s).peers = s.peers ∧
    (releaseInRound l s).se.roundTimer = s.se.roundTimer ∧ (releaseInRound l s).se.fallback = s.se.fallback ∧
    (releaseInRound l s).se.capability = s.se.capability ∧ (releaseInRound l s).se.measured = s.se.measured ∧
    (releaseInRound l s).hu.level = s.hu.level ∧ (releaseInRound l s).hu.band = s.hu.band ∧
    (releaseInRound l s).hu.position = s.hu.position ∧ (releaseInRound l s).tie = s.tie ∧
    (releaseInRound l s).turbine = s.turbine ∧ (releaseInRound l s).mu = s.mu ∧ (releaseInRound l s).dc = s.dc ∧
    (releaseInRound l s).rs = s.rs ∧ (releaseInRound l s).fp.link = s.fp.link ∧
    (releaseInRound l s).fp.linkTimer = s.fp.linkTimer ∧ (releaseInRound l s).mc = s.mc ∧
    (releaseInRound l s).pending = s.pending := by
  simp only [releaseInRound, releaseOwnWith, clearBitWith, setPending]; (repeat' split) <;> simp [*]

@[simp] theorem handEdge_frame (before : State) (l : ClaimLine) :
    (handEdge before l s).liu.rx = s.liu.rx ∧ (handEdge before l s).liu.drops = s.liu.drops ∧
    (handEdge before l s).liu.lastEdge = s.liu.lastEdge ∧ (handEdge before l s).liu.clash = s.liu.clash ∧
    (handEdge before l s).liu.backoff = s.liu.backoff ∧ (handEdge before l s).peers = s.peers ∧
    (handEdge before l s).se.roundTimer = s.se.roundTimer ∧ (handEdge before l s).se.fallback = s.se.fallback ∧
    (handEdge before l s).se.capability = s.se.capability ∧ (handEdge before l s).se.measured = s.se.measured ∧
    (handEdge before l s).hu.level = s.hu.level ∧ (handEdge before l s).hu.band = s.hu.band ∧
    (handEdge before l s).hu.position = s.hu.position ∧ (handEdge before l s).cu = s.cu ∧
    (handEdge before l s).tie = s.tie ∧
    (handEdge before l s).turbine = s.turbine ∧ (handEdge before l s).mu = s.mu ∧ (handEdge before l s).dc = s.dc ∧
    (handEdge before l s).rs = s.rs ∧ (handEdge before l s).fp.link = s.fp.link ∧
    (handEdge before l s).fp.linkTimer = s.fp.linkTimer ∧ (handEdge before l s).mc = s.mc ∧
    (handEdge before l s).pending = s.pending := by
  simp only [handEdge]; (repeat' split) <;> simp [*]

@[simp] theorem handEdges_frame (before : State) (ls : List ClaimLine) :
    (handEdges before ls s).liu.rx = s.liu.rx ∧ (handEdges before ls s).liu.drops = s.liu.drops ∧
    (handEdges before ls s).liu.lastEdge = s.liu.lastEdge ∧ (handEdges before ls s).liu.clash = s.liu.clash ∧
    (handEdges before ls s).liu.backoff = s.liu.backoff ∧ (handEdges before ls s).peers = s.peers ∧
    (handEdges before ls s).se.roundTimer = s.se.roundTimer ∧ (handEdges before ls s).se.fallback = s.se.fallback ∧
    (handEdges before ls s).se.capability = s.se.capability ∧ (handEdges before ls s).se.measured = s.se.measured ∧
    (handEdges before ls s).hu.level = s.hu.level ∧ (handEdges before ls s).hu.band = s.hu.band ∧
    (handEdges before ls s).hu.position = s.hu.position ∧ (handEdges before ls s).cu = s.cu ∧
    (handEdges before ls s).tie = s.tie ∧
    (handEdges before ls s).turbine = s.turbine ∧ (handEdges before ls s).mu = s.mu ∧
    (handEdges before ls s).dc = s.dc ∧
    (handEdges before ls s).rs = s.rs ∧ (handEdges before ls s).fp.link = s.fp.link ∧
    (handEdges before ls s).fp.linkTimer = s.fp.linkTimer ∧ (handEdges before ls s).mc = s.mc ∧
    (handEdges before ls s).pending = s.pending := by
  induction ls generalizing s with
  | nil => simp [handEdges]
  | cons a as ih => simp [handEdges, ih]

/-- In ACTIVE a rise that is noted reaches the line's pending flag and the wake latch alone (R81, R177). -/
theorem noteRise_active (l : ClaimLine) (h : s.mc.mode = .active) :
    (noteRise l s).liu = s.liu ∧ (noteRise l s).se = s.se ∧ (noteRise l s).hu = s.hu ∧
    (noteRise l s).rl = s.rl ∧ (noteRise l s).fu = s.fu ∧ (noteRise l s).fp = s.fp ∧
    (noteRise l s).freeNext = s.freeNext ∧
    (noteRise l s).mc = { s.mc with latch := (noteRise l s).mc.latch } := by
  simp only [noteRise, latchCause, actOnLatch, setPending, setLine]; (repeat' split) <;> simp_all <;> rw [← h]

/-- A line whose OR did not change hands its ladder nothing. -/
theorem handEdge_same (before : State) (l : ClaimLine) (h : orAsserted l before = orAsserted l s) :
    handEdge before l s = s := by simp [handEdge, h]

@[simp] theorem applyClaim_frame (n : Nat) (set : Six Bool) (l : ClaimLine) :
    (applyClaim n set l s).liu.rx = s.liu.rx ∧ (applyClaim n set l s).liu.drops = s.liu.drops ∧
    (applyClaim n set l s).liu.lastEdge = s.liu.lastEdge ∧ (applyClaim n set l s).liu.clash = s.liu.clash ∧
    (applyClaim n set l s).liu.backoff = s.liu.backoff ∧ (applyClaim n set l s).peers = s.peers ∧
    (applyClaim n set l s).se.capability = s.se.capability ∧
    (applyClaim n set l s).se.measured = s.se.measured ∧ (applyClaim n set l s).hu.level = s.hu.level ∧
    (applyClaim n set l s).hu.band = s.hu.band ∧ (applyClaim n set l s).hu.position = s.hu.position ∧
    (∀ k, ((applyClaim n set l s).cu.get k).own = (s.cu.get k).own) ∧ (applyClaim n set l s).tie = s.tie ∧
    (applyClaim n set l s).turbine = s.turbine ∧ (applyClaim n set l s).mu = s.mu ∧
    (applyClaim n set l s).dc = s.dc ∧ (applyClaim n set l s).rs = s.rs ∧
    (applyClaim n set l s).fp.link = s.fp.link ∧ (applyClaim n set l s).fp.linkTimer = s.fp.linkTimer ∧
    (applyClaim n set l s).mc.node = s.mc.node ∧ (applyClaim n set l s).mc.config = s.mc.config ∧
    (applyClaim n set l s).mc.faults = s.mc.faults ∧ (applyClaim n set l s).mc.warning = s.mc.warning ∧
    (applyClaim n set l s).mc.supplyLow = s.mc.supplyLow ∧ (applyClaim n set l s).pending = s.pending := by
  simp only [applyClaim]; (repeat' split) <;> simp [*]

@[simp] theorem applyClaimsOn_frame (n : Nat) (set : Six Bool) (ls : List ClaimLine) :
    (applyClaimsOn n set ls s).liu.rx = s.liu.rx ∧ (applyClaimsOn n set ls s).liu.drops = s.liu.drops ∧
    (applyClaimsOn n set ls s).liu.lastEdge = s.liu.lastEdge ∧
    (applyClaimsOn n set ls s).liu.clash = s.liu.clash ∧
    (applyClaimsOn n set ls s).liu.backoff = s.liu.backoff ∧ (applyClaimsOn n set ls s).peers = s.peers ∧
    (applyClaimsOn n set ls s).se.capability = s.se.capability ∧
    (applyClaimsOn n set ls s).se.measured = s.se.measured ∧ (applyClaimsOn n set ls s).hu.level = s.hu.level ∧
    (applyClaimsOn n set ls s).hu.band = s.hu.band ∧ (applyClaimsOn n set ls s).hu.position = s.hu.position ∧
    (∀ k, ((applyClaimsOn n set ls s).cu.get k).own = (s.cu.get k).own) ∧
    (applyClaimsOn n set ls s).tie = s.tie ∧ (applyClaimsOn n set ls s).turbine = s.turbine ∧
    (applyClaimsOn n set ls s).mu = s.mu ∧ (applyClaimsOn n set ls s).dc = s.dc ∧
    (applyClaimsOn n set ls s).rs = s.rs ∧ (applyClaimsOn n set ls s).fp.link = s.fp.link ∧
    (applyClaimsOn n set ls s).fp.linkTimer = s.fp.linkTimer ∧ (applyClaimsOn n set ls s).mc.node = s.mc.node ∧
    (applyClaimsOn n set ls s).mc.config = s.mc.config ∧ (applyClaimsOn n set ls s).mc.faults = s.mc.faults ∧
    (applyClaimsOn n set ls s).mc.warning = s.mc.warning ∧
    (applyClaimsOn n set ls s).mc.supplyLow = s.mc.supplyLow ∧
    (applyClaimsOn n set ls s).pending = s.pending := by
  induction ls generalizing s with
  | nil => simp only [applyClaimsOn]; (repeat' split) <;> simp [*]
  | cons a as ih => simp only [applyClaimsOn]; (repeat' split) <;> simp [*]

@[simp] theorem applyClaims_frame (n : Nat) (set : Six Bool) :
    (applyClaims n set s).liu.rx = s.liu.rx ∧ (applyClaims n set s).liu.drops = s.liu.drops ∧
    (applyClaims n set s).liu.lastEdge = s.liu.lastEdge ∧ (applyClaims n set s).liu.clash = s.liu.clash ∧
    (applyClaims n set s).liu.backoff = s.liu.backoff ∧ (applyClaims n set s).peers = s.peers ∧
    (applyClaims n set s).se.capability = s.se.capability ∧ (applyClaims n set s).se.measured = s.se.measured ∧
    (applyClaims n set s).hu.level = s.hu.level ∧ (applyClaims n set s).hu.band = s.hu.band ∧
    (applyClaims n set s).hu.position = s.hu.position ∧
    (∀ k, ((applyClaims n set s).cu.get k).own = (s.cu.get k).own) ∧ (applyClaims n set s).tie = s.tie ∧
    (applyClaims n set s).turbine = s.turbine ∧ (applyClaims n set s).mu = s.mu ∧
    (applyClaims n set s).dc = s.dc ∧ (applyClaims n set s).rs = s.rs ∧
    (applyClaims n set s).fp.link = s.fp.link ∧ (applyClaims n set s).fp.linkTimer = s.fp.linkTimer ∧
    (applyClaims n set s).mc.node = s.mc.node ∧ (applyClaims n set s).mc.config = s.mc.config ∧
    (applyClaims n set s).mc.faults = s.mc.faults ∧ (applyClaims n set s).mc.warning = s.mc.warning ∧
    (applyClaims n set s).mc.supplyLow = s.mc.supplyLow ∧ (applyClaims n set s).pending = s.pending := by
  simp only [applyClaims]; (repeat' split) <;> simp [*]

@[simp] theorem releaseAll_frame (ls : List ClaimLine) :
    (releaseAll ls s).liu.rx = s.liu.rx ∧ (releaseAll ls s).liu.drops = s.liu.drops ∧
    (releaseAll ls s).liu.lastEdge = s.liu.lastEdge ∧ (releaseAll ls s).liu.clash = s.liu.clash ∧
    (releaseAll ls s).liu.backoff = s.liu.backoff ∧ (releaseAll ls s).peers = s.peers ∧
    (releaseAll ls s).se.roundTimer = s.se.roundTimer ∧ (releaseAll ls s).se.fallback = s.se.fallback ∧
    (releaseAll ls s).se.capability = s.se.capability ∧ (releaseAll ls s).se.measured = s.se.measured ∧
    (releaseAll ls s).hu.level = s.hu.level ∧ (releaseAll ls s).hu.band = s.hu.band ∧
    (releaseAll ls s).hu.position = s.hu.position ∧ (releaseAll ls s).tie = s.tie ∧
    (releaseAll ls s).turbine = s.turbine ∧ (releaseAll ls s).mu = s.mu ∧ (releaseAll ls s).dc = s.dc ∧
    (releaseAll ls s).rs = s.rs ∧ (releaseAll ls s).fp.link = s.fp.link ∧
    (releaseAll ls s).fp.linkTimer = s.fp.linkTimer ∧ (releaseAll ls s).mc = s.mc ∧
    (releaseAll ls s).pending = s.pending := by
  induction ls generalizing s with
  | nil => simp only [releaseAll]; (repeat' split) <;> simp [*]
  | cons a as ih => simp only [releaseAll]; (repeat' split) <;> simp [*]

@[simp] theorem engineReleases_frame :
    (engineReleases s).liu.rx = s.liu.rx ∧ (engineReleases s).liu.drops = s.liu.drops ∧
    (engineReleases s).liu.lastEdge = s.liu.lastEdge ∧ (engineReleases s).liu.clash = s.liu.clash ∧
    (engineReleases s).liu.backoff = s.liu.backoff ∧ (engineReleases s).peers = s.peers ∧
    (engineReleases s).se.roundTimer = s.se.roundTimer ∧ (engineReleases s).se.fallback = s.se.fallback ∧
    (engineReleases s).se.capability = s.se.capability ∧ (engineReleases s).se.measured = s.se.measured ∧
    (engineReleases s).hu.level = s.hu.level ∧ (engineReleases s).hu.band = s.hu.band ∧
    (engineReleases s).hu.position = s.hu.position ∧ (engineReleases s).tie = s.tie ∧
    (engineReleases s).turbine = s.turbine ∧ (engineReleases s).mu = s.mu ∧ (engineReleases s).dc = s.dc ∧
    (engineReleases s).rs = s.rs ∧ (engineReleases s).fp.link = s.fp.link ∧
    (engineReleases s).fp.linkTimer = s.fp.linkTimer ∧ (engineReleases s).mc = s.mc ∧
    (engineReleases s).pending = s.pending := by
  simp only [engineReleases]; (repeat' split) <;> simp [*]

@[simp] theorem bandClaims_frame (b : Band) :
    (bandClaims b s).liu.rx = s.liu.rx ∧ (bandClaims b s).liu.drops = s.liu.drops ∧
    (bandClaims b s).liu.lastEdge = s.liu.lastEdge ∧ (bandClaims b s).liu.clash = s.liu.clash ∧
    (bandClaims b s).liu.backoff = s.liu.backoff ∧ (bandClaims b s).peers = s.peers ∧
    (bandClaims b s).se.capability = s.se.capability ∧ (bandClaims b s).se.measured = s.se.measured ∧
    (bandClaims b s).hu.level = s.hu.level ∧ (bandClaims b s).hu.band = s.hu.band ∧
    (bandClaims b s).hu.position = s.hu.position ∧ (bandClaims b s).tie = s.tie ∧
    (bandClaims b s).turbine = s.turbine ∧ (bandClaims b s).mu = s.mu ∧ (bandClaims b s).dc = s.dc ∧
    (bandClaims b s).rs = s.rs ∧ (bandClaims b s).fp.link = s.fp.link ∧
    (bandClaims b s).fp.linkTimer = s.fp.linkTimer ∧ (bandClaims b s).mc.node = s.mc.node ∧
    (bandClaims b s).mc.config = s.mc.config ∧ (bandClaims b s).mc.faults = s.mc.faults ∧
    (bandClaims b s).mc.warning = s.mc.warning ∧ (bandClaims b s).mc.supplyLow = s.mc.supplyLow ∧
    (bandClaims b s).pending = s.pending := by
  simp only [bandClaims]; (repeat' split) <;> simp [*]

@[simp] theorem sendNodeStatus_frame :
    (sendNodeStatus s).liu = s.liu ∧ (sendNodeStatus s).peers = s.peers ∧ (sendNodeStatus s).se = s.se ∧
    (sendNodeStatus s).hu = s.hu ∧ (sendNodeStatus s).cu = s.cu ∧ (sendNodeStatus s).rl = s.rl ∧
    (sendNodeStatus s).fu = s.fu ∧ (sendNodeStatus s).tie = s.tie ∧ (sendNodeStatus s).turbine = s.turbine ∧
    (sendNodeStatus s).mu = s.mu ∧ (sendNodeStatus s).dc = s.dc ∧ (sendNodeStatus s).rs = s.rs ∧
    (sendNodeStatus s).fp.link = s.fp.link ∧ (sendNodeStatus s).fp.linkTimer = s.fp.linkTimer ∧
    (sendNodeStatus s).mc = s.mc ∧ (sendNodeStatus s).freeNext = s.freeNext ∧
    (sendNodeStatus s).pending = s.pending := by
  simp only [sendNodeStatus]; (repeat' split) <;> simp [*]

@[simp] theorem statusAtEntry_frame :
    (statusAtEntry s).liu = s.liu ∧ (statusAtEntry s).peers = s.peers ∧ (statusAtEntry s).se = s.se ∧
    (statusAtEntry s).hu = s.hu ∧ (statusAtEntry s).cu = s.cu ∧ (statusAtEntry s).rl = s.rl ∧
    (statusAtEntry s).fu = s.fu ∧ (statusAtEntry s).tie = s.tie ∧ (statusAtEntry s).turbine = s.turbine ∧
    (statusAtEntry s).mu = s.mu ∧ (statusAtEntry s).dc = s.dc ∧ (statusAtEntry s).rs = s.rs ∧
    (statusAtEntry s).fp.link = s.fp.link ∧ (statusAtEntry s).fp.linkTimer = s.fp.linkTimer ∧
    (statusAtEntry s).mc = s.mc ∧ (statusAtEntry s).freeNext = s.freeNext ∧
    (statusAtEntry s).pending = s.pending := by
  simp only [statusAtEntry]; (repeat' split) <;> simp [*]

@[simp] theorem startAttempt_frame (e : TxEntry) :
    (startAttempt e s).liu.rx = s.liu.rx ∧ (startAttempt e s).liu.drops = s.liu.drops ∧
    (startAttempt e s).liu.lastEdge = s.liu.lastEdge ∧ (startAttempt e s).liu.clash = s.liu.clash ∧
    (startAttempt e s).liu.backoff = s.liu.backoff ∧ (startAttempt e s).peers = s.peers ∧
    (startAttempt e s).se = s.se ∧ (startAttempt e s).hu = s.hu ∧ (startAttempt e s).cu = s.cu ∧
    (startAttempt e s).rl = s.rl ∧ (startAttempt e s).fu = s.fu ∧ (startAttempt e s).tie = s.tie ∧
    (startAttempt e s).turbine = s.turbine ∧ (startAttempt e s).mu = s.mu ∧ (startAttempt e s).dc = s.dc ∧
    (startAttempt e s).rs = s.rs ∧ (startAttempt e s).fp = s.fp ∧ (startAttempt e s).mc = s.mc ∧
    (startAttempt e s).freeNext = s.freeNext ∧ (startAttempt e s).pending = s.pending := by
  simp only [startAttempt]; (repeat' split) <;> simp [*]

@[simp] theorem sentWhole_frame (e : TxEntry) :
    (sentWhole e s).liu.rx = s.liu.rx ∧ (sentWhole e s).liu.clash = s.liu.clash ∧
    (sentWhole e s).liu.backoff = s.liu.backoff ∧ (sentWhole e s).peers = s.peers ∧ (sentWhole e s).se = s.se ∧
    (sentWhole e s).hu = s.hu ∧ (sentWhole e s).cu = s.cu ∧ (sentWhole e s).rl = s.rl ∧
    (sentWhole e s).fu = s.fu ∧ (sentWhole e s).tie = s.tie ∧ (sentWhole e s).turbine = s.turbine ∧
    (sentWhole e s).mu = s.mu ∧ (sentWhole e s).dc = s.dc ∧ (sentWhole e s).rs.holdQueue = s.rs.holdQueue ∧
    (sentWhole e s).rs.slots = s.rs.slots ∧ (sentWhole e s).rs.newest = s.rs.newest ∧
    (sentWhole e s).rs.nextSeq = s.rs.nextSeq ∧ (sentWhole e s).fp = s.fp ∧
    (sentWhole e s).mc.mode = s.mc.mode ∧ (sentWhole e s).mc.node = s.mc.node ∧
    (sentWhole e s).mc.config = s.mc.config ∧ (sentWhole e s).mc.warning = s.mc.warning ∧
    (sentWhole e s).mc.supplyLow = s.mc.supplyLow ∧ (sentWhole e s).freeNext = s.freeNext ∧
    (sentWhole e s).pending = s.pending := by
  simp only [sentWhole]; (repeat' split) <;> simp [*]

@[simp] theorem removedDrawn_frame (e : TxEntry) (k : Nat) :
    (removedDrawn e k s).liu = s.liu ∧ (removedDrawn e k s).peers = s.peers ∧ (removedDrawn e k s).se = s.se ∧
    (removedDrawn e k s).hu = s.hu ∧ (removedDrawn e k s).cu = s.cu ∧ (removedDrawn e k s).rl = s.rl ∧
    (removedDrawn e k s).fu = s.fu ∧ (removedDrawn e k s).tie = s.tie ∧
    (removedDrawn e k s).turbine = s.turbine ∧ (removedDrawn e k s).mu = s.mu ∧ (removedDrawn e k s).dc = s.dc ∧
    (removedDrawn e k s).rs = s.rs ∧ (removedDrawn e k s).fp = s.fp ∧ (removedDrawn e k s).mc = s.mc ∧
    (removedDrawn e k s).pending = s.pending := by
  simp only [removedDrawn]; (repeat' split) <;> simp [*]

@[simp] theorem countDrop_frame :
    (countDrop s).liu.tx = s.liu.tx ∧ (countDrop s).liu.rx = s.liu.rx ∧
    (countDrop s).liu.lastEdge = s.liu.lastEdge ∧ (countDrop s).liu.clash = s.liu.clash ∧
    (countDrop s).liu.backoff = s.liu.backoff ∧ (countDrop s).peers = s.peers ∧
    (countDrop s).se.roundTimer = s.se.roundTimer ∧ (countDrop s).se.capability = s.se.capability ∧
    (countDrop s).se.measured = s.se.measured ∧ (countDrop s).hu = s.hu ∧ (countDrop s).cu = s.cu ∧
    (countDrop s).rl = s.rl ∧ (countDrop s).fu = s.fu ∧ (countDrop s).tie = s.tie ∧
    (countDrop s).turbine = s.turbine ∧ (countDrop s).mu = s.mu ∧ (countDrop s).dc = s.dc ∧
    (countDrop s).rs = s.rs ∧ (countDrop s).fp.link = s.fp.link ∧ (countDrop s).fp.linkTimer = s.fp.linkTimer ∧
    (countDrop s).mc.mode = s.mc.mode ∧ (countDrop s).mc.node = s.mc.node ∧
    (countDrop s).mc.config = s.mc.config ∧ (countDrop s).mc.warning = s.mc.warning ∧
    (countDrop s).mc.supplyLow = s.mc.supplyLow ∧ (countDrop s).freeNext = s.freeNext ∧
    (countDrop s).pending = s.pending := by
  simp only [countDrop]; (repeat' split) <;> simp [*]

@[simp] theorem collided_frame (e : TxEntry) :
    (collided e s).liu.rx = s.liu.rx ∧ (collided e s).liu.lastEdge = s.liu.lastEdge ∧
    (collided e s).liu.clash = s.liu.clash ∧ (collided e s).peers = s.peers ∧
    (collided e s).se.roundTimer = s.se.roundTimer ∧ (collided e s).se.capability = s.se.capability ∧
    (collided e s).se.measured = s.se.measured ∧ (collided e s).hu = s.hu ∧ (collided e s).cu = s.cu ∧
    (collided e s).rl = s.rl ∧ (collided e s).fu = s.fu ∧ (collided e s).tie = s.tie ∧
    (collided e s).turbine = s.turbine ∧ (collided e s).mu = s.mu ∧ (collided e s).dc = s.dc ∧
    (collided e s).rs.holdQueue = s.rs.holdQueue ∧ (collided e s).rs.slots = s.rs.slots ∧
    (collided e s).rs.newest = s.rs.newest ∧ (collided e s).rs.nextSeq = s.rs.nextSeq ∧
    (collided e s).fp.link = s.fp.link ∧ (collided e s).fp.linkTimer = s.fp.linkTimer ∧
    (collided e s).mc.mode = s.mc.mode ∧ (collided e s).mc.node = s.mc.node ∧
    (collided e s).mc.config = s.mc.config ∧ (collided e s).mc.warning = s.mc.warning ∧
    (collided e s).mc.supplyLow = s.mc.supplyLow ∧ (collided e s).pending = s.pending := by
  simp only [collided]; (repeat' split) <;> simp [*]

@[simp] theorem numberClash_frame :
    (numberClash s).liu.tx = s.liu.tx ∧ (numberClash s).liu.rx = s.liu.rx ∧
    (numberClash s).liu.drops = s.liu.drops ∧ (numberClash s).liu.lastEdge = s.liu.lastEdge ∧
    (numberClash s).liu.backoff = s.liu.backoff ∧ (numberClash s).peers = s.peers ∧
    (numberClash s).se.roundTimer = s.se.roundTimer ∧ (numberClash s).se.capability = s.se.capability ∧
    (numberClash s).se.measured = s.se.measured ∧ (numberClash s).hu = s.hu ∧ (numberClash s).cu = s.cu ∧
    (numberClash s).rl = s.rl ∧ (numberClash s).fu = s.fu ∧ (numberClash s).tie = s.tie ∧
    (numberClash s).turbine = s.turbine ∧ (numberClash s).mu = s.mu ∧ (numberClash s).dc = s.dc ∧
    (numberClash s).rs = s.rs ∧ (numberClash s).fp.link = s.fp.link ∧
    (numberClash s).fp.linkTimer = s.fp.linkTimer ∧ (numberClash s).mc.mode = s.mc.mode ∧
    (numberClash s).mc.node = s.mc.node ∧ (numberClash s).mc.config = s.mc.config ∧
    (numberClash s).mc.warning = s.mc.warning ∧ (numberClash s).mc.supplyLow = s.mc.supplyLow ∧
    (numberClash s).freeNext = s.freeNext ∧ (numberClash s).pending = s.pending := by
  simp only [numberClash]; (repeat' split) <;> simp [*]

@[simp] theorem queueFrame_frame (f : Frame) :
    (queueFrame f s).liu.tx = s.liu.tx ∧ (queueFrame f s).liu.drops = s.liu.drops ∧
    (queueFrame f s).liu.lastEdge = s.liu.lastEdge ∧ (queueFrame f s).liu.clash = s.liu.clash ∧
    (queueFrame f s).liu.backoff = s.liu.backoff ∧ (queueFrame f s).peers = s.peers ∧
    (queueFrame f s).se = s.se ∧ (queueFrame f s).hu = s.hu ∧ (queueFrame f s).cu = s.cu ∧
    (queueFrame f s).rl = s.rl ∧ (queueFrame f s).fu = s.fu ∧ (queueFrame f s).tie = s.tie ∧
    (queueFrame f s).turbine = s.turbine ∧ (queueFrame f s).mu = s.mu ∧ (queueFrame f s).dc = s.dc ∧
    (queueFrame f s).rs = s.rs ∧ (queueFrame f s).fp = s.fp ∧ (queueFrame f s).mc = s.mc ∧
    (queueFrame f s).freeNext = s.freeNext ∧ (queueFrame f s).pending = s.pending := by
  simp only [queueFrame]; (repeat' split) <;> simp [*]

@[simp] theorem takeFrame_frame (f : Frame) :
    (takeFrame f s).liu.tx = s.liu.tx ∧ (takeFrame f s).liu.drops = s.liu.drops ∧
    (takeFrame f s).liu.lastEdge = s.liu.lastEdge ∧ (takeFrame f s).liu.backoff = s.liu.backoff ∧
    (takeFrame f s).peers = s.peers ∧ (takeFrame f s).se.roundTimer = s.se.roundTimer ∧
    (takeFrame f s).se.capability = s.se.capability ∧ (takeFrame f s).se.measured = s.se.measured ∧
    (takeFrame f s).hu = s.hu ∧ (takeFrame f s).cu = s.cu ∧ (takeFrame f s).rl = s.rl ∧
    (takeFrame f s).fu = s.fu ∧ (takeFrame f s).tie = s.tie ∧ (takeFrame f s).turbine = s.turbine ∧
    (takeFrame f s).mu = s.mu ∧ (takeFrame f s).dc = s.dc ∧ (takeFrame f s).rs = s.rs ∧
    (takeFrame f s).fp.link = s.fp.link ∧ (takeFrame f s).fp.linkTimer = s.fp.linkTimer ∧
    (takeFrame f s).mc.mode = s.mc.mode ∧ (takeFrame f s).mc.node = s.mc.node ∧
    (takeFrame f s).mc.config = s.mc.config ∧ (takeFrame f s).mc.warning = s.mc.warning ∧
    (takeFrame f s).mc.supplyLow = s.mc.supplyLow ∧ (takeFrame f s).freeNext = s.freeNext ∧
    (takeFrame f s).pending = s.pending := by
  simp only [takeFrame]; (repeat' split) <;> simp [*]

@[simp] theorem takeHead_frame :
    (takeHead s).liu.tx = s.liu.tx ∧ (takeHead s).liu.drops = s.liu.drops ∧
    (takeHead s).liu.lastEdge = s.liu.lastEdge ∧ (takeHead s).liu.clash = s.liu.clash ∧
    (takeHead s).liu.backoff = s.liu.backoff ∧ (takeHead s).peers = s.peers ∧ (takeHead s).se = s.se ∧
    (takeHead s).hu = s.hu ∧ (takeHead s).cu = s.cu ∧ (takeHead s).rl = s.rl ∧ (takeHead s).fu = s.fu ∧
    (takeHead s).tie = s.tie ∧ (takeHead s).turbine = s.turbine ∧ (takeHead s).mu = s.mu ∧
    (takeHead s).dc = s.dc ∧ (takeHead s).rs = s.rs ∧ (takeHead s).fp = s.fp ∧ (takeHead s).mc = s.mc ∧
    (takeHead s).freeNext = s.freeNext ∧ (takeHead s).pending = s.pending := by
  simp only [takeHead]; (repeat' split) <;> simp [*]

@[simp] theorem linkRestored_frame :
    (linkRestored s).liu = s.liu ∧ (linkRestored s).peers = s.peers ∧ (linkRestored s).se = s.se ∧
    (linkRestored s).hu = s.hu ∧ (linkRestored s).cu = s.cu ∧ (linkRestored s).rl = s.rl ∧
    (linkRestored s).fu = s.fu ∧ (linkRestored s).tie = s.tie ∧ (linkRestored s).turbine = s.turbine ∧
    (linkRestored s).mu = s.mu ∧ (linkRestored s).dc = s.dc ∧ (linkRestored s).rs = s.rs ∧
    (linkRestored s).mc.mode = s.mc.mode ∧ (linkRestored s).mc.node = s.mc.node ∧
    (linkRestored s).mc.config = s.mc.config ∧ (linkRestored s).mc.warning = s.mc.warning ∧
    (linkRestored s).mc.supplyLow = s.mc.supplyLow ∧ (linkRestored s).freeNext = s.freeNext ∧
    (linkRestored s).pending = s.pending := by
  simp only [linkRestored]; (repeat' split) <;> simp [*]

@[simp] theorem bandChanged_frame :
    (bandChanged s).liu.rx = s.liu.rx ∧ (bandChanged s).liu.drops = s.liu.drops ∧
    (bandChanged s).liu.lastEdge = s.liu.lastEdge ∧ (bandChanged s).liu.clash = s.liu.clash ∧
    (bandChanged s).liu.backoff = s.liu.backoff ∧ (bandChanged s).peers = s.peers ∧
    (bandChanged s).se.capability = s.se.capability ∧ (bandChanged s).se.measured = s.se.measured ∧
    (bandChanged s).hu.level = s.hu.level ∧ (bandChanged s).hu.band = s.hu.band ∧
    (bandChanged s).hu.position = s.hu.position ∧ (bandChanged s).tie = s.tie ∧
    (bandChanged s).turbine = s.turbine ∧ (bandChanged s).mu = s.mu ∧ (bandChanged s).dc = s.dc ∧
    (bandChanged s).rs = s.rs ∧ (bandChanged s).fp.link = s.fp.link ∧
    (bandChanged s).fp.linkTimer = s.fp.linkTimer ∧ (bandChanged s).mc.node = s.mc.node ∧
    (bandChanged s).mc.config = s.mc.config ∧ (bandChanged s).mc.faults = s.mc.faults ∧
    (bandChanged s).mc.warning = s.mc.warning ∧ (bandChanged s).mc.supplyLow = s.mc.supplyLow ∧
    (bandChanged s).pending = s.pending := by
  simp only [bandChanged]; (repeat' split) <;> simp [*]

@[simp] theorem levelSample_frame (value : Nat) :
    (levelSample value s).liu.rx = s.liu.rx ∧ (levelSample value s).liu.drops = s.liu.drops ∧
    (levelSample value s).liu.lastEdge = s.liu.lastEdge ∧ (levelSample value s).liu.clash = s.liu.clash ∧
    (levelSample value s).liu.backoff = s.liu.backoff ∧ (levelSample value s).peers = s.peers ∧
    (levelSample value s).se.capability = s.se.capability ∧ (levelSample value s).se.measured = s.se.measured ∧
    (levelSample value s).hu.position = s.hu.position ∧ (levelSample value s).tie = s.tie ∧
    (levelSample value s).turbine = s.turbine ∧ (levelSample value s).mu = s.mu ∧
    (levelSample value s).dc = s.dc ∧ (levelSample value s).rs = s.rs ∧
    (levelSample value s).fp.link = s.fp.link ∧ (levelSample value s).fp.linkTimer = s.fp.linkTimer ∧
    (levelSample value s).mc.node = s.mc.node ∧ (levelSample value s).mc.config = s.mc.config ∧
    (levelSample value s).mc.warning = s.mc.warning ∧ (levelSample value s).mc.supplyLow = s.mc.supplyLow ∧
    (levelSample value s).pending = s.pending := by
  simp only [levelSample]; (repeat' split) <;> simp [*]

@[simp] theorem takeLevel_frame (status : SampleStatus) (value : Nat) :
    (takeLevel status value s).liu.rx = s.liu.rx ∧ (takeLevel status value s).liu.drops = s.liu.drops ∧
    (takeLevel status value s).liu.lastEdge = s.liu.lastEdge ∧
    (takeLevel status value s).liu.clash = s.liu.clash ∧
    (takeLevel status value s).liu.backoff = s.liu.backoff ∧ (takeLevel status value s).peers = s.peers ∧
    (takeLevel status value s).se.capability = s.se.capability ∧
    (takeLevel status value s).se.measured = s.se.measured ∧
    (takeLevel status value s).hu.position = s.hu.position ∧ (takeLevel status value s).tie = s.tie ∧
    (takeLevel status value s).turbine = s.turbine ∧ (takeLevel status value s).mu = s.mu ∧
    (takeLevel status value s).dc = s.dc ∧ (takeLevel status value s).rs = s.rs ∧
    (takeLevel status value s).fp.link = s.fp.link ∧ (takeLevel status value s).fp.linkTimer = s.fp.linkTimer ∧
    (takeLevel status value s).mc.node = s.mc.node ∧ (takeLevel status value s).mc.config = s.mc.config ∧
    (takeLevel status value s).mc.warning = s.mc.warning ∧
    (takeLevel status value s).mc.supplyLow = s.mc.supplyLow ∧
    (takeLevel status value s).pending = s.pending := by
  simp only [takeLevel]; (repeat' split) <;> simp [*]

@[simp] theorem recomputeFraction_frame :
    (recomputeFraction s).liu = s.liu ∧ (recomputeFraction s).peers = s.peers ∧
    (recomputeFraction s).se = s.se ∧ (recomputeFraction s).hu = s.hu ∧ (recomputeFraction s).cu = s.cu ∧
    (recomputeFraction s).rl = s.rl ∧ (recomputeFraction s).fu = s.fu ∧ (recomputeFraction s).tie = s.tie ∧
    (recomputeFraction s).turbine = s.turbine ∧ (recomputeFraction s).mu.openInterval = s.mu.openInterval ∧
    (recomputeFraction s).mu.worksRem = s.mu.worksRem ∧ (recomputeFraction s).mu.purchRem = s.mu.purchRem ∧
    (recomputeFraction s).mu.demand = s.mu.demand ∧ (recomputeFraction s).dc = s.dc ∧
    (recomputeFraction s).rs = s.rs ∧ (recomputeFraction s).fp = s.fp ∧ (recomputeFraction s).mc = s.mc ∧
    (recomputeFraction s).freeNext = s.freeNext ∧ (recomputeFraction s).pending = s.pending := by
  simp only [recomputeFraction]; (repeat' split) <;> simp [*]

@[simp] theorem recomputeTurbine_frame :
    (recomputeTurbine s).liu = s.liu ∧ (recomputeTurbine s).peers = s.peers ∧
    (recomputeTurbine s).se.roundTimer = s.se.roundTimer ∧ (recomputeTurbine s).se.fallback = s.se.fallback ∧
    (recomputeTurbine s).se.capability = s.se.capability ∧ (recomputeTurbine s).se.measured = s.se.measured ∧
    (recomputeTurbine s).hu = s.hu ∧ (recomputeTurbine s).cu = s.cu ∧ (recomputeTurbine s).rl = s.rl ∧
    (recomputeTurbine s).fu = s.fu ∧ (recomputeTurbine s).tie = s.tie ∧ (recomputeTurbine s).mu = s.mu ∧
    (recomputeTurbine s).dc = s.dc ∧ (recomputeTurbine s).rs = s.rs ∧ (recomputeTurbine s).fp.link = s.fp.link ∧
    (recomputeTurbine s).fp.linkTimer = s.fp.linkTimer ∧ (recomputeTurbine s).mc = s.mc ∧
    (recomputeTurbine s).freeNext = s.freeNext ∧ (recomputeTurbine s).pending = s.pending := by
  simp only [recomputeTurbine]; (repeat' split) <;> simp [*]

@[simp] theorem reportEntry_frame (e : PeerEntry) :
    (reportEntry e s).liu = s.liu ∧ (reportEntry e s).peers = s.peers ∧
    (reportEntry e s).se.roundTimer = s.se.roundTimer ∧ (reportEntry e s).se.fallback = s.se.fallback ∧
    (reportEntry e s).se.capability = s.se.capability ∧ (reportEntry e s).se.measured = s.se.measured ∧
    (reportEntry e s).hu = s.hu ∧ (reportEntry e s).cu = s.cu ∧ (reportEntry e s).rl = s.rl ∧
    (reportEntry e s).fu = s.fu ∧ (reportEntry e s).tie = s.tie ∧
    (reportEntry e s).mu.openInterval = s.mu.openInterval ∧ (reportEntry e s).mu.worksRem = s.mu.worksRem ∧
    (reportEntry e s).mu.purchRem = s.mu.purchRem ∧ (reportEntry e s).mu.demand = s.mu.demand ∧
    (reportEntry e s).dc = s.dc ∧ (reportEntry e s).rs = s.rs ∧ (reportEntry e s).fp.link = s.fp.link ∧
    (reportEntry e s).fp.linkTimer = s.fp.linkTimer ∧ (reportEntry e s).mc = s.mc ∧
    (reportEntry e s).freeNext = s.freeNext ∧ (reportEntry e s).pending = s.pending := by
  simp only [reportEntry]; (repeat' split) <;> simp [*]

@[simp] theorem removeEntry_frame (n : Nat) (e : PeerEntry) :
    (removeEntry n e s).liu.rx = s.liu.rx ∧ (removeEntry n e s).liu.drops = s.liu.drops ∧
    (removeEntry n e s).liu.lastEdge = s.liu.lastEdge ∧ (removeEntry n e s).liu.clash = s.liu.clash ∧
    (removeEntry n e s).liu.backoff = s.liu.backoff ∧ (removeEntry n e s).se.capability = s.se.capability ∧
    (removeEntry n e s).se.measured = s.se.measured ∧ (removeEntry n e s).hu.level = s.hu.level ∧
    (removeEntry n e s).hu.band = s.hu.band ∧ (removeEntry n e s).hu.position = s.hu.position ∧
    (∀ k, ((removeEntry n e s).cu.get k).own = (s.cu.get k).own) ∧ (removeEntry n e s).tie = s.tie ∧
    (removeEntry n e s).mu.openInterval = s.mu.openInterval ∧ (removeEntry n e s).mu.worksRem = s.mu.worksRem ∧
    (removeEntry n e s).mu.purchRem = s.mu.purchRem ∧ (removeEntry n e s).mu.demand = s.mu.demand ∧
    (removeEntry n e s).dc = s.dc ∧ (removeEntry n e s).rs = s.rs ∧ (removeEntry n e s).fp.link = s.fp.link ∧
    (removeEntry n e s).fp.linkTimer = s.fp.linkTimer ∧ (removeEntry n e s).mc.node = s.mc.node ∧
    (removeEntry n e s).mc.config = s.mc.config ∧ (removeEntry n e s).mc.faults = s.mc.faults ∧
    (removeEntry n e s).mc.warning = s.mc.warning ∧ (removeEntry n e s).mc.supplyLow = s.mc.supplyLow ∧
    (removeEntry n e s).pending = s.pending := by
  simp only [removeEntry]; (repeat' split) <;> simp [*]

@[simp] theorem writeEntry_frame (n : Nat) (e : PeerEntry) :
    (writeEntry n e s).liu.rx = s.liu.rx ∧ (writeEntry n e s).liu.drops = s.liu.drops ∧
    (writeEntry n e s).liu.lastEdge = s.liu.lastEdge ∧ (writeEntry n e s).liu.clash = s.liu.clash ∧
    (writeEntry n e s).liu.backoff = s.liu.backoff ∧ (writeEntry n e s).se.capability = s.se.capability ∧
    (writeEntry n e s).se.measured = s.se.measured ∧ (writeEntry n e s).hu.level = s.hu.level ∧
    (writeEntry n e s).hu.band = s.hu.band ∧ (writeEntry n e s).hu.position = s.hu.position ∧
    (∀ k, ((writeEntry n e s).cu.get k).own = (s.cu.get k).own) ∧ (writeEntry n e s).tie = s.tie ∧
    (writeEntry n e s).mu.openInterval = s.mu.openInterval ∧ (writeEntry n e s).mu.worksRem = s.mu.worksRem ∧
    (writeEntry n e s).mu.purchRem = s.mu.purchRem ∧ (writeEntry n e s).mu.demand = s.mu.demand ∧
    (writeEntry n e s).dc = s.dc ∧ (writeEntry n e s).rs = s.rs ∧ (writeEntry n e s).fp.link = s.fp.link ∧
    (writeEntry n e s).fp.linkTimer = s.fp.linkTimer ∧ (writeEntry n e s).mc.node = s.mc.node ∧
    (writeEntry n e s).mc.config = s.mc.config ∧ (writeEntry n e s).mc.faults = s.mc.faults ∧
    (writeEntry n e s).mc.warning = s.mc.warning ∧ (writeEntry n e s).mc.supplyLow = s.mc.supplyLow ∧
    (writeEntry n e s).pending = s.pending := by
  simp only [writeEntry]; (repeat' split) <;> simp [*]

@[simp] theorem takeState_frame (n : Nat) (x : StateRead) :
    (takeState n x s).liu.rx = s.liu.rx ∧ (takeState n x s).liu.drops = s.liu.drops ∧
    (takeState n x s).liu.lastEdge = s.liu.lastEdge ∧ (takeState n x s).liu.clash = s.liu.clash ∧
    (takeState n x s).liu.backoff = s.liu.backoff ∧ (takeState n x s).se.capability = s.se.capability ∧
    (takeState n x s).se.measured = s.se.measured ∧ (takeState n x s).hu.level = s.hu.level ∧
    (takeState n x s).hu.band = s.hu.band ∧ (takeState n x s).hu.position = s.hu.position ∧
    (∀ k, ((takeState n x s).cu.get k).own = (s.cu.get k).own) ∧ (takeState n x s).tie = s.tie ∧
    (takeState n x s).mu.openInterval = s.mu.openInterval ∧ (takeState n x s).mu.worksRem = s.mu.worksRem ∧
    (takeState n x s).mu.purchRem = s.mu.purchRem ∧ (takeState n x s).mu.demand = s.mu.demand ∧
    (takeState n x s).dc = s.dc ∧ (takeState n x s).rs = s.rs ∧ (takeState n x s).fp.link = s.fp.link ∧
    (takeState n x s).fp.linkTimer = s.fp.linkTimer ∧ (takeState n x s).mc.node = s.mc.node ∧
    (takeState n x s).mc.config = s.mc.config ∧ (takeState n x s).mc.faults = s.mc.faults ∧
    (takeState n x s).mc.warning = s.mc.warning ∧ (takeState n x s).mc.supplyLow = s.mc.supplyLow ∧
    (takeState n x s).pending = s.pending := by
  simp only [takeState]; (repeat' split) <;> simp [*]

@[simp] theorem createFromHello_frame (n : Nat) (h : HelloRead) :
    (createFromHello n h s).liu = s.liu ∧ (createFromHello n h s).se = s.se ∧
    (createFromHello n h s).hu = s.hu ∧ (createFromHello n h s).cu = s.cu ∧ (createFromHello n h s).rl = s.rl ∧
    (createFromHello n h s).fu = s.fu ∧ (createFromHello n h s).tie = s.tie ∧
    (createFromHello n h s).turbine = s.turbine ∧ (createFromHello n h s).mu = s.mu ∧
    (createFromHello n h s).dc = s.dc ∧ (createFromHello n h s).rs = s.rs ∧ (createFromHello n h s).fp = s.fp ∧
    (createFromHello n h s).mc = s.mc ∧ (createFromHello n h s).freeNext = s.freeNext ∧
    (createFromHello n h s).pending = s.pending := by
  simp only [createFromHello]; (repeat' split) <;> simp [*]

@[simp] theorem takeHello_frame (n : Nat) (h : HelloRead) :
    (takeHello n h s).liu.rx = s.liu.rx ∧ (takeHello n h s).liu.drops = s.liu.drops ∧
    (takeHello n h s).liu.lastEdge = s.liu.lastEdge ∧ (takeHello n h s).liu.clash = s.liu.clash ∧
    (takeHello n h s).liu.backoff = s.liu.backoff ∧ (takeHello n h s).se.capability = s.se.capability ∧
    (takeHello n h s).se.measured = s.se.measured ∧ (takeHello n h s).hu.level = s.hu.level ∧
    (takeHello n h s).hu.band = s.hu.band ∧ (takeHello n h s).hu.position = s.hu.position ∧
    (∀ k, ((takeHello n h s).cu.get k).own = (s.cu.get k).own) ∧ (takeHello n h s).tie = s.tie ∧
    (takeHello n h s).mu.openInterval = s.mu.openInterval ∧ (takeHello n h s).mu.worksRem = s.mu.worksRem ∧
    (takeHello n h s).mu.purchRem = s.mu.purchRem ∧ (takeHello n h s).mu.demand = s.mu.demand ∧
    (takeHello n h s).dc = s.dc ∧ (takeHello n h s).rs = s.rs ∧ (takeHello n h s).fp.link = s.fp.link ∧
    (takeHello n h s).fp.linkTimer = s.fp.linkTimer ∧ (takeHello n h s).mc.node = s.mc.node ∧
    (takeHello n h s).mc.config = s.mc.config ∧ (takeHello n h s).mc.faults = s.mc.faults ∧
    (takeHello n h s).mc.warning = s.mc.warning ∧ (takeHello n h s).mc.supplyLow = s.mc.supplyLow ∧
    (takeHello n h s).pending = s.pending := by
  simp only [takeHello]; (repeat' split) <;> simp [*]

@[simp] theorem removeIfPresent_frame (n : Nat) :
    (removeIfPresent n s).liu.rx = s.liu.rx ∧ (removeIfPresent n s).liu.drops = s.liu.drops ∧
    (removeIfPresent n s).liu.lastEdge = s.liu.lastEdge ∧ (removeIfPresent n s).liu.clash = s.liu.clash ∧
    (removeIfPresent n s).liu.backoff = s.liu.backoff ∧ (removeIfPresent n s).se.capability = s.se.capability ∧
    (removeIfPresent n s).se.measured = s.se.measured ∧ (removeIfPresent n s).hu.level = s.hu.level ∧
    (removeIfPresent n s).hu.band = s.hu.band ∧ (removeIfPresent n s).hu.position = s.hu.position ∧
    (∀ k, ((removeIfPresent n s).cu.get k).own = (s.cu.get k).own) ∧ (removeIfPresent n s).tie = s.tie ∧
    (removeIfPresent n s).mu.openInterval = s.mu.openInterval ∧
    (removeIfPresent n s).mu.worksRem = s.mu.worksRem ∧ (removeIfPresent n s).mu.purchRem = s.mu.purchRem ∧
    (removeIfPresent n s).mu.demand = s.mu.demand ∧ (removeIfPresent n s).dc = s.dc ∧
    (removeIfPresent n s).rs = s.rs ∧ (removeIfPresent n s).fp.link = s.fp.link ∧
    (removeIfPresent n s).fp.linkTimer = s.fp.linkTimer ∧ (removeIfPresent n s).mc.node = s.mc.node ∧
    (removeIfPresent n s).mc.config = s.mc.config ∧ (removeIfPresent n s).mc.faults = s.mc.faults ∧
    (removeIfPresent n s).mc.warning = s.mc.warning ∧ (removeIfPresent n s).mc.supplyLow = s.mc.supplyLow ∧
    (removeIfPresent n s).pending = s.pending := by
  simp only [removeIfPresent]; (repeat' split) <;> simp [*]

@[simp] theorem applyEdge_frame (n : Nat) (l : ClaimLine) (e : Edge) :
    (applyEdge n l e s).liu.rx = s.liu.rx ∧ (applyEdge n l e s).liu.drops = s.liu.drops ∧
    (applyEdge n l e s).liu.lastEdge = s.liu.lastEdge ∧ (applyEdge n l e s).liu.clash = s.liu.clash ∧
    (applyEdge n l e s).liu.backoff = s.liu.backoff ∧ (applyEdge n l e s).peers = s.peers ∧
    (applyEdge n l e s).se.capability = s.se.capability ∧ (applyEdge n l e s).se.measured = s.se.measured ∧
    (applyEdge n l e s).hu.level = s.hu.level ∧ (applyEdge n l e s).hu.band = s.hu.band ∧
    (applyEdge n l e s).hu.position = s.hu.position ∧
    (∀ k, ((applyEdge n l e s).cu.get k).own = (s.cu.get k).own) ∧ (applyEdge n l e s).tie = s.tie ∧
    (applyEdge n l e s).turbine = s.turbine ∧ (applyEdge n l e s).mu = s.mu ∧ (applyEdge n l e s).dc = s.dc ∧
    (applyEdge n l e s).rs = s.rs ∧ (applyEdge n l e s).fp.link = s.fp.link ∧
    (applyEdge n l e s).fp.linkTimer = s.fp.linkTimer ∧ (applyEdge n l e s).mc.node = s.mc.node ∧
    (applyEdge n l e s).mc.config = s.mc.config ∧ (applyEdge n l e s).mc.faults = s.mc.faults ∧
    (applyEdge n l e s).mc.warning = s.mc.warning ∧ (applyEdge n l e s).mc.supplyLow = s.mc.supplyLow ∧
    (applyEdge n l e s).pending = s.pending := by
  simp only [applyEdge]; (repeat' split) <;> simp [*]

@[simp] theorem takeClaim_frame (n : Nat) (l : ClaimLine) (edge : Edge) :
    (takeClaim n l edge s).liu.rx = s.liu.rx ∧ (takeClaim n l edge s).liu.drops = s.liu.drops ∧
    (takeClaim n l edge s).liu.lastEdge = s.liu.lastEdge ∧ (takeClaim n l edge s).liu.clash = s.liu.clash ∧
    (takeClaim n l edge s).liu.backoff = s.liu.backoff ∧
    (takeClaim n l edge s).se.capability = s.se.capability ∧
    (takeClaim n l edge s).se.measured = s.se.measured ∧ (takeClaim n l edge s).hu.level = s.hu.level ∧
    (takeClaim n l edge s).hu.band = s.hu.band ∧ (takeClaim n l edge s).hu.position = s.hu.position ∧
    (∀ k, ((takeClaim n l edge s).cu.get k).own = (s.cu.get k).own) ∧ (takeClaim n l edge s).tie = s.tie ∧
    (takeClaim n l edge s).turbine = s.turbine ∧ (takeClaim n l edge s).mu = s.mu ∧
    (takeClaim n l edge s).dc = s.dc ∧ (takeClaim n l edge s).rs = s.rs ∧
    (takeClaim n l edge s).fp.link = s.fp.link ∧ (takeClaim n l edge s).fp.linkTimer = s.fp.linkTimer ∧
    (takeClaim n l edge s).mc.node = s.mc.node ∧ (takeClaim n l edge s).mc.config = s.mc.config ∧
    (takeClaim n l edge s).mc.faults = s.mc.faults ∧ (takeClaim n l edge s).mc.warning = s.mc.warning ∧
    (takeClaim n l edge s).mc.supplyLow = s.mc.supplyLow ∧ (takeClaim n l edge s).pending = s.pending := by
  simp only [takeClaim]; (repeat' split) <;> simp [*]

@[simp] theorem heldRecords_of_tie {x : StateRead} (h : x.role = .exportTie) : heldRecords x = [] := if_pos h

@[simp] theorem heldRecords_of_other {x : StateRead} (h : x.role ≠ .exportTie) : heldRecords x = x.records :=
  if_neg h

/-- A STATE of an EXPORT TIE leaves its entry without main records, made anew or updated in place. -/
theorem state_of_tie_holds_no_records (e : PeerEntry) {x : StateRead} (h : x.role = .exportTie) :
    (entryOfState x).records = [] ∧ (entryUpdated e x).records = [] := by
  simp [entryOfState, entryUpdated, h]

end Sys2Proof.Machine
end

