-- ==== Sys2Proof/Laws/Frame3.lean ====
section
/-! SUPPORT. What each accounting and clock operation leaves of the state, as one equation list per operation. -/

namespace Sys2Proof.Machine

variable (s : State)

@[simp] theorem emptySlots_frame :
    (emptySlots s).liu = s.liu ∧ (emptySlots s).peers = s.peers ∧ (emptySlots s).se = s.se ∧
    (emptySlots s).hu = s.hu ∧ (emptySlots s).cu = s.cu ∧ (emptySlots s).rl = s.rl ∧ (emptySlots s).fu = s.fu ∧
    (emptySlots s).tie.openPeriod = s.tie.openPeriod ∧ (emptySlots s).tie.lastVerdict = s.tie.lastVerdict ∧
    (emptySlots s).turbine = s.turbine ∧ (emptySlots s).mu = s.mu ∧ (emptySlots s).dc = s.dc ∧
    (emptySlots s).rs = s.rs ∧ (emptySlots s).fp = s.fp ∧ (emptySlots s).mc = s.mc ∧
    (emptySlots s).freeNext = s.freeNext ∧ (emptySlots s).pending = s.pending := by
  simp only [emptySlots]; (repeat' split) <;> simp [*]

@[simp] theorem writeSlot_frame (d : DaySchedule) (t : TieUnit) :
    (writeSlot d t).openPeriod = t.openPeriod ∧ (writeSlot d t).mark = t.mark ∧ (writeSlot d t).gap = t.gap ∧
    (writeSlot d t).lastVerdict = t.lastVerdict := by
  simp only [writeSlot]; (repeat' split) <;> simp

@[simp] theorem takeSchedule_frame (day : Nat) (entries : List Nat) :
    (takeSchedule day entries s).liu = s.liu ∧ (takeSchedule day entries s).peers = s.peers ∧
    (takeSchedule day entries s).se = s.se ∧ (takeSchedule day entries s).hu = s.hu ∧
    (takeSchedule day entries s).cu = s.cu ∧ (takeSchedule day entries s).rl = s.rl ∧
    (takeSchedule day entries s).fu = s.fu ∧ (takeSchedule day entries s).tie.openPeriod = s.tie.openPeriod ∧
    (takeSchedule day entries s).tie.lastVerdict = s.tie.lastVerdict ∧
    (takeSchedule day entries s).turbine = s.turbine ∧ (takeSchedule day entries s).mu = s.mu ∧
    (takeSchedule day entries s).dc = s.dc ∧ (takeSchedule day entries s).rs = s.rs ∧
    (takeSchedule day entries s).fp = s.fp ∧ (takeSchedule day entries s).mc = s.mc ∧
    (takeSchedule day entries s).freeNext = s.freeNext ∧ (takeSchedule day entries s).pending = s.pending := by
  simp only [takeSchedule]; (repeat' split) <;> simp [*]

@[simp] theorem energyDrawn_frame (e kwh : Int) :
    (energyDrawn e kwh s).liu = s.liu ∧ (energyDrawn e kwh s).peers = s.peers ∧
    (energyDrawn e kwh s).se = s.se ∧ (energyDrawn e kwh s).hu = s.hu ∧ (energyDrawn e kwh s).cu = s.cu ∧
    (energyDrawn e kwh s).rl = s.rl ∧ (energyDrawn e kwh s).fu = s.fu ∧ (energyDrawn e kwh s).tie = s.tie ∧
    (energyDrawn e kwh s).turbine = s.turbine ∧ (energyDrawn e kwh s).mu = s.mu ∧
    (energyDrawn e kwh s).dc = s.dc ∧ (energyDrawn e kwh s).rs = s.rs ∧ (energyDrawn e kwh s).fp = s.fp ∧
    (energyDrawn e kwh s).mc = s.mc ∧ (energyDrawn e kwh s).pending = s.pending := by
  simp only [energyDrawn]; (repeat' split) <;> simp [*]

@[simp] theorem energySample_frame (kwh : Int) :
    (energySample kwh s).liu = s.liu ∧ (energySample kwh s).peers = s.peers ∧ (energySample kwh s).se = s.se ∧
    (energySample kwh s).hu = s.hu ∧ (energySample kwh s).cu = s.cu ∧ (energySample kwh s).rl = s.rl ∧
    (energySample kwh s).fu = s.fu ∧ (energySample kwh s).tie.lastVerdict = s.tie.lastVerdict ∧
    (energySample kwh s).turbine = s.turbine ∧ (energySample kwh s).mu = s.mu ∧ (energySample kwh s).dc = s.dc ∧
    (energySample kwh s).rs = s.rs ∧ (energySample kwh s).fp = s.fp ∧ (energySample kwh s).mc = s.mc ∧
    (energySample kwh s).pending = s.pending := by
  simp only [energySample]; (repeat' split) <;> simp [*]

@[simp] theorem takeEnergy_frame (status : SampleStatus) (kwh : Int) :
    (takeEnergy status kwh s).liu = s.liu ∧ (takeEnergy status kwh s).peers = s.peers ∧
    (takeEnergy status kwh s).se = s.se ∧ (takeEnergy status kwh s).hu = s.hu ∧
    (takeEnergy status kwh s).cu = s.cu ∧ (takeEnergy status kwh s).rl = s.rl ∧
    (takeEnergy status kwh s).fu = s.fu ∧ (takeEnergy status kwh s).tie.lastVerdict = s.tie.lastVerdict ∧
    (takeEnergy status kwh s).turbine = s.turbine ∧ (takeEnergy status kwh s).mu = s.mu ∧
    (takeEnergy status kwh s).dc = s.dc ∧ (takeEnergy status kwh s).rs = s.rs ∧
    (takeEnergy status kwh s).fp = s.fp ∧ (takeEnergy status kwh s).mc = s.mc ∧
    (takeEnergy status kwh s).pending = s.pending := by
  simp only [takeEnergy]; (repeat' split) <;> simp [*]

@[simp] theorem recomputeGap_frame :
    (recomputeGap s).liu = s.liu ∧ (recomputeGap s).peers = s.peers ∧ (recomputeGap s).se = s.se ∧
    (recomputeGap s).hu = s.hu ∧ (recomputeGap s).cu = s.cu ∧ (recomputeGap s).rl = s.rl ∧
    (recomputeGap s).fu = s.fu ∧ (recomputeGap s).tie.openPeriod = s.tie.openPeriod ∧
    (recomputeGap s).tie.lastVerdict = s.tie.lastVerdict ∧ (recomputeGap s).turbine = s.turbine ∧
    (recomputeGap s).mu = s.mu ∧ (recomputeGap s).dc = s.dc ∧ (recomputeGap s).rs = s.rs ∧
    (recomputeGap s).fp = s.fp ∧ (recomputeGap s).mc = s.mc ∧ (recomputeGap s).freeNext = s.freeNext ∧
    (recomputeGap s).pending = s.pending := by
  simp only [recomputeGap]; (repeat' split) <;> simp [*]

@[simp] theorem openPeriod_frame (p : TimePos) (flags : RecordFlags) :
    (openPeriod p flags s).liu = s.liu ∧ (openPeriod p flags s).peers = s.peers ∧
    (openPeriod p flags s).se = s.se ∧ (openPeriod p flags s).hu = s.hu ∧ (openPeriod p flags s).cu = s.cu ∧
    (openPeriod p flags s).rl = s.rl ∧ (openPeriod p flags s).fu = s.fu ∧
    (openPeriod p flags s).tie.lastVerdict = s.tie.lastVerdict ∧ (openPeriod p flags s).turbine = s.turbine ∧
    (openPeriod p flags s).mu = s.mu ∧ (openPeriod p flags s).dc.time = s.dc.time ∧
    (openPeriod p flags s).dc.quality = s.dc.quality ∧ (openPeriod p flags s).dc.syncTimer = s.dc.syncTimer ∧
    (openPeriod p flags s).dc.pendingStep = s.dc.pendingStep ∧ (openPeriod p flags s).dc.hold = s.dc.hold ∧
    (openPeriod p flags s).dc.trim = s.dc.trim ∧ (openPeriod p flags s).dc.trimAcc = s.dc.trimAcc ∧
    (openPeriod p flags s).rs = s.rs ∧ (openPeriod p flags s).fp = s.fp ∧ (openPeriod p flags s).mc = s.mc ∧
    (openPeriod p flags s).freeNext = s.freeNext ∧ (openPeriod p flags s).pending = s.pending := by
  simp only [openPeriod]; (repeat' split) <;> simp [*]

@[simp] theorem closePeriod_frame (p : Period) (len : Nat) :
    (closePeriod p len s).liu = s.liu ∧ (closePeriod p len s).peers = s.peers ∧
    (closePeriod p len s).se = s.se ∧ (closePeriod p len s).hu = s.hu ∧ (closePeriod p len s).cu = s.cu ∧
    (closePeriod p len s).rl = s.rl ∧ (closePeriod p len s).fu = s.fu ∧
    (closePeriod p len s).turbine = s.turbine ∧ (closePeriod p len s).mu = s.mu ∧
    (closePeriod p len s).dc.time = s.dc.time ∧ (closePeriod p len s).dc.quality = s.dc.quality ∧
    (closePeriod p len s).dc.syncTimer = s.dc.syncTimer ∧
    (closePeriod p len s).dc.pendingStep = s.dc.pendingStep ∧ (closePeriod p len s).dc.hold = s.dc.hold ∧
    (closePeriod p len s).dc.trim = s.dc.trim ∧ (closePeriod p len s).dc.trimAcc = s.dc.trimAcc ∧
    (closePeriod p len s).rs.newest = s.rs.newest ∧ (closePeriod p len s).fp = s.fp ∧
    (closePeriod p len s).mc = s.mc ∧ (closePeriod p len s).pending = s.pending := by
  simp only [closePeriod]; (repeat' split) <;> simp [*]

@[simp] theorem closePeriodNow_frame (p : Period) :
    (closePeriodNow p s).liu = s.liu ∧ (closePeriodNow p s).peers = s.peers ∧ (closePeriodNow p s).se = s.se ∧
    (closePeriodNow p s).hu = s.hu ∧ (closePeriodNow p s).cu = s.cu ∧ (closePeriodNow p s).rl = s.rl ∧
    (closePeriodNow p s).fu = s.fu ∧ (closePeriodNow p s).turbine = s.turbine ∧ (closePeriodNow p s).mu = s.mu ∧
    (closePeriodNow p s).dc.time = s.dc.time ∧ (closePeriodNow p s).dc.quality = s.dc.quality ∧
    (closePeriodNow p s).dc.syncTimer = s.dc.syncTimer ∧
    (closePeriodNow p s).dc.pendingStep = s.dc.pendingStep ∧ (closePeriodNow p s).dc.hold = s.dc.hold ∧
    (closePeriodNow p s).dc.trim = s.dc.trim ∧ (closePeriodNow p s).dc.trimAcc = s.dc.trimAcc ∧
    (closePeriodNow p s).rs.newest = s.rs.newest ∧ (closePeriodNow p s).fp = s.fp ∧
    (closePeriodNow p s).mc = s.mc ∧ (closePeriodNow p s).pending = s.pending := by
  simp only [closePeriodNow]; (repeat' split) <;> simp [*]

@[simp] theorem tieShortClose_frame :
    (tieShortClose s).liu = s.liu ∧ (tieShortClose s).peers = s.peers ∧ (tieShortClose s).se = s.se ∧
    (tieShortClose s).hu = s.hu ∧ (tieShortClose s).cu = s.cu ∧ (tieShortClose s).rl = s.rl ∧
    (tieShortClose s).fu = s.fu ∧ (tieShortClose s).turbine = s.turbine ∧ (tieShortClose s).mu = s.mu ∧
    (tieShortClose s).dc.time = s.dc.time ∧ (tieShortClose s).dc.quality = s.dc.quality ∧
    (tieShortClose s).dc.syncTimer = s.dc.syncTimer ∧ (tieShortClose s).dc.pendingStep = s.dc.pendingStep ∧
    (tieShortClose s).dc.hold = s.dc.hold ∧ (tieShortClose s).dc.trim = s.dc.trim ∧
    (tieShortClose s).dc.trimAcc = s.dc.trimAcc ∧ (tieShortClose s).rs.newest = s.rs.newest ∧
    (tieShortClose s).fp = s.fp ∧ (tieShortClose s).mc = s.mc ∧ (tieShortClose s).pending = s.pending := by
  simp only [tieShortClose]; (repeat' split) <;> simp [*]

@[simp] theorem tiePowerFail_frame :
    (tiePowerFail s).liu = s.liu ∧ (tiePowerFail s).peers = s.peers ∧ (tiePowerFail s).se = s.se ∧
    (tiePowerFail s).hu = s.hu ∧ (tiePowerFail s).cu = s.cu ∧ (tiePowerFail s).rl = s.rl ∧
    (tiePowerFail s).fu = s.fu ∧ (tiePowerFail s).turbine = s.turbine ∧ (tiePowerFail s).mu = s.mu ∧
    (tiePowerFail s).dc.time = s.dc.time ∧ (tiePowerFail s).dc.quality = s.dc.quality ∧
    (tiePowerFail s).dc.syncTimer = s.dc.syncTimer ∧ (tiePowerFail s).dc.pendingStep = s.dc.pendingStep ∧
    (tiePowerFail s).dc.hold = s.dc.hold ∧ (tiePowerFail s).dc.trim = s.dc.trim ∧
    (tiePowerFail s).dc.trimAcc = s.dc.trimAcc ∧ (tiePowerFail s).rs.newest = s.rs.newest ∧
    (tiePowerFail s).fp = s.fp ∧ (tiePowerFail s).mc = s.mc ∧ (tiePowerFail s).pending = s.pending := by
  simp only [tiePowerFail]; (repeat' split) <;> simp [*]

@[simp] theorem tieSupplyBack_frame :
    (tieSupplyBack s).liu = s.liu ∧ (tieSupplyBack s).peers = s.peers ∧ (tieSupplyBack s).se = s.se ∧
    (tieSupplyBack s).hu = s.hu ∧ (tieSupplyBack s).cu = s.cu ∧ (tieSupplyBack s).rl = s.rl ∧
    (tieSupplyBack s).fu = s.fu ∧ (tieSupplyBack s).tie.lastVerdict = s.tie.lastVerdict ∧
    (tieSupplyBack s).turbine = s.turbine ∧ (tieSupplyBack s).mu = s.mu ∧
    (tieSupplyBack s).dc.time = s.dc.time ∧ (tieSupplyBack s).dc.quality = s.dc.quality ∧
    (tieSupplyBack s).dc.syncTimer = s.dc.syncTimer ∧ (tieSupplyBack s).dc.pendingStep = s.dc.pendingStep ∧
    (tieSupplyBack s).dc.hold = s.dc.hold ∧ (tieSupplyBack s).dc.trim = s.dc.trim ∧
    (tieSupplyBack s).dc.trimAcc = s.dc.trimAcc ∧ (tieSupplyBack s).rs = s.rs ∧ (tieSupplyBack s).fp = s.fp ∧
    (tieSupplyBack s).mc = s.mc ∧ (tieSupplyBack s).freeNext = s.freeNext ∧
    (tieSupplyBack s).pending = s.pending := by
  simp only [tieSupplyBack]; (repeat' split) <;> simp [*]

@[simp] theorem tieCounts_frame :
    (tieCounts s).liu = s.liu ∧ (tieCounts s).peers = s.peers ∧ (tieCounts s).se = s.se ∧
    (tieCounts s).hu = s.hu ∧ (tieCounts s).cu = s.cu ∧ (tieCounts s).rl = s.rl ∧ (tieCounts s).fu = s.fu ∧
    (tieCounts s).tie.lastVerdict = s.tie.lastVerdict ∧ (tieCounts s).turbine = s.turbine ∧
    (tieCounts s).mu = s.mu ∧ (tieCounts s).dc = s.dc ∧ (tieCounts s).rs = s.rs ∧ (tieCounts s).fp = s.fp ∧
    (tieCounts s).mc = s.mc ∧ (tieCounts s).freeNext = s.freeNext ∧ (tieCounts s).pending = s.pending := by
  simp only [tieCounts]; (repeat' split) <;> simp [*]

@[simp] theorem tieBoundary_frame :
    (tieBoundary s).liu = s.liu ∧ (tieBoundary s).peers = s.peers ∧ (tieBoundary s).se = s.se ∧
    (tieBoundary s).hu = s.hu ∧ (tieBoundary s).cu = s.cu ∧ (tieBoundary s).rl = s.rl ∧
    (tieBoundary s).fu = s.fu ∧ (tieBoundary s).turbine = s.turbine ∧ (tieBoundary s).mu = s.mu ∧
    (tieBoundary s).dc.time = s.dc.time ∧ (tieBoundary s).dc.quality = s.dc.quality ∧
    (tieBoundary s).dc.syncTimer = s.dc.syncTimer ∧ (tieBoundary s).dc.pendingStep = s.dc.pendingStep ∧
    (tieBoundary s).dc.hold = s.dc.hold ∧ (tieBoundary s).dc.trim = s.dc.trim ∧
    (tieBoundary s).dc.trimAcc = s.dc.trimAcc ∧ (tieBoundary s).rs.newest = s.rs.newest ∧
    (tieBoundary s).fp = s.fp ∧ (tieBoundary s).mc = s.mc ∧ (tieBoundary s).pending = s.pending := by
  simp only [tieBoundary]; (repeat' split) <;> simp [*]

@[simp] theorem tieSecond_frame (halfHour : Bool) :
    (tieSecond halfHour s).liu = s.liu ∧ (tieSecond halfHour s).peers = s.peers ∧
    (tieSecond halfHour s).se = s.se ∧ (tieSecond halfHour s).hu = s.hu ∧ (tieSecond halfHour s).cu = s.cu ∧
    (tieSecond halfHour s).rl = s.rl ∧ (tieSecond halfHour s).fu = s.fu ∧
    (tieSecond halfHour s).turbine = s.turbine ∧ (tieSecond halfHour s).mu = s.mu ∧
    (tieSecond halfHour s).dc.time = s.dc.time ∧ (tieSecond halfHour s).dc.quality = s.dc.quality ∧
    (tieSecond halfHour s).dc.syncTimer = s.dc.syncTimer ∧
    (tieSecond halfHour s).dc.pendingStep = s.dc.pendingStep ∧ (tieSecond halfHour s).dc.hold = s.dc.hold ∧
    (tieSecond halfHour s).dc.trim = s.dc.trim ∧ (tieSecond halfHour s).dc.trimAcc = s.dc.trimAcc ∧
    (tieSecond halfHour s).rs.newest = s.rs.newest ∧ (tieSecond halfHour s).fp = s.fp ∧
    (tieSecond halfHour s).mc = s.mc ∧ (tieSecond halfHour s).pending = s.pending := by
  simp only [tieSecond]; (repeat' split) <;> simp [*]

@[simp] theorem tieStep_frame :
    (tieStep s).liu = s.liu ∧ (tieStep s).peers = s.peers ∧ (tieStep s).se = s.se ∧ (tieStep s).hu = s.hu ∧
    (tieStep s).cu = s.cu ∧ (tieStep s).rl = s.rl ∧ (tieStep s).fu = s.fu ∧ (tieStep s).turbine = s.turbine ∧
    (tieStep s).mu = s.mu ∧ (tieStep s).dc.time = s.dc.time ∧ (tieStep s).dc.quality = s.dc.quality ∧
    (tieStep s).dc.syncTimer = s.dc.syncTimer ∧ (tieStep s).dc.pendingStep = s.dc.pendingStep ∧
    (tieStep s).dc.hold = s.dc.hold ∧ (tieStep s).dc.trim = s.dc.trim ∧ (tieStep s).dc.trimAcc = s.dc.trimAcc ∧
    (tieStep s).rs.newest = s.rs.newest ∧ (tieStep s).fp = s.fp ∧ (tieStep s).mc = s.mc ∧
    (tieStep s).pending = s.pending := by
  simp only [tieStep]; (repeat' split) <;> simp [*]

@[simp] theorem resumePeriod_frame (p : Period) :
    (resumePeriod p s).liu = s.liu ∧ (resumePeriod p s).peers = s.peers ∧ (resumePeriod p s).se = s.se ∧
    (resumePeriod p s).hu = s.hu ∧ (resumePeriod p s).cu = s.cu ∧ (resumePeriod p s).rl = s.rl ∧
    (resumePeriod p s).fu = s.fu ∧ (resumePeriod p s).turbine = s.turbine ∧ (resumePeriod p s).mu = s.mu ∧
    (resumePeriod p s).dc.time = s.dc.time ∧ (resumePeriod p s).dc.quality = s.dc.quality ∧
    (resumePeriod p s).dc.syncTimer = s.dc.syncTimer ∧ (resumePeriod p s).dc.pendingStep = s.dc.pendingStep ∧
    (resumePeriod p s).dc.hold = s.dc.hold ∧ (resumePeriod p s).dc.trim = s.dc.trim ∧
    (resumePeriod p s).dc.trimAcc = s.dc.trimAcc ∧ (resumePeriod p s).rs.newest = s.rs.newest ∧
    (resumePeriod p s).fp = s.fp ∧ (resumePeriod p s).mc = s.mc ∧ (resumePeriod p s).pending = s.pending := by
  simp only [resumePeriod]; (repeat' split) <;> simp [*]

@[simp] theorem tieStart_frame (k : StartKind) :
    (tieStart k s).liu = s.liu ∧ (tieStart k s).peers = s.peers ∧ (tieStart k s).se = s.se ∧
    (tieStart k s).hu = s.hu ∧ (tieStart k s).cu = s.cu ∧ (tieStart k s).rl = s.rl ∧ (tieStart k s).fu = s.fu ∧
    (tieStart k s).turbine = s.turbine ∧ (tieStart k s).mu = s.mu ∧ (tieStart k s).dc.time = s.dc.time ∧
    (tieStart k s).dc.quality = s.dc.quality ∧ (tieStart k s).dc.syncTimer = s.dc.syncTimer ∧
    (tieStart k s).dc.pendingStep = s.dc.pendingStep ∧ (tieStart k s).dc.hold = s.dc.hold ∧
    (tieStart k s).dc.trim = s.dc.trim ∧ (tieStart k s).dc.trimAcc = s.dc.trimAcc ∧
    (tieStart k s).rs.newest = s.rs.newest ∧ (tieStart k s).fp = s.fp ∧ (tieStart k s).mc = s.mc ∧
    (tieStart k s).pending = s.pending := by
  simp only [tieStart]; (repeat' split) <;> simp [*]

@[simp] theorem takeHeatSample_frame (status : SampleStatus) (flow supply return_ : Nat) :
    (takeHeatSample status flow supply return_ s).liu = s.liu ∧
    (takeHeatSample status flow supply return_ s).peers = s.peers ∧
    (takeHeatSample status flow supply return_ s).se = s.se ∧
    (takeHeatSample status flow supply return_ s).hu = s.hu ∧
    (takeHeatSample status flow supply return_ s).cu = s.cu ∧
    (takeHeatSample status flow supply return_ s).rl = s.rl ∧
    (takeHeatSample status flow supply return_ s).fu = s.fu ∧
    (takeHeatSample status flow supply return_ s).tie = s.tie ∧
    (takeHeatSample status flow supply return_ s).turbine = s.turbine ∧
    (takeHeatSample status flow supply return_ s).mu.openInterval = s.mu.openInterval ∧
    (takeHeatSample status flow supply return_ s).mu.worksRem = s.mu.worksRem ∧
    (takeHeatSample status flow supply return_ s).mu.purchRem = s.mu.purchRem ∧
    (takeHeatSample status flow supply return_ s).mu.demand = s.mu.demand ∧
    (takeHeatSample status flow supply return_ s).dc = s.dc ∧
    (takeHeatSample status flow supply return_ s).rs = s.rs ∧
    (takeHeatSample status flow supply return_ s).fp = s.fp ∧
    (takeHeatSample status flow supply return_ s).mc = s.mc ∧
    (takeHeatSample status flow supply return_ s).freeNext = s.freeNext ∧
    (takeHeatSample status flow supply return_ s).pending = s.pending := by
  simp only [takeHeatSample]; (repeat' split) <;> simp [*]

@[simp] theorem takeDemand_frame (su : Nat) :
    (takeDemand su s).liu = s.liu ∧ (takeDemand su s).peers = s.peers ∧
    (takeDemand su s).se.roundTimer = s.se.roundTimer ∧ (takeDemand su s).se.fallback = s.se.fallback ∧
    (takeDemand su s).se.capability = s.se.capability ∧ (takeDemand su s).se.measured = s.se.measured ∧
    (takeDemand su s).hu = s.hu ∧ (takeDemand su s).cu = s.cu ∧ (takeDemand su s).rl = s.rl ∧
    (takeDemand su s).fu = s.fu ∧ (takeDemand su s).tie = s.tie ∧ (takeDemand su s).turbine = s.turbine ∧
    (takeDemand su s).mu.openInterval = s.mu.openInterval ∧ (takeDemand su s).mu.worksRem = s.mu.worksRem ∧
    (takeDemand su s).mu.purchRem = s.mu.purchRem ∧ (takeDemand su s).dc = s.dc ∧ (takeDemand su s).rs = s.rs ∧
    (takeDemand su s).fp.link = s.fp.link ∧ (takeDemand su s).fp.linkTimer = s.fp.linkTimer ∧
    (takeDemand su s).mc = s.mc ∧ (takeDemand su s).freeNext = s.freeNext ∧
    (takeDemand su s).pending = s.pending := by
  simp only [takeDemand]; (repeat' split) <;> simp [*]

@[simp] theorem integrateSecond_frame :
    (integrateSecond s).liu = s.liu ∧ (integrateSecond s).peers = s.peers ∧ (integrateSecond s).se = s.se ∧
    (integrateSecond s).hu = s.hu ∧ (integrateSecond s).cu = s.cu ∧ (integrateSecond s).rl = s.rl ∧
    (integrateSecond s).fu = s.fu ∧ (integrateSecond s).tie = s.tie ∧ (integrateSecond s).turbine = s.turbine ∧
    (integrateSecond s).mu.demand = s.mu.demand ∧ (integrateSecond s).dc = s.dc ∧
    (integrateSecond s).rs = s.rs ∧ (integrateSecond s).fp = s.fp ∧ (integrateSecond s).mc = s.mc ∧
    (integrateSecond s).pending = s.pending := by
  simp only [integrateSecond]; (repeat' split) <;> simp [*, integrated]

@[simp] theorem minuteCheck_frame :
    (minuteCheck s).liu = s.liu ∧ (minuteCheck s).peers = s.peers ∧ (minuteCheck s).se = s.se ∧
    (minuteCheck s).hu = s.hu ∧ (minuteCheck s).cu = s.cu ∧ (minuteCheck s).rl = s.rl ∧
    (minuteCheck s).fu = s.fu ∧ (minuteCheck s).tie = s.tie ∧ (minuteCheck s).turbine = s.turbine ∧
    (minuteCheck s).mu.worksRem = s.mu.worksRem ∧ (minuteCheck s).mu.purchRem = s.mu.purchRem ∧
    (minuteCheck s).mu.demand = s.mu.demand ∧ (minuteCheck s).dc = s.dc ∧ (minuteCheck s).rs = s.rs ∧
    (minuteCheck s).fp = s.fp ∧ (minuteCheck s).mc = s.mc ∧ (minuteCheck s).freeNext = s.freeNext ∧
    (minuteCheck s).pending = s.pending := by
  simp only [minuteCheck]; (repeat' split) <;> simp [*]

@[simp] theorem openIntervalAt_frame (p : TimePos) (flags : RecordFlags) :
    (openIntervalAt p flags s).liu = s.liu ∧ (openIntervalAt p flags s).peers = s.peers ∧
    (openIntervalAt p flags s).se = s.se ∧ (openIntervalAt p flags s).hu = s.hu ∧
    (openIntervalAt p flags s).cu = s.cu ∧ (openIntervalAt p flags s).rl = s.rl ∧
    (openIntervalAt p flags s).fu = s.fu ∧ (openIntervalAt p flags s).tie = s.tie ∧
    (openIntervalAt p flags s).turbine = s.turbine ∧ (openIntervalAt p flags s).mu.worksRem = s.mu.worksRem ∧
    (openIntervalAt p flags s).mu.purchRem = s.mu.purchRem ∧
    (openIntervalAt p flags s).mu.demand = s.mu.demand ∧ (openIntervalAt p flags s).dc.time = s.dc.time ∧
    (openIntervalAt p flags s).dc.quality = s.dc.quality ∧
    (openIntervalAt p flags s).dc.syncTimer = s.dc.syncTimer ∧
    (openIntervalAt p flags s).dc.pendingStep = s.dc.pendingStep ∧
    (openIntervalAt p flags s).dc.hold = s.dc.hold ∧ (openIntervalAt p flags s).dc.trim = s.dc.trim ∧
    (openIntervalAt p flags s).dc.trimAcc = s.dc.trimAcc ∧ (openIntervalAt p flags s).rs = s.rs ∧
    (openIntervalAt p flags s).fp = s.fp ∧ (openIntervalAt p flags s).mc = s.mc ∧
    (openIntervalAt p flags s).freeNext = s.freeNext ∧ (openIntervalAt p flags s).pending = s.pending := by
  simp only [openIntervalAt]; (repeat' split) <;> simp [*]

@[simp] theorem closeInterval_frame (i : Interval) (len : Nat) :
    (closeInterval i len s).liu = s.liu ∧ (closeInterval i len s).peers = s.peers ∧
    (closeInterval i len s).se = s.se ∧ (closeInterval i len s).hu = s.hu ∧ (closeInterval i len s).cu = s.cu ∧
    (closeInterval i len s).rl = s.rl ∧ (closeInterval i len s).fu = s.fu ∧
    (closeInterval i len s).tie = s.tie ∧ (closeInterval i len s).turbine = s.turbine ∧
    (closeInterval i len s).mu.worksRem = s.mu.worksRem ∧ (closeInterval i len s).mu.purchRem = s.mu.purchRem ∧
    (closeInterval i len s).mu.demand = s.mu.demand ∧ (closeInterval i len s).dc.time = s.dc.time ∧
    (closeInterval i len s).dc.quality = s.dc.quality ∧ (closeInterval i len s).dc.syncTimer = s.dc.syncTimer ∧
    (closeInterval i len s).dc.pendingStep = s.dc.pendingStep ∧ (closeInterval i len s).dc.hold = s.dc.hold ∧
    (closeInterval i len s).dc.trim = s.dc.trim ∧ (closeInterval i len s).dc.trimAcc = s.dc.trimAcc ∧
    (closeInterval i len s).rs.newest = s.rs.newest ∧ (closeInterval i len s).fp = s.fp ∧
    (closeInterval i len s).mc = s.mc ∧ (closeInterval i len s).pending = s.pending := by
  simp only [closeInterval]; (repeat' split) <;> simp [*]

@[simp] theorem closeIntervalNow_frame :
    (closeIntervalNow s).liu = s.liu ∧ (closeIntervalNow s).peers = s.peers ∧ (closeIntervalNow s).se = s.se ∧
    (closeIntervalNow s).hu = s.hu ∧ (closeIntervalNow s).cu = s.cu ∧ (closeIntervalNow s).rl = s.rl ∧
    (closeIntervalNow s).fu = s.fu ∧ (closeIntervalNow s).tie = s.tie ∧
    (closeIntervalNow s).turbine = s.turbine ∧ (closeIntervalNow s).mu.worksRem = s.mu.worksRem ∧
    (closeIntervalNow s).mu.purchRem = s.mu.purchRem ∧ (closeIntervalNow s).mu.demand = s.mu.demand ∧
    (closeIntervalNow s).dc.time = s.dc.time ∧ (closeIntervalNow s).dc.quality = s.dc.quality ∧
    (closeIntervalNow s).dc.syncTimer = s.dc.syncTimer ∧
    (closeIntervalNow s).dc.pendingStep = s.dc.pendingStep ∧ (closeIntervalNow s).dc.hold = s.dc.hold ∧
    (closeIntervalNow s).dc.trim = s.dc.trim ∧ (closeIntervalNow s).dc.trimAcc = s.dc.trimAcc ∧
    (closeIntervalNow s).rs.newest = s.rs.newest ∧ (closeIntervalNow s).fp = s.fp ∧
    (closeIntervalNow s).mc = s.mc ∧ (closeIntervalNow s).pending = s.pending := by
  simp only [closeIntervalNow]; (repeat' split) <;> simp [*]

@[simp] theorem flagInterval_frame (f : RecordFlags → RecordFlags) :
    (flagInterval f s).liu = s.liu ∧ (flagInterval f s).peers = s.peers ∧ (flagInterval f s).se = s.se ∧
    (flagInterval f s).hu = s.hu ∧ (flagInterval f s).cu = s.cu ∧ (flagInterval f s).rl = s.rl ∧
    (flagInterval f s).fu = s.fu ∧ (flagInterval f s).tie = s.tie ∧ (flagInterval f s).turbine = s.turbine ∧
    (flagInterval f s).mu.worksRem = s.mu.worksRem ∧ (flagInterval f s).mu.purchRem = s.mu.purchRem ∧
    (flagInterval f s).mu.demand = s.mu.demand ∧ (flagInterval f s).dc = s.dc ∧ (flagInterval f s).rs = s.rs ∧
    (flagInterval f s).fp = s.fp ∧ (flagInterval f s).mc = s.mc ∧ (flagInterval f s).freeNext = s.freeNext ∧
    (flagInterval f s).pending = s.pending := by
  simp only [flagInterval]; (repeat' split) <;> simp [*]

@[simp] theorem meterShortClose_frame :
    (meterShortClose s).liu = s.liu ∧ (meterShortClose s).peers = s.peers ∧ (meterShortClose s).se = s.se ∧
    (meterShortClose s).hu = s.hu ∧ (meterShortClose s).cu = s.cu ∧ (meterShortClose s).rl = s.rl ∧
    (meterShortClose s).fu = s.fu ∧ (meterShortClose s).tie = s.tie ∧ (meterShortClose s).turbine = s.turbine ∧
    (meterShortClose s).mu.worksRem = s.mu.worksRem ∧ (meterShortClose s).mu.purchRem = s.mu.purchRem ∧
    (meterShortClose s).mu.demand = s.mu.demand ∧ (meterShortClose s).dc.time = s.dc.time ∧
    (meterShortClose s).dc.quality = s.dc.quality ∧ (meterShortClose s).dc.syncTimer = s.dc.syncTimer ∧
    (meterShortClose s).dc.pendingStep = s.dc.pendingStep ∧ (meterShortClose s).dc.hold = s.dc.hold ∧
    (meterShortClose s).dc.trim = s.dc.trim ∧ (meterShortClose s).dc.trimAcc = s.dc.trimAcc ∧
    (meterShortClose s).rs.newest = s.rs.newest ∧ (meterShortClose s).fp = s.fp ∧
    (meterShortClose s).mc = s.mc ∧ (meterShortClose s).pending = s.pending := by
  simp only [meterShortClose]; (repeat' split) <;> simp [*]

@[simp] theorem meterPowerFail_frame :
    (meterPowerFail s).liu = s.liu ∧ (meterPowerFail s).peers = s.peers ∧ (meterPowerFail s).se = s.se ∧
    (meterPowerFail s).hu = s.hu ∧ (meterPowerFail s).cu = s.cu ∧ (meterPowerFail s).rl = s.rl ∧
    (meterPowerFail s).fu = s.fu ∧ (meterPowerFail s).tie = s.tie ∧ (meterPowerFail s).turbine = s.turbine ∧
    (meterPowerFail s).mu.worksRem = s.mu.worksRem ∧ (meterPowerFail s).mu.purchRem = s.mu.purchRem ∧
    (meterPowerFail s).mu.demand = s.mu.demand ∧ (meterPowerFail s).dc.time = s.dc.time ∧
    (meterPowerFail s).dc.quality = s.dc.quality ∧ (meterPowerFail s).dc.syncTimer = s.dc.syncTimer ∧
    (meterPowerFail s).dc.pendingStep = s.dc.pendingStep ∧ (meterPowerFail s).dc.hold = s.dc.hold ∧
    (meterPowerFail s).dc.trim = s.dc.trim ∧ (meterPowerFail s).dc.trimAcc = s.dc.trimAcc ∧
    (meterPowerFail s).rs.newest = s.rs.newest ∧ (meterPowerFail s).fp = s.fp ∧ (meterPowerFail s).mc = s.mc ∧
    (meterPowerFail s).pending = s.pending := by
  simp only [meterPowerFail]; (repeat' split) <;> simp [*]

@[simp] theorem meterSupplyBack_frame :
    (meterSupplyBack s).liu = s.liu ∧ (meterSupplyBack s).peers = s.peers ∧ (meterSupplyBack s).se = s.se ∧
    (meterSupplyBack s).hu = s.hu ∧ (meterSupplyBack s).cu = s.cu ∧ (meterSupplyBack s).rl = s.rl ∧
    (meterSupplyBack s).fu = s.fu ∧ (meterSupplyBack s).tie = s.tie ∧ (meterSupplyBack s).turbine = s.turbine ∧
    (meterSupplyBack s).mu.worksRem = s.mu.worksRem ∧ (meterSupplyBack s).mu.purchRem = s.mu.purchRem ∧
    (meterSupplyBack s).mu.demand = s.mu.demand ∧ (meterSupplyBack s).dc.time = s.dc.time ∧
    (meterSupplyBack s).dc.quality = s.dc.quality ∧ (meterSupplyBack s).dc.syncTimer = s.dc.syncTimer ∧
    (meterSupplyBack s).dc.pendingStep = s.dc.pendingStep ∧ (meterSupplyBack s).dc.hold = s.dc.hold ∧
    (meterSupplyBack s).dc.trim = s.dc.trim ∧ (meterSupplyBack s).dc.trimAcc = s.dc.trimAcc ∧
    (meterSupplyBack s).rs = s.rs ∧ (meterSupplyBack s).fp = s.fp ∧ (meterSupplyBack s).mc = s.mc ∧
    (meterSupplyBack s).freeNext = s.freeNext ∧ (meterSupplyBack s).pending = s.pending := by
  simp only [meterSupplyBack]; (repeat' split) <;> simp [*]

@[simp] theorem hourBoundary_frame :
    (hourBoundary s).liu = s.liu ∧ (hourBoundary s).peers = s.peers ∧ (hourBoundary s).se = s.se ∧
    (hourBoundary s).hu = s.hu ∧ (hourBoundary s).cu = s.cu ∧ (hourBoundary s).rl = s.rl ∧
    (hourBoundary s).fu = s.fu ∧ (hourBoundary s).tie = s.tie ∧ (hourBoundary s).turbine = s.turbine ∧
    (hourBoundary s).mu.worksRem = s.mu.worksRem ∧ (hourBoundary s).mu.purchRem = s.mu.purchRem ∧
    (hourBoundary s).mu.demand = s.mu.demand ∧ (hourBoundary s).dc.time = s.dc.time ∧
    (hourBoundary s).dc.quality = s.dc.quality ∧ (hourBoundary s).dc.syncTimer = s.dc.syncTimer ∧
    (hourBoundary s).dc.pendingStep = s.dc.pendingStep ∧ (hourBoundary s).dc.hold = s.dc.hold ∧
    (hourBoundary s).dc.trim = s.dc.trim ∧ (hourBoundary s).dc.trimAcc = s.dc.trimAcc ∧
    (hourBoundary s).rs.newest = s.rs.newest ∧ (hourBoundary s).fp = s.fp ∧ (hourBoundary s).mc = s.mc ∧
    (hourBoundary s).pending = s.pending := by
  simp only [hourBoundary]; (repeat' split) <;> simp [*]

@[simp] theorem meterSecond_frame (boundary : Option TimePos) :
    (meterSecond boundary s).liu = s.liu ∧ (meterSecond boundary s).peers = s.peers ∧
    (meterSecond boundary s).se = s.se ∧ (meterSecond boundary s).hu = s.hu ∧
    (meterSecond boundary s).cu = s.cu ∧ (meterSecond boundary s).rl = s.rl ∧
    (meterSecond boundary s).fu = s.fu ∧ (meterSecond boundary s).tie = s.tie ∧
    (meterSecond boundary s).turbine = s.turbine ∧ (meterSecond boundary s).mu.demand = s.mu.demand ∧
    (meterSecond boundary s).dc.time = s.dc.time ∧ (meterSecond boundary s).dc.quality = s.dc.quality ∧
    (meterSecond boundary s).dc.syncTimer = s.dc.syncTimer ∧
    (meterSecond boundary s).dc.pendingStep = s.dc.pendingStep ∧ (meterSecond boundary s).dc.hold = s.dc.hold ∧
    (meterSecond boundary s).dc.trim = s.dc.trim ∧ (meterSecond boundary s).dc.trimAcc = s.dc.trimAcc ∧
    (meterSecond boundary s).rs.newest = s.rs.newest ∧ (meterSecond boundary s).fp = s.fp ∧
    (meterSecond boundary s).mc = s.mc ∧ (meterSecond boundary s).pending = s.pending := by
  simp only [meterSecond]; (repeat' split) <;> simp [*]

@[simp] theorem countHeld_frame (ends : Bool) :
    (countHeld ends s).liu = s.liu ∧ (countHeld ends s).peers = s.peers ∧ (countHeld ends s).se = s.se ∧
    (countHeld ends s).hu = s.hu ∧ (countHeld ends s).cu = s.cu ∧ (countHeld ends s).rl = s.rl ∧
    (countHeld ends s).fu = s.fu ∧ (countHeld ends s).tie = s.tie ∧ (countHeld ends s).turbine = s.turbine ∧
    (countHeld ends s).mu.openInterval = s.mu.openInterval ∧ (countHeld ends s).mu.worksRem = s.mu.worksRem ∧
    (countHeld ends s).mu.purchRem = s.mu.purchRem ∧ (countHeld ends s).mu.demand = s.mu.demand ∧
    (countHeld ends s).dc = s.dc ∧ (countHeld ends s).rs = s.rs ∧ (countHeld ends s).fp = s.fp ∧
    (countHeld ends s).mc = s.mc ∧ (countHeld ends s).freeNext = s.freeNext ∧
    (countHeld ends s).pending = s.pending := by
  simp only [countHeld]; (repeat' split) <;> simp [*]

@[simp] theorem beginHold_frame :
    (beginHold s).liu = s.liu ∧ (beginHold s).peers = s.peers ∧ (beginHold s).se = s.se ∧
    (beginHold s).hu = s.hu ∧ (beginHold s).cu = s.cu ∧ (beginHold s).rl = s.rl ∧ (beginHold s).fu = s.fu ∧
    (beginHold s).tie = s.tie ∧ (beginHold s).turbine = s.turbine ∧
    (beginHold s).mu.openInterval = s.mu.openInterval ∧ (beginHold s).mu.worksRem = s.mu.worksRem ∧
    (beginHold s).mu.purchRem = s.mu.purchRem ∧ (beginHold s).mu.demand = s.mu.demand ∧
    (beginHold s).dc = s.dc ∧ (beginHold s).rs = s.rs ∧ (beginHold s).fp = s.fp ∧ (beginHold s).mc = s.mc ∧
    (beginHold s).freeNext = s.freeNext ∧ (beginHold s).pending = s.pending := by
  simp only [beginHold]; (repeat' split) <;> simp [*]

@[simp] theorem meterStep_frame :
    (meterStep s).liu = s.liu ∧ (meterStep s).peers = s.peers ∧ (meterStep s).se = s.se ∧
    (meterStep s).hu = s.hu ∧ (meterStep s).cu = s.cu ∧ (meterStep s).rl = s.rl ∧ (meterStep s).fu = s.fu ∧
    (meterStep s).tie = s.tie ∧ (meterStep s).turbine = s.turbine ∧ (meterStep s).mu.worksRem = s.mu.worksRem ∧
    (meterStep s).mu.purchRem = s.mu.purchRem ∧ (meterStep s).mu.demand = s.mu.demand ∧
    (meterStep s).dc.time = s.dc.time ∧ (meterStep s).dc.quality = s.dc.quality ∧
    (meterStep s).dc.syncTimer = s.dc.syncTimer ∧ (meterStep s).dc.pendingStep = s.dc.pendingStep ∧
    (meterStep s).dc.hold = s.dc.hold ∧ (meterStep s).dc.trim = s.dc.trim ∧
    (meterStep s).dc.trimAcc = s.dc.trimAcc ∧ (meterStep s).rs.newest = s.rs.newest ∧ (meterStep s).fp = s.fp ∧
    (meterStep s).mc = s.mc ∧ (meterStep s).pending = s.pending := by
  simp only [meterStep]; (repeat' split) <;> simp [*]

@[simp] theorem resumeInterval_frame (i : Interval) :
    (resumeInterval i s).liu = s.liu ∧ (resumeInterval i s).peers = s.peers ∧ (resumeInterval i s).se = s.se ∧
    (resumeInterval i s).hu = s.hu ∧ (resumeInterval i s).cu = s.cu ∧ (resumeInterval i s).rl = s.rl ∧
    (resumeInterval i s).fu = s.fu ∧ (resumeInterval i s).tie = s.tie ∧
    (resumeInterval i s).turbine = s.turbine ∧ (resumeInterval i s).mu.worksRem = s.mu.worksRem ∧
    (resumeInterval i s).mu.purchRem = s.mu.purchRem ∧ (resumeInterval i s).mu.demand = s.mu.demand ∧
    (resumeInterval i s).dc.time = s.dc.time ∧ (resumeInterval i s).dc.quality = s.dc.quality ∧
    (resumeInterval i s).dc.syncTimer = s.dc.syncTimer ∧
    (resumeInterval i s).dc.pendingStep = s.dc.pendingStep ∧ (resumeInterval i s).dc.hold = s.dc.hold ∧
    (resumeInterval i s).dc.trim = s.dc.trim ∧ (resumeInterval i s).dc.trimAcc = s.dc.trimAcc ∧
    (resumeInterval i s).rs.newest = s.rs.newest ∧ (resumeInterval i s).fp = s.fp ∧
    (resumeInterval i s).mc = s.mc ∧ (resumeInterval i s).pending = s.pending := by
  simp only [resumeInterval]; (repeat' split) <;> simp [*]

@[simp] theorem meterStart_frame (k : StartKind) :
    (meterStart k s).liu = s.liu ∧ (meterStart k s).peers = s.peers ∧ (meterStart k s).se = s.se ∧
    (meterStart k s).hu = s.hu ∧ (meterStart k s).cu = s.cu ∧ (meterStart k s).rl = s.rl ∧
    (meterStart k s).fu = s.fu ∧ (meterStart k s).tie = s.tie ∧ (meterStart k s).turbine = s.turbine ∧
    (meterStart k s).mu.demand = s.mu.demand ∧ (meterStart k s).dc.time = s.dc.time ∧
    (meterStart k s).dc.quality = s.dc.quality ∧ (meterStart k s).dc.syncTimer = s.dc.syncTimer ∧
    (meterStart k s).dc.pendingStep = s.dc.pendingStep ∧ (meterStart k s).dc.hold = s.dc.hold ∧
    (meterStart k s).dc.trim = s.dc.trim ∧ (meterStart k s).dc.trimAcc = s.dc.trimAcc ∧
    (meterStart k s).rs.newest = s.rs.newest ∧ (meterStart k s).fp = s.fp ∧ (meterStart k s).mc = s.mc ∧
    (meterStart k s).pending = s.pending := by
  simp only [meterStart]; (repeat' split) <;> simp [*, clearMetering]

@[simp] theorem adopted_frame (f : TimePos) (dc : DayClock) :
    (adopted f dc).trim = dc.trim ∧ (adopted f dc).trimAcc = dc.trimAcc ∧
    (adopted f dc).secondLength = dc.secondLength ∧ (adopted f dc).time = dc.time ∧
    (adopted f dc).quality = .synced ∧ (adopted f dc).syncTimer = some 600 ∧
    (adopted f dc).spanStart = dc.spanStart ∧ (adopted f dc).timeTimer = dc.timeTimer ∧
    (adopted f dc).resetTime = dc.resetTime := by
  simp only [adopted, adoptedInHold]; (repeat' split) <;> simp_all

@[simp] theorem adopt_frame (f : TimePos) :
    (adopt f s).liu = s.liu ∧ (adopt f s).peers = s.peers ∧ (adopt f s).se = s.se ∧ (adopt f s).hu = s.hu ∧
    (adopt f s).cu = s.cu ∧ (adopt f s).rl = s.rl ∧ (adopt f s).fu = s.fu ∧ (adopt f s).tie = s.tie ∧
    (adopt f s).turbine = s.turbine ∧ (adopt f s).mu = s.mu ∧ (adopt f s).dc.time = s.dc.time ∧
    (adopt f s).dc.spanStart = s.dc.spanStart ∧ (adopt f s).dc.trim = s.dc.trim ∧
    (adopt f s).dc.trimAcc = s.dc.trimAcc ∧ (adopt f s).rs = s.rs ∧ (adopt f s).fp = s.fp ∧
    (adopt f s).mc.mode = s.mc.mode ∧ (adopt f s).mc.node = s.mc.node ∧ (adopt f s).mc.config = s.mc.config ∧
    (adopt f s).mc.warning = s.mc.warning ∧ (adopt f s).mc.supplyLow = s.mc.supplyLow ∧
    (adopt f s).freeNext = s.freeNext ∧ (adopt f s).pending = s.pending := by
  simp only [adopt]; (repeat' split) <;> simp [*]

@[simp] theorem takeTime_frame (f : TimePos) (q : Quality) :
    (takeTime f q s).liu = s.liu ∧ (takeTime f q s).peers = s.peers ∧ (takeTime f q s).se = s.se ∧
    (takeTime f q s).hu = s.hu ∧ (takeTime f q s).cu = s.cu ∧ (takeTime f q s).rl = s.rl ∧
    (takeTime f q s).fu = s.fu ∧ (takeTime f q s).tie = s.tie ∧ (takeTime f q s).turbine = s.turbine ∧
    (takeTime f q s).mu = s.mu ∧ (takeTime f q s).dc.time = s.dc.time ∧
    (takeTime f q s).dc.spanStart = s.dc.spanStart ∧ (takeTime f q s).dc.trim = s.dc.trim ∧
    (takeTime f q s).dc.trimAcc = s.dc.trimAcc ∧ (takeTime f q s).rs = s.rs ∧ (takeTime f q s).fp = s.fp ∧
    (takeTime f q s).mc.mode = s.mc.mode ∧ (takeTime f q s).mc.node = s.mc.node ∧
    (takeTime f q s).mc.config = s.mc.config ∧ (takeTime f q s).mc.warning = s.mc.warning ∧
    (takeTime f q s).mc.supplyLow = s.mc.supplyLow ∧ (takeTime f q s).freeNext = s.freeNext ∧
    (takeTime f q s).pending = s.pending := by
  simp only [takeTime]; (repeat' split) <;> simp [*]

@[simp] theorem takeTimeSet_frame (f : TimePos) :
    (takeTimeSet f s).liu = s.liu ∧ (takeTimeSet f s).peers = s.peers ∧ (takeTimeSet f s).se = s.se ∧
    (takeTimeSet f s).hu = s.hu ∧ (takeTimeSet f s).cu = s.cu ∧ (takeTimeSet f s).rl = s.rl ∧
    (takeTimeSet f s).fu = s.fu ∧ (takeTimeSet f s).tie = s.tie ∧ (takeTimeSet f s).turbine = s.turbine ∧
    (takeTimeSet f s).mu = s.mu ∧ (takeTimeSet f s).dc.time = s.dc.time ∧
    (takeTimeSet f s).dc.spanStart = s.dc.spanStart ∧ (takeTimeSet f s).dc.trim = s.dc.trim ∧
    (takeTimeSet f s).dc.trimAcc = s.dc.trimAcc ∧ (takeTimeSet f s).rs = s.rs ∧ (takeTimeSet f s).fp = s.fp ∧
    (takeTimeSet f s).mc.mode = s.mc.mode ∧ (takeTimeSet f s).mc.node = s.mc.node ∧
    (takeTimeSet f s).mc.config = s.mc.config ∧ (takeTimeSet f s).mc.warning = s.mc.warning ∧
    (takeTimeSet f s).mc.supplyLow = s.mc.supplyLow ∧ (takeTimeSet f s).freeNext = s.freeNext ∧
    (takeTimeSet f s).pending = s.pending := by
  simp only [takeTimeSet]; (repeat' split) <;> simp [*]

@[simp] theorem notifyStep_frame :
    (notifyStep s).liu = s.liu ∧ (notifyStep s).peers = s.peers ∧ (notifyStep s).se = s.se ∧
    (notifyStep s).hu = s.hu ∧ (notifyStep s).cu = s.cu ∧ (notifyStep s).rl = s.rl ∧ (notifyStep s).fu = s.fu ∧
    (notifyStep s).turbine = s.turbine ∧ (notifyStep s).mu.worksRem = s.mu.worksRem ∧
    (notifyStep s).mu.purchRem = s.mu.purchRem ∧ (notifyStep s).mu.demand = s.mu.demand ∧
    (notifyStep s).dc.time = s.dc.time ∧ (notifyStep s).dc.quality = s.dc.quality ∧
    (notifyStep s).dc.syncTimer = s.dc.syncTimer ∧ (notifyStep s).dc.pendingStep = s.dc.pendingStep ∧
    (notifyStep s).dc.hold = s.dc.hold ∧ (notifyStep s).dc.trim = s.dc.trim ∧
    (notifyStep s).dc.trimAcc = s.dc.trimAcc ∧ (notifyStep s).rs.newest = s.rs.newest ∧
    (notifyStep s).fp = s.fp ∧ (notifyStep s).mc = s.mc ∧ (notifyStep s).pending = s.pending := by
  simp only [notifyStep]; (repeat' split) <;> simp [*]

@[simp] theorem deliverSecond_frame :
    (deliverSecond s).liu = s.liu ∧ (deliverSecond s).peers = s.peers ∧ (deliverSecond s).se = s.se ∧
    (deliverSecond s).hu = s.hu ∧ (deliverSecond s).cu = s.cu ∧ (deliverSecond s).rl = s.rl ∧
    (deliverSecond s).fu = s.fu ∧ (deliverSecond s).turbine = s.turbine ∧
    (deliverSecond s).mu.demand = s.mu.demand ∧ (deliverSecond s).dc.time = s.dc.time ∧
    (deliverSecond s).dc.quality = s.dc.quality ∧ (deliverSecond s).dc.syncTimer = s.dc.syncTimer ∧
    (deliverSecond s).dc.pendingStep = s.dc.pendingStep ∧ (deliverSecond s).dc.hold = s.dc.hold ∧
    (deliverSecond s).dc.trim = s.dc.trim ∧ (deliverSecond s).dc.trimAcc = s.dc.trimAcc ∧
    (deliverSecond s).rs.newest = s.rs.newest ∧ (deliverSecond s).fp = s.fp ∧ (deliverSecond s).mc = s.mc ∧
    (deliverSecond s).pending = s.pending := by
  simp only [deliverSecond]; (repeat' split) <;> simp [*]

@[simp] theorem deliverHeld_frame (ends : Bool) :
    (deliverHeld ends s).liu = s.liu ∧ (deliverHeld ends s).peers = s.peers ∧ (deliverHeld ends s).se = s.se ∧
    (deliverHeld ends s).hu = s.hu ∧ (deliverHeld ends s).cu = s.cu ∧ (deliverHeld ends s).rl = s.rl ∧
    (deliverHeld ends s).fu = s.fu ∧ (deliverHeld ends s).turbine = s.turbine ∧
    (deliverHeld ends s).mu.demand = s.mu.demand ∧ (deliverHeld ends s).dc.time = s.dc.time ∧
    (deliverHeld ends s).dc.quality = s.dc.quality ∧ (deliverHeld ends s).dc.syncTimer = s.dc.syncTimer ∧
    (deliverHeld ends s).dc.pendingStep = s.dc.pendingStep ∧ (deliverHeld ends s).dc.hold = s.dc.hold ∧
    (deliverHeld ends s).dc.trim = s.dc.trim ∧ (deliverHeld ends s).dc.trimAcc = s.dc.trimAcc ∧
    (deliverHeld ends s).rs.newest = s.rs.newest ∧ (deliverHeld ends s).fp = s.fp ∧
    (deliverHeld ends s).mc = s.mc ∧ (deliverHeld ends s).pending = s.pending := by
  simp only [deliverHeld]; (repeat' split) <;> simp [*]

@[simp] theorem advanceTime_frame :
    (advanceTime s).liu = s.liu ∧ (advanceTime s).peers = s.peers ∧ (advanceTime s).se = s.se ∧
    (advanceTime s).hu = s.hu ∧ (advanceTime s).cu = s.cu ∧ (advanceTime s).rl = s.rl ∧
    (advanceTime s).fu = s.fu ∧ (advanceTime s).turbine = s.turbine ∧ (advanceTime s).mu.demand = s.mu.demand ∧
    (advanceTime s).dc.quality = s.dc.quality ∧ (advanceTime s).dc.syncTimer = s.dc.syncTimer ∧
    (advanceTime s).dc.pendingStep = s.dc.pendingStep ∧ (advanceTime s).dc.hold = s.dc.hold ∧
    (advanceTime s).dc.trim = s.dc.trim ∧ (advanceTime s).dc.trimAcc = s.dc.trimAcc ∧
    (advanceTime s).rs.newest = s.rs.newest ∧ (advanceTime s).fp = s.fp ∧ (advanceTime s).mc = s.mc ∧
    (advanceTime s).pending = s.pending := by
  simp only [advanceTime]; (repeat' split) <;> simp [*]

@[simp] theorem heldSecond_frame (h : Hold) :
    (heldSecond h s).liu = s.liu ∧ (heldSecond h s).peers = s.peers ∧ (heldSecond h s).se = s.se ∧
    (heldSecond h s).hu = s.hu ∧ (heldSecond h s).cu = s.cu ∧ (heldSecond h s).rl = s.rl ∧
    (heldSecond h s).fu = s.fu ∧ (heldSecond h s).turbine = s.turbine ∧
    (heldSecond h s).mu.demand = s.mu.demand ∧ (heldSecond h s).dc.time = s.dc.time ∧
    (heldSecond h s).dc.quality = s.dc.quality ∧ (heldSecond h s).dc.syncTimer = s.dc.syncTimer ∧
    (heldSecond h s).dc.trim = s.dc.trim ∧ (heldSecond h s).dc.trimAcc = s.dc.trimAcc ∧
    (heldSecond h s).rs.newest = s.rs.newest ∧ (heldSecond h s).fp = s.fp ∧ (heldSecond h s).mc = s.mc ∧
    (heldSecond h s).pending = s.pending := by
  simp only [heldSecond]; (repeat' split) <;> simp [*]

@[simp] theorem clampAt_frame (point f : TimePos) :
    (clampAt point f s).liu = s.liu ∧ (clampAt point f s).peers = s.peers ∧ (clampAt point f s).se = s.se ∧
    (clampAt point f s).hu = s.hu ∧ (clampAt point f s).cu = s.cu ∧ (clampAt point f s).rl = s.rl ∧
    (clampAt point f s).fu = s.fu ∧ (clampAt point f s).turbine = s.turbine ∧
    (clampAt point f s).mu.demand = s.mu.demand ∧ (clampAt point f s).dc.quality = s.dc.quality ∧
    (clampAt point f s).dc.syncTimer = s.dc.syncTimer ∧ (clampAt point f s).dc.trim = s.dc.trim ∧
    (clampAt point f s).dc.trimAcc = s.dc.trimAcc ∧ (clampAt point f s).rs.newest = s.rs.newest ∧
    (clampAt point f s).fp = s.fp ∧ (clampAt point f s).mc = s.mc ∧
    (clampAt point f s).pending = s.pending := by
  simp only [clampAt]; (repeat' split) <;> simp [*]

@[simp] theorem stepSecond_frame (f : TimePos) :
    (stepSecond f s).liu = s.liu ∧ (stepSecond f s).peers = s.peers ∧ (stepSecond f s).se = s.se ∧
    (stepSecond f s).hu = s.hu ∧ (stepSecond f s).cu = s.cu ∧ (stepSecond f s).rl = s.rl ∧
    (stepSecond f s).fu = s.fu ∧ (stepSecond f s).turbine = s.turbine ∧
    (stepSecond f s).mu.demand = s.mu.demand ∧ (stepSecond f s).dc.quality = s.dc.quality ∧
    (stepSecond f s).dc.syncTimer = s.dc.syncTimer ∧ (stepSecond f s).dc.trim = s.dc.trim ∧
    (stepSecond f s).dc.trimAcc = s.dc.trimAcc ∧ (stepSecond f s).rs.newest = s.rs.newest ∧
    (stepSecond f s).fp = s.fp ∧ (stepSecond f s).mc = s.mc ∧ (stepSecond f s).pending = s.pending := by
  simp only [stepSecond]; (repeat' split) <;> simp [*]

@[simp] theorem holdSecondWith_frame (f : TimePos) (h : Hold) :
    (holdSecondWith f h s).liu = s.liu ∧ (holdSecondWith f h s).peers = s.peers ∧
    (holdSecondWith f h s).se = s.se ∧ (holdSecondWith f h s).hu = s.hu ∧ (holdSecondWith f h s).cu = s.cu ∧
    (holdSecondWith f h s).rl = s.rl ∧ (holdSecondWith f h s).fu = s.fu ∧
    (holdSecondWith f h s).turbine = s.turbine ∧ (holdSecondWith f h s).mu.demand = s.mu.demand ∧
    (holdSecondWith f h s).dc.quality = s.dc.quality ∧ (holdSecondWith f h s).dc.syncTimer = s.dc.syncTimer ∧
    (holdSecondWith f h s).dc.trim = s.dc.trim ∧ (holdSecondWith f h s).dc.trimAcc = s.dc.trimAcc ∧
    (holdSecondWith f h s).rs.newest = s.rs.newest ∧ (holdSecondWith f h s).fp = s.fp ∧
    (holdSecondWith f h s).mc = s.mc ∧ (holdSecondWith f h s).pending = s.pending := by
  simp only [holdSecondWith]; (repeat' split) <;> simp [*]

@[simp] theorem clockSecond_frame :
    (clockSecond s).liu = s.liu ∧ (clockSecond s).peers = s.peers ∧ (clockSecond s).se = s.se ∧
    (clockSecond s).hu = s.hu ∧ (clockSecond s).cu = s.cu ∧ (clockSecond s).rl = s.rl ∧
    (clockSecond s).fu = s.fu ∧ (clockSecond s).turbine = s.turbine ∧ (clockSecond s).mu.demand = s.mu.demand ∧
    (clockSecond s).dc.quality = s.dc.quality ∧ (clockSecond s).dc.syncTimer = s.dc.syncTimer ∧
    (clockSecond s).dc.trim = s.dc.trim ∧ (clockSecond s).dc.trimAcc = s.dc.trimAcc ∧
    (clockSecond s).rs.newest = s.rs.newest ∧ (clockSecond s).fp = s.fp ∧ (clockSecond s).mc = s.mc ∧
    (clockSecond s).pending = s.pending := by
  simp only [clockSecond]; (repeat' split) <;> simp [*]

@[simp] theorem tickTimers_frame :
    (tickTimers s).liu.tx = s.liu.tx ∧ (tickTimers s).liu.rx = s.liu.rx ∧
    (tickTimers s).liu.drops = s.liu.drops ∧ (tickTimers s).liu.lastEdge = s.liu.lastEdge ∧
    (tickTimers s).liu.backoff = s.liu.backoff ∧ (tickTimers s).se.fallback = s.se.fallback ∧
    (tickTimers s).se.capability = s.se.capability ∧ (tickTimers s).se.measured = s.se.measured ∧
    (tickTimers s).hu.level = s.hu.level ∧ (tickTimers s).hu.band = s.hu.band ∧
    (tickTimers s).hu.position = s.hu.position ∧ (tickTimers s).cu = s.cu ∧
    (∀ k, ((tickTimers s).rl.get k).taken = (s.rl.get k).taken) ∧ (tickTimers s).fu.mode = s.fu.mode ∧
    (tickTimers s).fu.recorded = s.fu.recorded ∧ (tickTimers s).tie = s.tie ∧
    (tickTimers s).turbine = s.turbine ∧ (tickTimers s).mu = s.mu ∧ (tickTimers s).dc.time = s.dc.time ∧
    (tickTimers s).dc.quality = s.dc.quality ∧ (tickTimers s).dc.pendingStep = s.dc.pendingStep ∧
    (tickTimers s).dc.hold = s.dc.hold ∧ (tickTimers s).dc.spanStart = s.dc.spanStart ∧
    (tickTimers s).dc.trim = s.dc.trim ∧ (tickTimers s).dc.trimAcc = s.dc.trimAcc ∧ (tickTimers s).rs = s.rs ∧
    (tickTimers s).fp.link = s.fp.link ∧ (tickTimers s).mc.mode = s.mc.mode ∧
    (tickTimers s).mc.node = s.mc.node ∧ (tickTimers s).mc.config = s.mc.config ∧
    (tickTimers s).mc.faults = s.mc.faults ∧ (tickTimers s).mc.warning = s.mc.warning ∧
    (tickTimers s).mc.supplyLow = s.mc.supplyLow ∧ (tickTimers s).freeNext = s.freeNext ∧
    (tickTimers s).pending = s.pending := by
  simp only [tickTimers]; (repeat' split) <;> simp [*, ladderTick]

end Sys2Proof.Machine
end

