-- ==== Sys2Proof/Laws/Frame4.lean ====
section
/-! SUPPORT. What each mode, round and load operation leaves of the state, as one equation list per operation. -/

namespace Sys2Proof.Machine

variable (s : State)

@[simp] theorem slotsFreed_frame (ls : List TxEntry) :
    (slotsFreed ls s).liu = s.liu ∧ (slotsFreed ls s).peers = s.peers ∧ (slotsFreed ls s).se = s.se ∧
    (slotsFreed ls s).hu = s.hu ∧ (slotsFreed ls s).cu = s.cu ∧ (slotsFreed ls s).rl = s.rl ∧
    (slotsFreed ls s).fu = s.fu ∧ (slotsFreed ls s).tie = s.tie ∧ (slotsFreed ls s).turbine = s.turbine ∧
    (slotsFreed ls s).mu = s.mu ∧ (slotsFreed ls s).dc = s.dc ∧
    (slotsFreed ls s).rs.holdQueue = s.rs.holdQueue ∧ (slotsFreed ls s).rs.slots = s.rs.slots ∧
    (slotsFreed ls s).rs.newest = s.rs.newest ∧ (slotsFreed ls s).rs.nextSeq = s.rs.nextSeq ∧
    (slotsFreed ls s).fp = s.fp ∧ (slotsFreed ls s).mc = s.mc ∧ (slotsFreed ls s).freeNext = s.freeNext ∧
    (slotsFreed ls s).pending = s.pending := by
  induction ls generalizing s with
  | nil => simp only [slotsFreed]; (repeat' split) <;> simp [*]
  | cons a as ih => simp only [slotsFreed]; (repeat' split) <;> simp [*]

@[simp] theorem lineSleeps_frame :
    (lineSleeps s).liu.drops = s.liu.drops ∧ (lineSleeps s).liu.lastEdge = s.liu.lastEdge ∧
    (lineSleeps s).liu.clash = s.liu.clash ∧ (lineSleeps s).liu.backoff = s.liu.backoff ∧
    (lineSleeps s).peers = s.peers ∧ (lineSleeps s).se = s.se ∧ (lineSleeps s).hu = s.hu ∧
    (lineSleeps s).cu = s.cu ∧ (lineSleeps s).rl = s.rl ∧ (lineSleeps s).fu = s.fu ∧
    (lineSleeps s).tie = s.tie ∧ (lineSleeps s).turbine = s.turbine ∧ (lineSleeps s).mu = s.mu ∧
    (lineSleeps s).dc = s.dc ∧ (lineSleeps s).rs.holdQueue = s.rs.holdQueue ∧
    (lineSleeps s).rs.slots = s.rs.slots ∧ (lineSleeps s).rs.newest = s.rs.newest ∧
    (lineSleeps s).rs.nextSeq = s.rs.nextSeq ∧ (lineSleeps s).fp = s.fp ∧ (lineSleeps s).mc = s.mc ∧
    (lineSleeps s).pending = s.pending := by
  simp only [lineSleeps]; (repeat' split) <;> simp [*]

@[simp] theorem lineLeaves_frame :
    (lineLeaves s).liu.rx = s.liu.rx ∧ (lineLeaves s).liu.drops = s.liu.drops ∧
    (lineLeaves s).liu.lastEdge = s.liu.lastEdge ∧ (lineLeaves s).liu.clash = s.liu.clash ∧
    (lineLeaves s).liu.backoff = s.liu.backoff ∧ (lineLeaves s).peers = s.peers ∧ (lineLeaves s).se = s.se ∧
    (lineLeaves s).hu = s.hu ∧ (lineLeaves s).cu = s.cu ∧ (lineLeaves s).rl = s.rl ∧ (lineLeaves s).fu = s.fu ∧
    (lineLeaves s).tie = s.tie ∧ (lineLeaves s).turbine = s.turbine ∧ (lineLeaves s).mu = s.mu ∧
    (lineLeaves s).dc = s.dc ∧ (lineLeaves s).rs = s.rs ∧ (lineLeaves s).fp = s.fp ∧ (lineLeaves s).mc = s.mc ∧
    (lineLeaves s).pending = s.pending := by
  simp only [lineLeaves]; (repeat' split) <;> simp [*]

@[simp] theorem releaseAndClear_frame :
    (releaseAndClear s).liu.rx = s.liu.rx ∧ (releaseAndClear s).liu.drops = s.liu.drops ∧
    (releaseAndClear s).liu.lastEdge = s.liu.lastEdge ∧ (releaseAndClear s).liu.clash = s.liu.clash ∧
    (releaseAndClear s).liu.backoff = s.liu.backoff ∧ (releaseAndClear s).peers = s.peers ∧
    (releaseAndClear s).se.roundTimer = s.se.roundTimer ∧ (releaseAndClear s).se.fallback = s.se.fallback ∧
    (releaseAndClear s).se.capability = s.se.capability ∧ (releaseAndClear s).se.measured = s.se.measured ∧
    (releaseAndClear s).hu.level = s.hu.level ∧ (releaseAndClear s).hu.band = s.hu.band ∧
    (releaseAndClear s).hu.position = s.hu.position ∧ (releaseAndClear s).tie = s.tie ∧
    (releaseAndClear s).turbine = s.turbine ∧ (releaseAndClear s).mu = s.mu ∧ (releaseAndClear s).dc = s.dc ∧
    (releaseAndClear s).rs = s.rs ∧ (releaseAndClear s).fp.link = s.fp.link ∧
    (releaseAndClear s).fp.linkTimer = s.fp.linkTimer ∧ (releaseAndClear s).mc = s.mc ∧
    (releaseAndClear s).pending = s.pending := by
  simp only [releaseAndClear]; (repeat' split) <;> simp [*]

@[simp] theorem enterStandbyListen_frame :
    (enterStandbyListen s).liu.rx = s.liu.rx ∧ (enterStandbyListen s).liu.drops = s.liu.drops ∧
    (enterStandbyListen s).liu.lastEdge = s.liu.lastEdge ∧ (enterStandbyListen s).liu.clash = s.liu.clash ∧
    (enterStandbyListen s).liu.backoff = s.liu.backoff ∧ (enterStandbyListen s).peers = s.peers ∧
    (enterStandbyListen s).se.roundTimer = s.se.roundTimer ∧
    (enterStandbyListen s).se.capability = s.se.capability ∧
    (enterStandbyListen s).se.measured = s.se.measured ∧ (enterStandbyListen s).hu.level = s.hu.level ∧
    (enterStandbyListen s).hu.band = s.hu.band ∧ (enterStandbyListen s).hu.position = s.hu.position ∧
    (enterStandbyListen s).tie = s.tie ∧ (enterStandbyListen s).turbine = s.turbine ∧
    (enterStandbyListen s).mu = s.mu ∧ (enterStandbyListen s).dc = s.dc ∧ (enterStandbyListen s).rs = s.rs ∧
    (enterStandbyListen s).fp.link = s.fp.link ∧ (enterStandbyListen s).fp.linkTimer = s.fp.linkTimer ∧
    (enterStandbyListen s).mc.node = s.mc.node ∧ (enterStandbyListen s).mc.config = s.mc.config ∧
    (enterStandbyListen s).mc.faults = s.mc.faults ∧ (enterStandbyListen s).mc.warning = s.mc.warning ∧
    (enterStandbyListen s).mc.supplyLow = s.mc.supplyLow ∧ (enterStandbyListen s).pending = s.pending := by
  simp only [enterStandbyListen]; (repeat' split) <;> simp [*]

@[simp] theorem enterStandbyDeep_frame :
    (enterStandbyDeep s).liu.drops = s.liu.drops ∧ (enterStandbyDeep s).liu.lastEdge = s.liu.lastEdge ∧
    (enterStandbyDeep s).liu.clash = s.liu.clash ∧ (enterStandbyDeep s).liu.backoff = s.liu.backoff ∧
    (enterStandbyDeep s).se.capability = s.se.capability ∧ (enterStandbyDeep s).se.measured = s.se.measured ∧
    (enterStandbyDeep s).hu = s.hu ∧ (enterStandbyDeep s).fu.mode = s.fu.mode ∧
    (enterStandbyDeep s).tie = s.tie ∧ (enterStandbyDeep s).turbine = s.turbine ∧
    (enterStandbyDeep s).mu = s.mu ∧ (enterStandbyDeep s).dc = s.dc ∧
    (enterStandbyDeep s).rs.holdQueue = s.rs.holdQueue ∧ (enterStandbyDeep s).rs.slots = s.rs.slots ∧
    (enterStandbyDeep s).rs.newest = s.rs.newest ∧ (enterStandbyDeep s).rs.nextSeq = s.rs.nextSeq ∧
    (enterStandbyDeep s).fp.link = s.fp.link ∧ (enterStandbyDeep s).fp.linkTimer = s.fp.linkTimer ∧
    (enterStandbyDeep s).mc.node = s.mc.node ∧ (enterStandbyDeep s).mc.config = s.mc.config ∧
    (enterStandbyDeep s).mc.faults = s.mc.faults ∧ (enterStandbyDeep s).mc.warning = s.mc.warning ∧
    (enterStandbyDeep s).mc.supplyLow = s.mc.supplyLow ∧ (enterStandbyDeep s).pending = s.pending := by
  simp only [enterStandbyDeep]; (repeat' split) <;> simp [*, engineAsleep]

@[simp] theorem requestTaken_frame :
    (requestTaken s).liu = s.liu ∧ (requestTaken s).peers = s.peers ∧ (requestTaken s).se = s.se ∧
    (requestTaken s).hu = s.hu ∧ (requestTaken s).cu = s.cu ∧ (requestTaken s).rl = s.rl ∧
    (requestTaken s).fu = s.fu ∧ (requestTaken s).tie = s.tie ∧ (requestTaken s).turbine = s.turbine ∧
    (requestTaken s).mu = s.mu ∧ (requestTaken s).dc = s.dc ∧ (requestTaken s).rs = s.rs ∧
    (requestTaken s).fp = s.fp ∧ (requestTaken s).mc.mode = s.mc.mode ∧ (requestTaken s).mc.node = s.mc.node ∧
    (requestTaken s).mc.config = s.mc.config ∧ (requestTaken s).mc.faults = s.mc.faults ∧
    (requestTaken s).mc.warning = s.mc.warning ∧ (requestTaken s).mc.supplyLow = s.mc.supplyLow ∧
    (requestTaken s).freeNext = s.freeNext ∧ (requestTaken s).pending = s.pending := by
  simp only [requestTaken]; (repeat' split) <;> simp [*]

@[simp] theorem clearIfAsked_frame (r : StandbyRequest) :
    (clearIfAsked r s).liu = s.liu ∧ (clearIfAsked r s).peers = s.peers ∧ (clearIfAsked r s).se = s.se ∧
    (clearIfAsked r s).hu = s.hu ∧ (clearIfAsked r s).cu = s.cu ∧ (clearIfAsked r s).rl = s.rl ∧
    (clearIfAsked r s).fu = s.fu ∧ (clearIfAsked r s).tie = s.tie ∧ (clearIfAsked r s).turbine = s.turbine ∧
    (clearIfAsked r s).mu = s.mu ∧ (clearIfAsked r s).dc = s.dc ∧ (clearIfAsked r s).rs = s.rs ∧
    (clearIfAsked r s).fp = s.fp ∧ (clearIfAsked r s).mc.mode = s.mc.mode ∧
    (clearIfAsked r s).mc.node = s.mc.node ∧ (clearIfAsked r s).mc.config = s.mc.config ∧
    (clearIfAsked r s).mc.faults = s.mc.faults ∧ (clearIfAsked r s).mc.warning = s.mc.warning ∧
    (clearIfAsked r s).mc.supplyLow = s.mc.supplyLow ∧ (clearIfAsked r s).freeNext = s.freeNext ∧
    (clearIfAsked r s).pending = s.pending := by
  simp only [clearIfAsked]; (repeat' split) <;> simp [*]

@[simp] theorem deepTakesEffect_frame :
    (deepTakesEffect s).liu.drops = s.liu.drops ∧ (deepTakesEffect s).liu.lastEdge = s.liu.lastEdge ∧
    (deepTakesEffect s).liu.clash = s.liu.clash ∧ (deepTakesEffect s).liu.backoff = s.liu.backoff ∧
    (deepTakesEffect s).se.capability = s.se.capability ∧ (deepTakesEffect s).se.measured = s.se.measured ∧
    (deepTakesEffect s).hu.level = s.hu.level ∧ (deepTakesEffect s).hu.band = s.hu.band ∧
    (deepTakesEffect s).hu.position = s.hu.position ∧ (deepTakesEffect s).tie = s.tie ∧
    (deepTakesEffect s).turbine = s.turbine ∧ (deepTakesEffect s).mu = s.mu ∧ (deepTakesEffect s).dc = s.dc ∧
    (deepTakesEffect s).rs.holdQueue = s.rs.holdQueue ∧ (deepTakesEffect s).rs.slots = s.rs.slots ∧
    (deepTakesEffect s).rs.newest = s.rs.newest ∧ (deepTakesEffect s).rs.nextSeq = s.rs.nextSeq ∧
    (deepTakesEffect s).fp.link = s.fp.link ∧ (deepTakesEffect s).fp.linkTimer = s.fp.linkTimer ∧
    (deepTakesEffect s).mc.node = s.mc.node ∧ (deepTakesEffect s).mc.config = s.mc.config ∧
    (deepTakesEffect s).mc.faults = s.mc.faults ∧ (deepTakesEffect s).mc.warning = s.mc.warning ∧
    (deepTakesEffect s).mc.supplyLow = s.mc.supplyLow ∧ (deepTakesEffect s).pending = s.pending := by
  simp only [deepTakesEffect]; (repeat' split) <;> simp [*]

@[simp] theorem requestWaits_frame (level : StandbyLevel) (clearWake : Bool) :
    (requestWaits level clearWake s).liu = s.liu ∧ (requestWaits level clearWake s).peers = s.peers ∧
    (requestWaits level clearWake s).se = s.se ∧ (requestWaits level clearWake s).hu = s.hu ∧
    (requestWaits level clearWake s).cu = s.cu ∧ (requestWaits level clearWake s).rl = s.rl ∧
    (requestWaits level clearWake s).fu = s.fu ∧ (requestWaits level clearWake s).tie = s.tie ∧
    (requestWaits level clearWake s).turbine = s.turbine ∧ (requestWaits level clearWake s).mu = s.mu ∧
    (requestWaits level clearWake s).dc = s.dc ∧ (requestWaits level clearWake s).rs = s.rs ∧
    (requestWaits level clearWake s).fp = s.fp ∧ (requestWaits level clearWake s).mc.mode = s.mc.mode ∧
    (requestWaits level clearWake s).mc.node = s.mc.node ∧
    (requestWaits level clearWake s).mc.config = s.mc.config ∧
    (requestWaits level clearWake s).mc.faults = s.mc.faults ∧
    (requestWaits level clearWake s).mc.warning = s.mc.warning ∧
    (requestWaits level clearWake s).mc.supplyLow = s.mc.supplyLow ∧
    (requestWaits level clearWake s).freeNext = s.freeNext ∧
    (requestWaits level clearWake s).pending = s.pending := by
  simp only [requestWaits]; (repeat' split) <;> simp [*]

@[simp] theorem standbyOutcome_frame (o : StandbyOutcome) :
    (standbyOutcome o s).liu = s.liu ∧ (standbyOutcome o s).peers = s.peers ∧ (standbyOutcome o s).se = s.se ∧
    (standbyOutcome o s).hu = s.hu ∧ (standbyOutcome o s).cu = s.cu ∧ (standbyOutcome o s).rl = s.rl ∧
    (standbyOutcome o s).fu = s.fu ∧ (standbyOutcome o s).tie = s.tie ∧
    (standbyOutcome o s).turbine = s.turbine ∧ (standbyOutcome o s).mu = s.mu ∧ (standbyOutcome o s).dc = s.dc ∧
    (standbyOutcome o s).rs = s.rs ∧ (standbyOutcome o s).fp = s.fp ∧ (standbyOutcome o s).mc.mode = s.mc.mode ∧
    (standbyOutcome o s).mc.node = s.mc.node ∧ (standbyOutcome o s).mc.config = s.mc.config ∧
    (standbyOutcome o s).mc.faults = s.mc.faults ∧ (standbyOutcome o s).mc.warning = s.mc.warning ∧
    (standbyOutcome o s).mc.supplyLow = s.mc.supplyLow ∧ (standbyOutcome o s).freeNext = s.freeNext ∧
    (standbyOutcome o s).pending = s.pending := by
  simp only [standbyOutcome]; (repeat' split) <;> simp [*]

@[simp] theorem takeStandbyRequest_frame (level : StandbyLevel) (clearWake : Bool) :
    (takeStandbyRequest level clearWake s).liu = s.liu ∧
    (takeStandbyRequest level clearWake s).peers = s.peers ∧ (takeStandbyRequest level clearWake s).se = s.se ∧
    (takeStandbyRequest level clearWake s).hu = s.hu ∧ (takeStandbyRequest level clearWake s).cu = s.cu ∧
    (takeStandbyRequest level clearWake s).rl = s.rl ∧ (takeStandbyRequest level clearWake s).fu = s.fu ∧
    (takeStandbyRequest level clearWake s).tie = s.tie ∧
    (takeStandbyRequest level clearWake s).turbine = s.turbine ∧
    (takeStandbyRequest level clearWake s).mu = s.mu ∧ (takeStandbyRequest level clearWake s).dc = s.dc ∧
    (takeStandbyRequest level clearWake s).rs = s.rs ∧ (takeStandbyRequest level clearWake s).fp = s.fp ∧
    (takeStandbyRequest level clearWake s).mc.mode = s.mc.mode ∧
    (takeStandbyRequest level clearWake s).mc.node = s.mc.node ∧
    (takeStandbyRequest level clearWake s).mc.config = s.mc.config ∧
    (takeStandbyRequest level clearWake s).mc.faults = s.mc.faults ∧
    (takeStandbyRequest level clearWake s).mc.warning = s.mc.warning ∧
    (takeStandbyRequest level clearWake s).mc.supplyLow = s.mc.supplyLow ∧
    (takeStandbyRequest level clearWake s).freeNext = s.freeNext ∧
    (takeStandbyRequest level clearWake s).pending = s.pending := by
  simp only [takeStandbyRequest]; (repeat' split) <;> simp [*]

@[simp] theorem shortClose_frame :
    (shortClose s).liu = s.liu ∧ (shortClose s).peers = s.peers ∧ (shortClose s).se = s.se ∧
    (shortClose s).hu = s.hu ∧ (shortClose s).cu = s.cu ∧ (shortClose s).rl = s.rl ∧ (shortClose s).fu = s.fu ∧
    (shortClose s).turbine = s.turbine ∧ (shortClose s).mu.worksRem = s.mu.worksRem ∧
    (shortClose s).mu.purchRem = s.mu.purchRem ∧ (shortClose s).mu.demand = s.mu.demand ∧
    (shortClose s).dc.time = s.dc.time ∧ (shortClose s).dc.quality = s.dc.quality ∧
    (shortClose s).dc.syncTimer = s.dc.syncTimer ∧ (shortClose s).dc.pendingStep = s.dc.pendingStep ∧
    (shortClose s).dc.hold = s.dc.hold ∧ (shortClose s).dc.trim = s.dc.trim ∧
    (shortClose s).dc.trimAcc = s.dc.trimAcc ∧ (shortClose s).rs.newest = s.rs.newest ∧
    (shortClose s).fp = s.fp ∧ (shortClose s).mc = s.mc ∧ (shortClose s).pending = s.pending := by
  simp only [shortClose]; (repeat' split) <;> simp [*]

@[simp] theorem enterLeaving_frame :
    (enterLeaving s).liu.rx = s.liu.rx ∧ (enterLeaving s).liu.drops = s.liu.drops ∧
    (enterLeaving s).liu.lastEdge = s.liu.lastEdge ∧ (enterLeaving s).liu.clash = s.liu.clash ∧
    (enterLeaving s).liu.backoff = s.liu.backoff ∧ (enterLeaving s).peers = s.peers ∧
    (enterLeaving s).se.capability = s.se.capability ∧ (enterLeaving s).se.measured = s.se.measured ∧
    (enterLeaving s).hu.level = s.hu.level ∧ (enterLeaving s).hu.band = s.hu.band ∧
    (enterLeaving s).hu.position = s.hu.position ∧ (enterLeaving s).tie = s.tie ∧
    (enterLeaving s).turbine = s.turbine ∧ (enterLeaving s).mu = s.mu ∧ (enterLeaving s).dc = s.dc ∧
    (enterLeaving s).rs = s.rs ∧ (enterLeaving s).fp.link = s.fp.link ∧
    (enterLeaving s).fp.linkTimer = s.fp.linkTimer ∧ (enterLeaving s).mc.node = s.mc.node ∧
    (enterLeaving s).mc.config = s.mc.config ∧ (enterLeaving s).mc.faults = s.mc.faults ∧
    (enterLeaving s).mc.supplyLow = s.mc.supplyLow ∧ (enterLeaving s).pending = s.pending := by
  simp only [enterLeaving]; (repeat' split) <;> simp [*]

@[simp] theorem startReady_frame :
    (startReady s).liu = s.liu ∧ (startReady s).peers = s.peers ∧ (startReady s).se = s.se ∧
    (startReady s).hu = s.hu ∧ (startReady s).cu = s.cu ∧ (startReady s).rl = s.rl ∧ (startReady s).fu = s.fu ∧
    (startReady s).tie = s.tie ∧ (startReady s).turbine = s.turbine ∧ (startReady s).mu = s.mu ∧
    (startReady s).dc = s.dc ∧ (startReady s).rs = s.rs ∧ (startReady s).fp.link = s.fp.link ∧
    (startReady s).fp.linkTimer = s.fp.linkTimer ∧ (startReady s).mc.mode = s.mc.mode ∧
    (startReady s).mc.node = s.mc.node ∧ (startReady s).mc.config = s.mc.config ∧
    (startReady s).mc.faults = s.mc.faults ∧ (startReady s).mc.warning = s.mc.warning ∧
    (startReady s).mc.supplyLow = s.mc.supplyLow ∧ (startReady s).freeNext = s.freeNext ∧
    (startReady s).pending = s.pending := by
  simp only [startReady]; (repeat' split) <;> simp [*]

@[simp] theorem takeResetWarning_frame :
    (takeResetWarning s).liu.rx = s.liu.rx ∧ (takeResetWarning s).liu.drops = s.liu.drops ∧
    (takeResetWarning s).liu.lastEdge = s.liu.lastEdge ∧ (takeResetWarning s).liu.clash = s.liu.clash ∧
    (takeResetWarning s).liu.backoff = s.liu.backoff ∧ (takeResetWarning s).peers = s.peers ∧
    (takeResetWarning s).se.capability = s.se.capability ∧ (takeResetWarning s).se.measured = s.se.measured ∧
    (takeResetWarning s).hu.level = s.hu.level ∧ (takeResetWarning s).hu.band = s.hu.band ∧
    (takeResetWarning s).hu.position = s.hu.position ∧ (takeResetWarning s).turbine = s.turbine ∧
    (takeResetWarning s).mu.worksRem = s.mu.worksRem ∧ (takeResetWarning s).mu.purchRem = s.mu.purchRem ∧
    (takeResetWarning s).mu.demand = s.mu.demand ∧ (takeResetWarning s).dc.time = s.dc.time ∧
    (takeResetWarning s).dc.quality = s.dc.quality ∧ (takeResetWarning s).dc.syncTimer = s.dc.syncTimer ∧
    (takeResetWarning s).dc.pendingStep = s.dc.pendingStep ∧ (takeResetWarning s).dc.hold = s.dc.hold ∧
    (takeResetWarning s).dc.trim = s.dc.trim ∧ (takeResetWarning s).dc.trimAcc = s.dc.trimAcc ∧
    (takeResetWarning s).rs.newest = s.rs.newest ∧ (takeResetWarning s).fp.link = s.fp.link ∧
    (takeResetWarning s).fp.linkTimer = s.fp.linkTimer ∧ (takeResetWarning s).mc.node = s.mc.node ∧
    (takeResetWarning s).mc.config = s.mc.config ∧ (takeResetWarning s).mc.faults = s.mc.faults ∧
    (takeResetWarning s).mc.supplyLow = s.mc.supplyLow ∧ (takeResetWarning s).pending = s.pending := by
  simp only [takeResetWarning]; (repeat' split) <;> simp [*]

@[simp] theorem warningOver_frame :
    (warningOver s).liu = s.liu ∧ (warningOver s).peers = s.peers ∧ (warningOver s).se = s.se ∧
    (warningOver s).hu = s.hu ∧ (warningOver s).cu = s.cu ∧ (warningOver s).rl = s.rl ∧
    (warningOver s).fu = s.fu ∧ (warningOver s).tie = s.tie ∧ (warningOver s).turbine = s.turbine ∧
    (warningOver s).mu = s.mu ∧ (warningOver s).dc = s.dc ∧ (warningOver s).rs = s.rs ∧
    (warningOver s).fp = s.fp ∧ (warningOver s).mc.mode = s.mc.mode ∧ (warningOver s).mc.node = s.mc.node ∧
    (warningOver s).mc.config = s.mc.config ∧ (warningOver s).mc.faults = s.mc.faults ∧
    (warningOver s).mc.supplyLow = s.mc.supplyLow ∧ (warningOver s).freeNext = s.freeNext ∧
    (warningOver s).pending = s.pending := by
  simp only [warningOver]; (repeat' split) <;> simp [*]

@[simp] theorem returnToListenIn_frame :
    (returnToListenIn s).liu.rx = s.liu.rx ∧ (returnToListenIn s).liu.drops = s.liu.drops ∧
    (returnToListenIn s).liu.lastEdge = s.liu.lastEdge ∧ (returnToListenIn s).liu.clash = s.liu.clash ∧
    (returnToListenIn s).liu.backoff = s.liu.backoff ∧ (returnToListenIn s).peers = s.peers ∧
    (returnToListenIn s).se.capability = s.se.capability ∧ (returnToListenIn s).se.measured = s.se.measured ∧
    (returnToListenIn s).hu.level = s.hu.level ∧ (returnToListenIn s).hu.band = s.hu.band ∧
    (returnToListenIn s).hu.position = s.hu.position ∧ (returnToListenIn s).tie = s.tie ∧
    (returnToListenIn s).turbine = s.turbine ∧ (returnToListenIn s).mu = s.mu ∧ (returnToListenIn s).dc = s.dc ∧
    (returnToListenIn s).rs = s.rs ∧ (returnToListenIn s).fp.link = s.fp.link ∧
    (returnToListenIn s).fp.linkTimer = s.fp.linkTimer ∧ (returnToListenIn s).mc.node = s.mc.node ∧
    (returnToListenIn s).mc.config = s.mc.config ∧ (returnToListenIn s).mc.faults = s.mc.faults ∧
    (returnToListenIn s).mc.warning = s.mc.warning ∧ (returnToListenIn s).mc.supplyLow = s.mc.supplyLow ∧
    (returnToListenIn s).pending = s.pending := by
  simp only [returnToListenIn]; (repeat' split) <;> simp [*]

@[simp] theorem tellAsserted_frame :
    (tellAsserted s).liu = s.liu ∧ (tellAsserted s).peers = s.peers ∧ (tellAsserted s).se = s.se ∧
    (tellAsserted s).hu = s.hu ∧ (tellAsserted s).cu = s.cu ∧ (tellAsserted s).rl = s.rl ∧
    (tellAsserted s).fu = s.fu ∧ (tellAsserted s).turbine = s.turbine ∧
    (tellAsserted s).mu.worksRem = s.mu.worksRem ∧ (tellAsserted s).mu.purchRem = s.mu.purchRem ∧
    (tellAsserted s).mu.demand = s.mu.demand ∧ (tellAsserted s).dc.time = s.dc.time ∧
    (tellAsserted s).dc.quality = s.dc.quality ∧ (tellAsserted s).dc.syncTimer = s.dc.syncTimer ∧
    (tellAsserted s).dc.pendingStep = s.dc.pendingStep ∧ (tellAsserted s).dc.hold = s.dc.hold ∧
    (tellAsserted s).dc.trim = s.dc.trim ∧ (tellAsserted s).dc.trimAcc = s.dc.trimAcc ∧
    (tellAsserted s).rs.newest = s.rs.newest ∧ (tellAsserted s).fp = s.fp ∧ (tellAsserted s).mc = s.mc ∧
    (tellAsserted s).pending = s.pending := by
  simp only [tellAsserted]; (repeat' split) <;> simp [*]

@[simp] theorem tellReleased_frame :
    (tellReleased s).liu = s.liu ∧ (tellReleased s).peers = s.peers ∧ (tellReleased s).se = s.se ∧
    (tellReleased s).hu = s.hu ∧ (tellReleased s).cu = s.cu ∧ (tellReleased s).rl = s.rl ∧
    (tellReleased s).fu = s.fu ∧ (tellReleased s).tie.lastVerdict = s.tie.lastVerdict ∧
    (tellReleased s).turbine = s.turbine ∧ (tellReleased s).mu.worksRem = s.mu.worksRem ∧
    (tellReleased s).mu.purchRem = s.mu.purchRem ∧ (tellReleased s).mu.demand = s.mu.demand ∧
    (tellReleased s).dc.time = s.dc.time ∧ (tellReleased s).dc.quality = s.dc.quality ∧
    (tellReleased s).dc.syncTimer = s.dc.syncTimer ∧ (tellReleased s).dc.pendingStep = s.dc.pendingStep ∧
    (tellReleased s).dc.hold = s.dc.hold ∧ (tellReleased s).dc.trim = s.dc.trim ∧
    (tellReleased s).dc.trimAcc = s.dc.trimAcc ∧ (tellReleased s).rs = s.rs ∧ (tellReleased s).fp = s.fp ∧
    (tellReleased s).mc = s.mc ∧ (tellReleased s).freeNext = s.freeNext ∧
    (tellReleased s).pending = s.pending := by
  simp only [tellReleased]; (repeat' split) <;> simp [*]

@[simp] theorem takeCapability_frame (su : Nat) :
    (takeCapability su s).liu = s.liu ∧ (takeCapability su s).peers = s.peers ∧
    (takeCapability su s).se.roundTimer = s.se.roundTimer ∧ (takeCapability su s).se.fallback = s.se.fallback ∧
    (takeCapability su s).se.measured = s.se.measured ∧ (takeCapability su s).hu = s.hu ∧
    (takeCapability su s).cu = s.cu ∧ (takeCapability su s).rl = s.rl ∧ (takeCapability su s).fu = s.fu ∧
    (takeCapability su s).tie = s.tie ∧ (takeCapability su s).turbine = s.turbine ∧
    (takeCapability su s).mu = s.mu ∧ (takeCapability su s).dc = s.dc ∧ (takeCapability su s).rs = s.rs ∧
    (takeCapability su s).fp.link = s.fp.link ∧ (takeCapability su s).fp.linkTimer = s.fp.linkTimer ∧
    (takeCapability su s).mc = s.mc ∧ (takeCapability su s).freeNext = s.freeNext ∧
    (takeCapability su s).pending = s.pending := by
  simp only [takeCapability]; (repeat' split) <;> simp [*]

@[simp] theorem takeMeasured_frame (su : Nat) :
    (takeMeasured su s).liu = s.liu ∧ (takeMeasured su s).peers = s.peers ∧
    (takeMeasured su s).se.roundTimer = s.se.roundTimer ∧ (takeMeasured su s).se.fallback = s.se.fallback ∧
    (takeMeasured su s).se.capability = s.se.capability ∧ (takeMeasured su s).hu = s.hu ∧
    (takeMeasured su s).cu = s.cu ∧ (takeMeasured su s).rl = s.rl ∧ (takeMeasured su s).fu = s.fu ∧
    (takeMeasured su s).tie = s.tie ∧ (takeMeasured su s).turbine = s.turbine ∧ (takeMeasured su s).mu = s.mu ∧
    (takeMeasured su s).dc = s.dc ∧ (takeMeasured su s).rs = s.rs ∧ (takeMeasured su s).fp = s.fp ∧
    (takeMeasured su s).mc = s.mc ∧ (takeMeasured su s).freeNext = s.freeNext ∧
    (takeMeasured su s).pending = s.pending := by
  simp only [takeMeasured]; (repeat' split) <;> simp [*]

@[simp] theorem grantsFrom_frame (es : List SnapEntry) (own : Option WantMember) (m : Main) (se : ShareEngine) :
    (grantsFrom es own m se).roundTimer = se.roundTimer ∧ (grantsFrom es own m se).roundCount = se.roundCount ∧
    (grantsFrom es own m se).results = se.results ∧ (grantsFrom es own m se).setpoint = se.setpoint ∧
    (grantsFrom es own m se).fallback = se.fallback ∧ (grantsFrom es own m se).capability = se.capability ∧
    (grantsFrom es own m se).measured = se.measured := by
  unfold grantsFrom; split <;> simp

@[simp] theorem computeShare_frame :
    (computeShare s).liu = s.liu ∧ (computeShare s).peers = s.peers ∧
    (computeShare s).se.roundTimer = s.se.roundTimer ∧ (computeShare s).se.fallback = s.se.fallback ∧
    (computeShare s).se.capability = s.se.capability ∧ (computeShare s).se.measured = s.se.measured ∧
    (computeShare s).hu = s.hu ∧ (computeShare s).cu = s.cu ∧ (computeShare s).rl = s.rl ∧
    (computeShare s).fu = s.fu ∧ (computeShare s).tie = s.tie ∧ (computeShare s).turbine = s.turbine ∧
    (computeShare s).mu = s.mu ∧ (computeShare s).dc = s.dc ∧ (computeShare s).rs = s.rs ∧
    (computeShare s).fp = s.fp ∧ (computeShare s).mc = s.mc ∧ (computeShare s).freeNext = s.freeNext ∧
    (computeShare s).pending = s.pending := by
  simp only [computeShare]; (repeat' split) <;> simp [*]

@[simp] theorem settleSetpoints_frame :
    (settleSetpoints s).liu = s.liu ∧ (settleSetpoints s).peers = s.peers ∧
    (settleSetpoints s).se.roundTimer = s.se.roundTimer ∧ (settleSetpoints s).se.capability = s.se.capability ∧
    (settleSetpoints s).se.measured = s.se.measured ∧ (settleSetpoints s).hu = s.hu ∧
    (settleSetpoints s).cu = s.cu ∧ (settleSetpoints s).rl = s.rl ∧ (settleSetpoints s).fu = s.fu ∧
    (settleSetpoints s).tie = s.tie ∧ (settleSetpoints s).turbine = s.turbine ∧ (settleSetpoints s).mu = s.mu ∧
    (settleSetpoints s).dc = s.dc ∧ (settleSetpoints s).rs = s.rs ∧ (settleSetpoints s).fp.link = s.fp.link ∧
    (settleSetpoints s).fp.linkTimer = s.fp.linkTimer ∧ (settleSetpoints s).mc = s.mc ∧
    (settleSetpoints s).freeNext = s.freeNext ∧ (settleSetpoints s).pending = s.pending := by
  simp only [settleSetpoints]; (repeat' split) <;> simp [*]

@[simp] theorem evaluateShortfall_frame (effMin : Nat) (m : Main) :
    (evaluateShortfall effMin m s).liu.rx = s.liu.rx ∧ (evaluateShortfall effMin m s).liu.drops = s.liu.drops ∧
    (evaluateShortfall effMin m s).liu.lastEdge = s.liu.lastEdge ∧
    (evaluateShortfall effMin m s).liu.clash = s.liu.clash ∧
    (evaluateShortfall effMin m s).liu.backoff = s.liu.backoff ∧
    (evaluateShortfall effMin m s).peers = s.peers ∧
    (evaluateShortfall effMin m s).se.capability = s.se.capability ∧
    (evaluateShortfall effMin m s).se.measured = s.se.measured ∧
    (evaluateShortfall effMin m s).hu.level = s.hu.level ∧ (evaluateShortfall effMin m s).hu.band = s.hu.band ∧
    (evaluateShortfall effMin m s).hu.position = s.hu.position ∧ (evaluateShortfall effMin m s).tie = s.tie ∧
    (evaluateShortfall effMin m s).turbine = s.turbine ∧ (evaluateShortfall effMin m s).mu = s.mu ∧
    (evaluateShortfall effMin m s).dc = s.dc ∧ (evaluateShortfall effMin m s).rs = s.rs ∧
    (evaluateShortfall effMin m s).fp.link = s.fp.link ∧
    (evaluateShortfall effMin m s).fp.linkTimer = s.fp.linkTimer ∧
    (evaluateShortfall effMin m s).mc.node = s.mc.node ∧
    (evaluateShortfall effMin m s).mc.config = s.mc.config ∧
    (evaluateShortfall effMin m s).mc.faults = s.mc.faults ∧
    (evaluateShortfall effMin m s).mc.warning = s.mc.warning ∧
    (evaluateShortfall effMin m s).mc.supplyLow = s.mc.supplyLow ∧
    (evaluateShortfall effMin m s).pending = s.pending := by
  simp only [evaluateShortfall]; (repeat' split) <;> simp [*]

@[simp] theorem evaluateSurplus_frame :
    (evaluateSurplus s).liu.rx = s.liu.rx ∧ (evaluateSurplus s).liu.drops = s.liu.drops ∧
    (evaluateSurplus s).liu.lastEdge = s.liu.lastEdge ∧ (evaluateSurplus s).liu.clash = s.liu.clash ∧
    (evaluateSurplus s).liu.backoff = s.liu.backoff ∧ (evaluateSurplus s).peers = s.peers ∧
    (evaluateSurplus s).se.capability = s.se.capability ∧ (evaluateSurplus s).se.measured = s.se.measured ∧
    (evaluateSurplus s).hu.level = s.hu.level ∧ (evaluateSurplus s).hu.band = s.hu.band ∧
    (evaluateSurplus s).hu.position = s.hu.position ∧ (evaluateSurplus s).tie = s.tie ∧
    (evaluateSurplus s).turbine = s.turbine ∧ (evaluateSurplus s).mu = s.mu ∧ (evaluateSurplus s).dc = s.dc ∧
    (evaluateSurplus s).rs = s.rs ∧ (evaluateSurplus s).fp.link = s.fp.link ∧
    (evaluateSurplus s).fp.linkTimer = s.fp.linkTimer ∧ (evaluateSurplus s).mc.node = s.mc.node ∧
    (evaluateSurplus s).mc.config = s.mc.config ∧ (evaluateSurplus s).mc.faults = s.mc.faults ∧
    (evaluateSurplus s).mc.warning = s.mc.warning ∧ (evaluateSurplus s).mc.supplyLow = s.mc.supplyLow ∧
    (evaluateSurplus s).pending = s.pending := by
  simp only [evaluateSurplus]; (repeat' split) <;> simp [*]

@[simp] theorem evaluateClaims_frame (effMin : Nat) :
    (evaluateClaims effMin s).liu.rx = s.liu.rx ∧ (evaluateClaims effMin s).liu.drops = s.liu.drops ∧
    (evaluateClaims effMin s).liu.lastEdge = s.liu.lastEdge ∧
    (evaluateClaims effMin s).liu.clash = s.liu.clash ∧ (evaluateClaims effMin s).liu.backoff = s.liu.backoff ∧
    (evaluateClaims effMin s).peers = s.peers ∧ (evaluateClaims effMin s).se.capability = s.se.capability ∧
    (evaluateClaims effMin s).se.measured = s.se.measured ∧ (evaluateClaims effMin s).hu.level = s.hu.level ∧
    (evaluateClaims effMin s).hu.band = s.hu.band ∧ (evaluateClaims effMin s).hu.position = s.hu.position ∧
    (evaluateClaims effMin s).tie = s.tie ∧ (evaluateClaims effMin s).turbine = s.turbine ∧
    (evaluateClaims effMin s).mu = s.mu ∧ (evaluateClaims effMin s).dc = s.dc ∧
    (evaluateClaims effMin s).rs = s.rs ∧ (evaluateClaims effMin s).fp.link = s.fp.link ∧
    (evaluateClaims effMin s).fp.linkTimer = s.fp.linkTimer ∧ (evaluateClaims effMin s).mc.node = s.mc.node ∧
    (evaluateClaims effMin s).mc.config = s.mc.config ∧ (evaluateClaims effMin s).mc.faults = s.mc.faults ∧
    (evaluateClaims effMin s).mc.warning = s.mc.warning ∧
    (evaluateClaims effMin s).mc.supplyLow = s.mc.supplyLow ∧
    (evaluateClaims effMin s).pending = s.pending := by
  simp only [evaluateClaims]; (repeat' split) <;> simp [*]

@[simp] theorem requestState_frame :
    (requestState s).liu.rx = s.liu.rx ∧ (requestState s).liu.drops = s.liu.drops ∧
    (requestState s).liu.lastEdge = s.liu.lastEdge ∧ (requestState s).liu.clash = s.liu.clash ∧
    (requestState s).liu.backoff = s.liu.backoff ∧ (requestState s).peers = s.peers ∧
    (requestState s).se = s.se ∧ (requestState s).hu = s.hu ∧ (requestState s).cu = s.cu ∧
    (requestState s).rl = s.rl ∧ (requestState s).fu = s.fu ∧ (requestState s).tie = s.tie ∧
    (requestState s).turbine = s.turbine ∧ (requestState s).mu = s.mu ∧ (requestState s).dc = s.dc ∧
    (requestState s).rs = s.rs ∧ (requestState s).fp = s.fp ∧ (requestState s).mc = s.mc ∧
    (requestState s).pending = s.pending := by
  simp only [requestState]; (repeat' split) <;> simp [*]

@[simp] theorem requestHello_frame :
    (requestHello s).liu.rx = s.liu.rx ∧ (requestHello s).liu.drops = s.liu.drops ∧
    (requestHello s).liu.lastEdge = s.liu.lastEdge ∧ (requestHello s).liu.clash = s.liu.clash ∧
    (requestHello s).liu.backoff = s.liu.backoff ∧ (requestHello s).peers = s.peers ∧
    (requestHello s).se = s.se ∧ (requestHello s).hu = s.hu ∧ (requestHello s).cu = s.cu ∧
    (requestHello s).rl = s.rl ∧ (requestHello s).fu = s.fu ∧ (requestHello s).tie = s.tie ∧
    (requestHello s).turbine = s.turbine ∧ (requestHello s).mu = s.mu ∧ (requestHello s).dc = s.dc ∧
    (requestHello s).rs = s.rs ∧ (requestHello s).fp = s.fp ∧ (requestHello s).mc = s.mc ∧
    (requestHello s).pending = s.pending := by
  simp only [requestHello]; (repeat' split) <;> simp [*]

@[simp] theorem countRound_frame :
    (countRound s).liu = s.liu ∧ (countRound s).peers = s.peers ∧
    (countRound s).se.roundTimer = s.se.roundTimer ∧ (countRound s).se.fallback = s.se.fallback ∧
    (countRound s).se.capability = s.se.capability ∧ (countRound s).se.measured = s.se.measured ∧
    (countRound s).hu = s.hu ∧ (countRound s).cu = s.cu ∧ (countRound s).rl = s.rl ∧ (countRound s).fu = s.fu ∧
    (countRound s).tie = s.tie ∧ (countRound s).turbine = s.turbine ∧ (countRound s).mu = s.mu ∧
    (countRound s).dc = s.dc ∧ (countRound s).rs = s.rs ∧ (countRound s).fp = s.fp ∧ (countRound s).mc = s.mc ∧
    (countRound s).freeNext = s.freeNext ∧ (countRound s).pending = s.pending := by
  simp only [countRound]; (repeat' split) <;> simp [*]

@[simp] theorem roundWork_frame :
    (roundWork s).liu.rx = s.liu.rx ∧ (roundWork s).liu.drops = s.liu.drops ∧
    (roundWork s).liu.lastEdge = s.liu.lastEdge ∧ (roundWork s).liu.clash = s.liu.clash ∧
    (roundWork s).liu.backoff = s.liu.backoff ∧ (roundWork s).peers = s.peers ∧
    (roundWork s).se.capability = s.se.capability ∧ (roundWork s).se.measured = s.se.measured ∧
    (roundWork s).hu.level = s.hu.level ∧ (roundWork s).hu.band = s.hu.band ∧
    (roundWork s).hu.position = s.hu.position ∧ (roundWork s).tie = s.tie ∧ (roundWork s).turbine = s.turbine ∧
    (roundWork s).mu = s.mu ∧ (roundWork s).dc = s.dc ∧ (roundWork s).rs = s.rs ∧
    (roundWork s).fp.link = s.fp.link ∧ (roundWork s).fp.linkTimer = s.fp.linkTimer ∧
    (roundWork s).mc.node = s.mc.node ∧ (roundWork s).mc.config = s.mc.config ∧
    (roundWork s).mc.faults = s.mc.faults ∧ (roundWork s).mc.warning = s.mc.warning ∧
    (roundWork s).mc.supplyLow = s.mc.supplyLow ∧ (roundWork s).pending = s.pending := by
  simp only [roundWork]; (repeat' split) <;> simp [*]

@[simp] theorem runRound_frame :
    (runRound s).liu.rx = s.liu.rx ∧ (runRound s).liu.drops = s.liu.drops ∧
    (runRound s).liu.lastEdge = s.liu.lastEdge ∧ (runRound s).liu.clash = s.liu.clash ∧
    (runRound s).liu.backoff = s.liu.backoff ∧ (runRound s).peers = s.peers ∧
    (runRound s).se.capability = s.se.capability ∧ (runRound s).se.measured = s.se.measured ∧
    (runRound s).hu.level = s.hu.level ∧ (runRound s).hu.band = s.hu.band ∧
    (runRound s).hu.position = s.hu.position ∧ (runRound s).tie = s.tie ∧ (runRound s).turbine = s.turbine ∧
    (runRound s).mu = s.mu ∧ (runRound s).dc = s.dc ∧ (runRound s).rs = s.rs ∧
    (runRound s).fp.link = s.fp.link ∧ (runRound s).fp.linkTimer = s.fp.linkTimer ∧
    (runRound s).mc.node = s.mc.node ∧ (runRound s).mc.config = s.mc.config ∧
    (runRound s).mc.faults = s.mc.faults ∧ (runRound s).mc.warning = s.mc.warning ∧
    (runRound s).mc.supplyLow = s.mc.supplyLow ∧ (runRound s).pending = s.pending := by
  simp only [runRound]; (repeat' split) <;> simp [*]

@[simp] theorem takeEffect_frame (r : StandbyRequest) :
    (takeEffect r s).liu.drops = s.liu.drops ∧ (takeEffect r s).liu.lastEdge = s.liu.lastEdge ∧
    (takeEffect r s).liu.clash = s.liu.clash ∧ (takeEffect r s).liu.backoff = s.liu.backoff ∧
    (takeEffect r s).se.capability = s.se.capability ∧ (takeEffect r s).se.measured = s.se.measured ∧
    (takeEffect r s).hu.level = s.hu.level ∧ (takeEffect r s).hu.band = s.hu.band ∧
    (takeEffect r s).hu.position = s.hu.position ∧ (takeEffect r s).tie = s.tie ∧
    (takeEffect r s).turbine = s.turbine ∧ (takeEffect r s).mu = s.mu ∧ (takeEffect r s).dc = s.dc ∧
    (takeEffect r s).rs.holdQueue = s.rs.holdQueue ∧ (takeEffect r s).rs.slots = s.rs.slots ∧
    (takeEffect r s).rs.newest = s.rs.newest ∧ (takeEffect r s).rs.nextSeq = s.rs.nextSeq ∧
    (takeEffect r s).fp.link = s.fp.link ∧ (takeEffect r s).fp.linkTimer = s.fp.linkTimer ∧
    (takeEffect r s).mc.node = s.mc.node ∧ (takeEffect r s).mc.config = s.mc.config ∧
    (takeEffect r s).mc.faults = s.mc.faults ∧ (takeEffect r s).mc.warning = s.mc.warning ∧
    (takeEffect r s).mc.supplyLow = s.mc.supplyLow ∧ (takeEffect r s).pending = s.pending := by
  simp only [takeEffect]; (repeat' split) <;> simp [*]

@[simp] theorem roundExpires_frame :
    (roundExpires s).liu.drops = s.liu.drops ∧ (roundExpires s).liu.lastEdge = s.liu.lastEdge ∧
    (roundExpires s).liu.clash = s.liu.clash ∧ (roundExpires s).liu.backoff = s.liu.backoff ∧
    (roundExpires s).se.capability = s.se.capability ∧ (roundExpires s).se.measured = s.se.measured ∧
    (roundExpires s).hu.level = s.hu.level ∧ (roundExpires s).hu.band = s.hu.band ∧
    (roundExpires s).hu.position = s.hu.position ∧ (roundExpires s).tie = s.tie ∧
    (roundExpires s).turbine = s.turbine ∧ (roundExpires s).mu = s.mu ∧ (roundExpires s).dc = s.dc ∧
    (roundExpires s).rs.holdQueue = s.rs.holdQueue ∧ (roundExpires s).rs.slots = s.rs.slots ∧
    (roundExpires s).rs.newest = s.rs.newest ∧ (roundExpires s).rs.nextSeq = s.rs.nextSeq ∧
    (roundExpires s).fp.link = s.fp.link ∧ (roundExpires s).fp.linkTimer = s.fp.linkTimer ∧
    (roundExpires s).mc.node = s.mc.node ∧ (roundExpires s).mc.config = s.mc.config ∧
    (roundExpires s).mc.faults = s.mc.faults ∧ (roundExpires s).mc.warning = s.mc.warning ∧
    (roundExpires s).mc.supplyLow = s.mc.supplyLow ∧ (roundExpires s).pending = s.pending := by
  simp only [roundExpires]; (repeat' split) <;> simp [*]

@[simp] theorem raiseAll_frame (ls : List FaultKind) :
    (raiseAll ls s).liu = s.liu ∧ (raiseAll ls s).peers = s.peers ∧
    (raiseAll ls s).se.roundTimer = s.se.roundTimer ∧ (raiseAll ls s).se.capability = s.se.capability ∧
    (raiseAll ls s).se.measured = s.se.measured ∧ (raiseAll ls s).hu = s.hu ∧ (raiseAll ls s).cu = s.cu ∧
    (raiseAll ls s).rl = s.rl ∧ (raiseAll ls s).fu = s.fu ∧ (raiseAll ls s).tie = s.tie ∧
    (raiseAll ls s).turbine = s.turbine ∧ (raiseAll ls s).mu = s.mu ∧ (raiseAll ls s).dc = s.dc ∧
    (raiseAll ls s).rs = s.rs ∧ (raiseAll ls s).fp.link = s.fp.link ∧
    (raiseAll ls s).fp.linkTimer = s.fp.linkTimer ∧ (raiseAll ls s).mc.mode = s.mc.mode ∧
    (raiseAll ls s).mc.node = s.mc.node ∧ (raiseAll ls s).mc.config = s.mc.config ∧
    (raiseAll ls s).mc.warning = s.mc.warning ∧ (raiseAll ls s).mc.supplyLow = s.mc.supplyLow ∧
    (raiseAll ls s).freeNext = s.freeNext ∧ (raiseAll ls s).pending = s.pending := by
  induction ls generalizing s with
  | nil => simp only [raiseAll]; (repeat' split) <;> simp [*]
  | cons a as ih => simp only [raiseAll]; (repeat' split) <;> simp [*]

@[simp] theorem raiseLoadFaults_frame :
    (raiseLoadFaults s).liu = s.liu ∧ (raiseLoadFaults s).peers = s.peers ∧
    (raiseLoadFaults s).se.roundTimer = s.se.roundTimer ∧ (raiseLoadFaults s).se.capability = s.se.capability ∧
    (raiseLoadFaults s).se.measured = s.se.measured ∧ (raiseLoadFaults s).hu = s.hu ∧
    (raiseLoadFaults s).cu = s.cu ∧ (raiseLoadFaults s).rl = s.rl ∧ (raiseLoadFaults s).fu = s.fu ∧
    (raiseLoadFaults s).tie = s.tie ∧ (raiseLoadFaults s).turbine = s.turbine ∧ (raiseLoadFaults s).mu = s.mu ∧
    (raiseLoadFaults s).dc = s.dc ∧ (raiseLoadFaults s).rs = s.rs ∧ (raiseLoadFaults s).fp.link = s.fp.link ∧
    (raiseLoadFaults s).fp.linkTimer = s.fp.linkTimer ∧ (raiseLoadFaults s).mc.mode = s.mc.mode ∧
    (raiseLoadFaults s).mc.node = s.mc.node ∧ (raiseLoadFaults s).mc.config = s.mc.config ∧
    (raiseLoadFaults s).mc.warning = s.mc.warning ∧ (raiseLoadFaults s).mc.supplyLow = s.mc.supplyLow ∧
    (raiseLoadFaults s).pending = s.pending := by
  simp only [raiseLoadFaults]; (repeat' split) <;> simp [*]

@[simp] theorem restartCommit_frame :
    (restartCommit s).liu = s.liu ∧ (restartCommit s).peers = s.peers ∧ (restartCommit s).se = s.se ∧
    (restartCommit s).hu = s.hu ∧ (restartCommit s).cu = s.cu ∧ (restartCommit s).rl = s.rl ∧
    (restartCommit s).fu = s.fu ∧ (restartCommit s).tie = s.tie ∧ (restartCommit s).turbine = s.turbine ∧
    (restartCommit s).mu = s.mu ∧ (restartCommit s).dc = s.dc ∧
    (restartCommit s).rs.holdQueue = s.rs.holdQueue ∧ (restartCommit s).rs.newest = s.rs.newest ∧
    (restartCommit s).rs.nextSeq = s.rs.nextSeq ∧ (restartCommit s).fp = s.fp ∧ (restartCommit s).mc = s.mc ∧
    (restartCommit s).freeNext = s.freeNext ∧ (restartCommit s).pending = s.pending := by
  simp only [restartCommit]; (repeat' split) <;> simp [*]

@[simp] theorem startUnit_frame (k : StartKind) :
    (startUnit k s).liu = s.liu ∧ (startUnit k s).peers = s.peers ∧
    (startUnit k s).se.roundTimer = s.se.roundTimer ∧ (startUnit k s).se.fallback = s.se.fallback ∧
    (startUnit k s).se.capability = s.se.capability ∧ (startUnit k s).se.measured = s.se.measured ∧
    (startUnit k s).hu = s.hu ∧ (startUnit k s).cu = s.cu ∧ (startUnit k s).rl = s.rl ∧
    (startUnit k s).fu = s.fu ∧ (startUnit k s).mu.demand = s.mu.demand ∧ (startUnit k s).dc.time = s.dc.time ∧
    (startUnit k s).dc.quality = s.dc.quality ∧ (startUnit k s).dc.syncTimer = s.dc.syncTimer ∧
    (startUnit k s).dc.pendingStep = s.dc.pendingStep ∧ (startUnit k s).dc.hold = s.dc.hold ∧
    (startUnit k s).dc.trim = s.dc.trim ∧ (startUnit k s).dc.trimAcc = s.dc.trimAcc ∧
    (startUnit k s).rs.newest = s.rs.newest ∧ (startUnit k s).fp.link = s.fp.link ∧
    (startUnit k s).fp.linkTimer = s.fp.linkTimer ∧ (startUnit k s).mc = s.mc ∧
    (startUnit k s).pending = s.pending := by
  simp only [startUnit]; (repeat' split) <;> simp [*]

/-- The protected state cleared at a start, and nothing beside it. -/
@[simp] theorem protectedAtStart_frame (k : StartKind) :
    (protectedAtStart k s).liu = s.liu ∧ (protectedAtStart k s).peers = s.peers ∧
    (protectedAtStart k s).se = s.se ∧ (protectedAtStart k s).hu = s.hu ∧ (protectedAtStart k s).cu = s.cu ∧
    (protectedAtStart k s).rl = s.rl ∧ (protectedAtStart k s).fu = s.fu ∧
    (protectedAtStart k s).turbine = s.turbine ∧ (protectedAtStart k s).mu.demand = s.mu.demand ∧
    (protectedAtStart k s).dc = s.dc ∧ (protectedAtStart k s).rs = s.rs ∧ (protectedAtStart k s).fp = s.fp ∧
    (protectedAtStart k s).mc = s.mc ∧ (protectedAtStart k s).freeNext = s.freeNext ∧
    (protectedAtStart k s).pending = s.pending := by
  cases k <;> simp [protectedAtStart, clearMetering]

@[simp] theorem startAndTell_frame (k : StartKind) :
    (startAndTell k s).liu = s.liu ∧ (startAndTell k s).peers = s.peers ∧
    (startAndTell k s).se.roundTimer = s.se.roundTimer ∧ (startAndTell k s).se.fallback = s.se.fallback ∧
    (startAndTell k s).se.capability = s.se.capability ∧ (startAndTell k s).se.measured = s.se.measured ∧
    (startAndTell k s).hu = s.hu ∧ (startAndTell k s).cu = s.cu ∧ (startAndTell k s).rl = s.rl ∧
    (startAndTell k s).fu = s.fu ∧ (startAndTell k s).mu.demand = s.mu.demand ∧
    (startAndTell k s).dc.time = s.dc.time ∧ (startAndTell k s).dc.quality = s.dc.quality ∧
    (startAndTell k s).dc.syncTimer = s.dc.syncTimer ∧ (startAndTell k s).dc.pendingStep = s.dc.pendingStep ∧
    (startAndTell k s).dc.hold = s.dc.hold ∧ (startAndTell k s).dc.trim = s.dc.trim ∧
    (startAndTell k s).dc.trimAcc = s.dc.trimAcc ∧ (startAndTell k s).rs.newest = s.rs.newest ∧
    (startAndTell k s).fp.link = s.fp.link ∧ (startAndTell k s).fp.linkTimer = s.fp.linkTimer ∧
    (startAndTell k s).mc = s.mc ∧ (startAndTell k s).pending = s.pending := by
  simp only [startAndTell]; (repeat' split) <;> simp [*]

@[simp] theorem restartAndStart_frame (k : StartKind) :
    (restartAndStart k s).liu = s.liu ∧ (restartAndStart k s).peers = s.peers ∧
    (restartAndStart k s).se.roundTimer = s.se.roundTimer ∧ (restartAndStart k s).se.fallback = s.se.fallback ∧
    (restartAndStart k s).se.capability = s.se.capability ∧ (restartAndStart k s).se.measured = s.se.measured ∧
    (restartAndStart k s).hu = s.hu ∧ (restartAndStart k s).cu = s.cu ∧ (restartAndStart k s).rl = s.rl ∧
    (restartAndStart k s).fu = s.fu ∧ (restartAndStart k s).mu.demand = s.mu.demand ∧
    (restartAndStart k s).dc.time = s.dc.time ∧ (restartAndStart k s).dc.quality = s.dc.quality ∧
    (restartAndStart k s).dc.syncTimer = s.dc.syncTimer ∧
    (restartAndStart k s).dc.pendingStep = s.dc.pendingStep ∧ (restartAndStart k s).dc.hold = s.dc.hold ∧
    (restartAndStart k s).dc.trim = s.dc.trim ∧ (restartAndStart k s).dc.trimAcc = s.dc.trimAcc ∧
    (restartAndStart k s).rs.newest = s.rs.newest ∧ (restartAndStart k s).fp.link = s.fp.link ∧
    (restartAndStart k s).fp.linkTimer = s.fp.linkTimer ∧ (restartAndStart k s).mc = s.mc ∧
    (restartAndStart k s).pending = s.pending := by
  simp only [restartAndStart]; (repeat' split) <;> simp [*]

@[simp] theorem startRoleTimers_frame :
    (startRoleTimers s).liu = s.liu ∧ (startRoleTimers s).peers = s.peers ∧ (startRoleTimers s).se = s.se ∧
    (startRoleTimers s).hu.level = s.hu.level ∧ (startRoleTimers s).hu.band = s.hu.band ∧
    (startRoleTimers s).hu.position = s.hu.position ∧ (startRoleTimers s).cu = s.cu ∧
    (startRoleTimers s).rl = s.rl ∧ (startRoleTimers s).fu = s.fu ∧ (startRoleTimers s).tie = s.tie ∧
    (startRoleTimers s).turbine = s.turbine ∧ (startRoleTimers s).mu = s.mu ∧
    (startRoleTimers s).dc.time = s.dc.time ∧ (startRoleTimers s).dc.quality = s.dc.quality ∧
    (startRoleTimers s).dc.syncTimer = s.dc.syncTimer ∧ (startRoleTimers s).dc.pendingStep = s.dc.pendingStep ∧
    (startRoleTimers s).dc.hold = s.dc.hold ∧ (startRoleTimers s).dc.spanStart = s.dc.spanStart ∧
    (startRoleTimers s).dc.trim = s.dc.trim ∧ (startRoleTimers s).dc.trimAcc = s.dc.trimAcc ∧
    (startRoleTimers s).rs = s.rs ∧ (startRoleTimers s).fp = s.fp ∧ (startRoleTimers s).mc = s.mc ∧
    (startRoleTimers s).freeNext = s.freeNext ∧ (startRoleTimers s).pending = s.pending := by
  simp only [startRoleTimers]; (repeat' split) <;> simp [*]

@[simp] theorem loaded_frame (r : Role) (img : RawImage) :
    (loaded r img s).liu.rx = s.liu.rx ∧ (loaded r img s).liu.drops = s.liu.drops ∧
    (loaded r img s).liu.lastEdge = s.liu.lastEdge ∧ (loaded r img s).liu.clash = s.liu.clash ∧
    (loaded r img s).liu.backoff = s.liu.backoff ∧ (loaded r img s).peers = s.peers ∧
    (loaded r img s).se.capability = s.se.capability ∧ (loaded r img s).se.measured = s.se.measured ∧
    (loaded r img s).hu.level = s.hu.level ∧ (loaded r img s).hu.band = s.hu.band ∧
    (loaded r img s).hu.position = s.hu.position ∧ (∀ k, ((loaded r img s).cu.get k).own = (s.cu.get k).own) ∧
    (∀ k, ((loaded r img s).cu.get k).sources = (s.cu.get k).sources) ∧ (loaded r img s).rl = s.rl ∧
    (loaded r img s).fu = s.fu ∧ (loaded r img s).mu.demand = s.mu.demand ∧
    (loaded r img s).dc.time = s.dc.time ∧ (loaded r img s).dc.quality = s.dc.quality ∧
    (loaded r img s).dc.syncTimer = s.dc.syncTimer ∧ (loaded r img s).dc.pendingStep = s.dc.pendingStep ∧
    (loaded r img s).dc.hold = s.dc.hold ∧ (loaded r img s).dc.trim = s.dc.trim ∧
    (loaded r img s).dc.trimAcc = s.dc.trimAcc ∧ (loaded r img s).rs.newest = s.rs.newest ∧
    (loaded r img s).fp.link = s.fp.link ∧ (loaded r img s).fp.linkTimer = s.fp.linkTimer ∧
    (loaded r img s).mc.node = s.mc.node ∧ (loaded r img s).mc.warning = s.mc.warning ∧
    (loaded r img s).mc.supplyLow = s.mc.supplyLow ∧ (loaded r img s).pending = s.pending := by
  simp only [loaded]; (repeat' split) <;> simp [*]

@[simp] theorem sendKnownFallback_frame (x : Option (Main × Nat)) :
    (sendKnownFallback x s).liu = s.liu ∧ (sendKnownFallback x s).peers = s.peers ∧
    (sendKnownFallback x s).se.fallback = s.se.fallback ∧ (sendKnownFallback x s).se.grant = s.se.grant ∧
    (sendKnownFallback x s).se.minGrant = s.se.minGrant ∧
    (sendKnownFallback x s).se.roundTimer = s.se.roundTimer ∧ (sendKnownFallback x s).se.capability = s.se.capability ∧
    (sendKnownFallback x s).se.measured = s.se.measured ∧ (sendKnownFallback x s).fp.link = s.fp.link ∧
    (sendKnownFallback x s).fp.linkTimer = s.fp.linkTimer ∧ (sendKnownFallback x s).hu = s.hu ∧
    (sendKnownFallback x s).cu = s.cu ∧ (sendKnownFallback x s).rl = s.rl ∧ (sendKnownFallback x s).fu = s.fu ∧
    (sendKnownFallback x s).tie = s.tie ∧ (sendKnownFallback x s).turbine = s.turbine ∧
    (sendKnownFallback x s).mu = s.mu ∧ (sendKnownFallback x s).dc = s.dc ∧ (sendKnownFallback x s).rs = s.rs ∧
    (sendKnownFallback x s).mc = s.mc ∧ (sendKnownFallback x s).freeNext = s.freeNext ∧
    (sendKnownFallback x s).pending = s.pending := by
  unfold sendKnownFallback; split <;> simp

@[simp] theorem notLoaded_frame (image : Option RawImage) :
    (notLoaded image s).liu.rx = s.liu.rx ∧ (notLoaded image s).liu.drops = s.liu.drops ∧
    (notLoaded image s).liu.lastEdge = s.liu.lastEdge ∧ (notLoaded image s).liu.clash = s.liu.clash ∧
    (notLoaded image s).liu.backoff = s.liu.backoff ∧ (notLoaded image s).peers = s.peers ∧
    (notLoaded image s).se.roundTimer = s.se.roundTimer ∧ (notLoaded image s).se.fallback = s.se.fallback ∧
    (notLoaded image s).se.capability = s.se.capability ∧ (notLoaded image s).se.measured = s.se.measured ∧
    (notLoaded image s).hu = s.hu ∧ (notLoaded image s).cu = s.cu ∧ (notLoaded image s).rl = s.rl ∧
    (notLoaded image s).fu = s.fu ∧ (notLoaded image s).tie = s.tie ∧ (notLoaded image s).turbine = s.turbine ∧
    (notLoaded image s).mu = s.mu ∧ (notLoaded image s).dc = s.dc ∧
    (notLoaded image s).rs.holdQueue = s.rs.holdQueue ∧ (notLoaded image s).rs.newest = s.rs.newest ∧
    (notLoaded image s).rs.nextSeq = s.rs.nextSeq ∧ (notLoaded image s).fp.link = s.fp.link ∧
    (notLoaded image s).fp.linkTimer = s.fp.linkTimer ∧ (notLoaded image s).mc.node = s.mc.node ∧
    (notLoaded image s).mc.faults = s.mc.faults ∧ (notLoaded image s).mc.warning = s.mc.warning ∧
    (notLoaded image s).mc.supplyLow = s.mc.supplyLow ∧ (notLoaded image s).pending = s.pending := by
  simp only [notLoaded]; (repeat' split) <;> simp [*]

@[simp] theorem loadCommon_frame (strap : Node) (o : LoadOutcome) (image : Option RawImage) :
    (loadCommon strap o image s).liu = s.liu ∧ (loadCommon strap o image s).peers = s.peers ∧
    (loadCommon strap o image s).se = s.se ∧ (loadCommon strap o image s).hu = s.hu ∧
    (loadCommon strap o image s).cu = s.cu ∧ (loadCommon strap o image s).rl = s.rl ∧
    (loadCommon strap o image s).fu = s.fu ∧ (loadCommon strap o image s).tie = s.tie ∧
    (loadCommon strap o image s).turbine = s.turbine ∧ (loadCommon strap o image s).mu = s.mu ∧
    (loadCommon strap o image s).dc.time = s.dc.time ∧ (loadCommon strap o image s).dc.quality = s.dc.quality ∧
    (loadCommon strap o image s).dc.syncTimer = s.dc.syncTimer ∧
    (loadCommon strap o image s).dc.pendingStep = s.dc.pendingStep ∧
    (loadCommon strap o image s).dc.hold = s.dc.hold ∧
    (loadCommon strap o image s).dc.spanStart = s.dc.spanStart ∧ (loadCommon strap o image s).rs = s.rs ∧
    (loadCommon strap o image s).fp.link = s.fp.link ∧ (loadCommon strap o image s).mc.mode = s.mc.mode ∧
    (loadCommon strap o image s).mc.config = s.mc.config ∧
    (loadCommon strap o image s).mc.faults = s.mc.faults ∧
    (loadCommon strap o image s).mc.warning = s.mc.warning ∧
    (loadCommon strap o image s).mc.supplyLow = s.mc.supplyLow ∧
    (loadCommon strap o image s).freeNext = s.freeNext ∧ (loadCommon strap o image s).pending = s.pending := by
  simp only [loadCommon]; (repeat' split) <;> simp [*]

@[simp] theorem load_frame (strap : Node) (image : Option RawImage) :
    (load strap image s).liu.rx = s.liu.rx ∧ (load strap image s).liu.drops = s.liu.drops ∧
    (load strap image s).liu.lastEdge = s.liu.lastEdge ∧ (load strap image s).liu.clash = s.liu.clash ∧
    (load strap image s).liu.backoff = s.liu.backoff ∧ (load strap image s).peers = s.peers ∧
    (load strap image s).se.capability = s.se.capability ∧ (load strap image s).se.measured = s.se.measured ∧
    (load strap image s).hu.level = s.hu.level ∧ (load strap image s).hu.band = s.hu.band ∧
    (load strap image s).hu.position = s.hu.position ∧
    (∀ k, ((load strap image s).cu.get k).own = (s.cu.get k).own) ∧
    (∀ k, ((load strap image s).cu.get k).sources = (s.cu.get k).sources) ∧ (load strap image s).rl = s.rl ∧
    (load strap image s).fu = s.fu ∧ (load strap image s).mu.demand = s.mu.demand ∧
    (load strap image s).dc.time = s.dc.time ∧ (load strap image s).dc.quality = s.dc.quality ∧
    (load strap image s).dc.syncTimer = s.dc.syncTimer ∧
    (load strap image s).dc.pendingStep = s.dc.pendingStep ∧ (load strap image s).dc.hold = s.dc.hold ∧
    (load strap image s).rs.newest = s.rs.newest ∧ (load strap image s).fp.link = s.fp.link ∧
    (load strap image s).mc.warning = s.mc.warning ∧ (load strap image s).mc.supplyLow = s.mc.supplyLow ∧
    (load strap image s).pending = s.pending := by
  simp only [load]; (repeat' split) <;> simp [*]

end Sys2Proof.Machine
end

