-- ==== Sys2Proof/Laws/Ladders.lean ====
section
/-! SUPPORT. What a ladder is handed, said once: a command that brings a rise, a fall or a resample is the ladder's
operation on the state as the line stands; and the rebuild of the want in closed form. -/

namespace Sys2Proof.Machine

variable {c : Instr} {l : ClaimLine} {s u : State}

/-- A cause latched outside LOADING, LISTEN-ONLY and the standbys changes the latch alone (R177). -/
theorem latchCause_awake (x : WakeCause) (h : s.mc.mode = .listenIn ∨ s.mc.mode = .active ∨ s.mc.mode = .leaving) :
    latchCause x s = { s with mc := { s.mc with latch := latched x s.mc.latch } } := by
  rcases h with h | h | h <;> simp [latchCause, actOnLatch, h] <;> rfl

/-- A rise at a delivered CLAIM is the ladder's rise in the state with the line risen (R28, R75, R81). -/
theorem exec_of_risesAt (h : RisesAt c l s u) : exec c s = .next (ladderRise l u) := by
  obtain ⟨rfl, hs, hm, ho, f, rest, e, hr, hk, hc, he, rfl⟩ := h
  let v : State := { s with
    liu := { s.liu with rx := rest }
    peers := assocPut f.sender { e with claims := e.claims.set l true } s.peers
    cu := s.cu.set l { s.cu.get l with sources := [f.sender] } }
  have hb : heldBack l v = false := by
    rcases ho with ⟨h1, h2⟩ | h
    · rcases hm with hm | hm | hm <;> simp_all [heldBack, masked, modeMasks, v]
    · simp [heldBack, h, v]
  let latch : WakeLatch :=
    if s.mc.config.wakeSet.get l then { s.mc.latch with claimRise := s.mc.latch.claimRise.set l true } else s.mc.latch
  have hn : noteRise l v = { v with mc := { s.mc with latch := latch } } := by
    by_cases hw : s.mc.config.wakeSet.get l = true
    · simp [noteRise, hb, hw, v, latchCause_awake (s := v) (.claimRise l) hm, latched, latch]
    · simp [noteRise, hb, hw, v, latch]
  have : exec .claimDelivered s = .next (rise l v) := by
    simp [exec, execClaimDelivered, headOf, hr, hk, hc, takeHead, takeClaim, he, applyEdge, setBit, setBitWith, hs,
      setAdd, edgeClaims, v, setLine, State.setLiu, State.setPeers, State.setCu]
  rw [this, rise, hb, hn]; rfl

/-- A fall at a delivered CLAIM or a removal is the ladder's fall in the state with the line fallen (R21, R27 to
R29, R75, R81). -/
theorem exec_of_fallsAt (h : FallsAt c l s u) : exec c s = .next (ladderFall l u) := by
  obtain ⟨n, e, hs, he, ⟨rfl, f, rest, hr, rfl, hk, hc, rfl⟩ | ⟨hl, h1, h2, h⟩⟩ := h
  · simp [exec, execClaimDelivered, headOf, hr, hk, hc, takeHead, takeClaim, he, applyEdge, clearBit, clearBitWith,
      hs, setRemove, edgeClaims, setLine, State.setLiu, State.setPeers, State.setCu, fall, setPending]
  · have key : ∀ v : State, v.cu = s.cu → v.mc = s.mc →
        reportEntry e (applyClaims n noClaims v) =
          ladderFall l { v with cu := s.cu.set l { s.cu.get l with sources := [], pending := false } } := by
      intro v hcu hmc
      have hch : changedLines n noClaims v = [l] := by
        have : ∀ k, ((v.cu.get k).sources.contains n != noClaims.get k) = (k == l) := by
          intro k
          by_cases hkl : k = l
          · subst hkl; simp [hcu, hs, noClaims]
          · have := hl k hkl; simp [hcu, this, noClaims, hkl]
        simp only [changedLines, this]
        rcases l with ⟨_ | _ | _, _ | _⟩ <;> decide
      have ha : applyClaims n noClaims v =
          ladderFall l { v with cu := s.cu.set l { s.cu.get l with sources := [], pending := false } } := by
        simp only [applyClaims, hch, freeOrder, orderDrawn, List.length_singleton, Nat.le_refl, if_true,
          applyClaimsOn]
        simp [applyClaim, noClaims, clearBit, clearBitWith, hcu, hs, setRemove, fall, setPending, setLine,
          State.setCu]
      rw [ha]
      have hr : ∀ w : State, w.mc = s.mc → reportEntry e w = w := by
        intro w hw
        unfold reportEntry
        rw [hw]
        cases hrole : s.mc.config.role with
        | none => rfl
        | some r => cases r <;> simp_all
      exact hr _ (by simp [hmc])
    rcases h with ⟨rfl, f, rest, hr, rfl, hk, rfl⟩ | ⟨node, rfl, rfl, ha, rfl⟩
    · simp [exec, execLeaveDelivered, headOf, hr, hk, takeHead, removeIfPresent, he, removeEntry, State.setLiu,
        State.setPeers]
      exact key _ rfl rfl
    · simp [exec, execEntryGoesAbsent, he, ha, removeEntry, State.setPeers]
      exact key _ rfl rfl

/-- A command at which a ladder takes its next step is that take. -/
theorem exec_of_takesFrom {st : Step} (h : TakesFrom c l s u) (hst : (ladderSteps l s)[(s.rl.get l).taken]? = some st) :
    exec c s = .next (takeStep l u) := by
  rcases h with ⟨h, hi⟩ | ⟨⟨hd, h⟩, ho, rfl⟩
  · rw [exec_of_risesAt h]
    obtain ⟨-, -, -, -, f, rest, e, -, -, -, -, rfl⟩ := h
    simp [ladderRise, hi]
  · have hlt : (u.rl.get l).taken < (ladderSteps l u).length := by
      by_contra hn
      rw [List.getElem?_eq_none (by omega)] at hst; cases hst
    have ho' : orAsserted l u = true := by simp [orAsserted, ho]
    rcases h with ⟨hx, rfl⟩ | ⟨hx, rfl⟩
    · simp [exec, execDwellExpiry, hx, hd, expired, resampleDwell, ho', hlt]
    · simp [exec, execUndoDwellExpiry, hx, hd, expired, resampleUndoDwell, ho']

/-- A command at which a ladder undoes its highest step is that undo. -/
theorem exec_of_undoesFrom (h : UndoesFrom c l s u) (ht : (s.rl.get l).taken ≠ 0) :
    exec c s = .next (undoStep l u) := by
  rcases h with ⟨h, hi⟩ | ⟨⟨hd, h⟩, ho, rfl⟩
  · rw [exec_of_fallsAt h]
    have hu : u.rl = s.rl := by
      obtain ⟨n, e, -, -, ⟨-, f, rest, -, -, -, -, rfl⟩ |
        ⟨-, -, -, ⟨-, f, rest, -, -, -, rfl⟩ | ⟨node, -, -, -, rfl⟩⟩⟩ := h <;> rfl
    simp [ladderFall, hu, hi]
  · have ho' : orAsserted l u = false := by simp [orAsserted, ho]
    rcases h with ⟨hx, rfl⟩ | ⟨hx, rfl⟩
    · simp [exec, execDwellExpiry, hx, hd, expired, resampleDwell, ho']
    · simp [exec, execUndoDwellExpiry, hx, hd, expired, resampleUndoDwell, ho', ht]

/-- The state a take or an undo starts from differs from the one before the command in none of these. -/
theorem TakesFrom.same (h : TakesFrom c l s u) :
    u.rl = s.rl ∧ u.hu = s.hu ∧ u.fu = s.fu ∧ u.se = s.se ∧ u.fp = s.fp ∧ u.liu.tx = s.liu.tx ∧
      u.mc.config = s.mc.config ∧ u.mc.mode = s.mc.mode := by
  rcases h with ⟨h, -⟩ | ⟨-, -, rfl⟩
  · obtain ⟨-, -, -, -, f, rest, e, -, -, -, -, rfl⟩ := h; simp
  · simp

theorem UndoesFrom.same (h : UndoesFrom c l s u) :
    u.rl = s.rl ∧ u.hu = s.hu ∧ u.fu = s.fu ∧ u.se = s.se ∧ u.fp = s.fp ∧ u.liu.tx = s.liu.tx ∧ u.mc = s.mc := by
  rcases h with ⟨h, -⟩ | ⟨-, -, rfl⟩
  · obtain ⟨n, e, -, -, ⟨-, f, rest, -, -, -, -, rfl⟩ |
      ⟨-, -, -, ⟨-, f, rest, -, -, -, rfl⟩ | ⟨node, -, -, -, rfl⟩⟩⟩ := h <;> simp
  · simp

/-- A take is the step's ask of its block, the ladder in STEPPING (R93). -/
theorem exec_of_takesFrom_ask {st : Step} (h : TakesFrom c l s u)
    (hst : (ladderSteps l s)[(s.rl.get l).taken]? = some st) :
    exec c s = .next (askTake st.action l
      { u with rl := s.rl.set l ⟨.stepping, (s.rl.get l).taken + 1, none, (s.rl.get l).outcome⟩ }) := by
  rw [exec_of_takesFrom h hst]
  obtain ⟨h1, -, -, -, -, -, h7, -⟩ := h.same
  have : ladderSteps l u = ladderSteps l s := by simp [ladderSteps, h7]
  simp only [takeStep, this, h1, hst, setLadder, State.setRl]

/-- An undo is the step's ask of its block, the ladder in UNDO IN FLIGHT (R93). -/
theorem exec_of_undoesFrom_ask {st : Step} {k : Nat} (h : UndoesFrom c l s u) (ht : (s.rl.get l).taken = k + 1)
    (hst : (ladderSteps l s)[k]? = some st) :
    exec c s = .next (askUndo st.action l
      { u with rl := s.rl.set l ⟨.undoInFlight, k, none, (s.rl.get l).outcome⟩ }) := by
  rw [exec_of_undoesFrom h (by omega)]
  obtain ⟨h1, -, -, -, -, -, h7⟩ := h.same
  have : ladderSteps l u = ladderSteps l s := by simp [ladderSteps, h7]
  simp only [undoStep, this, h1, ht, hst, setLadder, State.setRl]

/-- The rebuild of the want lowers what the want falls below and sends the SETPOINT of it, and does nothing else
(R47, R48). -/
theorem rebuildWant_lowers (s : State) :
    LoweredToWant s (rebuildWant s) ∧
      rebuildWant s = { s with
        se := (rebuildWant s).se, fp := { s.fp with out := s.fp.out ++ setpointSent s (rebuildWant s) } } := by
  cases hm : wantMain s.mc.config with
  | none => simp [LoweredToWant, rebuildWant, hm, setpointSent]
  | some m =>
    simp only [LoweredToWant, rebuildWant, hm, setpointSent]
    split
    · next h => exact ⟨⟨nofun, fun _ => rfl⟩, by rw [if_pos (by exact h)]; rfl⟩
    · next h => exact ⟨⟨nofun, fun _ => rfl⟩, by rw [if_neg (by exact h), List.append_nil]; rfl⟩

end Sys2Proof.Machine
end

