-- ==== Sys2Proof/Laws/Lists.lean ====
section
/-! SUPPORT. What the list operations of Machine/Ops.lean do: keyed lists, sets of node numbers, the first
element changed or removed, the least number, and free orders. -/

namespace Sys2Proof.Machine

variable {α : Type}

/-! ### Keyed lists -/

@[simp] theorem assocGet_put_self (k : Nat) (v : α) (l : List (Nat × α)) :
    assocGet k (assocPut k v l) = some v := by
  induction l with
  | nil => simp [assocPut, assocGet]
  | cons x t ih =>
    rcases x with ⟨a, x⟩
    simp only [assocPut]
    split
    · simp [assocGet]
    · split
      · simp [assocGet]
      · rw [assocGet, if_neg (by omega), ih]

theorem assocGet_put_ne {k n : Nat} (v : α) (l : List (Nat × α)) (h : n ≠ k) :
    assocGet n (assocPut k v l) = assocGet n l := by
  induction l with
  | nil => simp [assocPut, assocGet, h.symm]
  | cons x t ih =>
    rcases x with ⟨a, x⟩
    simp only [assocPut]
    split
    · simp [assocGet, h.symm]
    · split
      · subst_vars; simp [assocGet, h.symm]
      · simp only [assocGet, ih]

theorem assocGet_put (k n : Nat) (v : α) (l : List (Nat × α)) :
    assocGet n (assocPut k v l) = if n = k then some v else assocGet n l := by
  split
  · subst_vars; simp
  · exact assocGet_put_ne v l ‹_›

@[simp] theorem assocGet_erase_self (k : Nat) (l : List (Nat × α)) : assocGet k (assocErase k l) = none := by
  induction l with
  | nil => simp [assocErase, assocGet]
  | cons x t ih =>
    rcases x with ⟨a, x⟩
    simp only [assocErase]
    split
    · exact ih
    · simp [assocGet, *]

theorem assocGet_erase_ne {k n : Nat} (l : List (Nat × α)) (h : n ≠ k) :
    assocGet n (assocErase k l) = assocGet n l := by
  induction l with
  | nil => simp [assocErase, assocGet]
  | cons x t ih =>
    rcases x with ⟨a, x⟩
    simp only [assocErase]
    split
    · subst_vars; simp [assocGet, h.symm, ih]
    · simp [assocGet, ih]

theorem assocGet_erase (k n : Nat) (l : List (Nat × α)) :
    assocGet n (assocErase k l) = if n = k then none else assocGet n l := by
  split
  · subst_vars; simp
  · exact assocGet_erase_ne l ‹_›

/-- A pair of a written list is the written one or one that stood there. -/
theorem mem_assocPut {k : Nat} {v : α} {l : List (Nat × α)} {x : Nat × α} (h : x ∈ assocPut k v l) :
    x = (k, v) ∨ x ∈ l := by
  induction l with
  | nil => exact .inl (by simpa [assocPut] using h)
  | cons y t ih =>
    rcases y with ⟨a, y⟩
    simp only [assocPut] at h
    split at h
    · simpa using h
    · split at h
      · rcases List.mem_cons.1 h with h | h
        · exact .inl h
        · exact .inr (List.mem_cons_of_mem _ h)
      · rcases List.mem_cons.1 h with h | h
        · exact .inr (h ▸ List.mem_cons_self)
        · exact (ih h).imp id (List.mem_cons_of_mem _)

theorem mem_assocErase {k : Nat} {l : List (Nat × α)} {x : Nat × α} (h : x ∈ assocErase k l) : x ∈ l := by
  induction l with
  | nil => simp [assocErase] at h
  | cons y t ih =>
    rcases y with ⟨a, y⟩
    simp only [assocErase] at h
    split at h
    · exact List.mem_cons_of_mem _ (ih h)
    · rcases List.mem_cons.1 h with h | h
      · exact h ▸ List.mem_cons_self
      · exact List.mem_cons_of_mem _ (ih h)

/-- Keys stay strictly rising under a write. -/
theorem rising_assocPut {k : Nat} {v : α} {l : List (Nat × α)} (h : (l.map Prod.fst).Pairwise (· < ·)) :
    ((assocPut k v l).map Prod.fst).Pairwise (· < ·) := by
  induction l with
  | nil => simp [assocPut]
  | cons y t ih =>
    rcases y with ⟨a, y⟩
    simp only [List.map_cons, List.pairwise_cons, List.mem_map] at h
    simp only [assocPut]
    split
    · next hk =>
      simp only [List.map_cons, List.pairwise_cons, List.mem_cons, List.mem_map]
      refine ⟨?_, fun z hz => h.1 z hz, h.2⟩
      rintro z (rfl | hz)
      · exact hk
      · exact Nat.lt_trans hk (h.1 z hz)
    · split
      · next hk =>
        subst hk
        simp only [List.map_cons, List.pairwise_cons, List.mem_map]
        exact h
      · next h1 h2 =>
        simp only [List.map_cons, List.pairwise_cons, List.mem_map]
        refine ⟨?_, ih h.2⟩
        rintro _ ⟨z, hz, rfl⟩
        rcases mem_assocPut hz with rfl | hz
        · exact Nat.lt_of_le_of_ne (Nat.le_of_not_lt h1) (Ne.symm h2)
        · exact h.1 _ ⟨z, hz, rfl⟩

/-- Keys stay strictly rising under a removal. -/
theorem rising_assocErase {k : Nat} {l : List (Nat × α)} (h : (l.map Prod.fst).Pairwise (· < ·)) :
    ((assocErase k l).map Prod.fst).Pairwise (· < ·) := by
  induction l with
  | nil => simp [assocErase]
  | cons y t ih =>
    rcases y with ⟨a, y⟩
    simp only [List.map_cons, List.pairwise_cons, List.mem_map] at h
    simp only [assocErase]
    split
    · exact ih h.2
    · simp only [List.map_cons, List.pairwise_cons, List.mem_map]
      refine ⟨?_, ih h.2⟩
      rintro _ ⟨z, hz, rfl⟩
      exact h.1 _ ⟨z, mem_assocErase hz, rfl⟩

/-! ### Sets of node numbers -/

@[simp] theorem mem_setAdd (n m : Nat) (l : List Nat) : m ∈ setAdd n l ↔ m = n ∨ m ∈ l := by
  induction l with
  | nil => simp [setAdd]
  | cons a t ih =>
    simp only [setAdd]
    split
    · simp
    · split
      · next h => subst h; simp
      · simp only [List.mem_cons, ih]
        exact or_left_comm

@[simp] theorem mem_setRemove (n m : Nat) (l : List Nat) : m ∈ setRemove n l ↔ m ≠ n ∧ m ∈ l := by
  induction l with
  | nil => simp [setRemove]
  | cons a t ih =>
    simp only [setRemove]
    split
    · next h => subst h; rw [ih]; simp only [List.mem_cons]; tauto
    · next h =>
      simp only [List.mem_cons, ih]
      constructor
      · rintro (rfl | ⟨h1, h2⟩)
        · exact ⟨h, .inl rfl⟩
        · exact ⟨h1, .inr h2⟩
      · rintro ⟨h1, rfl | h2⟩
        · exact .inl rfl
        · exact .inr ⟨h1, h2⟩

theorem rising_setAdd {n : Nat} {l : List Nat} (h : l.Pairwise (· < ·)) : (setAdd n l).Pairwise (· < ·) := by
  induction l with
  | nil => simp [setAdd]
  | cons a t ih =>
    rw [List.pairwise_cons] at h
    simp only [setAdd]
    split
    · next hn =>
      refine List.pairwise_cons.2 ⟨?_, List.pairwise_cons.2 h⟩
      intro z hz
      rcases List.mem_cons.1 hz with rfl | hz
      · exact hn
      · exact Nat.lt_trans hn (h.1 z hz)
    · split
      · exact List.pairwise_cons.2 h
      · refine List.pairwise_cons.2 ⟨?_, ih h.2⟩
        intro z hz
        rcases (mem_setAdd _ _ _).1 hz with rfl | hz
        · omega
        · exact h.1 z hz

theorem rising_setRemove {n : Nat} {l : List Nat} (h : l.Pairwise (· < ·)) :
    (setRemove n l).Pairwise (· < ·) := by
  induction l with
  | nil => simp [setRemove]
  | cons a t ih =>
    rw [List.pairwise_cons] at h
    simp only [setRemove]
    split
    · exact ih h.2
    · exact List.pairwise_cons.2 ⟨fun z hz => h.1 z ((mem_setRemove _ _ _).1 hz).2, ih h.2⟩

/-! ### The first element that meets a condition -/

theorem changeFirst_append (p : α → Bool) (f : α → α) (pre post : List α) (e : α)
    (hpre : ∀ x ∈ pre, p x = false) (he : p e = true) :
    changeFirst p f (pre ++ e :: post) = pre ++ f e :: post := by
  induction pre with
  | nil => simp [changeFirst, he]
  | cons a t ih => simp [changeFirst, hpre a, ih (fun x hx => hpre x (List.mem_cons_of_mem _ hx))]

theorem removeFirst_append (p : α → Bool) (pre post : List α) (e : α)
    (hpre : ∀ x ∈ pre, p x = false) (he : p e = true) :
    removeFirst p (pre ++ e :: post) = pre ++ post := by
  induction pre with
  | nil => simp [removeFirst, he]
  | cons a t ih => simp [removeFirst, hpre a, ih (fun x hx => hpre x (List.mem_cons_of_mem _ hx))]

theorem find_append (p : α → Bool) (pre post : List α) (e : α)
    (hpre : ∀ x ∈ pre, p x = false) (he : p e = true) : (pre ++ e :: post).find? p = some e := by
  rw [List.find?_append, List.find?_eq_none.2 (by simpa using hpre)]
  simp [he]

@[simp] theorem length_changeFirst (p : α → Bool) (f : α → α) (l : List α) :
    (changeFirst p f l).length = l.length := by
  induction l with
  | nil => rfl
  | cons a t ih => simp only [changeFirst]; split <;> simp [ih]

theorem mem_changeFirst {p : α → Bool} {f : α → α} {l : List α} {x : α} (h : x ∈ changeFirst p f l) :
    x ∈ l ∨ ∃ y ∈ l, p y = true ∧ x = f y := by
  induction l with
  | nil => simp [changeFirst] at h
  | cons a t ih =>
    simp only [changeFirst] at h
    split at h
    · next hp =>
      rcases List.mem_cons.1 h with rfl | h
      · exact .inr ⟨a, List.mem_cons_self, hp, rfl⟩
      · exact .inl (List.mem_cons_of_mem _ h)
    · rcases List.mem_cons.1 h with rfl | h
      · exact .inl List.mem_cons_self
      · rcases ih h with h | ⟨y, hy, h⟩
        · exact .inl (List.mem_cons_of_mem _ h)
        · exact .inr ⟨y, List.mem_cons_of_mem _ hy, h⟩

theorem sublist_removeFirst (p : α → Bool) (l : List α) : (removeFirst p l).Sublist l := by
  induction l with
  | nil => simp [removeFirst]
  | cons a t ih =>
    simp only [removeFirst]
    split
    · exact List.sublist_cons_self a t
    · exact ih.cons_cons a

/-! ### The least number -/

theorem leastOf_mem {l : List Nat} {m : Nat} (h : leastOf l = some m) : m ∈ l := by
  induction l generalizing m with
  | nil => simp [leastOf] at h
  | cons a t ih =>
    simp only [leastOf] at h
    split at h
    · simp_all
    · next b hb =>
      simp only [Option.some.injEq] at h
      rw [← h]
      by_cases hab : a ≤ b
      · simp [hab]
      · simp [Nat.min_def, hab, ih hb]

theorem leastOf_le {l : List Nat} {m n : Nat} (h : leastOf l = some m) (hn : n ∈ l) : m ≤ n := by
  induction l generalizing m with
  | nil => simp at hn
  | cons a t ih =>
    simp only [leastOf] at h
    split at h
    · next hb =>
      simp only [Option.some.injEq] at h
      cases t with
      | nil => simp at hn; omega
      | cons c r =>
        simp only [leastOf] at hb
        split at hb <;> simp at hb
    · next b hb =>
      simp only [Option.some.injEq] at h
      rcases List.mem_cons.1 hn with rfl | hn
      · rw [← h]; exact Nat.min_le_left _ _
      · rw [← h]; exact Nat.le_trans (Nat.min_le_right _ _) (ih hb hn)

theorem leastOf_none {l : List Nat} : leastOf l = none ↔ l = [] := by
  cases l with
  | nil => simp [leastOf]
  | cons a t => simp only [leastOf]; split <;> simp

/-- A member below or equal to every other is the least. -/
theorem leastOf_eq {l : List Nat} {m : Nat} (h : m ∈ l) (hle : ∀ x ∈ l, m ≤ x) : leastOf l = some m := by
  cases hl : leastOf l with
  | none => rw [leastOf_none.1 hl] at h; simp at h
  | some n => exact congrArg some (Nat.le_antisymm (leastOf_le hl h) (hle n (leastOf_mem hl)))

/-! ### Free orders -/

theorem permute_perm (n k : Nat) (l : List α) (h : l.length ≤ k) : (permute n k l).Perm l := by
  induction k generalizing n l with
  | zero => cases l <;> simp_all [permute]
  | succ k ih =>
    simp only [permute]
    split
    · exact .refl _
    · next x hx =>
      have hlt : n % l.length < l.length := by
        apply Nat.mod_lt
        cases l <;> simp_all
      rw [List.getElem?_eq_getElem hlt, Option.some.injEq] at hx
      refine (List.Perm.cons x (ih _ _ ?_)).trans ?_
      · rw [List.length_eraseIdx, if_pos hlt]; omega
      · have := List.getElem_cons_eraseIdx_perm hlt
        rwa [hx] at this

/-- A free order is an order of the same elements. -/
theorem freeOrder_perm (l : List α) (s : State) : (freeOrder l s).Perm l := by
  simp only [freeOrder]
  split
  · exact .refl _
  · exact permute_perm _ _ _ (Nat.le_refl _)

end Sys2Proof.Machine
end

