-- ==== Sys2Proof/Laws/Entry.lean ====
section
/-! SUPPORT. What an entry to ACTIVE does, said once: which ladders the resample starts, what each of them asks, and
that all else stands. -/

namespace Sys2Proof.Machine

/-! ### Completions -/

/-- The ladder of a line after its action in flight completes. -/
theorem completeAction_get (l k : ClaimLine) (o : ActionOutcome) (s : State) :
    (completeAction l o s).rl.get k = if k = l then (completeAction l o s).rl.get l else s.rl.get k := by
  by_cases h : k = l
  · rw [if_pos h, h]
  · rw [if_neg h]; simp only [completeAction]; split <;> simp [setLadder, State.setRl, Six.get_set_of_ne, h]

/-- A ladder with no action in flight stands through every completion. -/
theorem completeAll_get_settled (ls : List ClaimLine) (o : ActionOutcome) (k : ClaimLine) :
    ∀ s : State, (s.rl.get k).state ≠ .stepping → (s.rl.get k).state ≠ .undoInFlight →
      (completeAll ls o s).rl.get k = s.rl.get k := by
  induction ls with
  | nil => intro s _ _; rfl
  | cons a as ih =>
    intro s h1 h2
    have ha : (completeAction a o s).rl.get k = s.rl.get k := by
      rw [completeAction_get]; split
      · next e => subst e; simp only [completeAction]; split <;> simp_all
      · rfl
    rw [completeAll, ih _ (by rw [ha]; exact h1) (by rw [ha]; exact h2), ha]

/-- A ladder in STEPPING waits on through completions, or dwells with the dwell of its step. -/
theorem completeAll_get_stepping (ls : List ClaimLine) (o : ActionOutcome) (k : ClaimLine) :
    ∀ s : State, (s.rl.get k).state = .stepping →
      (completeAll ls o s).rl.get k = s.rl.get k ∨
        (completeAll ls o s).rl.get k =
          ⟨.dwell, (s.rl.get k).taken, some (stepDwell k ((s.rl.get k).taken - 1) s), some o⟩ := by
  induction ls with
  | nil => intro s _; exact .inl rfl
  | cons a as ih =>
    intro s h
    by_cases e : k = a
    · subst e
      right
      have ha : (completeAction k o s).rl.get k =
          ⟨.dwell, (s.rl.get k).taken, some (stepDwell k ((s.rl.get k).taken - 1) s), some o⟩ := by
        simp [completeAction, h, setLadder, State.setRl]
      rw [completeAll, completeAll_get_settled _ _ _ _ (by rw [ha]; simp) (by rw [ha]; simp), ha]
    · have ha : (completeAction a o s).rl.get k = s.rl.get k := by rw [completeAction_get, if_neg e]
      have := ih (completeAction a o s) (by rw [ha]; exact h)
      rw [ha] at this
      have hd : ∀ n, stepDwell k n (completeAction a o s) = stepDwell k n s := by
        intro n; simp [stepDwell, ladderSteps]
      simpa [completeAll, hd] using this

/-! ### What a step asks -/

/-- A request to the Fuel Unit leaves a ladder with no action in flight as it stands. -/
theorem fuelRequest_get_settled (f : Fuel) {l k : ClaimLine} {s : State} (hk : k ≠ l)
    (h1 : (s.rl.get k).state ≠ .stepping) (h2 : (s.rl.get k).state ≠ .undoInFlight) :
    (fuelRequest f l s).rl.get k = s.rl.get k := by
  simp only [fuelRequest]
  split
  · split
    · rw [completeAction_get, if_neg hk]
    · simp
  · split
    · simp only [joinFlight]; split
      · rfl
      · exact completeAll_get_settled _ _ _ _ h1 h2
    · simp only [recordTarget]; split
      · rfl
      · exact completeAll_get_settled _ _ _ _ h1 h2

/-- A request to the Fuel Unit leaves a ladder in STEPPING waiting, or dwelling with the dwell of its step. -/
theorem fuelRequest_get_stepping (f : Fuel) (l k : ClaimLine) {s : State} (h : (s.rl.get k).state = .stepping) :
    (fuelRequest f l s).rl.get k = s.rl.get k ∨ ∃ o,
      (fuelRequest f l s).rl.get k =
        ⟨.dwell, (s.rl.get k).taken, some (stepDwell k ((s.rl.get k).taken - 1) s), some o⟩ := by
  cases hc : s.fu.flight with
  | none =>
    by_cases hm : s.fu.mode = settledMode f
    · have := completeAll_get_stepping [l] .completed k s h
      simp only [completeAll] at this
      simp only [fuelRequest, hc, hm, if_true]
      exact this.imp id fun h => ⟨_, h⟩
    · simp [fuelRequest, hc, hm]
  | some c =>
    by_cases ht : c.target = f
    · subst ht
      simp only [fuelRequest, hc, if_true, joinFlight]
      cases s.fu.recorded with
      | none => exact .inl rfl
      | some r =>
        exact (completeAll_get_stepping r.waiting .superseded k
          (s.setFu { s.fu with flight := some { c with joined := c.joined ++ [l] }, recorded := none }) h).imp
          id fun h => ⟨_, h⟩
    · simp only [fuelRequest, hc, ht, if_false, recordTarget]
      cases s.fu.recorded with
      | some r => exact .inl rfl
      | none =>
        exact (completeAll_get_stepping c.joined .superseded k
          (s.setFu { s.fu with flight := some { c with joined := [] }, recorded := some ⟨f, [l]⟩ }) h).imp
          id fun h => ⟨_, h⟩

/-- A flare request changes no ladder but its own, which waits or dwells with the dwell of its step. -/
theorem flareRequest_get (l k : ClaimLine) (undo : Bool) {s : State} :
    (k ≠ l → (flareRequest ⟨l, undo⟩ s).rl.get k = s.rl.get k) ∧
      ((s.rl.get l).state = .stepping →
        (flareRequest ⟨l, undo⟩ s).rl.get l = s.rl.get l ∨
          (flareRequest ⟨l, undo⟩ s).rl.get l =
            ⟨.dwell, (s.rl.get l).taken, some (stepDwell l ((s.rl.get l).taken - 1) s), some .completed⟩) := by
  simp only [flareRequest]
  split
  · simp only [startFlare]
    split
    · refine ⟨fun hk => by rw [completeAction_get, if_neg hk], fun h => ?_⟩
      simpa [completeAll] using completeAll_get_stepping [l] .completed l s h
    · simp [commandFlare, sendField, State.setHu, State.setFp]
  · simp [State.setHu]

/-- Every step but a fuel step leaves the other ladders; a fuel step leaves those with no action in flight. -/
theorem askTake_get_other (a : Action) {l k : ClaimLine} {s : State} (hk : k ≠ l)
    (h : isFuelStep a = false ∨ (s.rl.get k).state ≠ .stepping ∧ (s.rl.get k).state ≠ .undoInFlight) :
    (askTake a l s).rl.get k = s.rl.get k := by
  cases a with
  | fuelBackup => exact fuelRequest_get_settled _ hk (h.resolve_left (by decide)).1 (h.resolve_left (by decide)).2
  | fuelGas => exact fuelRequest_get_settled _ hk (h.resolve_left (by decide)).1 (h.resolve_left (by decide)).2
  | flareStep => exact (flareRequest_get l k false).1 hk
  | none => simp only [askTake]; rw [completeAction_get, if_neg hk]
  | raise n => simp only [askTake]; rw [completeAction_get, if_neg hk]; simp
  | shed => simp only [askTake]; rw [completeAction_get, if_neg hk]; simp
  | wake r => simp only [askTake]; rw [completeAction_get, if_neg hk]; simp

/-- A ladder in STEPPING stays in it, or dwells with the dwell of its step, whatever a ladder asks. -/
theorem askTake_get_stepping (a : Action) (l : ClaimLine) {k : ClaimLine} {s : State}
    (h : (s.rl.get k).state = .stepping) :
    (askTake a l s).rl.get k = s.rl.get k ∨ ∃ o,
      (askTake a l s).rl.get k =
        ⟨.dwell, (s.rl.get k).taken, some (stepDwell k ((s.rl.get k).taken - 1) s), some o⟩ := by
  by_cases hk : k = l
  · subst hk
    have hd : ∀ (t : State) (n : Nat), t.mc = s.mc → stepDwell k n t = stepDwell k n s := by
      intro t n ht; simp [stepDwell, ladderSteps, ht]
    cases a with
    | fuelBackup => exact fuelRequest_get_stepping _ _ _ h
    | fuelGas => exact fuelRequest_get_stepping _ _ _ h
    | flareStep => exact ((flareRequest_get k k false).2 h).imp id fun h => ⟨_, h⟩
    | none => simp [askTake, completeAction, h, setLadder, State.setRl]
    | raise n => simp [askTake, completeAction, h, setLadder, State.setRl, hd]
    | shed => simp [askTake, completeAction, h, setLadder, State.setRl, hd]
    | wake r => simp [askTake, completeAction, h, setLadder, State.setRl, hd]
  · cases ha : isFuelStep a with
    | false => exact .inl (askTake_get_other a hk (.inl ha))
    | true =>
      cases a with
      | fuelBackup => exact fuelRequest_get_stepping _ _ _ h
      | fuelGas => exact fuelRequest_get_stepping _ _ _ h
      | none | raise n | shed | wake r | flareStep => simp [isFuelStep] at ha

/-- A step of neither fuel nor flare completes at once. -/
theorem askTake_get_atOnce (a : Action) (l : ClaimLine) {s : State} (h : (s.rl.get l).state = .stepping)
    (hf : isFuelStep a = false) (hg : isFlareStep a = false) :
    (askTake a l s).rl.get l =
      ⟨.dwell, (s.rl.get l).taken, some (stepDwell l ((s.rl.get l).taken - 1) s), some .completed⟩ := by
  have hd : ∀ (t : State) (n : Nat), t.mc = s.mc → stepDwell l n t = stepDwell l n s := by
    intro t n ht; simp [stepDwell, ladderSteps, ht]
  cases a with
  | fuelBackup => simp [isFuelStep] at hf
  | fuelGas => simp [isFuelStep] at hf
  | flareStep => simp [isFlareStep] at hg
  | none => simp [askTake, completeAction, h, setLadder, State.setRl]
  | raise n => simp [askTake, completeAction, h, setLadder, State.setRl, hd]
  | shed => simp [askTake, completeAction, h, setLadder, State.setRl, hd]
  | wake r => simp [askTake, completeAction, h, setLadder, State.setRl, hd]

/-- No ladder comes to IDLE, or leaves it, by an ask. -/
theorem askTake_idle (a : Action) (l k : ClaimLine) {s : State} :
    ((askTake a l s).rl.get k).state = .idle ↔ (s.rl.get k).state = .idle := by
  have one : ∀ (j : ClaimLine) (o : ActionOutcome) (t : State),
      ((completeAction j o t).rl.get k).state = .idle ↔ (t.rl.get k).state = .idle := by
    intro j o t
    rw [completeAction_get]
    split
    · next e => subst e; simp only [completeAction]; split <;> simp_all [setLadder, State.setRl]
    · rfl
  have all : ∀ (ls : List ClaimLine) (o : ActionOutcome) (t : State),
      ((completeAll ls o t).rl.get k).state = .idle ↔ (t.rl.get k).state = .idle := by
    intro ls o
    induction ls with
    | nil => intro t; rfl
    | cons b bs ih => intro t; rw [completeAll, ih, one]
  cases a <;> simp only [askTake, fuelRequest, flareRequest, startFlare, joinFlight, recordTarget] <;>
    (repeat' split) <;> simp [one, all, State.setHu, State.setFu]

/-! ### What a rise does -/

/-- A rise handed to a ladder that is not IDLE, or has no step left, does nothing. -/
theorem ladderRise_none {l : ClaimLine} {s : State}
    (h : ∀ st, ¬((s.rl.get l).state = .idle ∧ (ladderSteps l s)[(s.rl.get l).taken]? = some st)) :
    ladderRise l s = s := by
  simp only [ladderRise]
  split
  · next hi =>
    simp only [takeStep]
    split
    · rfl
    · next st hst => exact absurd ⟨hi, hst⟩ (h st)
  all_goals rfl

/-- A rise handed to an IDLE ladder with a step asks that step. -/
theorem ladderRise_asks {l : ClaimLine} {s : State} {st : Step} (hi : (s.rl.get l).state = .idle)
    (hst : (ladderSteps l s)[(s.rl.get l).taken]? = some st) :
    ladderRise l s = askTake st.action l
      (setLadder l ⟨.stepping, (s.rl.get l).taken + 1, none, (s.rl.get l).outcome⟩ s) := by
  simp [ladderRise, hi, takeStep, hst]

/-- A rise handed to one ladder leaves another as it stands where that has no action in flight, or the step taken is
no fuel step. -/
theorem ladderRise_get_other {l k : ClaimLine} {s : State} (hk : k ≠ l)
    (h : ((s.rl.get k).state ≠ .stepping ∧ (s.rl.get k).state ≠ .undoInFlight) ∨
      ∀ st, (s.rl.get l).state = .idle → (ladderSteps l s)[(s.rl.get l).taken]? = some st →
        isFuelStep st.action = false) :
    (ladderRise l s).rl.get k = s.rl.get k := by
  by_cases hs : ∃ st, (s.rl.get l).state = .idle ∧ (ladderSteps l s)[(s.rl.get l).taken]? = some st
  · obtain ⟨st, hi, hst⟩ := hs
    rw [ladderRise_asks hi hst, askTake_get_other _ hk] <;> simp only [setLadder_rl, Six.get_set_of_ne _ _ hk]
    exact h.elim .inr fun h => .inl (h st hi hst)
  · rw [ladderRise_none fun st hst => hs ⟨st, hst⟩]

/-- A ladder in STEPPING stays in it, or dwells with the dwell of its step, whatever ladder rises. -/
theorem ladderRise_get_stepping (l : ClaimLine) {k : ClaimLine} {s : State} (h : (s.rl.get k).state = .stepping) :
    (ladderRise l s).rl.get k = s.rl.get k ∨ ∃ o,
      (ladderRise l s).rl.get k =
        ⟨.dwell, (s.rl.get k).taken, some (stepDwell k ((s.rl.get k).taken - 1) s), some o⟩ := by
  by_cases hs : ∃ st, (s.rl.get l).state = .idle ∧ (ladderSteps l s)[(s.rl.get l).taken]? = some st
  · obtain ⟨st, hi, hst⟩ := hs
    have hk : k ≠ l := by rintro rfl; simp [h] at hi
    rw [ladderRise_asks hi hst]
    have := askTake_get_stepping st.action l (k := k)
      (s := setLadder l ⟨.stepping, (s.rl.get l).taken + 1, none, (s.rl.get l).outcome⟩ s)
      (by simpa [Six.get_set_of_ne _ _ hk] using h)
    simp only [setLadder_rl, Six.get_set_of_ne _ _ hk] at this
    exact this
  · rw [ladderRise_none fun st hst => hs ⟨st, hst⟩]; exact .inl rfl

/-- A rise handed to one ladder brings no other to IDLE or out of it. -/
theorem ladderRise_idle {l k : ClaimLine} {s : State} (hk : k ≠ l) :
    ((ladderRise l s).rl.get k).state = .idle ↔ (s.rl.get k).state = .idle := by
  by_cases hs : ∃ st, (s.rl.get l).state = .idle ∧ (ladderSteps l s)[(s.rl.get l).taken]? = some st
  · obtain ⟨st, hi, hst⟩ := hs
    rw [ladderRise_asks hi hst, askTake_idle]; simp [Six.get_set_of_ne, hk]
  · rw [ladderRise_none fun st hst => hs ⟨st, hst⟩]

/-! ### What the rises of an entry do -/

/-- The ladder of a line has a step to take, standing IDLE. -/
def TakesStep (l : ClaimLine) (st : Step) (s : State) : Prop :=
  (s.rl.get l).state = .idle ∧ (ladderSteps l s)[(s.rl.get l).taken]? = some st

/-- A ladder that has a step to take has it after another's rise, and none gets one by it. -/
theorem TakesStep_after {l k : ClaimLine} {st : Step} {s : State} (hk : k ≠ l) :
    TakesStep k st (ladderRise l s) ↔ TakesStep k st s := by
  have hl : ladderSteps k (ladderRise l s) = ladderSteps k s := by simp [ladderSteps]
  simp only [TakesStep, ladderRise_idle hk, hl]
  constructor <;> rintro ⟨h1, h2⟩ <;> refine ⟨h1, ?_⟩ <;>
    rw [ladderRise_get_other hk (.inl (by simp [h1]))] at * <;> exact h2

/-- Ladders not among those that rise, or with no step to take: as they stand where they have no action in flight, or
no fuel step is taken. -/
theorem handRises_get_other {k : ClaimLine} (ls : List ClaimLine) :
    ∀ s : State, ls.Nodup → (k ∉ ls ∨ ∀ st, ¬TakesStep k st s) →
      ((s.rl.get k).state ≠ .stepping ∧ (s.rl.get k).state ≠ .undoInFlight ∨
        ∀ l ∈ ls, ∀ st, TakesStep l st s → isFuelStep st.action = false) →
      (handRises ls s).rl.get k = s.rl.get k := by
  induction ls with
  | nil => intro s _ _ _; rfl
  | cons a as ih =>
    intro s hn hk h
    rw [List.nodup_cons] at hn
    have after : ∀ l ∈ as, ∀ st, TakesStep l st (ladderRise a s) → TakesStep l st s := fun l hl st =>
      (TakesStep_after (by rintro rfl; exact hn.1 hl)).1
    by_cases hka : k = a
    · subst hka
      have hr := ladderRise_none (hk.resolve_left (by simp))
      rw [handRises, hr, ih _ hn.2 (.inl hn.1)]
      exact h.imp id fun h l hl => h l (List.mem_cons_of_mem _ hl)
    · have ha : (ladderRise a s).rl.get k = s.rl.get k :=
        ladderRise_get_other hka (h.imp id fun h st hi hst => h a List.mem_cons_self st ⟨hi, hst⟩)
      rw [handRises, ih _ hn.2, ha]
      · exact hk.imp (fun h hm => h (List.mem_cons_of_mem _ hm)) fun h st hst => h st ((TakesStep_after hka).1 hst)
      · rw [ha]
        exact h.imp id fun h l hl st hst => h l (List.mem_cons_of_mem _ hl) st (after l hl st hst)

/-- A ladder in STEPPING waits on, or dwells with the dwell of its step, through some rises. -/
theorem handRises_get_stepping (k : ClaimLine) (ls : List ClaimLine) :
    ∀ s : State, (s.rl.get k).state = .stepping →
      (handRises ls s).rl.get k = s.rl.get k ∨ ∃ o,
        (handRises ls s).rl.get k =
          ⟨.dwell, (s.rl.get k).taken, some (stepDwell k ((s.rl.get k).taken - 1) s), some o⟩ := by
  induction ls with
  | nil => intro s _; exact .inl rfl
  | cons a as ih =>
    intro s h
    have hd : ∀ n, stepDwell k n (ladderRise a s) = stepDwell k n s := by
      intro n; simp [stepDwell, ladderSteps]
    rcases ladderRise_get_stepping a h with ha | ⟨o, ha⟩
    · have := ih (ladderRise a s) (by rw [ha]; exact h)
      rw [ha, hd] at this
      exact this
    · refine .inr ⟨o, ?_⟩
      have settled : ∀ (ms : List ClaimLine) (t : State),
          (t.rl.get k).state = .dwell → (handRises ms t).rl.get k = t.rl.get k := by
        intro ms
        induction ms with
        | nil => intro t _; rfl
        | cons b bs ihb =>
          intro t ht
          have hb : (ladderRise b t).rl.get k = t.rl.get k := by
            by_cases hkb : k = b
            · subst hkb; rw [ladderRise_none (by simp [ht])]
            · exact ladderRise_get_other hkb (.inl (by simp [ht]))
          rw [handRises, ihb _ (by rw [hb]; exact ht), hb]
      rw [handRises, settled _ _ (by rw [ha]), ha]

/-- A ladder that rises among others and has a step to take: where the step is neither of fuel nor of the flare it has
completed and dwells; where it is, it waits or dwells. -/
theorem handRises_get_own {k : ClaimLine} {st : Step} (ls : List ClaimLine) :
    ∀ s : State, ls.Nodup → k ∈ ls → TakesStep k st s →
      (isFuelStep st.action = false → isFlareStep st.action = false →
        (handRises ls s).rl.get k = ⟨.dwell, (s.rl.get k).taken + 1, some st.dwell, some .completed⟩) ∧
      ((handRises ls s).rl.get k).taken = (s.rl.get k).taken + 1 ∧
      (((handRises ls s).rl.get k).state = .stepping ∧ ((handRises ls s).rl.get k).dwell = none ∨
        ((handRises ls s).rl.get k).state = .dwell ∧ ((handRises ls s).rl.get k).dwell = some st.dwell) := by
  induction ls with
  | nil => intro s _ h; simp at h
  | cons a as ih =>
    intro s hn hk ht
    rw [List.nodup_cons] at hn
    have hl : ∀ j, ladderSteps j (ladderRise a s) = ladderSteps j s := by simp [ladderSteps]
    by_cases hka : k = a
    · subst hka
      have hd : stepDwell k (s.rl.get k).taken s = st.dwell := by simp [stepDwell, ht.2]
      have hd' : ∀ t : State, t.mc = s.mc → stepDwell k (s.rl.get k).taken t = st.dwell := by
        intro t h; rw [← hd]; simp [stepDwell, ladderSteps, h]
      let u := setLadder k ⟨.stepping, (s.rl.get k).taken + 1, none, (s.rl.get k).outcome⟩ s
      have hu : u.rl.get k = ⟨.stepping, (s.rl.get k).taken + 1, none, (s.rl.get k).outcome⟩ := by simp [u]
      have hr : ladderRise k s = askTake st.action k u := ladderRise_asks ht.1 ht.2
      have hw : handRises (k :: as) s = handRises as (askTake st.action k u) := by rw [handRises, hr]
      have settled : ∀ x, (askTake st.action k u).rl.get k = x → x.state = .dwell →
          (handRises as (askTake st.action k u)).rl.get k = x := by
        intro x hx hs
        rw [handRises_get_other as _ hn.2 (.inl hn.1) (.inl (by rw [hx, hs]; simp)), hx]
      rw [hw]
      rcases askTake_get_stepping st.action k (k := k) (s := u) (by rw [hu]) with h | ⟨o, h⟩
      · have hs : ((askTake st.action k u).rl.get k).state = .stepping := by rw [h, hu]
        have key : isFuelStep st.action = true ∨ isFlareStep st.action = true := by
          by_contra hc
          simp only [not_or, Bool.not_eq_true] at hc
          rw [askTake_get_atOnce st.action k (by rw [hu]) hc.1 hc.2] at hs
          simp at hs
        refine ⟨fun h1 h2 => by simp [h1, h2] at key, ?_⟩
        rcases handRises_get_stepping k as _ hs with g | ⟨o, g⟩
        · rw [g, h, hu]; simp
        · rw [g, h, hu]; simpa using hd' (askTake st.action k u) (by simp [u])
      · have hx := settled _ h rfl
        refine ⟨fun h1 h2 => ?_, ?_⟩
        · rw [settled _ (askTake_get_atOnce st.action k (by rw [hu]) h1 h2) rfl, hu]
          simp [hd' u rfl]
        · rw [hx, hu]; simpa using hd' u rfl
    · have hk' : k ∈ as := by simpa [hka] using hk
      have ha : (ladderRise a s).rl.get k = s.rl.get k :=
        ladderRise_get_other hka (.inl (by simp [ht.1]))
      have := ih _ hn.2 hk' ((TakesStep_after hka).2 ht)
      rw [ha] at this
      exact this

/-! ### What the rises do beside the ladders -/

/-- What an ask, or some rises, may change beside the ladders, by the kinds of step among them. -/
structure RisesKeep (noFuel noFlare noWake : Prop) (s t : State) : Prop where
  share : t.se = { s.se with grant := t.se.grant, minGrant := t.se.minGrant, setpoint := t.se.setpoint }
  lowered : t.se.grant ≤ s.se.grant ∧ t.se.minGrant ≤ s.se.minGrant ∧ t.se.setpoint ≤ s.se.setpoint ∧
    (s.se.fallback = true → t.se.setpoint = s.se.setpoint)
  fuel : t.fu.lastReported = s.fu.lastReported ∧ (noFuel → t.fu = s.fu)
  holder : t.hu = { s.hu with move := t.hu.move, waiting := t.hu.waiting } ∧ (noFlare → t.hu = s.hu)
  line : t.liu = { s.liu with tx := t.liu.tx } ∧ (noWake → t.liu = s.liu)
  port : t.fp = { s.fp with out := t.fp.out } ∧ (noFuel → noFlare → s.se.fallback = true → t.fp = s.fp)

variable {noFuel noFlare noWake : Prop}

theorem RisesKeep.refl (s : State) : RisesKeep noFuel noFlare noWake s s := by constructor <;> simp

theorem RisesKeep.trans {s t u : State} (h : RisesKeep noFuel noFlare noWake s t)
    (g : RisesKeep noFuel noFlare noWake t u) : RisesKeep noFuel noFlare noWake s u := by
  have hf : t.se.fallback = s.se.fallback := by rw [h.share]
  constructor
  · rw [g.share, h.share]
  · obtain ⟨h1, h2, h3, h4⟩ := h.lowered
    obtain ⟨g1, g2, g3, g4⟩ := g.lowered
    exact ⟨by omega, by omega, by omega, fun hb => by rw [g4 (by rw [hf]; exact hb), h4 hb]⟩
  · exact ⟨by rw [g.fuel.1, h.fuel.1], fun n => by rw [g.fuel.2 n, h.fuel.2 n]⟩
  · exact ⟨by rw [g.holder.1, h.holder.1], fun n => by rw [g.holder.2 n, h.holder.2 n]⟩
  · exact ⟨by rw [g.line.1, h.line.1], fun n => by rw [g.line.2 n, h.line.2 n]⟩
  · exact ⟨by rw [g.port.1, h.port.1], fun n m b => by rw [g.port.2 n m (by rw [hf]; exact b), h.port.2 n m b]⟩

/-- A rebuild of the want keeps all but the share, which it lowers, and sends none but the SETPOINT of it. -/
theorem rebuildWant_keeps (s : State) : RisesKeep noFuel noFlare noWake s (rebuildWant s) := by
  simp only [rebuildWant]
  split
  · exact .refl s
  · split
    · next h =>
      have : s.se.fallback = false := by
        by_contra hb; simp only [Bool.not_eq_false] at hb; simp [seLowered, hb] at h
      constructor <;> simp [seLowered, this]
    · constructor <;> simp [seLowered]; split <;> simp_all

/-- States that agree on the blocks named keep all of them. -/
theorem RisesKeep.of_eq {s t : State} (h1 : t.se = s.se) (h2 : t.fu = s.fu) (h3 : t.hu = s.hu) (h4 : t.liu = s.liu)
    (h5 : t.fp = s.fp) : RisesKeep noFuel noFlare noWake s t := by
  constructor <;> simp [h1, h2, h3, h4, h5]

/-- A request to the Fuel Unit keeps all but the Fuel Unit, what the share lowers and the messages sent. -/
theorem fuelRequest_keeps (f : Fuel) (l : ClaimLine) (s : State) (h : ¬noFuel) :
    RisesKeep noFuel noFlare noWake s (fuelRequest f l s) := by
  simp only [fuelRequest]
  split
  · split
    · exact .of_eq (by simp) (by simp) (by simp) (by simp) (by simp)
    · simp only [startChangeover, setFuelMode]
      refine RisesKeep.trans ?_ (rebuildWant_keeps _)
      constructor <;> simp [h, State.setFu]
  · split
    · simp only [joinFlight]; split <;> constructor <;> simp [h]
    · simp only [recordTarget]; split <;> constructor <;> simp [h]

/-- A flare request keeps all but the move, the waiting list and the messages sent. -/
theorem flareRequest_keeps (r : FlareRequest) (s : State) (h : ¬noFlare) :
    RisesKeep noFuel noFlare noWake s (flareRequest r s) := by
  simp only [flareRequest, startFlare, commandFlare]
  split
  · split <;> constructor <;> simp [h]
  · constructor <;> simp [h]

/-- What an ask keeps. -/
theorem askTake_keeps (a : Action) (l : ClaimLine) (s : State) (hf : noFuel → isFuelStep a = false)
    (hg : noFlare → isFlareStep a = false) (hw : noWake → isWakeStep a = false) :
    RisesKeep noFuel noFlare noWake s (askTake a l s) := by
  have done : ∀ t : State, RisesKeep noFuel noFlare noWake t (completeAction l .completed t) := fun t =>
    .of_eq (by simp) (by simp) (by simp) (by simp) (by simp)
  cases a with
  | none => exact done s
  | fuelBackup => exact fuelRequest_keeps _ _ _ fun n => by simpa [isFuelStep] using hf n
  | fuelGas => exact fuelRequest_keeps _ _ _ fun n => by simpa [isFuelStep] using hf n
  | raise n => exact (rebuildWant_keeps s).trans (done _)
  | shed => exact (rebuildWant_keeps s).trans (done _)
  | flareStep => exact flareRequest_keeps _ _ fun n => by simpa [isFlareStep] using hg n
  | wake r =>
    refine RisesKeep.trans ?_ (done _)
    have : ¬noWake := fun n => by simpa [isWakeStep] using hw n
    constructor <;> simp [this]
    simp only [enqueue]; split <;> simp

/-- What some rises keep. -/
theorem handRises_keeps (ls : List ClaimLine) :
    ∀ s : State, ls.Nodup →
      (∀ l ∈ ls, ∀ st, TakesStep l st s → (noFuel → isFuelStep st.action = false) ∧
        (noFlare → isFlareStep st.action = false) ∧ (noWake → isWakeStep st.action = false)) →
      RisesKeep noFuel noFlare noWake s (handRises ls s) := by
  induction ls with
  | nil => intro s _ _; exact .refl s
  | cons a as ih =>
    intro s hn h
    rw [List.nodup_cons] at hn
    refine RisesKeep.trans (t := ladderRise a s) ?_ (ih _ hn.2 fun l hl st hst => ?_)
    · by_cases hs : ∃ st, TakesStep a st s
      · obtain ⟨st, hst⟩ := hs
        obtain ⟨h1, h2, h3⟩ := h a List.mem_cons_self st hst
        rw [ladderRise_asks hst.1 hst.2]
        exact RisesKeep.trans (t := setLadder a _ s) (.of_eq rfl rfl rfl rfl rfl) (askTake_keeps _ _ _ h1 h2 h3)
      · rw [ladderRise_none fun st hst => hs ⟨st, hst⟩]; exact .refl s
    · have hla : l ≠ a := by rintro rfl; exact hn.1 hl
      exact h l (List.mem_cons_of_mem _ hl) st ((TakesStep_after hla).1 hst)

/-! ### The entry -/

/-- The pending flags of some lines cleared. -/
theorem clearPending_get (ls : List ClaimLine) (k : ClaimLine) :
    ∀ s : State, (clearPending ls s).cu.get k =
      if k ∈ ls then { s.cu.get k with pending := false } else s.cu.get k := by
  induction ls with
  | nil => intro s; simp [clearPending]
  | cons a as ih =>
    intro s
    rw [clearPending, ih]
    by_cases hk : k = a
    · subst hk; simp [setPending]
    · simp [setPending, Six.get_set_of_ne, hk]

/-- The lines whose ladders are handed a rise at an entry to ACTIVE. -/
theorem mem_freeOrder_asserted (l : ClaimLine) (s u : State) :
    l ∈ freeOrder ((resampledLines s).filter fun l => orAsserted l s) u ↔
      (s.cu.get l).pending = true ∧ (s.mc.config.lines.get l).masked = false ∧ (s.cu.get l).sources ≠ [] := by
  rw [(freeOrder_perm _ u).mem_iff]
  simp [resampledLines, mem_allLines, orAsserted]; tauto

theorem nodup_freeOrder_asserted (s u : State) :
    (freeOrder ((resampledLines s).filter fun l => orAsserted l s) u).Nodup := by
  rw [(freeOrder_perm _ u).nodup_iff]
  exact ((by decide : allLines.Nodup).filter _).filter _

/-- What an entry to ACTIVE does (R37, R47, R48, R85, R98, R174, R177). -/
theorem enterActive_enters (s : State) : EntersActive s (enterActive s) := by
  let a := s.setMc { s.mc with mode := .active, latch := emptyLatch }
  let b := a.setSe { a.se with roundCount := 0 }
  let c := rebuildWant b
  let ls := freeOrder ((resampledLines c).filter fun l => orAsserted l c) c
  let d := orderDrawn ((resampledLines c).filter fun l => orAsserted l c) (clearPending (resampledLines c) c)
  have ht : enterActive s = handRises ls d := rfl
  have hn : ls.Nodup := nodup_freeOrder_asserted c c
  have hcu : c.cu = s.cu := by simp [c, b, a]
  have hmc : c.mc = { s.mc with mode := .active, latch := emptyLatch } := by simp [c, b, a]
  have hrl : c.rl = s.rl := by simp [c, b, a]
  have hdrl : d.rl = s.rl := by simp [d, hrl]
  have hdmc : d.mc = c.mc := by simp [d]
  have hmem : ∀ l, l ∈ ls ↔
      (s.cu.get l).pending = true ∧ (s.mc.config.lines.get l).masked = false ∧ (s.cu.get l).sources ≠ [] := by
    intro l; rw [mem_freeOrder_asserted, hcu, hmc]
  have htakes : ∀ l st, TakesStep l st d ↔
      (s.rl.get l).state = .idle ∧ (ladderSteps l s)[(s.rl.get l).taken]? = some st := by
    intro l st; simp [TakesStep, ladderSteps, hdrl, hdmc, hmc]
  have hstarts : ∀ l st, StartsAtEntry l st s ↔ l ∈ ls ∧ TakesStep l st d := by
    intro l st; rw [hmem, htakes]; simp only [StartsAtEntry]; tauto
  have keeps : RisesKeep (NoneStarts isFuelStep s) (NoneStarts isFlareStep s) (NoneStarts isWakeStep s) b
      (enterActive s) := by
    rw [ht]
    refine (rebuildWant_keeps b).trans (.trans (t := d) (.of_eq ?_ ?_ ?_ ?_ ?_) (handRises_keeps _ _ hn ?_))
    any_goals simp [d, c]
    intro l hl st hst
    have := (hstarts l st).2 ⟨hl, hst⟩
    exact ⟨fun n => n l st this, fun n => n l st this, fun n => n l st this⟩
  constructor
  · rw [ht]; simp [hdmc, hmc, emptyLatch]
  · intro l
    have : (enterActive s).cu = d.cu := by rw [ht]; simp
    rw [this]
    have : d.cu.get l = (clearPending (resampledLines c) c).cu.get l := by simp [d]
    rw [this, clearPending_get, hcu]
    by_cases hp : (s.cu.get l).pending = true
    · by_cases hm : (s.mc.config.lines.get l).masked = true
      · rw [if_neg (by simp [resampledLines, hcu, hmc, hm])]; simp [hp, hm]
        rw [← hp]
      · rw [if_pos (by simp [resampledLines, mem_allLines, hcu, hmc, hp, hm])]; simp [hm]
    · rw [if_neg (by simp [resampledLines, hcu, hp])]
      simp only [Bool.not_eq_true] at hp
      simp [hp]; rw [← hp]
  · intro l st hs h1 h2
    rw [hstarts] at hs
    rw [ht, (handRises_get_own ls d hn hs.1 hs.2).1 h1 h2, hdrl]
  · intro l st hs h
    rw [hstarts] at hs
    have := (handRises_get_own ls d hn hs.1 hs.2).2
    rw [ht]; rw [hdrl] at this; exact this
  · intro l hs h
    rw [ht, ← hdrl]
    refine handRises_get_other ls d hn ?_ ?_
    · by_cases hl : l ∈ ls
      · exact .inr fun st h => hs st ((hstarts l st).2 ⟨hl, h⟩)
      · exact .inl hl
    · rw [hdrl]
      exact h.imp id fun h k hk st hst => h k st ((hstarts k st).2 ⟨hk, hst⟩)
  · rw [keeps.share]; simp [b, a]
  · have := keeps.lowered; simpa [b, a] using this
  · exact keeps.fuel
  · exact keeps.holder
  · exact keeps.line
  · exact keeps.port
  · rw [ht]; simp [d, c, b, a]

end Sys2Proof.Machine
end

