-- ==== Sys2Proof/Laws/Share.lean ====
section
/-! SUPPORT. The walk of the tiers and the sums of the Peer Table in closed form, said once. -/

namespace Sys2Proof.Machine

@[simp] theorem sumOf_nil : sumOf [] = 0 := rfl
@[simp] theorem sumOf_cons (n : Nat) (l : List Nat) : sumOf (n :: l) = n + sumOf l := rfl

@[simp] theorem sumOf_append (a b : List Nat) : sumOf (a ++ b) = sumOf a + sumOf b := by
  induction a with
  | nil => simp
  | cons n l ih => simp [ih]; omega

/-- A sum of sums. -/
theorem sumOf_add {α : Type} (f g : α → Nat) (l : List α) :
    sumOf (l.map fun x => f x + g x) = sumOf (l.map f) + sumOf (l.map g) := by
  induction l with
  | nil => rfl
  | cons x t ih => simp [ih]; omega

/-- A sum of zeros. -/
theorem sumOf_zero {α : Type} (f : α → Nat) (l : List α) (h : ∀ x ∈ l, f x = 0) : sumOf (l.map f) = 0 := by
  induction l with
  | nil => rfl
  | cons x t ih => simp [h x, ih fun y hy => h y (List.mem_cons_of_mem _ hy)]

/-! ### The walk (R41) -/

/-- The demands of the first `k` tiers together. -/
def servedTo (ws : List WantMember) (k : Nat) : Nat := sumOf ((List.range k).map fun t => tierDemand (t + 1) ws)

@[simp] theorem servedTo_succ (ws : List WantMember) (k : Nat) :
    servedTo ws (k + 1) = servedTo ws k + tierDemand (k + 1) ws := by
  simp [servedTo, List.range_succ]

theorem servedTo_mono (ws : List WantMember) {j k : Nat} (h : j ≤ k) : servedTo ws j ≤ servedTo ws k := by
  induction h with
  | refl => exact Nat.le_refl _
  | step _ ih => rw [Nat.succ_eq_add_one, servedTo_succ]; omega

/-- While the demands stay within the supply every tier is full or skipped. -/
theorem walkThrough_served (ws : List WantMember) (sup k : Nat) (h : servedTo ws k ≤ sup) :
    walkThrough ws sup k = ⟨sup - servedTo ws k, none⟩ := by
  induction k with
  | zero => simp [walkThrough, servedTo]
  | succ k ih =>
    rw [servedTo_succ] at h
    rw [walkThrough, ih (by omega), walkTier]
    simp only [Option.isSome_none, Bool.false_eq_true, false_or, servedTo_succ]
    split
    · next h0 => simp [h0]
    · rw [if_pos (by omega)]; simp; omega

/-- The first tier whose demand passes the supply is short, and the walk then stands. -/
theorem walkThrough_short (ws : List WantMember) (sup k j : Nat) (h : servedTo ws k ≤ sup)
    (h' : sup < servedTo ws (k + 1)) (hj : k + 1 ≤ j) : walkThrough ws sup j = ⟨0, some (k + 1)⟩ := by
  induction hj with
  | refl =>
    rw [servedTo_succ] at h'
    rw [walkThrough, walkThrough_served ws sup k h, walkTier]
    simp only [Option.isSome_none, Bool.false_eq_true, false_or]
    rw [if_neg (by omega), if_neg (by omega)]
  | step _ ih => rw [walkThrough, ih, walkTier]; simp

/-- A member's grant in a tier by the demands before it. -/
theorem grantIn_eq (ws : List WantMember) (sup : Nat) (w : WantMember) (k : Nat)
    (h : tierAmount (k + 1) w ≤ tierDemand (k + 1) ws) :
    grantIn ws sup w k =
      if servedTo ws (k + 1) ≤ sup then tierAmount (k + 1) w
      else if servedTo ws k ≤ sup then (sup - servedTo ws k) * tierAmount (k + 1) w / tierDemand (k + 1) ws
      else 0 := by
  have hs := servedTo_succ ws k
  unfold grantIn tierGrant
  by_cases hk : servedTo ws k ≤ sup
  · rw [walkThrough_served ws sup k hk]
    simp only [Option.isSome_none, Bool.false_eq_true, false_or]
    split_ifs <;> omega
  · have : ∃ j, j < k ∧ servedTo ws j ≤ sup ∧ sup < servedTo ws (j + 1) := by
      clear hs h
      induction k with
      | zero => exact absurd (Nat.zero_le _) hk
      | succ k ih =>
        by_cases hk' : servedTo ws k ≤ sup
        · exact ⟨k, by omega, hk', by omega⟩
        · obtain ⟨j, h1, h2⟩ := ih hk'
          exact ⟨j, Nat.lt_succ_of_lt h1, h2⟩
    obtain ⟨j, h1, h2, h3⟩ := this
    have hn : ¬servedTo ws (k + 1) ≤ sup := by omega
    simp only [walkThrough_short ws sup j k h2 h3 h1, hn, hk, if_false, Option.isSome_some, true_or, if_true]

/-- A member's amount in a tier is within the tier's demand. -/
theorem tierAmount_le (ws : List WantMember) (w : WantMember) (t : Nat) (h : w ∈ ws) :
    tierAmount t w ≤ tierDemand t ws := by
  unfold tierDemand
  induction ws with
  | nil => cases h
  | cons x r ih =>
    rw [List.map_cons, sumOf_cons]
    rcases List.mem_cons.1 h with rfl | h
    · omega
    · have := ih h; omega

/-! ### The sums of the Peer Table (R31, R32) -/

theorem counted_iff (e : PeerEntry) : counted e = true ↔ e.stale = false ∧ e.severity ≠ .failed := by
  simp [counted, bne_iff_ne]

/-- Hb in closed form. -/
theorem heatFromBackup_eq (s : State) :
    heatFromBackup s.peers = heatOfRole .boiler (measuredOn [.backup, .changeover]) s := by
  unfold heatFromBackup heatOfRole
  congr 1
  refine List.map_congr_left fun x _ => ?_
  have hr : ∀ r : MainRecord, (boilerHeat r).1 = measuredOn [.backup, .changeover] r := by
    intro r
    rcases r with ⟨_ | _ | _, o, g, _ | _ | _ | _ | _⟩ | _ | _ <;> simp [boilerHeat, measuredOn]
  simp only [entryHeat, Bool.and_eq_true, counted_iff, hr]
  rcases x with ⟨n, e⟩
  cases hrole : e.role <;> simp_all [and_assoc] <;> split_ifs <;> simp_all

/-- Ht in closed form. -/
theorem heatWhole_eq (s : State) :
    heatWhole s.peers = heatOfRole .boiler (measuredOn [.backup, .changeover]) s +
      heatOfRole .boiler (measuredOn [.gas]) s + heatOfRole .producer (offeredOn .m2) s := by
  unfold heatWhole heatOfRole
  rw [← sumOf_add, ← sumOf_add]
  congr 1
  refine List.map_congr_left fun x _ => ?_
  have hr : ∀ r : MainRecord, (boilerHeat r).2 = measuredOn [.backup, .changeover] r + measuredOn [.gas] r := by
    intro r
    rcases r with ⟨_ | _ | _, o, g, _ | _ | _ | _ | _⟩ | _ | _ <;> simp [boilerHeat, measuredOn]
  have hp : producerHeat = offeredOn .m2 := by
    funext r
    rcases r with ⟨_ | _ | _, o, g, _⟩ | _ | _ <;> simp [producerHeat, offeredOn]
  simp only [entryHeat, Bool.and_eq_true, counted_iff, hr, hp, sumOf_add]
  rcases x with ⟨n, e⟩
  cases hrole : e.role <;> simp_all [and_assoc] <;> split_ifs <;> simp_all

/-- ΣK in closed form. -/
theorem capacitySum_eq (s : State) (k : Nat) :
    capacitySum k s.peers = k + sumOf (s.peers.map fun x => capacityAdded x.2) := by
  unfold capacitySum
  congr 2
  refine List.map_congr_left fun x _ => ?_
  rcases x with ⟨n, e⟩
  simp only [entryCapacity, capacityAdded, Bool.and_eq_true, counted_iff, beq_iff_eq]
  by_cases h1 : e.role = .turbine <;> by_cases h2 : e.mode = .active <;> simp [h1, h2] <;>
    cases e.extras <;> rfl

theorem tieGap_iff (e : PeerEntry) (gap age : Nat) :
    tieGap e = some (gap, age) ↔ (tieInForce e ∧ e.extras = .tie gap) ∧ e.age = age := by
  unfold tieGap tieInForce
  simp only [Bool.and_eq_true, counted_iff, beq_iff_eq]
  split_ifs with h
  · cases he : e.extras <;> simp_all
  · refine ⟨fun h' => (by cases h'), fun ⟨⟨⟨h1, h2, h3⟩, _⟩, _⟩ => absurd ⟨h1, h2, h3⟩ h⟩

/-- Where no tie is in force, the gap used is 0. -/
theorem gapUsed_none (peers : List (Nat × PeerEntry)) (h : ∀ x ∈ peers, ¬tieInForce x.2) :
    gapUsed peers = 0 := by
  have : peers.filterMap (fun x => tieGap x.2) = [] := by
    rw [List.filterMap_eq_nil_iff]
    intro x hx
    cases ht : tieGap x.2 with
    | none => rfl
    | some y => exact absurd ((tieGap_iff x.2 y.1 y.2).1 ht).1.1 (h x hx)
  simp [gapUsed, this, freshestGap]

/-- The freshest of the gaps stands among them. -/
theorem freshestGap_mem (l : List (Nat × Nat)) (y : Nat × Nat) (h : freshestGap l = some y) : y ∈ l := by
  induction l generalizing y with
  | nil => cases h
  | cons a t ih =>
    simp only [freshestGap] at h
    cases ht : freshestGap t with
    | none => simp_all
    | some z => simp only [ht] at h; split_ifs at h <;> simp_all

/-- The gap used is that of the freshest tie in force where its extras give one, in a table whose numbers rise. -/
theorem gapUsed_freshest (peers : List (Nat × PeerEntry)) (hk : risingKeys (peers.map Prod.fst))
    (x : Nat × PeerEntry) (hx : x ∈ peers) (gap : Nat)
    (hg : tieInForce x.2 ∧ x.2.extras = .tie gap)
    (hf : ∀ y ∈ peers, tieInForce y.2 → x.2.age < y.2.age ∨ (x.2.age = y.2.age ∧ x.1 ≤ y.1)) :
    freshestGap (peers.filterMap fun y => tieGap y.2) = some (gap, x.2.age) := by
  induction peers with
  | nil => cases hx
  | cons a t ih =>
    have hk' := List.pairwise_cons.1 hk
    rcases List.mem_cons.1 hx with rfl | hx
    · rw [List.filterMap_cons, (tieGap_iff x.2 gap x.2.age).2 ⟨hg, rfl⟩]
      simp only [freshestGap]
      cases ht : freshestGap (t.filterMap fun y => tieGap y.2) with
      | none => rfl
      | some z =>
        obtain ⟨y, hy, hz⟩ := List.mem_filterMap.1 (freshestGap_mem _ _ ht)
        obtain ⟨h1, h2⟩ := (tieGap_iff y.2 z.1 z.2).1 hz
        have := hf y (List.mem_cons_of_mem _ hy) h1.1
        exact if_pos (by omega)
    · have ih := ih hk'.2 hx fun y hy => hf y (List.mem_cons_of_mem _ hy)
      rw [List.filterMap_cons]
      cases ha : tieGap a.2 with
      | none => exact ih
      | some z =>
        obtain ⟨h1, h2⟩ := (tieGap_iff a.2 z.1 z.2).1 ha
        have := hf a (List.mem_cons_self ..) h1.1
        have hlt := hk'.1 x.1 (List.mem_map_of_mem hx)
        simp only [freshestGap, ih]
        exact if_neg (by omega)

/-! ### The counting of the snapshot (R30, R39) -/

/-- A sum over the snapshot of what counts 0 of a STALE or FAILED entry: the own records and the peers'. -/
theorem sumRecords_snapshot (f : Bool → MainRecord → Nat) (h : ∀ r, f false r = 0) (s : State)
    (hm : s.mc.mode ≠ .loading) :
    sumRecords f (snapshot s) =
      (if severity s = .failed then 0 else sumOf ((ownRecords s).map fun r => f true (keptRecord r))) +
      sumOf (s.peers.map fun x =>
        if x.2.stale = false ∧ x.2.severity ≠ .failed then sumOf (x.2.records.map (f true)) else 0) := by
  have z : ∀ l : List MainRecord, sumOf (l.map (f false)) = 0 := fun l => sumOf_zero _ _ fun r _ => h r
  unfold sumRecords snapshot ownEntry
  rw [if_neg hm]
  simp only [List.map_cons, List.map_map, sumOf_cons, ownSnap]
  congr 1
  · by_cases hs : severity s = .failed
    · simp [hs, ← List.map_map, z]
    · have hb : (severity s != .failed) = true := bne_iff_ne.2 hs
      simp [hs, hb, Function.comp_def]
  · congr 1
    refine List.map_congr_left fun x _ => ?_
    simp only [Function.comp_def, peerSnap]
    by_cases hc : counted x.2 = true
    · rw [if_pos ((counted_iff _).1 hc), hc]
    · rw [if_neg fun h' => hc ((counted_iff _).2 h'), Bool.eq_false_iff.2 hc, z]

end Sys2Proof.Machine
end

