-- ==== Sys2Proof/Laws/Slots.lean ====
section
/-! SUPPORT. What a read slot's decision over the store gives (R166, R167): one lemma for the first answer, one for
going on after a record, one for the slots that look again at a commit's end. -/

namespace Sys2Proof.Machine

/-- A least number of a list is one of it that none is below. -/
theorem leastOf_eq_some {l : List Nat} {n : Nat} : leastOf l = some n ↔ n ∈ l ∧ ∀ k ∈ l, n ≤ k := by
  exact ⟨fun h => ⟨leastOf_mem h, fun k hk => leastOf_le h hk⟩, fun h => leastOf_eq h.1 h.2⟩

/-- The least number servable from `q` on. -/
theorem leastServable_eq_some {q n : Nat} {rs : RecordUnit} : leastServable q rs = some n ↔
    n ∈ retainedNumbers rs ++ heldNumbers rs ∧ q ≤ n ∧
      ∀ k ∈ retainedNumbers rs ++ heldNumbers rs, q ≤ k → n ≤ k := by
  rw [leastServable, leastOf_eq_some]
  simp only [List.mem_filter, decide_eq_true_eq]
  exact ⟨fun ⟨⟨a, b⟩, c⟩ => ⟨a, b, fun k h g => c k ⟨h, g⟩⟩, fun ⟨a, b, c⟩ => ⟨⟨a, b⟩, fun k h => c k h.1 h.2⟩⟩

/-- Nothing is servable from `q` on exactly where every number lies below it. -/
theorem leastServable_eq_none {q : Nat} {rs : RecordUnit} :
    leastServable q rs = none ↔ ∀ n ∈ retainedNumbers rs ++ heldNumbers rs, n < q := by
  rw [leastServable, leastOf_none, List.filter_eq_nil_iff]
  simp

/-- A servable number from `q` on leaves a least one. -/
theorem exists_leastServable {q n : Nat} {rs : RecordUnit} (hn : n ∈ retainedNumbers rs ++ heldNumbers rs)
    (hq : q ≤ n) : ∃ k, leastServable q rs = some k := by
  cases h : leastServable q rs with
  | some k => exact ⟨k, rfl⟩
  | none => exact absurd (leastServable_eq_none.1 h n hn) (by omega)

/-- The oldest retained number is servable. -/
theorem oldestRetained_servable {o : Nat} {rs : RecordUnit} (h : oldestRetained rs = some o) :
    o ∈ retainedNumbers rs ++ heldNumbers rs :=
  List.mem_append_left _ (leastOf_eq_some.1 h).1

/-- What a slot's first answer is (R166). -/
theorem firstAnswer_answers (q : Nat) (x : ReadSlot) (rs : RecordUnit) :
    FirstAnswered q rs x (firstAnswer true q x rs) := by
  constructor
  · intro h; simp [firstAnswer, leastServable_eq_none.2 h]
  · intro o h1 h2
    obtain ⟨k, hk⟩ := exists_leastServable (oldestRetained_servable h1) (Nat.le_of_lt h2)
    simp [firstAnswer, hk, h1, h2]
  · intro h1 h2 h3
    obtain ⟨k, hk⟩ := exists_leastServable (List.mem_append_right (retainedNumbers rs) h2) (Nat.le_refl q)
    cases h : oldestRetained rs with
    | none => simp [firstAnswer, hk, h, h2, h3]
    | some o => simp [firstAnswer, hk, h, h2, h3, Nat.not_lt.2 (h1 o h)]
  · intro h1 h2 n h3 h4 h5
    have hk := leastServable_eq_some.2 ⟨h3, h4, h5⟩
    have h6 : ¬(rs.inFlight = true ∧ q ∈ heldNumbers rs) := by rintro ⟨a, b⟩; cases h2 <;> simp_all
    cases h : oldestRetained rs with
    | none => simp [firstAnswer, hk, h, h6]
    | some o => simp [firstAnswer, hk, h, h6, Nat.not_lt.2 (h1 o h)]

/-- What becomes of an answer after record `m` (R167). -/
theorem nextAnswer_goesOn (m : Nat) (x : ReadSlot) (rs : RecordUnit) : GoesOn m rs x (nextAnswer m x rs) := by
  constructor
  · intro h
    have : leastServable (m + 1) rs = none := leastServable_eq_none.2 fun n hn => by have := h n hn; omega
    simp [nextAnswer, this]
  · intro o h1 h2
    obtain ⟨k, hk⟩ := exists_leastServable (oldestRetained_servable h1) (Nat.le_of_lt h2)
    simp [nextAnswer, hk, h1, h2]
  · intro h1 n h3 h4 h5
    have hk : leastServable (m + 1) rs = some n := leastServable_eq_some.2 ⟨h3, h4, h5⟩
    constructor
    · intro h6 h7
      cases h : oldestRetained rs with
      | none => simp [nextAnswer, hk, h, h6, h7]
      | some o => simp [nextAnswer, hk, h, h6, h7, Nat.not_lt.2 (h1 o h)]
    · intro h2
      have h6 : ¬(rs.inFlight = true ∧ n ∈ heldNumbers rs) := by rintro ⟨a, b⟩; cases h2 <;> simp_all
      cases h : oldestRetained rs with
      | none => simp [nextAnswer, hk, h, h6]
      | some o => simp [nextAnswer, hk, h, h6, Nat.not_lt.2 (h1 o h)]

/-- What the slots that look again at a commit's end become, over the store as that end leaves it. -/
theorem slotsLookAgain_looked (rs : RecordUnit) : LookedAgain rs (slotsLookAgain rs) := by
  have g : ∀ i, getSlot i (slotsLookAgain rs) = lookAgain rs (getSlot i rs) := by intro i; cases i <;> rfl
  constructor
  · intro i h; simp [g, h, lookAgain]
  · intro i sl h1 h2; simp [g, h1, lookAgain, h2]
  · intro i sl h1 h2 h3
    exact ⟨firstAnswer true sl.next sl rs, by simp [g, h1, lookAgain, h2, h3],
      firstAnswer_answers sl.next sl (slotsLookAgain rs)⟩
  · intro i sl m h1 h2 h3
    rw [g, h1, lookAgain]
    simp only [h2, h3, if_true]
    exact nextAnswer_goesOn m sl (slotsLookAgain rs)

end Sys2Proof.Machine
end

