-- ==== Sys2Proof/Laws/Sources.lean ====
section
/-! SUPPORT. What the Claim Unit's operations do to the source sets and to the peer entries, said once. -/

namespace Sys2Proof.Machine

variable (s : State)

@[simp] theorem rise_sources (l k : ClaimLine) : ((rise l s).cu.get k).sources = (s.cu.get k).sources :=
  (rise_frame s l).2.2.2.2.2.2.2.2.2.2.2.2.1 k

/-- A fall changes no source set. -/
@[simp] theorem fall_sources (l k : ClaimLine) : ((fall l s).cu.get k).sources = (s.cu.get k).sources := by
  simp only [fall, setPending, ladderFall_frame, setLine, setCu_cu]
  exact Six.part_get_set LineState.sources s.cu l k _ rfl

/-- A bit set is a number in one line's source set, all else of the source sets standing. -/
theorem mem_setBit (n : Nat) (l k : ClaimLine) (m : Nat) :
    m ∈ ((setBit n l s).cu.get k).sources ↔ (k = l ∧ m = n) ∨ m ∈ (s.cu.get k).sources := by
  have key : ∀ x : LineState, x.sources = setAdd n (s.cu.get l).sources →
      (m ∈ ((s.cu.set l x).get k).sources ↔ (k = l ∧ m = n) ∨ m ∈ (s.cu.get k).sources) := by
    intro x hx
    rw [Six.get_set]
    split
    · next h => subst h; simp [hx]
    · next h => simp [h]
  simp only [setBit, setBitWith]
  split
  · next h =>
    refine ⟨.inr, ?_⟩
    rintro (⟨rfl, rfl⟩ | h')
    · simpa using h
    · exact h'
  · split
    · rw [rise_sources]; exact key _ rfl
    · exact key _ rfl

/-- A bit cleared is a number out of one line's source set, all else of the source sets standing. -/
theorem mem_clearBit (n : Nat) (l k : ClaimLine) (m : Nat) :
    m ∈ ((clearBit n l s).cu.get k).sources ↔ ¬(k = l ∧ m = n) ∧ m ∈ (s.cu.get k).sources := by
  have key : ∀ x : LineState, x.sources = setRemove n (s.cu.get l).sources →
      (m ∈ ((s.cu.set l x).get k).sources ↔ ¬(k = l ∧ m = n) ∧ m ∈ (s.cu.get k).sources) := by
    intro x hx
    rw [Six.get_set]
    split
    · next h => subst h; simp [hx]
    · next h => simp [h]
  simp only [clearBit, clearBitWith]
  split
  · split
    · rw [fall_sources]; exact key _ rfl
    · exact key _ rfl
  · next h =>
    refine ⟨fun h' => ⟨?_, h'⟩, fun h' => h'.2⟩
    rintro ⟨rfl, rfl⟩
    exact h (by simpa using h')

/-- One line of an authoritative claim set. -/
theorem mem_applyClaim (n : Nat) (set : Six Bool) (l k : ClaimLine) (m : Nat) :
    m ∈ ((applyClaim n set l s).cu.get k).sources ↔
      if k = l ∧ m = n then set.get l = true else m ∈ (s.cu.get k).sources := by
  simp only [applyClaim]
  split
  · next h => rw [mem_setBit]; split <;> simp_all
  · next h => rw [mem_clearBit]; split <;> simp_all

/-- Some lines of an authoritative claim set. -/
theorem mem_applyClaimsOn (n : Nat) (set : Six Bool) (ls : List ClaimLine) (k : ClaimLine) (m : Nat) :
    m ∈ ((applyClaimsOn n set ls s).cu.get k).sources ↔
      if k ∈ ls ∧ m = n then set.get k = true else m ∈ (s.cu.get k).sources := by
  induction ls generalizing s with
  | nil => simp [applyClaimsOn]
  | cons l t ih =>
    rw [applyClaimsOn, ih]
    by_cases ht : k ∈ t ∧ m = n
    · simp [ht]
    · rw [if_neg ht, mem_applyClaim]
      by_cases hl : k = l ∧ m = n
      · obtain ⟨rfl, rfl⟩ := hl; simp
      · rw [if_neg hl, if_neg]
        rintro ⟨h, rfl⟩
        rcases List.mem_cons.1 h with rfl | h
        · exact hl ⟨rfl, rfl⟩
        · exact ht ⟨h, rfl⟩

/-- An authoritative claim set: the sender stands in the source sets of exactly the lines it claims, every
other number where it stood (R79). -/
theorem mem_applyClaims (n : Nat) (set : Six Bool) (k : ClaimLine) (m : Nat) :
    m ∈ ((applyClaims n set s).cu.get k).sources ↔
      if m = n then set.get k = true else m ∈ (s.cu.get k).sources := by
  simp only [applyClaims]
  rw [mem_applyClaimsOn, (orderDrawn_frame s (changedLines n set s)).2.2.2.2.1]
  by_cases hm : m = n
  · subst hm
    simp only [and_true, if_true, (freeOrder_perm (changedLines m set s) s).mem_iff]
    split
    · rfl
    · next h =>
      simp only [changedLines, List.mem_filter, mem_allLines, true_and, bne_iff_ne, ne_eq, not_not] at h
      rw [← h]
      simp
  · simp [hm]

end Sys2Proof.Machine
end

