-- ==== Sys2Proof/Laws/Standby.lean ====
section
/-! SUPPORT. What an entry to LISTEN-IN, to STANDBY-LISTEN with its round 1, and to STANDBY-DEEP does, said once. -/
namespace Sys2Proof.Machine
/-! ### Fallback and the want in it -/

/-- An entry to fallback (R52). -/
theorem enterFallback_eq (s : State) : enterFallback s = { s with
    se := { s.se with
      fallback := true
      setpoint := if wantMain s.mc.config = none then s.se.setpoint else s.mc.config.fallbackSetpoint }
    fp := { s.fp with out := s.fp.out ++ fallbackSent s.mc.config } } := by
  simp only [enterFallback, fallbackSent]
  split <;> simp_all [State.setSe, sendField, State.setFp]

/-- In fallback a rebuild of the want moves the grants alone (R48, R53). -/
theorem rebuildWant_inFallback {s : State} (h : s.se.fallback = true) : rebuildWant s = { s with
    se := { s.se with grant := (rebuildWant s).se.grant, minGrant := (rebuildWant s).se.minGrant } } := by
  simp only [rebuildWant]
  split
  · rfl
  · simp [seLowered, h, State.setSe]

/-- What an entry to LISTEN-IN does (R36, R37, R52, R83, R170, R174). -/
theorem enterListenIn_enters (s : State) : EntersListenIn s (enterListenIn s) := by
  have hr := fun (v : State) (h : v.se.fallback = true) => rebuildWant_inFallback h
  constructor
  · simp [enterListenIn]
  · intro h
    simp [enterListenIn, enqueue, acceptsRequest, configuredHello, placeEntry, h, newEntry]
  · simp only [enterListenIn]
    rw [hr _ (by simp [enterFallback_eq])]
    simp [enterFallback_eq]
  · simp only [enterListenIn]
    exact ⟨le_trans (rebuildWant_keeps (noFuel := True) (noFlare := True) (noWake := True) _).lowered.1
        (by simp [enterFallback_eq]),
      le_trans (rebuildWant_keeps (noFuel := True) (noFlare := True) (noWake := True) _).lowered.2.1
        (by simp [enterFallback_eq])⟩
  · intro l
    refine ⟨by simp, by simp, ?_⟩
    simp [enterListenIn, markPending, orAsserted, enterFallback_eq]
    split <;> simp_all
  · simp only [enterListenIn]
    rw [hr _ (by simp [enterFallback_eq])]
    simp [enterFallback_eq]
  · simp [enterListenIn]

/-! ### Ladders cleared -/

/-- Withdrawn ladders are no longer joined (R113). -/
theorem withdrawAll_fu (ls : List ClaimLine) : ∀ s : State, (withdrawAll ls s).fu = { s.fu with
    flight := s.fu.flight.map fun c => { c with joined := c.joined.filter fun x => !ls.contains x }
    recorded := (withdrawAll ls s).fu.recorded } := by
  induction ls with
  | nil => intro s; simp [withdrawAll]
  | cons a as ih =>
    intro s
    rw [withdrawAll, ih]
    simp [withdrawFuel, dropLine, Option.map_map, Function.comp_def, List.filter_filter]
    congr 1
    funext c
    congr 2
    funext x
    by_cases h : x = a
    · subst h; simp
    · simp [h]

/-- A recorded target whose requesters are all withdrawn is cancelled (R113). -/
theorem withdrawAll_recorded (ls : List ClaimLine) :
    ∀ s : State, ls ≠ [] → (∀ r, s.fu.recorded = some r → ∀ l ∈ r.waiting, l ∈ ls) →
      (withdrawAll ls s).fu.recorded = none := by
  have gone : ∀ (ls : List ClaimLine) (s : State), s.fu.recorded = none → (withdrawAll ls s).fu.recorded = none := by
    intro ls
    induction ls with
    | nil => intro s h; exact h
    | cons a as ih => intro s h; exact ih _ (by simp [withdrawFuel, h, recordedWithout])
  induction ls with
  | nil => intro s h; exact absurd rfl h
  | cons a as ih =>
    intro s _ h
    rw [withdrawAll]
    cases hr : s.fu.recorded with
    | none => exact gone as _ (by simp [withdrawFuel, hr, recordedWithout])
    | some r =>
      by_cases hd : dropLine a r.waiting = []
      · exact gone as _ (by simp [withdrawFuel, hr, recordedWithout, hd])
      · have hm : ∀ l ∈ dropLine a r.waiting, l ∈ as := by
          intro l hl
          simp only [dropLine, List.mem_filter, bne_iff_ne, ne_eq] at hl
          have := h r hr l hl.1
          simpa [hl.2] using this
        refine ih _ ?_ ?_
        · rintro rfl
          exact hd (List.eq_nil_iff_forall_not_mem.2 fun l hl => by simpa using hm l hl)
        · intro r' hr' l hl
          simp only [withdrawFuel, hr, recordedWithout, hd, if_false, setFu_fu, Option.some.injEq] at hr'
          subst hr'
          exact hm l hl

/-- With every ladder withdrawn the Fuel Unit holds no request (R103, R113). -/
theorem withdrawAll_allLines (s : State) : (withdrawAll allLines s).fu = fuelWithdrawn s.fu := by
  rw [withdrawAll_fu, withdrawAll_recorded _ _ (by decide) fun _ _ l _ => mem_allLines l]
  simp [fuelWithdrawn, mem_allLines]

/-- In fallback a clearing of the ladders moves ladders, requests and grants alone (R103). -/
theorem clearLadders_inFallback {s : State} (h : s.se.fallback = true) : clearLadders s = { s with
    se := (clearLadders s).se
    fu := fuelWithdrawn s.fu
    rl := Six.build fun l => ⟨.idle, 0, none, (s.rl.get l).outcome⟩ } := by
  have hw : withdrawAll allLines s = s.setFu (fuelWithdrawn s.fu) := by
    have : ∀ t : State, t.liu = s.liu → t.peers = s.peers → t.se = s.se → t.hu = s.hu → t.cu = s.cu → t.rl = s.rl →
      t.tie = s.tie → t.turbine = s.turbine → t.mu = s.mu → t.dc = s.dc → t.rs = s.rs → t.fp = s.fp → t.mc = s.mc →
      t.freeNext = s.freeNext → t.pending = s.pending → t = s.setFu t.fu := by
      rintro ⟨⟩; intros; simp_all [State.setFu]
    rw [this (withdrawAll allLines s)] <;> first | rw [withdrawAll_allLines] | simp
  simp only [clearLadders]
  rw [rebuildWant_inFallback (by simpa using h), hw]
  simp [clearedLadder, State.setFu, State.setRl]

/-! ### STANDBY-DEEP -/

/-- Removed RECORDs free read slots and change nothing else of the store. -/
theorem slotsFreed_slots (ls : List TxEntry) : ∀ s : State, (slotsFreed ls s).rs = { s.rs with
    slotA := (slotsFreed ls s).rs.slotA, slotB := (slotsFreed ls s).rs.slotB } := by
  induction ls with
  | nil => intro s; rfl
  | cons e es ih =>
    intro s
    rw [slotsFreed, ih]
    split
    · have : (reportRecord e.body false s).rs = { s.rs with
          slotA := (reportRecord e.body false s).rs.slotA, slotB := (reportRecord e.body false s).rs.slotB } := by
        generalize e.body = b
        rcases b with _ | _ | _ | _ | _ | _ | ⟨_, _, _, _ | i⟩ <;> try rfl
        cases i <;> simp [reportRecord, recordGone, setSlot]
      rw [this]
    · rfl

/-- In fallback and with no grant a rebuild of the want does nothing. -/
theorem rebuildWant_noGrant {s : State} (h : s.se.fallback = true) (h1 : s.se.grant = 0) (h2 : s.se.minGrant = 0) :
    rebuildWant s = s := by
  rw [rebuildWant_inFallback h]
  have := (rebuildWant_keeps (noFuel := True) (noFlare := True) (noWake := True) s).lowered
  simp only [h1, h2, Nat.le_zero] at this
  rw [this.1, this.2.1]
  nth_rewrite 1 [← h1]
  nth_rewrite 1 [← h2]
  rfl

/-- The entry to STANDBY-DEEP (R34, R52, R59, R88, R103). -/
theorem enterStandbyDeep_eq (s : State) : enterStandbyDeep s = { lineSleeps (s.setMc { s.mc with mode := .standbyDeep }) with
    peers := []
    se := { engineAsleep s.se with
      fallback := true
      setpoint := if wantMain s.mc.config = none then s.se.setpoint else s.mc.config.fallbackSetpoint }
    cu := Six.all .reset
    rl := Six.build fun l => ⟨.idle, 0, none, (s.rl.get l).outcome⟩
    fu := fuelWithdrawn s.fu
    fp := { s.fp with out := s.fp.out ++ fallbackSent s.mc.config } } := by
  let w := lineSleeps (s.setMc { s.mc with mode := .standbyDeep })
  let u := enterFallback ((w.setPeers []).setSe (engineAsleep w.se))
  have hu : u.se.fallback = true := by simp [u, enterFallback_eq]
  have hg : u.se.grant = 0 ∧ u.se.minGrant = 0 := by simp [u, enterFallback_eq, engineAsleep]
  have hcl : (clearLadders u).se = u.se := by
    simp only [clearLadders]
    rw [rebuildWant_noGrant] <;> simp [hu, hg]
  have : enterStandbyDeep s = rebuildWant ((clearLadders u).setCu (Six.all .reset)) := rfl
  rw [this, rebuildWant_noGrant (by simp [hcl, hu]) (by simp [hcl, hg]) (by simp [hcl, hg]),
    clearLadders_inFallback hu, hcl]
  simp [u, w, enterFallback_eq, engineAsleep, State.setCu]

/-- What the entry to STANDBY-DEEP has done before the latch is looked at (R17, R34, R59, R88, R103, R170, R176). -/
theorem deepStandby_entered (r : StandbyRequest) (s : State) : DeepStandbyEntered r.clearWake s
    (statusAtEntry (requestTaken (enterStandbyDeep (clearIfAsked r s)))) := by
  have hmc : (clearIfAsked r s).mc = { s.mc with
      latch := if r.clearWake then ⟨false, false, Six.all false⟩ else s.mc.latch } := by
    simp only [clearIfAsked]; split <;> simp_all [emptyLatch]
  have hc : clearIfAsked r s = { s with mc := (clearIfAsked r s).mc } := by
    simp only [clearIfAsked]; split <;> rfl
  generalize clearIfAsked r s = k at hmc hc
  have hd := enterStandbyDeep_eq k
  have hk : k.liu = s.liu ∧ k.se = s.se ∧ k.rl = s.rl ∧ k.fu = s.fu ∧ k.hu = s.hu ∧ k.tie = s.tie ∧
      k.turbine = s.turbine ∧ k.mu = s.mu ∧ k.dc = s.dc ∧ k.rs = s.rs ∧ k.fp = s.fp ∧ k.pending = s.pending := by
    rw [hc]; simp
  obtain ⟨k1, k2, k3, k4, k5, k6, k7, k8, k9, k10, k11, k12⟩ := hk
  have htx : ∀ es, queueLeft (fun _ => true) s.liu.tx = es → es.length < 4 →
      (lineSleeps (k.setMc { k.mc with mode := .standbyDeep })).liu.tx = es ++ [⟨.leave .deepStandby, 0, none, false⟩] := by
    rintro _ rfl h
    simp [lineSleeps, enqueue, acceptsRequest, placeEntry, newEntry, k1, h]
  constructor
  · simp [statusAtEntry, sendNodeStatus, requestTaken, standbyTaken, hd, hmc]
  · simp [statusAtEntry, sendNodeStatus, requestTaken, hd]
    simp only [lineSleeps, enqueue]; split <;> simp [k1]
  · intro h
    simp [statusAtEntry, sendNodeStatus, requestTaken, hd]
    rw [htx [] _ (by simp)]; · rfl
    simp only [queueLeft, List.map_eq_nil_iff, List.filter_eq_nil_iff]
    intro e he; simp [isWaiting, h e he]
  · intro pre e post h1 h2 h3
    simp [statusAtEntry, sendNodeStatus, requestTaken, hd]
    rw [htx [{ e with noRetry := true }] _ (by simp)]; · rfl
    have hp : (pre ++ post).filter (fun x => !(isWaiting x && true)) = [] := by
      rw [List.filter_eq_nil_iff]; intro x hx; simp [isWaiting, h2 x hx]
    rw [List.filter_append, List.append_eq_nil_iff] at hp
    have he : isWaiting e = false := by
      cases hs : e.sending with
      | none => exact absurd hs h3
      | some x => simp [isWaiting, hs]
    simp only [queueLeft, h1, List.filter_append, List.filter_cons, hp.1, hp.2, he]
    rfl
  · simp [statusAtEntry, sendNodeStatus, requestTaken, hd, hmc, engineAsleep, k2]
  · intro m
    simp [statusAtEntry, sendNodeStatus, requestTaken, hd, engineAsleep]
    cases m <;> rfl
  · intro l; simp [statusAtEntry, sendNodeStatus, requestTaken, hd, LineState.reset]
  · intro l; simp [statusAtEntry, sendNodeStatus, requestTaken, hd, k3]
  · simp [statusAtEntry, sendNodeStatus, requestTaken, hd, k4]
  · simp [statusAtEntry, sendNodeStatus, requestTaken, hd, k11, hmc]
    rfl
  · simp [statusAtEntry, sendNodeStatus, requestTaken, hd, k5, k6, k7, k8, k9, k12]
    have := slotsFreed_slots k.liu.tx (k.setMc { k.mc with mode := .standbyDeep })
    simp only [lineSleeps]
    simp
    rw [this]; simp [k10]
/-! ### The round of a station in standby -/

/-- In standby the effective want is 0 (R47). -/
theorem effectiveWant_standby {s : State} (h : inStandby s.mc.mode = true) : effectiveWant s = (0, 0) := by
  simp only [effectiveWant]; split <;> simp [h]

/-- In standby the station's own want member asks for nothing (R47). -/
theorem ownMember_standby {s : State} {m : Main} (h : inStandby s.mc.mode = true) (hm : wantMain s.mc.config = some m) :
    ∃ c d, ownMember m s = some ⟨0, 0, c, d⟩ := by
  have hl : s.mc.mode ≠ .loading := by rintro e; simp [e, inStandby] at h
  have he := effectiveWant_standby h
  cases hr : s.mc.config.role with
  | none => simp [wantMain, hr] at hm
  | some r =>
    cases r <;> simp [wantMain, hr] at hm <;> subst hm <;>
      simp [ownMember, ownEntry, hl, ownSnap, ownRecords, hr, he, entryMembers, keptRecord, countedWant]

/-- A member that wants nothing is granted nothing (R41, R42). -/
theorem grants_none (ws : List WantMember) (sup c d : Nat) : grantOf ws sup ⟨0, 0, c, d⟩ = 0 ∧
    minGrantOf ws sup ⟨0, 0, c, d⟩ = 0 := by
  have : ∀ t, grantIn ws sup ⟨0, 0, c, d⟩ t = 0 := by
    intro t
    simp only [grantIn, tierGrant, tierAmount]
    split <;> simp
  simp [grantOf, minGrantOf, this]

/-- The records of a station in standby do not depend on what the share holds. -/
theorem ownRecords_standby {s t : State} (hs : inStandby s.mc.mode = true) (hm : t.mc = s.mc)
    (h2 : t.se.measured = s.se.measured) (h3 : t.fu.mode = s.fu.mode) (h4 : t.hu = s.hu) :
    ownRecords t = ownRecords s := by
  have e1 := effectiveWant_standby hs
  have e2 := effectiveWant_standby (s := t) (by rw [hm]; exact hs)
  simp [ownRecords, e1, e2, hm, h3, h4, currentOffer, hs, measuredOut, h2, drawLimit, absorbLimit]

/-- Nor does the snapshot. -/
theorem snapshot_standby {s t : State} (hs : inStandby s.mc.mode = true) (hm : t.mc = s.mc)
    (h2 : t.se.measured = s.se.measured) (h3 : t.fu.mode = s.fu.mode) (h4 : t.hu = s.hu) (h5 : t.peers = s.peers) :
    snapshot t = snapshot s := by
  have hr := ownRecords_standby hs hm h2 h3 h4
  have hl : s.mc.mode ≠ .loading := by rintro e; simp [e, inStandby] at hs
  simp [snapshot, ownEntry, hm, hl, hr, h5, ownSnap, severity]

/-- The result of each main computed (R38). -/
theorem resultsOn_get (es : List SnapEntry) (ms : List Main) (m : Main) (hm : m ∈ ms) :
    ∀ r, (resultsOn es ms r).get m = mainResult m es := by
  have later : ∀ (ms : List Main) r, r.get m = mainResult m es → (resultsOn es ms r).get m = mainResult m es := by
    intro ms
    induction ms with
    | nil => intro r h; exact h
    | cons a as ih => intro r h; exact ih _ (by rw [Three.get_set]; split <;> simp_all)
  induction ms with
  | nil => simp at hm
  | cons a as ih =>
    intro r
    by_cases h : m = a
    · subst h; exact later as _ (by simp)
    · exact ih (by simpa [h] using hm) _

/-- The round run at an entry to STANDBY-LISTEN (R37, R38, R47, R49, R53). -/
theorem runRound_listen {v : State} (hm : v.mc.mode = .standbyListen) (hc : v.se.roundCount = 0) :
    runRound v = { v with
      se := { v.se with
        roundCount := 1, fallback := true, results := (runRound v).se.results
        setpoint := if wantMain v.mc.config = none then v.se.setpoint else v.mc.config.fallbackSetpoint
        grant := if wantMain v.mc.config = none then v.se.grant else 0
        minGrant := if wantMain v.mc.config = none then v.se.minGrant else 0 }
      fp := { v.fp with out := v.fp.out ++ fallbackSent v.mc.config ++ [.nodeStatus (nodeStatus (runRound v))] }
      liu := { v.liu with tx := (runRound v).liu.tx } } ∧
    (∀ m, m ∈ computedMains v.mc.config → (runRound v).se.results.get m = mainResult m (snapshot v)) ∧
    (∀ r, v.mc.config.role = some r → (runRound v).liu.tx =
      placeState (.state r v.mc.config.period (ownRecords v) (ownExtras v)) v.liu.tx) := by
  have hst : inStandby v.mc.mode = true := by rw [hm]; rfl
  obtain ⟨a, ha⟩ : ∃ a, a = countRound v := ⟨_, rfl⟩
  have ha' : a = { v with se := { v.se with roundCount := 1 } } := by rw [ha]; simp [countRound, hc, State.setSe]
  obtain ⟨b, hb'⟩ : ∃ b, b = computeShare a := ⟨_, rfl⟩
  have hsnap : snapshot a = snapshot v := by
    subst ha'; exact snapshot_standby hst rfl rfl rfl rfl rfl
  have hb : b = { v with se := { v.se with
      roundCount := 1, results := resultsOn (snapshot v) (computedMains v.mc.config) v.se.results
      grant := if wantMain v.mc.config = none then v.se.grant else 0
      minGrant := if wantMain v.mc.config = none then v.se.minGrant else 0 } } := by
    have hac : a.mc = v.mc := by rw [ha']
    cases hw : wantMain v.mc.config with
    | none =>
      simp only [hb', computeShare, hsnap, hac, hw]
      simp [ha', State.setSe]
    | some m =>
      obtain ⟨c, d, ho⟩ := ownMember_standby (s := a) (m := m) (by rw [hac]; exact hst) (by rw [hac]; exact hw)
      simp only [hb', computeShare, hsnap, ho, hac, hw, grantsFrom, grants_none]
      simp [ha', State.setSe]
  let e := enterFallback b
  have he := enterFallback_eq b
  have hset : settleSetpoints b = e := by simp [settleSetpoints, hb, hm, e]
  have hev : ∀ n, evaluateClaims n e = e := by intro n; simp [evaluateClaims, e, he, hb, hm]
  have hrec : ownRecords e = ownRecords v :=
    ownRecords_standby hst (by simp [e, he, hb]) (by simp [e, he, hb]) (by simp [e, he, hb]) (by simp [e, he, hb])
  have hext : ownExtras e = ownExtras v := by simp [ownExtras, e, he, hb, tieCommitment]
  have hwork : roundWork v = sendNodeStatus (requestState e) := by
    have : roundWork v = sendNodeStatus (requestHello (requestState (evaluateClaims (effectiveWant v).1 (settleSetpoints b)))) := by
      rw [hb', ha]; rfl
    rw [this, hset, hev]
    have : requestHello (requestState e) = requestState e := by
      have hh : (requestState e).mc = e.mc := by simp only [requestState]; (repeat' split) <;> simp
      simp only [requestHello, helloDue, hh]; simp [e, he, hb, hm]
    rw [this]
  have hcu : (sendNodeStatus (requestState e)).cu = v.cu := by
    simp only [requestState]; (repeat' split) <;> simp [e, he, hb]
  have hrun : runRound v = sendNodeStatus (requestState e) := by
    have : ∀ ls, handEdges v ls (roundWork v) = roundWork v := by
      intro ls
      induction ls with
      | nil => rfl
      | cons l ls ih =>
        have hl : handEdge v l (roundWork v) = roundWork v :=
          handEdge_same (s := roundWork v) v l (by rw [orAsserted, orAsserted, hwork, hcu])
        rw [handEdges, hl, ih]
    rw [runRound, this, hwork]
  have hreq : requestState e = { e with liu := { e.liu with tx := (requestState e).liu.tx } } := by
    simp only [requestState, builtState]
    cases e.mc.config.role with
    | none => rfl
    | some r =>
      simp only [Option.map]
      split
      · simp [enqueue]; split <;> rfl
      · rfl
  have htx : ∀ r, v.mc.config.role = some r → (requestState e).liu.tx =
      placeState (.state r v.mc.config.period (ownRecords v) (ownExtras v)) v.liu.tx := by
    intro r hr
    have h1 : e.mc = v.mc := by simp [e, he, hb]
    have h2 : e.se.roundCount = 1 := by simp [e, he, hb]
    have h3 : e.liu = v.liu := by simp [e, he, hb]
    simp [requestState, builtState, h1, hr, stateDue, h2, hm, hrec, hext, enqueue, acceptsRequest, h3]
  rw [hrun]
  refine ⟨?_, ?_, fun r hr => by simpa [sendNodeStatus] using htx r hr⟩
  · obtain ⟨x, hx⟩ : ∃ x, x = (requestState e).liu.tx := ⟨_, rfl⟩
    rw [← hx] at hreq
    rw [hreq]
    simp [sendNodeStatus, sendField, State.setFp, e, he, hb]
    rfl
  · intro m hm
    simp only [sendNodeStatus, sendField_se]
    rw [hreq]
    simpa [e, he, hb] using resultsOn_get _ _ _ hm _

/-! ### A fall at the release of an own claim -/

/-- What an undo may change of the share, the fuel and the messages in fallback. -/
structure UndoKeeps (s t : State) : Prop where
  noWant : t.mc = s.mc ∧ (wantMain s.mc.config = none → t.se = s.se)
  share : t.se = { s.se with grant := t.se.grant, minGrant := t.se.minGrant }
  reported : t.fu.lastReported = s.fu.lastReported
  flight : ∀ c, s.fu.flight = some c → (∃ js, t.fu.flight = some { c with joined := js }) ∧ t.fu.mode = s.fu.mode
  sent : t.fp = { s.fp with out := t.fp.out } ∧ ∃ more, t.fp.out = s.fp.out ++ more

theorem UndoKeeps.refl (s : State) : UndoKeeps s s :=
  ⟨⟨rfl, fun _ => rfl⟩, rfl, rfl, fun c h => ⟨⟨c.joined, h⟩, rfl⟩, rfl, [], by simp⟩

theorem UndoKeeps.trans {s t u : State} (h : UndoKeeps s t) (g : UndoKeeps t u) : UndoKeeps s u := by
  refine ⟨⟨by rw [g.noWant.1, h.noWant.1], fun n => by
    rw [g.noWant.2 (by rw [h.noWant.1]; exact n), h.noWant.2 n]⟩, by rw [g.share, h.share], by rw [g.reported, h.reported], ?_, by rw [g.sent.1, h.sent.1], ?_⟩
  · intro c hc
    obtain ⟨⟨js, h1⟩, h2⟩ := h.flight c hc
    obtain ⟨⟨ks, g1⟩, g2⟩ := g.flight _ h1
    exact ⟨⟨ks, g1⟩, by rw [g2, h2]⟩
  · obtain ⟨m1, h1⟩ := h.sent.2
    obtain ⟨m2, g2⟩ := g.sent.2
    exact ⟨m1 ++ m2, by rw [g2, h1, List.append_assoc]⟩

theorem UndoKeeps.of_eq {s t : State} (h1 : t.se = s.se) (h2 : t.fu = s.fu) (h3 : t.fp = s.fp) (h4 : t.mc = s.mc) :
    UndoKeeps s t := by
  refine ⟨⟨h4, fun _ => h1⟩, by rw [h1], by rw [h2], fun c h => ?_, by rw [h3], [], by simp [h3]⟩
  rw [h2]; exact ⟨⟨c.joined, h⟩, rfl⟩

/-- A rebuild of the want in fallback. -/
theorem rebuildWant_undoKeeps {s : State} (h : s.se.fallback = true) : UndoKeeps s (rebuildWant s) := by
  have hw : wantMain s.mc.config = none → (rebuildWant s).se = s.se := by intro n; simp [rebuildWant, n]
  rw [rebuildWant_inFallback h] at hw ⊢
  exact ⟨⟨rfl, hw⟩, rfl, rfl, fun c h => ⟨⟨c.joined, h⟩, rfl⟩, rfl, [], by simp⟩

/-- Completions. -/
theorem completeAll_undoKeeps (ls : List ClaimLine) (o : ActionOutcome) (s : State) : UndoKeeps s (completeAll ls o s) :=
  .of_eq (by simp) (by simp) (by simp) (by simp)

/-- A fall handed to a ladder. -/
theorem ladderFall_keeps (l : ClaimLine) {s : State} (h : s.se.fallback = true) : UndoKeeps s (ladderFall l s) := by
  have done : ∀ t : State, UndoKeeps t (completeAction l .completed t) := fun t => .of_eq (by simp) (by simp) (by simp) (by simp)
  have fuel : ∀ (f : Fuel) (t : State), t.se.fallback = true → UndoKeeps t (fuelRequest f l t) := by
    intro f t ht
    cases hc : t.fu.flight with
    | none =>
      simp only [fuelRequest, hc]
      split
      · exact done t
      · simp only [startChangeover, setFuelMode]
        refine UndoKeeps.trans (t := (sendField (.fuelCommand f) t).setFu _) ?_ (rebuildWant_undoKeeps (by simpa using ht))
        exact ⟨⟨rfl, fun _ => rfl⟩, rfl, rfl, fun c h => by simp [hc] at h, rfl, [.fuelCommand f], by simp⟩
    | some c =>
      have one : ∀ js r, UndoKeeps t (t.setFu { t.fu with flight := some { c with joined := js }, recorded := r }) := by
        intro js r
        refine ⟨⟨rfl, fun _ => rfl⟩, rfl, rfl, ?_, rfl, [], by simp⟩
        rintro d hd
        rw [hc] at hd; cases hd
        exact ⟨⟨js, rfl⟩, rfl⟩
      by_cases hf : c.target = f
      · subst hf
        simp only [fuelRequest, hc, if_true, joinFlight]
        cases t.fu.recorded with
        | none => exact one _ _
        | some r => exact (one _ _).trans (completeAll_undoKeeps _ _ _)
      · simp only [fuelRequest, hc, hf, if_false, recordTarget]
        cases t.fu.recorded with
        | none => exact (one _ _).trans (completeAll_undoKeeps _ _ _)
        | some r =>
          exact one c.joined (some { r with waiting := r.waiting ++ [l] })
  have flare : ∀ (r : FlareRequest) (t : State), UndoKeeps t (flareRequest r t) := by
    intro r t
    simp only [flareRequest, startFlare, commandFlare]
    split
    · split
      · exact .of_eq (by simp) (by simp) (by simp) (by simp)
      · exact ⟨⟨rfl, fun _ => rfl⟩, rfl, rfl, fun c h => ⟨⟨c.joined, h⟩, rfl⟩, rfl, [.flareCommand (flareTarget r t)], by simp⟩
    · exact .of_eq (by simp) (by simp) (by simp) (by simp)
  simp only [ladderFall]
  split
  · simp only [undoStep]
    split
    · exact .refl s
    · split
      · exact .refl s
      · next k _ _ st _ =>
        refine UndoKeeps.trans (t := setLadder l { s.rl.get l with state := .undoInFlight, taken := k, dwell := none } s)
          (.of_eq rfl rfl rfl rfl) ?_
        cases st.action with
        | none | wake => exact done _
        | raise | shed => exact (rebuildWant_undoKeeps (by exact h)).trans (done _)
        | fuelBackup => exact fuel _ _ h
        | fuelGas => exact fuel _ _ h
        | flareStep => exact flare _ _
  all_goals exact .refl s

/-! ### The releases of the Share Engine -/

/-- The Share Engine claims on one line or on none (R55, R56). -/
theorem engineLines_cases (c : StationConfig) : engineLines c = [] ∨ ∃ l, engineLines c = [l] := by
  simp only [engineLines]; split
  · exact .inr ⟨_, rfl⟩
  · split
    · exact .inr ⟨_, rfl⟩
    · exact .inl rfl

/-- A number that is not in a set is not removed from it. -/
theorem setRemove_notMem {n : Nat} {l : List Nat} (h : n ∉ l) : setRemove n l = l := by
  induction l with
  | nil => rfl
  | cons a as ih =>
    simp only [List.mem_cons, not_or] at h
    rw [setRemove, if_neg (Ne.symm h.1), ih h.2]

/-- The line of an own claim released: the own number leaves its sources, and with the last of them the pending flag
goes (R76, R84). -/
theorem releaseOwn_line (l k : ClaimLine) (y : State) : (releaseOwn l y).cu.get k =
    if k = l ∧ (y.cu.get l).own = true then
      ⟨false, setRemove y.mc.node.val (y.cu.get l).sources,
        (y.cu.get l).pending && (!(setRemove y.mc.node.val (y.cu.get l).sources).isEmpty ||
          (y.cu.get l).sources.isEmpty)⟩
    else y.cu.get k := by
  by_cases ho : (y.cu.get l).own = true
  · by_cases hc : y.mc.node.val ∈ (y.cu.get l).sources
    · have hne : (y.cu.get l).sources.isEmpty = false := by
        cases hs : (y.cu.get l).sources with
        | nil => simp [hs] at hc
        | cons a as => rfl
      by_cases he : setRemove y.mc.node.val (y.cu.get l).sources = []
      · by_cases hk : k = l
        · subst hk
          simp [releaseOwn, releaseOwnWith, clearBitWith, ho, hc, he, fall, setPending, hne]
        · simp [releaseOwn, releaseOwnWith, clearBitWith, ho, hc, he, fall, setPending, hk, Six.get_set_of_ne]
      · by_cases hk : k = l
        · subst hk
          simp [releaseOwn, releaseOwnWith, clearBitWith, ho, hc, he]
        · simp [releaseOwn, releaseOwnWith, clearBitWith, ho, hc, he, hk, Six.get_set_of_ne]
    · by_cases hk : k = l
      · subst hk
        simp [releaseOwn, releaseOwnWith, clearBitWith, ho, hc, setRemove_notMem hc]
      · simp [releaseOwn, releaseOwnWith, clearBitWith, ho, hc, hk, Six.get_set_of_ne]
  · simp [releaseOwn, releaseOwnWith, ho]

/-- The release of an own claim in fallback. -/
theorem releaseOwn_keeps (l : ClaimLine) {y : State} (h : y.se.fallback = true) : UndoKeeps y (releaseOwn l y) := by
  have ff : ∀ z : State, z.se = y.se → z.fu = y.fu → z.fp = y.fp → z.mc = y.mc →
      UndoKeeps y (fall l z) := fun z h1 h2 h3 h4 =>
    UndoKeeps.trans (t := setPending false l z) (.of_eq (by simpa using h1) (by simpa using h2) (by simpa using h3)
      (by simpa using h4))
      (ladderFall_keeps l (by simp [h1, h]))
  simp only [releaseOwn, releaseOwnWith]
  split
  · refine UndoKeeps.trans (t := clearBitWith (fall l) y.mc.node.val l (setLine l { y.cu.get l with own := false } y))
      ?_ (.of_eq (by simp) (by simp) (by simp) (by simp))
    simp only [clearBitWith]
    split
    · split
      · exact ff _ rfl rfl rfl rfl
      · exact .of_eq rfl rfl rfl rfl
    · exact .of_eq rfl rfl rfl rfl
  · exact .refl y

/-- The release of an own claim on a line whose ladder is not at TOP reaches no ladder, and nothing a ladder asks. -/
theorem releaseOwn_quiet (l : ClaimLine) {y : State} (h : (y.rl.get l).state ≠ .top) :
    (releaseOwn l y).rl = y.rl ∧ (releaseOwn l y).fu = y.fu ∧ (releaseOwn l y).hu = y.hu ∧
      (releaseOwn l y).fp = y.fp ∧ (releaseOwn l y).se = y.se := by
  have hf : ∀ z : State, z.rl = y.rl → ladderFall l z = z := by
    intro z hz
    simp only [ladderFall, hz]
    split <;> first | rfl | (next e => exact absurd e h)
  simp only [releaseOwn, releaseOwnWith]
  split
  · simp only [clearBitWith]
    split
    · split
      · simp only [fall]; rw [hf _ (by simp)]; simp
      · simp
    · simp
  · simp

/-- The transmit queue after the release of an own claim, the queue empty before. -/
theorem releaseOwn_tx (l : ClaimLine) {y : State} (h : y.liu.tx = []) (hm : y.mc.mode = .standbyListen) :
    (releaseOwn l y).liu = { y.liu with tx :=
      if (y.cu.get l).own then [⟨.claim l .release, 0, none, false⟩] else [] } := by
  simp only [releaseOwn, releaseOwnWith]
  split
  · have hl : ∀ z : State, z.liu = y.liu → z.mc = y.mc →
        (enqueue (.claim l .release) z).liu = { y.liu with tx := [⟨.claim l .release, 0, none, false⟩] } := by
      intro z h1 h2
      simp [enqueue, acceptsRequest, h2, hm, enqueueClaim, h1, h, placeEntry, newEntry]
    refine hl _ ?_ ?_ <;> simp only [clearBitWith] <;> (repeat' split) <;> simp [fall]
  · rw [← h]

/-- The release of an own claim changes of the LIU the transmit queue alone. -/
theorem releaseOwn_liu (l : ClaimLine) (y : State) :
    (releaseOwn l y).liu = { y.liu with tx := (releaseOwn l y).liu.tx } := by
  have hl : ∀ z : State, z.liu = y.liu → (enqueue (.claim l .release) z).liu =
      { y.liu with tx := (enqueue (.claim l .release) z).liu.tx } := by
    intro z h1
    simp only [enqueue, enqueueClaim]
    (repeat' split) <;> simp [h1]
  simp only [releaseOwn, releaseOwnWith]
  split
  · refine hl _ ?_
    simp only [clearBitWith]; (repeat' split) <;> simp [fall]
  · rfl

/-- What the releases of the Share Engine do in fallback, in STANDBY-LISTEN. -/
structure EngineReleased (x y : State) : Prop where
  keeps : UndoKeeps { x with se := { x.se with shortfallCount := 0, excessCount := 0 } } y
  lines : ∀ k, y.cu.get k = if k ∈ engineLines x.mc.config ∧ (x.cu.get k).own = true then
      ⟨false, setRemove x.mc.node.val (x.cu.get k).sources,
        (x.cu.get k).pending && (!(setRemove x.mc.node.val (x.cu.get k).sources).isEmpty ||
          (x.cu.get k).sources.isEmpty)⟩
    else x.cu.get k
  quiet : (∀ l ∈ engineLines x.mc.config, (x.rl.get l).state ≠ .top) →
    y.rl = x.rl ∧ y.fu = x.fu ∧ y.hu = x.hu ∧ y.fp = x.fp
  line : y.liu = { x.liu with tx := y.liu.tx } ∧ (x.liu.tx = [] → x.mc.mode = .standbyListen →
    y.liu.tx = ((engineLines x.mc.config).filter fun l => (x.cu.get l).own).map
      fun l => ⟨.claim l .release, 0, none, false⟩)

/-- They do. -/
theorem engineReleases_released {x : State} (h : x.se.fallback = true) : EngineReleased x (engineReleases x) := by
  let z := x.setSe { x.se with shortfallCount := 0, excessCount := 0 }
  have hz : z = { x with se := { x.se with shortfallCount := 0, excessCount := 0 } } := rfl
  have hr : engineReleases x = releaseAll (engineLines x.mc.config) z := rfl
  rcases engineLines_cases x.mc.config with he | ⟨l, he⟩
  · rw [he] at hr
    have : engineReleases x = z := hr
    rw [this]
    exact ⟨by rw [hz]; exact .refl _, fun k => by simp [he, z], fun _ => by simp [z], by simp [z],
      fun h1 _ => by simp [z, he, h1]⟩
  · rw [he] at hr
    have hr : engineReleases x = releaseOwn l z := hr
    rw [hr]
    refine ⟨releaseOwn_keeps l h, fun k => ?_, fun hq => ?_, ?_, fun h1 h2 => ?_⟩
    · rw [releaseOwn_line, he]
      by_cases hk : k = l
      · subst hk; simp [z]
      · simp [hk, z]
    · have := releaseOwn_quiet l (y := z) (hq l (by simp [he]))
      exact ⟨this.1, this.2.1, this.2.2.1, this.2.2.2.1⟩
    · rw [releaseOwn_liu]; rfl
    · rw [releaseOwn_tx l (y := z) h1 h2, he]
      cases ho : (x.cu.get l).own <;> simp [z, ho]

/-- What the releases and the clearing of the ladders do together, in whichever order (notes/assumptions/9.md). -/
structure ReleasedAndCleared (x y : State) : Prop where
  noWant : wantMain x.mc.config = none → y.se = { x.se with shortfallCount := 0, excessCount := 0 }
  share : y.se = { x.se with
    shortfallCount := 0, excessCount := 0, grant := y.se.grant, minGrant := y.se.minGrant }
  lines : ∀ k, y.cu.get k = if k ∈ engineLines x.mc.config ∧ (x.cu.get k).own = true then
      ⟨false, setRemove x.mc.node.val (x.cu.get k).sources,
        (x.cu.get k).pending && (!(setRemove x.mc.node.val (x.cu.get k).sources).isEmpty ||
          (x.cu.get k).sources.isEmpty)⟩
    else x.cu.get k
  ladders : ∀ l, (y.rl.get l).state = .idle ∧ (y.rl.get l).taken = 0 ∧ (y.rl.get l).dwell = none
  fuel : y.fu.recorded = none ∧ y.fu.lastReported = x.fu.lastReported ∧
    ∀ c, x.fu.flight = some c → y.fu.flight = some { c with joined := [] } ∧ y.fu.mode = x.fu.mode
  line : y.liu = { x.liu with tx := y.liu.tx } ∧ (x.liu.tx = [] → x.mc.mode = .standbyListen →
    y.liu.tx = ((engineLines x.mc.config).filter fun l => (x.cu.get l).own).map
      fun l => ⟨.claim l .release, 0, none, false⟩)
  port : y.fp = { x.fp with out := y.fp.out } ∧ ∃ more, y.fp.out = x.fp.out ++ more
  settled : standbyOrderMatters x = false → y.fu = fuelWithdrawn x.fu ∧ y.hu = x.hu ∧ y.fp = x.fp ∧
    ∀ l, (y.rl.get l).outcome = (x.rl.get l).outcome

/-- With the ladders cleared first. -/
theorem ReleasedAndCleared.first {x : State} (h : x.se.fallback = true) :
    ReleasedAndCleared x (engineReleases (clearLadders x)) := by
  have hc := clearLadders_inFallback h
  obtain ⟨c, hcc⟩ : ∃ c, c = clearLadders x := ⟨_, rfl⟩
  rw [← hcc] at hc ⊢
  have hse : c.se = { x.se with grant := c.se.grant, minGrant := c.se.minGrant } := by
    rw [hcc]; simp only [clearLadders]; rw [rebuildWant_inFallback (by simpa using h)]; simp
  have hrl : c.rl = Six.build fun l => ⟨.idle, 0, none, (x.rl.get l).outcome⟩ := by rw [hc]
  have hfu : c.fu = fuelWithdrawn x.fu := by rw [hc]
  have hcu : c.cu = x.cu := by rw [hc]
  have hmc : c.mc = x.mc := by rw [hc]
  have hfp : c.fp = x.fp := by rw [hc]
  have hhu : c.hu = x.hu := by rw [hc]
  have hliu : c.liu = x.liu := by rw [hc]
  have r := engineReleases_released (x := c) (by rw [hse]; exact h)
  obtain ⟨q1, q2, q3, q4⟩ := r.quiet (by intro l _; simp [hrl])
  have rl := r.lines
  simp only [hcu, hmc] at rl
  constructor
  · intro n
    have : c.se = x.se := by rw [hcc]; simp [clearLadders, rebuildWant, n]
    rw [r.keeps.noWant.2 (by rw [hmc]; exact n)]; simp only; rw [this]
  · rw [r.keeps.share]; simp only; rw [hse]
  · exact rl
  · intro l; simp [q1, hrl]
  · rw [q2, hfu]
    refine ⟨rfl, rfl, fun d hd => ?_⟩
    simp [fuelWithdrawn, hd]
  · have := r.line; simpa only [hcu, hmc, hliu] using this
  · rw [q4, hfp]; exact ⟨rfl, [], by simp⟩
  · intro _; rw [q1, q2, q3, q4, hfu, hhu, hfp, hrl]; simp

/-- With the claims released first. -/
theorem ReleasedAndCleared.last {x : State} (h : x.se.fallback = true) (hm : standbyOrderMatters x = true) :
    ReleasedAndCleared x (clearLadders (engineReleases x)) := by
  have r := engineReleases_released h
  obtain ⟨e, hee⟩ : ∃ e, e = engineReleases x := ⟨_, rfl⟩
  rw [← hee] at r ⊢
  have hfb : e.se.fallback = true := by rw [r.keeps.share]; exact h
  have hc := clearLadders_inFallback hfb
  have hse : (clearLadders e).se = { e.se with
      grant := (clearLadders e).se.grant, minGrant := (clearLadders e).se.minGrant } := by
    simp only [clearLadders]; rw [rebuildWant_inFallback (by simpa using hfb)]; simp
  constructor
  · intro n
    have h1 := r.keeps.noWant.2 n
    have : wantMain e.mc.config = none := by rw [r.keeps.noWant.1]; exact n
    have h2 : (clearLadders e).se = e.se := by simp [clearLadders, rebuildWant, this]
    rw [h2, h1]
  · rw [hse]; simp only; rw [r.keeps.share]
  · intro k; rw [hc]; exact r.lines k
  · intro l; rw [hc]; simp
  · rw [hc]
    refine ⟨rfl, r.keeps.reported, fun d hd => ?_⟩
    obtain ⟨⟨js, h1⟩, h2⟩ := r.keeps.flight d hd
    exact ⟨by simp [fuelWithdrawn, h1], h2⟩
  · rw [hc]; exact r.line
  · rw [hc]; exact r.keeps.sent
  · intro hn; simp [hm] at hn

/-- The entry to STANDBY-LISTEN releases and clears so. -/
theorem releaseAndClear_does {x : State} (h : x.se.fallback = true) : ReleasedAndCleared x (releaseAndClear x) := by
  simp only [releaseAndClear]
  split
  · next hm =>
    split
    · have := ReleasedAndCleared.first (x := drawn x) h
      exact ⟨this.noWant, this.share, this.lines, this.ladders, this.fuel, this.line, this.port, this.settled⟩
    · have := ReleasedAndCleared.last (x := drawn x) h hm
      exact ⟨this.noWant, this.share, this.lines, this.ladders, this.fuel, this.line, this.port, this.settled⟩
  · exact .first h

/-- Where the order of the two matters. -/
theorem standbyOrderMatters_iff (s : State) : standbyOrderMatters s = true ↔ ReleaseMayUndo s := by
  simp [standbyOrderMatters, ReleaseMayUndo, and_assoc]

/-- What the entry to STANDBY-LISTEN and its round 1 have done before the latch is looked at (R37, R47, R52, R57, R83,
R103, R113, R176). -/
theorem listenStandby_entered (r : StandbyRequest) (s : State) : ListenStandbyEntered r.clearWake s
    (runRound (requestTaken (enterStandbyListen (clearIfAsked r
      (s.setSe { s.se with roundTimer := some s.mc.config.period }))))) := by
  let s' := s.setSe { s.se with roundTimer := some s.mc.config.period }
  obtain ⟨k, hk⟩ : ∃ k, k = clearIfAsked r s' := ⟨_, rfl⟩
  have hkmc : k.mc = { s.mc with latch := if r.clearWake then ⟨false, false, Six.all false⟩ else s.mc.latch } := by
    rw [hk]; simp only [clearIfAsked]; split <;> simp_all [emptyLatch, s']
  have hke : k = { s' with mc := k.mc } := by rw [hk]; simp only [clearIfAsked]; split <;> rfl
  obtain ⟨t, ht⟩ : ∃ t, t = enterFallback (k.setMc { k.mc with mode := .standbyListen }) := ⟨_, rfl⟩
  obtain ⟨x, hx⟩ : ∃ x, x = t.setSe { t.se with roundCount := 0 } := ⟨_, rfl⟩
  obtain ⟨y, hy⟩ : ∃ y, y = releaseAndClear x := ⟨_, rfl⟩
  have hxe : x = { s with
      se := { s.se with
        roundTimer := some s.mc.config.period, roundCount := 0, fallback := true
        setpoint := if wantMain s.mc.config = none then s.se.setpoint else s.mc.config.fallbackSetpoint }
      fp := { s.fp with out := s.fp.out ++ fallbackSent s.mc.config }
      mc := { k.mc with mode := .standbyListen } } := by
    rw [hx, ht, enterFallback_eq, hke, hkmc]; rfl
  have hmc : x.mc = { k.mc with mode := .standbyListen } := by rw [hxe]
  have hconf : x.mc.config = s.mc.config := by rw [hmc, hkmc]
  have hnode : x.mc.node = s.mc.node := by rw [hmc, hkmc]
  have hfb : x.se.fallback = true := by rw [hxe]
  have d := releaseAndClear_does hfb
  rw [← hy] at d
  have hymc : y.mc = x.mc := by rw [hy]; simp
  have hyfb : y.se.fallback = true := by rw [d.share]; exact hfb
  have hb := rebuildWant_inFallback hyfb
  obtain ⟨v, hv⟩ : ∃ v, v = requestTaken (markPending (rebuildWant y)) := ⟨_, rfl⟩
  have hent : requestTaken (enterStandbyListen k) = v := by rw [hv, hy, hx, ht]; rfl
  have hvmc : v.mc = standbyTaken .standbyListen r.clearWake s.mc := by
    rw [hv]; simp only [requestTaken, setMc_mc, markPending_frame, rebuildWant_frame, hymc, hmc, hkmc, standbyTaken]
  have hvse : v.se = { s.se with
      roundTimer := some s.mc.config.period, roundCount := 0, fallback := true, shortfallCount := 0, excessCount := 0
      setpoint := if wantMain s.mc.config = none then s.se.setpoint else s.mc.config.fallbackSetpoint
      grant := v.se.grant, minGrant := v.se.minGrant } := by
    have : v.se = (rebuildWant y).se := by rw [hv]; simp
    rw [this, hb]; simp only; rw [d.share, hxe]
  have hvfu : v.fu = y.fu := by rw [hv]; simp only [requestTaken_frame, markPending_frame]; rw [hb]
  have hvhu : v.hu = y.hu := by rw [hv]; simp
  have hvrl : v.rl = y.rl := by rw [hv]; simp
  have hvliu : v.liu = y.liu := by rw [hv]; simp
  have hvfp : v.fp = y.fp := by rw [hv]; simp only [requestTaken_frame, markPending_frame]; rw [hb]
  have hvcu : v.cu = (markPending (rebuildWant y)).cu := by rw [hv]; simp
  have hvmode : v.mc.mode = .standbyListen := by rw [hvmc]; rfl
  have hvconf : v.mc.config = s.mc.config := by rw [hvmc]; rfl
  obtain ⟨r1, r2, r3⟩ := runRound_listen hvmode (by rw [hvse])
  rw [← hk, hent]
  obtain ⟨u, hu⟩ : ∃ u, u = runRound v := ⟨_, rfl⟩
  rw [← hu] at r1 r2 r3 ⊢
  have may : ¬ReleaseMayUndo s → standbyOrderMatters x = false := by
    intro h
    rw [← standbyOrderMatters_iff, Bool.not_eq_true] at h
    rw [← h]; simp [standbyOrderMatters, hconf, hnode]; rw [hxe]
  have hst : inStandby v.mc.mode = true := by rw [hvmode]; rfl
  have humc : u.mc = v.mc := by rw [r1]
  have humeas : u.se.measured = v.se.measured := by rw [r1]
  have hufu : u.fu = v.fu := by rw [r1]
  have huhu : u.hu = v.hu := by rw [r1]
  have hrec : ownRecords u = ownRecords v := ownRecords_standby hst humc humeas (by rw [hufu]) huhu
  have hext : ownExtras u = ownExtras v := by
    have : u.tie = v.tie := by rw [r1]
    simp [ownExtras, humc, this, tieCommitment]
  have hsnap : snapshot u = snapshot v :=
    snapshot_standby hst humc humeas (by rw [hufu]) huhu (by rw [r1])
  constructor
  · rw [humc, hvmc]
  · have h1 : u.se = { v.se with
        roundCount := 1, fallback := true, results := u.se.results
        setpoint := if wantMain s.mc.config = none then v.se.setpoint else s.mc.config.fallbackSetpoint
        grant := if wantMain s.mc.config = none then v.se.grant else 0
        minGrant := if wantMain s.mc.config = none then v.se.minGrant else 0 } := by
      conv_lhs => rw [r1]
      simp only [hvconf]
    rw [h1]
    simp only
    rw [hvse]
    simp only
    by_cases hw : wantMain s.mc.config = none
    · have hg : v.se.grant = s.se.grant ∧ v.se.minGrant = s.se.minGrant := by
        have h2 := d.noWant (by rw [hconf]; exact hw)
        have h3 : v.se = y.se := by
          rw [hv]; simp [rebuildWant, hymc, hconf, hw]
        rw [h3, h2, hxe]; simp
      simp [hw, hg]
    · simp [hw]
  · intro m hm; rw [hsnap]; exact r2 m (by rw [hvconf]; exact hm)
  · intro l
    have hcu : u.cu = v.cu := by rw [r1]
    rw [hcu, hvcu]
    have hl := d.lines l
    have hli : (rebuildWant y).rl = y.rl := by simp
    have hlc : (rebuildWant y).cu = y.cu := by simp
    have hxcu : x.cu = s.cu := by rw [hxe]
    rw [hconf, hnode, hxcu] at hl
    have hidle := (d.ladders l).1
    simp only [markPending, setCu_cu, Six.get_build, orAsserted, hlc, hli, hidle, hl]
    by_cases ho : l ∈ engineLines s.mc.config ∧ (s.cu.get l).own = true
    · simp only [if_pos ho, sourcesReleased]
      cases hr : setRemove s.mc.node.val (s.cu.get l).sources with
      | nil => simp [ho, and_comm]
      | cons n ns => simp [ho]
    · simp only [if_neg ho, sourcesReleased]
      cases hr : (s.cu.get l).sources with
      | nil => simp; tauto
      | cons n ns => simp; tauto
  · intro l
    have : u.rl = v.rl := by rw [r1]
    rw [this, hvrl]; exact d.ladders l
  · rw [hufu, hvfu]
    obtain ⟨f1, f2, f3⟩ := d.fuel
    have : x.fu = s.fu := by rw [hxe]
    rw [this] at f2 f3
    exact ⟨f1, f2, f3⟩
  · refine ⟨?_, fun ro hro h0 => ?_⟩
    · have hl := d.line.1
      rw [r1, hvliu, hl]; simp only; rw [hxe]
    · have h1 : x.liu.tx = [] := by rw [hxe]; exact h0
      have h2 := d.line.2 h1 (by rw [hmc])
      have h3 : x.cu = s.cu := by rw [hxe]
      rw [hconf, h3] at h2
      rw [r3 ro (by rw [hvconf]; exact hro), hvliu, h2, hrec, hext, hvconf]
      rcases engineLines_cases s.mc.config with he | ⟨l, he⟩ <;> rw [he]
      · rfl
      · cases ho : (s.cu.get l).own <;> simp [ho, placeState, placeEntry, newEntry, isState]
  · have hs := d.port
    have h1 : x.fp = { s.fp with out := s.fp.out ++ fallbackSent s.mc.config } := by rw [hxe]
    obtain ⟨h2, more, h3⟩ := hs
    refine ⟨?_, more, ?_, fun h => ?_⟩
    · rw [r1, hvfp, h2, h1]
    · have : u.fp.out = v.fp.out ++ fallbackSent v.mc.config ++ [.nodeStatus (nodeStatus u)] := by
        conv_lhs => rw [r1]
      rw [this, hvfp, h3, h1, hvconf]
    · have := (d.settled (may h)).2.2.1
      rw [this] at h3
      simpa using h3
  · intro h
    obtain ⟨f1, f2, f3, f4⟩ := d.settled (may h)
    have : u.rl = v.rl := by rw [r1]
    rw [hufu, huhu, this, hvfu, hvhu, hvrl, f1, f2]
    refine ⟨by rw [hxe], by rw [hxe], fun l => ?_⟩
    rw [f4 l, hxe]
  · rw [r1, hv, hy, hxe]; simp
end Sys2Proof.Machine
end

