-- ==== Sys2Proof/Tests/Slice0.lean ====
section
/-! SUPPORT. Small tests: ill-formed messages are refused, some commands' outcomes worked out by hand from the
spec, and for each statement with hypotheses a state and operands that meet them, at the ends of their ranges. -/

namespace Sys2Proof.Tests

open Sys2Proof.Machine

/-! ### Helpers -/

/-- A configured station of a role in a mode, every other field as after reset. -/
def station (r : Role) (m : Mode) : State :=
  { State.reset with mc := { ModeController.reset with
      mode := m
      config := { StationConfig.unconfigured with
        role := some r, period := 10, rampStep := 100, capacity := 20000, max := 1000, min := 200
        drawMax := 501, absorbMax := 401, t1 := 100, t2 := 300, t3 := 700, t4 := 900
        electricCapacity := 1000, steamRate := 2000, guaranteedMin := 500, changeoverLimit := 300
        tolerance := 50, tariff := List.replicate 24 2 } } }

/-- The state a command leaves; where it stops, the state before. -/
def after (c : Instr) (s : State) : State :=
  match exec c s with
  | .next t => t
  | .fault _ => s
  | .refused _ => s

/-- The state with frames waiting in its receive queue. -/
def heard (fs : List Frame) (s : State) : State := s.setLiu { s.liu with rx := fs }

/-- The state with a transmit queue. -/
def queued (es : List TxEntry) (s : State) : State := s.setLiu { s.liu with tx := es }

/-- The state at a position of the time value. -/
def atTime (d t : Nat) (s : State) : State := s.setDc { s.dc with time := ⟨d, t⟩ }

/-- A peer entry of a role. -/
def peer (r : Role) : PeerEntry :=
  { role := r, mains := ⟨true, false, true⟩, period := 10, tag := some 7, mode := .active, severity := .none
    claims := Six.all false, records := [], extras := .none, age := 0, stale := false, cause := some .pin }

def withPeer (n : Nat) (e : PeerEntry) (s : State) : State := s.setPeers (assocPut n e s.peers)

/-- A waiting and a sending entry. -/
def waits (b : TxBody) : TxEntry := ⟨b, 0, none, false⟩
def sends (b : TxBody) (k : Nat) : TxEntry := ⟨b, k, some [], false⟩

def short0 : ClaimLine := ⟨.m0, .shortfall⟩
def surplus0 : ClaimLine := ⟨.m0, .surplus⟩

/-- A ladder in a state with steps taken, its dwell expired. -/
def ladder (x : LadderState) (taken : Nat) (s : State) : State := setLadder short0 ⟨x, taken, some 0, none⟩ s

/-- Steps on the SHORTFALL line of main 0. -/
def steps (xs : List Step) (s : State) : State :=
  s.setMc { s.mc with config := { s.mc.config with lines := s.mc.config.lines.set short0 ⟨false, xs⟩ } }

def step5 (a : Action) : Step := ⟨a, 5, false⟩

def asserted (ns : List Nat) (s : State) : State :=
  setLine short0 { s.cu.get short0 with sources := ns } s

/-! ### Ill-formed messages -/

theorem test_refuses_day_above_range :
    exec (.timeSet 65536 0) (station .exportTie .active) = .refused .illFormed := rfl

theorem test_takes_last_day : goesOn (exec (.timeSet 65535 86399) (station .exportTie .active)) := ⟨_, rfl⟩

theorem test_refuses_47_entries :
    exec (.schedule 0 (List.replicate 47 0)) (station .exportTie .active) = .refused .illFormed := rfl

theorem test_refuses_schedule_day :
    exec (.schedule 65536 (List.replicate 48 0)) (station .exportTie .active) = .refused .illFormed := rfl

theorem test_refuses_energy_above_range :
    exec (.exportEnergy .ok 32768) (station .exportTie .active) = .refused .illFormed := rfl

theorem test_refuses_energy_below_range :
    exec (.exportEnergy .ok (-32769)) (station .exportTie .active) = .refused .illFormed := rfl

theorem test_ill_formed_by_the_check :
    (Instr.timeSet 65536 0).wellFormed = false ∧ (Instr.schedule 0 []).wellFormed = false ∧
      (Instr.exportEnergy .bad 40000).wellFormed = false ∧ (Instr.exportEnergy .bad (-32768)).wellFormed = true := by
  decide

/-! ### Values worked out by hand -/

/-- The check value of CRC-16 with the generator and start of R182 over the ASCII digits 1 to 9 is 0x29B1. -/
theorem test_crc16_of_nine_digits : crc16 [0x31, 0x32, 0x33, 0x34, 0x35, 0x36, 0x37, 0x38, 0x39] = 0x29B1 := by
  decide +kernel

/-- A CLAIM on main 1 SHORTFALL, ASSERT, from node 5, byte by byte (layouts of 13). -/
theorem test_claim_header : headerAndPayload 5 3 [2, 1] = [0xA5, 5, 3, 2, 2, 1] := by decide

/-- R4: station 31 waits 14336 µs after its seventh collision, station 0 waits 64 µs after its first. -/
theorem test_backoff_range : backoffTime 31 7 = 14336 ∧ backoffTime 0 1 = 64 := by decide

/-- R2: gaps at the ends of their ranges. -/
theorem test_quiet_gap_range :
    quietGap (.claim short0 .assert) 0 = 96 ∧ quietGap (.leave .unconfigured) 31 = 320 ∧
      quietGap (.time ⟨0, 0⟩ .free) 8 = 160 ∧ quietGap (.wake .boiler .m0) 15 = 384 := by decide

/-- R160: record 1 stands in slot 0, record 1025 in slot 0 again. -/
theorem test_slot_of : slotOf 1 = 0 ∧ slotOf 1024 = 1023 ∧ slotOf 1025 = 0 := by decide

/-- R126: 1800 s at 900 SU are 45000 kWh; with a tolerance of 50 per mille, 2250 kWh. -/
theorem test_settlement_figures :
    commitmentEnergy 900 1800 = 45000 ∧ toleranceOf 45000 50 = 2250 ∧ verdictOf (-2250) 2250 = .within ∧
      verdictOf (-2251) 2250 = .under ∧ verdictOf 2251 2250 = .over := by decide

/-- R133: two turbines of 1000 kW against a gap of 900 take 450 each. -/
theorem test_turbine_split : turbineFrom 900 2000 1000 2000 = ⟨900, 2000, 450, 900, 2000⟩ := by decide

/-- R62: at level 720 a NORMAL holder with t3 = 700 becomes HIGH, at 719 it stays. -/
theorem test_band_hysteresis :
    bandAfter (station .holder .active).mc.config .normal 720 = .high ∧
      bandAfter (station .holder .active).mc.config .normal 719 = .normal ∧
      bandAfter (station .holder .active).mc.config .normal 280 = .normal ∧
      bandAfter (station .holder .active).mc.config .normal 279 = .low := by decide

/-- R41: three members ask for 300 in tier 1 and 400 in tier 6; of a supply of 500 the headroom tier is short
and its member gets 200 of 400. -/
theorem test_short_headroom_tier :
    let a : WantMember := ⟨100, 0, 0, 1⟩
    let b : WantMember := ⟨200, 400, 0, 1⟩
    (walkThrough [a, b] 500 8) = ⟨0, some 6⟩ ∧ grantOf [a, b] 500 b = 400 ∧ grantOf [a, b] 500 a = 100 := by
  decide

/-! ### One step of each kind of command -/

theorem test_command_from_the_queue :
    step { State.reset with pending := [.backoffExpiry, .collision] } =
      .next { State.reset with pending := [.collision] } := rfl

theorem test_no_word_is_a_command : decodeTableWord 8 0 = none := rfl

theorem test_read_failure_enters_listen_only :
    (after (.loadComplete 3 none) State.reset).mc.mode = .listenOnly ∧
      (after (.loadComplete 3 none) State.reset).mc.loadOutcome = .readFailure ∧
      (after (.loadComplete 3 none) State.reset).mc.node = 3 := by decide

/-- An image of a TURBINE at node 3: NODE and MAIN A, five absent records, CRC-16. -/
def turbineBody : List Byte :=
  [1, 9, 3, 4, 5, 0, 100, 0, 50, 0, 0] ++ [2, 29] ++ List.replicate 23 0 ++ [3, 232, 7, 208, 0, 0] ++
    [3, 0, 4, 0, 5, 0, 6, 0, 7, 0]
def turbineImage : List Byte := turbineBody ++ byte2 (crc16 turbineBody)

theorem test_turbine_image_is_read :
    (rawImage turbineImage).map (outcomeOf 3) = some .ok ∧
      (rawImage turbineImage).map imageRole = some (some .turbine) ∧
      (rawImage turbineImage).map (outcomeOf 4) = some .numberMismatch := by decide +kernel

theorem test_wrong_strap_enters_listen_only :
    (after (.loadComplete 4 (some turbineImage)) State.reset).mc.mode = .listenOnly := by decide +kernel

theorem test_turbine_image_enters_listen_in :
    (after (.loadComplete 3 (some turbineImage)) State.reset).mc.mode = .listenIn ∧
      (after (.loadComplete 3 (some turbineImage)) State.reset).turbine.baseMax = 2000 ∧
      (after (.loadComplete 3 (some turbineImage)) State.reset).se.roundTimer = some 5 := by decide +kernel

theorem test_pin_reset_after_warning :
    (after .pinReset ((station .boiler .leaving).setMc { (station .boiler .leaving).mc with warning := true })).mc.cause =
      .pinAfterWarning := by decide

theorem test_supply_low_closes_the_period :
    let s := after .supplyLowReleased ((station .exportTie .active).setMc
      { (station .exportTie .active).mc with supplyLow := true })
    let t := after .supplyLowAsserted s
    (s.tie.openPeriod.map Period.flags) = some { noFlags with partialStart := true, noSchedule := true } ∧
      t.tie.openPeriod = none ∧
      t.rs.holdQueue.map recordFlags = [{ noFlags with partialStart := true, powerFail := true, noSchedule := true }]
    := by decide

theorem test_schedule_for_tomorrow :
    (after (.schedule 1 (List.replicate 48 30000)) (station .exportTie .active)).tie.lastSchedule = .accepted ∧
      (after (.schedule 1 (List.replicate 48 30000)) (station .exportTie .active)).tie.slotA =
        some ⟨1, List.replicate 48 (some 20000)⟩ := by decide

theorem test_schedule_in_period_47_refuses_all :
    (after (.schedule 0 (List.replicate 48 1)) (atTime 0 86399 (station .exportTie .active))).tie.lastSchedule =
      .partly 48 := by decide

theorem test_fuel_command_of_a_step :
    let s := asserted [9] (ladder .dwell 0 (steps [step5 .fuelBackup] ((station .boiler .active).setFu
      ⟨.gas, some .gas, none, none⟩)))
    (after (.dwellExpiry short0) s).fu = ⟨.toBackup, some .gas, some ⟨.backup, 300, [short0]⟩, none⟩ ∧
      ((after (.dwellExpiry short0) s).rl.get short0).state = .stepping := by decide

theorem test_changeover_timeout :
    let s := (station .boiler .active).setFu ⟨.toBackup, some .gas, some ⟨.backup, 0, []⟩, none⟩
    (after .changeoverTimeout s).fu.mode = .gas ∧
      faultPresent .changeoverTimeout (after .changeoverTimeout s).mc.faults = true := by decide

theorem test_flare_floor :
    let s := (station .holder .active).setHu ⟨950, .flare, none, some 2, none, []⟩
    (after (.flareStatus 0) s).hu.position = some 1 ∧
      (after (.flareStatus 0) s).fp.out = [.flareCommand 1] := by decide

theorem test_level_lost_sets_limits_to_zero :
    let s := (station .holder .active).setHu ⟨500, .normal, some 0, none, none, []⟩
    drawLimit s = 501 ∧ drawLimit (after .levelLost s) = 0 := by decide

theorem test_claim_frame_fills_the_source_set :
    let s := heard [⟨9, .claim, [0, 1]⟩] (withPeer 9 (peer .consumer) (station .boiler .active))
    ((after .claimDelivered s).cu.get short0).sources = [9] ∧ (after .claimDelivered s).liu.rx = [] := by decide

theorem test_leave_empties_the_source_set :
    let s := heard [⟨9, .leave, [1]⟩] (asserted [9] (withPeer 9 (peer .consumer) (station .boiler .active)))
    ((after .leaveDelivered s).cu.get short0).sources = [] ∧ (after .leaveDelivered s).peers = [] := by decide

theorem test_hello_of_another_role_replaces :
    let s := heard [⟨9, .hello, [3, 1, 5, 0, 7, 2]⟩] (withPeer 9 (peer .boiler) (station .boiler .active))
    ((assocGet 9 (after .helloDelivered s).peers).map PeerEntry.role) = some .consumer ∧
      ((assocGet 9 (after .helloDelivered s).peers).map PeerEntry.mode) = some .listenIn := by decide

theorem test_state_writes_the_entry :
    let s := heard [⟨9, .state, [3, 5, 1, 0, 1, 0]⟩] (station .boiler .active)
    ((assocGet 9 (after .stateDelivered s).peers).map PeerEntry.period) = some 5 ∧
      ((after .stateDelivered s).cu.get short0).sources = [9] := by decide

theorem test_peer_goes_stale_past_three_periods :
    let s := fun a => withPeer 9 { peer .consumer with age := a } (station .boiler .active)
    ((assocGet 9 (after (.entryGoesStale 9) (s 30)).peers).map PeerEntry.stale) = some false ∧
      ((assocGet 9 (after (.entryGoesStale 9) (s 31)).peers).map PeerEntry.stale) = some true := by decide

theorem test_peer_goes_absent_past_eight_periods :
    let s := fun a => withPeer 9 { peer .consumer with age := a } (station .boiler .active)
    (after (.entryGoesAbsent 9) (s 80)).peers.length = 1 ∧ (after (.entryGoesAbsent 9) (s 81)).peers = [] := by
  decide

theorem test_wake_frame_wakes_from_deep_standby :
    let s := heard [⟨9, .wake, [2, 2, 0]⟩] (station .boiler .standbyDeep)
    (after .wakeDelivered s).mc.mode = .listenIn ∧ (after .wakeDelivered s).mc.latch.wakeFrame = true := by decide

theorem test_resume_wakes_from_standby_listen :
    (after .resume (station .boiler .standbyListen)).mc.mode = .active := by decide

theorem test_standby_refused_of_a_holder :
    (after (.standbyRequest .deep false) (station .holder .active)).mc.lastStandby = .refused := by decide

theorem test_reset_warning_without_a_store_is_answered_at_once :
    (after .resetWarning (station .boiler .active)).mc.returnTimer = some 10 ∧
      (after .resetWarning (station .boiler .active)).mc.mode = .leaving ∧
      (after .resetWarning (station .boiler .active)).liu.tx = [waits (.leave .resetWarning)] := by decide

theorem test_read_of_an_empty_store_is_none :
    let s := heard [⟨9, .read, [0, 1, 0, 0, 0, 1, 4]⟩] (station .townheat .active)
    ((after .readDelivered s).rs.slotA.map ReadSlot.status) = some .none ∧
      (after (.recordPlace .a) (after .readDelivered s)).liu.tx = [waits (.record .none 0 [] (some .a))] := by decide

theorem test_hour_boundary_bills :
    let s := atTime 5 3599 ((station .townheat .active).setMu
      { MeteringUnit.reset with openInterval := some ⟨⟨5, 0⟩, 3600, 2, 8, 4, 3, 0, 0, 0, .free, noFlags⟩ })
    let t := after .meteringSecond s
    t.rs.holdQueue.map recordSeq = [1] ∧ t.mu.openInterval.map Interval.start = some ⟨5, 3600⟩ ∧
      t.rs.inFlight = true ∧ (after (.commitEnd .whole) t).rs.newest = 1 ∧
      (after (.commitEnd .whole) t).rs.holdQueue = [] ∧
      faultPresent .storeFault (after (.commitEnd .error) t).mc.faults = true := by decide

theorem test_metering_second_at_midnight :
    (after .meteringSecond (atTime 65535 86399 (station .boiler .active))).dc.time = ⟨0, 0⟩ := by decide

theorem test_active_round_ramps :
    let s := (station .consumer .active).setSe { ShareEngine.reset with roundTimer := some 0, fallback := false }
    (after .roundExpiry s).se.shortfallCount = 0 ∧ (after .roundExpiry s).liu.tx.length = 2 ∧
      (after .roundExpiry s).se.roundCount = 1 := by decide

theorem test_attempt_and_sent_whole :
    let s := queued [waits (.state .boiler 10 [] none), waits (.leave .deepStandby)] (station .boiler .active)
    let t := after (.lineAttemptStart 96) s
    (t.liu.tx.map isWaiting) = [true, false] ∧
      (after .frameSentWhole t).liu.tx = [waits (.state .boiler 10 [] none)] ∧
      ((after .collision t).liu.tx.map TxEntry.collisions) = [0, 1] ∧
      (after .collision t).liu.backoff = some 64 := by decide +kernel

theorem test_own_number_is_a_clash :
    faultPresent .numberClash
      (after (.frameReceived (frameBytes 0 4 [1])) (station .boiler .active)).mc.faults = true ∧
    (after (.frameReceived (frameBytes 1 4 [1])) (station .boiler .active)).liu.rx = [⟨1, .leave, [1]⟩] := by
  decide +kernel

theorem test_time_frame_is_adopted :
    let s := heard [⟨9, .time, [0, 2, 0, 0, 0, 60, 2]⟩] (station .boiler .active)
    (after .timeDelivered s).dc.quality = .synced ∧ (after .timeDelivered s).dc.pendingStep = some ⟨2, 60⟩ := by
  decide

theorem test_link_lost_enters_fallback :
    let s := (station .consumer .active).setFp { FieldPort.reset with linkTimer := some 0 }
    (after .fieldLinkLost s).fp.link = .lost ∧ (after .fieldLinkLost s).fp.out = [.setpoint .m0 0] := by decide


/-! ### The hypotheses of the statements can be met -/

theorem meets_StepRunsFrontCommand :
    ({ State.reset with pending := [.collision] } : State).pending = .collision :: [] ∧ State.reset.pending = [] :=
  ⟨rfl, rfl⟩

theorem meets_GoodImageEntersListenIn :
    State.reset.mc.mode = .loading ∧ State.reset.liu.tx = [] ∧ State.reset.mc.faults.length ≤ 6 ∧
      (rawImage turbineImage).map (outcomeOf 3) = some .ok ∧
      (rawImage turbineImage).map imageRole = some (some .turbine) := by decide +kernel

theorem meets_BadImageEntersListenOnly :
    State.reset.mc.mode = .loading ∧ State.reset.liu.tx = [] ∧
      loadOutcomeOf 3 ((none : Option (List Byte)).bind rawImage) ≠ .ok ∧
      loadOutcomeOf 4 ((some turbineImage).bind rawImage) ≠ .ok := by decide +kernel

/-- A queue of a STATE and a younger LEAVE. -/
def stateThenLeave : State :=
  queued [waits (.state .boiler 10 [] none), waits (.leave .deepStandby)] (station .boiler .active)

/-- At node 0 the LEAVE's gap is 96 µs exactly; for each reason not to start, a state. -/
theorem meets_AttemptStartsAfterQuietGap :
    (stateThenLeave.liu.tx = [waits (.state .boiler 10 [] none)] ++ waits (.leave .deepStandby) :: [] ∧
      (∀ x ∈ stateThenLeave.liu.tx, x.sending = none) ∧ stateThenLeave.liu.backoff = none ∧
      (∀ x ∈ [waits (.state .boiler 10 [] none)],
        precedence (waits (.leave .deepStandby)).body < precedence x.body) ∧
      96 + 32 * (stateThenLeave.mc.node.val % 8) ≤ 96) ∧
    State.reset.liu.tx = [] ∧
    (stateThenLeave.setLiu { stateThenLeave.liu with backoff := some 64 }).liu.backoff ≠ none ∧
    (∃ x ∈ (queued [sends (.leave .deepStandby) 0] State.reset).liu.tx, x.sending ≠ none) ∧
    95 < 96 + 32 * (stateThenLeave.mc.node.val % 8) ∧
    bodyKind (waits (.state .boiler 10 [] none)).body ≠ .claim ∧
    bodyKind (waits (.state .boiler 10 [] none)).body ≠ .leave ∧ 159 < 160 + 32 * (stateThenLeave.mc.node.val % 8) := by
  decide

theorem meets_SentWholeLeavesTheQueue :
    let c := sends (.claim short0 .assert) 0
    let r := sends (.record .ok 1 [] (some .a)) 7
    (queued [c] State.reset).liu.tx = [] ++ c :: [] ∧ c.sending ≠ none ∧ bodyKind c.body = .claim ∧
      (queued [waits (.leave .deepStandby), r] State.reset).liu.tx = [waits (.leave .deepStandby)] ++ r :: [] ∧
      (∀ x ∈ [waits (.leave .deepStandby)], x.sending = none) ∧ r.sending ≠ none ∧ bodyKind r.body ≠ .claim := by
  decide

/-- The slot whose RECORD 5 was sent: another number is held, with a commit in flight; or the oldest is 7. -/
theorem meets_SentWholeLeavesTheQueue_slot :
    let r : Nat → StoreRecord := fun n => .bill ⟨n, ⟨0, 0⟩, 3600, 0, .free, 0, 0, 0, 0, 0, 0, noFlags⟩
    let sl : ReadSlot := ⟨5, 2, .ok, false, true, none, 0⟩
    let a : RecordUnit := { RecordUnit.blank with holdQueue := [r 6], inFlight := true, slotA := some sl }
    let b : RecordUnit := { RecordUnit.blank with slots := [(6, r 7)], newest := 7, slotA := some sl }
    getSlot .a a = some sl ∧ sl.status ≠ .none ∧ 1 < sl.left ∧ 6 ∈ retainedNumbers a ++ heldNumbers a ∧
      (∀ x ∈ retainedNumbers a ++ heldNumbers a, 5 < x → 6 ≤ x) ∧ oldestRetained a = none ∧ 6 ∈ heldNumbers a ∧
      oldestRetained b = some 7 ∧ 5 + 1 < 7 := by decide

/-- Collision counts 0, 6 and 7 of a LEAVE, a STATE, a CLAIM and a RECORD. -/
theorem meets_CollisionBacksOffOrDrops (k : Nat) (hk : k = 0 ∨ k = 6 ∨ k = 7) (b : TxBody)
    (hb : b ∈ [.leave .deepStandby, .state .boiler 10 [] none, .claim short0 .assert, .record .ok 1 [] (some .a)]) :
    let e := sends b k
    let s := queued [e] State.reset
    s.liu.tx = [] ++ e :: [] ∧ e.sending ≠ none ∧ e.noRetry = false ∧ (e.collisions < 7 ∨ e.collisions = 7) ∧
      (∀ x ∈ s.liu.tx, x.sending = none → ¬(bodyKind x.body = .state ∧ bodyKind e.body = .state)) ∧
      (∀ x ∈ s.liu.tx, x.sending = none → ∀ l g h, ¬(x.body = .claim l g ∧ e.body = .claim l h)) := by
  rcases hk with rfl | rfl | rfl <;> simp [sends, queued, State.setLiu]

/-- An entry whose kind a mode entry removed while it was being sent. -/
theorem meets_CollisionBacksOffOrDrops_noRetry (k : Nat) (hk : k = 0 ∨ k = 7) (b : TxBody)
    (hb : b ∈ [.state .boiler 10 [] none, .claim short0 .assert, .record .ok 1 [] (some .a)]) :
    let e : TxEntry := { sends b k with noRetry := true }
    let s := queued [e, waits (.leave .deepStandby)] (station .boiler .standbyDeep)
    s.liu.tx = [] ++ e :: [waits (.leave .deepStandby)] ∧ e.sending ≠ none ∧ e.noRetry = true ∧
      (e.collisions < 7 ∨ e.collisions = 7) := by
  rcases hk with rfl | rfl <;> simp [sends, queued, State.setLiu]

theorem meets_SupersededEntriesAreRemoved :
    let e := sends (.state .boiler 10 [] none) 0
    let newer := waits (.state .boiler 9 [] none)
    let c := sends (.claim short0 .assert) 0
    let d := waits (.claim short0 .release)
    ((queued [e, newer] State.reset).liu.tx = [] ++ e :: [newer] ∧ e.sending ≠ none ∧ bodyKind e.body = .state ∧
      newer ∈ [] ++ [newer] ∧ newer.sending = none ∧ bodyKind newer.body = .state) ∧
    ((queued [c, d] State.reset).liu.tx = [] ++ c :: [] ++ d :: [] ∧ c.sending ≠ none ∧ c.noRetry = false ∧
      d.sending = none ∧ d.body = .claim short0 ((queued [c, d] State.reset).liu.lastEdge.get short0)) ∧
    Edge.assert ≠ (queued [c, d] State.reset).liu.lastEdge.get short0 := by
  decide

theorem meets_FramesHeardAreQueuedOrDiscarded_clash :
    (State.reset.setLiu { State.reset.liu with clash := some 0 }).liu.clash = some 0 ∧
      (heard [⟨3, .record, [2, 0]⟩] State.reset).liu.rx = ⟨3, .record, [2, 0]⟩ :: [] := by decide

/-- A LEAVE of node 1, one of the own node 0, a matching and another WAKE, and bytes that are no frame. -/
theorem meets_FramesHeardAreQueuedOrDiscarded :
    let s := station .boiler .active
    goodFrame (frameBytes 1 4 [1]) = some ⟨1, .leave, [1]⟩ ∧ (1 : Nat) ≠ s.mc.node.val ∧ s.mc.mode ≠ .loading ∧
      (∀ x ∈ s.liu.tx, x.sending = none) ∧
      goodFrame (frameBytes 0 4 [1]) = some ⟨0, .leave, [1]⟩ ∧ s.mc.node.val = 0 ∧
      goodFrame (frameBytes 31 6 [2, 2, 0]) = some ⟨31, .wake, [2, 2, 0]⟩ ∧
      wakeMatches [2, 2, 0] (station .boiler .standbyDeep) = true ∧
      wakeMatches [2, 3, 0] (station .boiler .standbyDeep) = false ∧ goodFrame [0xA5, 1] = none := by
  decide +kernel

theorem meets_FramesReadBackAsSent :
    lengthAllowed .leave [1] = true ∧ (0 ≠ crc16 (headerAndPayload 31 4 [1])) ∧ posOk ⟨65535, 86399⟩ ∧
      (2 ≤ 10 ∧ 10 ≤ 10 ∧ 65535 < 65536) := by
  refine ⟨by decide, by decide +kernel, ⟨by decide, by decide⟩, by decide⟩

/-- Of a boiler, two records at the ends of their ranges; of a tie, none with its extras. -/
theorem meets_FramesReadBackAsSent_state :
    let rs : List StateRecord := [.want .m0 20000 20000 3 0, .offer .m2 20000 0 .changeover]
    rs.length ≤ 2 ∧ (∀ r ∈ rs, r.inRange) ∧
      rs.Pairwise (fun a b => sameKindAndMain (keptRecord a) (keptRecord b) = false) ∧
      ((none : Option (Nat × Nat)).isSome = true ↔ Role.boiler = .exportTie ∨ Role.boiler = .turbine) ∧
      ((some (20000, 0) : Option (Nat × Nat)).isSome = true ↔ Role.exportTie = .exportTie ∨ Role.exportTie = .turbine) ∧
      (station .boiler .standbyListen).mc.mode = .standbyListen := by
  refine ⟨by decide, ?_, by decide, by decide, by decide, by decide⟩
  simp [StateRecord.inRange]

/-- A STATE of node 9 as a CONSUMER claiming main 0 SHORTFALL. -/
def stateFrame : Frame := ⟨9, .state, [3, 5, 1, 0, 1, 0]⟩

theorem meets_StateUpdatesTheEntry :
    (heard [stateFrame] State.reset).liu.rx = stateFrame :: [] ∧ stateFrame.kind = .state ∧
      (readState stateFrame.payload).isSome = true ∧
      assocGet 9 (withPeer 9 (peer .consumer) State.reset).peers = some (peer .consumer) ∧
      assocGet 9 (withPeer 9 (peer .boiler) State.reset).peers = some (peer .boiler) ∧
      (station .townheat .active).mc.config.role = some .townheat ∧
      (station .turbine .active).mc.config.role = some .turbine := by decide

theorem meets_FramesHeardAreQueuedOrDiscarded_unreadable :
    7 ≤ at1 [7, 5, 1, 0, 0, 0] 0 ∧ at1 [3, 5, 0, 0, 0, 0] 2 = 0 ∧ 4 ≤ at1 [3, 5, 1, 4, 0, 0] 3 ∧
      8 ≤ at1 [8, 0, 5, 0, 0, 1] 0 ∧ at1 [7, 0, 5, 0, 0, 0] 5 = 0 ∧ 4 ≤ at1 [3, 0, 5, 0, 0, 4] 5 ∧
      6 ≤ at1 [6, 0] 0 ∧ 2 ≤ at1 [0, 2] 1 ∧ 3 ≤ at1 [0, 0, 0, 0, 0, 0, 3] 6 ∧
      wakeMatches [3, 0, 0] State.reset = false := by decide

/-- A HELLO of node 9 as a CONSUMER with tag 7 and cause PIN: to an unknown number, to an entry of its role and
tag, to one of another role; and one of role UNCONFIGURED. -/
theorem meets_HelloUpdatesOrRemovesTheEntry :
    let f : Frame := ⟨9, .hello, [3, 1, 5, 0, 7, 2]⟩
    (heard [f] State.reset).liu.rx = f :: [] ∧
      readHello f.payload = .configured ⟨.consumer, ⟨true, false, false⟩, 5, 7, .pin⟩ ∧
      assocGet 9 State.reset.peers = none ∧
      assocGet 9 (withPeer 9 (peer .consumer) State.reset).peers = some (peer .consumer) ∧
      (peer .consumer).tag = some 7 ∧ (peer .consumer).cause = some .pin ∧ (peer .boiler).role ≠ .consumer ∧
      at1 [7, 0, 0, 0, 0, 1] 0 = 7 ∧ 1 ≤ at1 [7, 0, 0, 0, 0, 1] 5 ∧ at1 [7, 0, 0, 0, 0, 3] 5 ≤ 3 := by decide

/-- R183: an UNCONFIGURED HELLO with reset cause 0 or 4 is discarded and the entry stands; with cause 1 it removes it. -/
theorem test_unconfigured_hello_needs_a_reset_cause :
    let s := fun cause => heard [⟨9, .hello, [7, 0, 0, 0, 0, cause]⟩] (withPeer 9 (peer .boiler) (station .boiler .active))
    let left := fun cause => (after .helloDelivered (s cause)).peers.length
    left 0 = 1 ∧ left 4 = 1 ∧ left 1 = 0 ∧ (after .helloDelivered (s 0)).liu.rx = [] := by decide

theorem meets_ClaimSetsTheSendersBit :
    readClaim [5, 0] = some (⟨.m2, .surplus⟩, .release) ∧ readClaim [0, 1] = some (short0, .assert) ∧
      assocGet 9 State.reset.peers = none ∧
      assocGet 9 (withPeer 9 (peer .consumer) State.reset).peers = some (peer .consumer) := by decide

theorem meets_LeaveRemovesTheEntry :
    (heard [⟨9, .leave, [3]⟩] State.reset).liu.rx = ⟨9, .leave, [3]⟩ :: [] ∧ assocGet 9 State.reset.peers = none ∧
      assocGet 9 (withPeer 9 (peer .consumer) State.reset).peers = some (peer .consumer) := by decide

/-- Period 10: ages 30, 31, 80 and 81. -/
theorem meets_AgeingThresholds :
    let e := fun a => { peer .consumer with age := a }
    (e 31).stale = false ∧ 3 * (e 31).period < (e 31).age ∧ (e 30).age ≤ 3 * (e 30).period ∧
      8 * (e 81).period < (e 81).age ∧ (e 80).age ≤ 8 * (e 80).period := by decide

theorem meets_FirstAssertReachesTheLadder :
    let s := heard [⟨9, .claim, [0, 1]⟩] (withPeer 9 (peer .consumer) (steps [step5 .none] (station .boiler .active)))
    readClaim [0, 1] = some (short0, .assert) ∧ assocGet 9 s.peers = some (peer .consumer) ∧
      (s.cu.get short0).sources = [] ∧ (s.rl.get short0).state = .idle ∧
      s.mc.config.wakeSet.get short0 = false ∧ (s.mc.config.lines.get short0).masked = false ∧
      s.mc.mode = .active ∧ (s.mc.config.lines.get short0).steps = step5 .none :: [] ∧
      (s.rl.get short0).taken = 0 ∧ (station .boiler .listenIn).mc.mode = .listenIn ∧
      ({ s.mc.config with wakeSet := Six.all true } : StationConfig).wakeSet.get short0 = true ∧
      (station .boiler .leaving).mc.mode ∈ [Mode.listenIn, .active, .leaving] ∧
      (station .boiler .standbyListen).mc.mode = .standbyListen := by decide

/-- The last second of the range, with the greatest trim; and LOADING. -/
theorem meets_MeteringSecondEffect :
    let s := (atTime 65535 86399 (station .boiler .active))
    s.mc.mode ≠ .loading ∧ s.dc.hold = none ∧ s.dc.pendingStep = none ∧ State.reset.mc.mode = .loading ∧
      ({ s.dc with trim := -1023, trimAcc := 1023 } : DayClock).trim.natAbs ≤ 1023 ∧
      ({ s.dc with trim := -1023, trimAcc := 1023 } : DayClock).trimAcc ≤ 1023 := by decide

/-- A pending time at the span start, one second before it, and a hold. -/
theorem meets_MeteringSecondEffect_steps :
    let d : DayClock := { DayClock.reset with time := ⟨5, 3700⟩, spanStart := some ⟨5, 3600⟩ }
    posNumber ⟨5, 3600⟩ ≤ posNumber ⟨5, 3600⟩ ∧ posNumber ⟨5, 3599⟩ < posNumber ⟨5, 3600⟩ ∧
      d.hold = none ∧ d.spanStart = some ⟨5, 3600⟩ ∧
      ({ d with hold := some ⟨⟨5, 3600⟩, ⟨5, 3500⟩⟩ } : DayClock).pendingStep = none ∧
      posNumber ⟨5, 3599⟩ < posNumber ⟨5, 3600⟩ ∧ posNumber ⟨5, 3601⟩ ≤ posNumber ⟨5, 3600⟩ + 1 := by decide

theorem meets_AdoptionSyncsTheClock :
    (station .exportTie .active).mc.config.role = some .exportTie ∧ (station .exportTie .active).mc.mode ≠ .loading ∧
      (station .exportTie .active).dc.hold = none ∧ (65535 < 65536 ∧ 86399 ≤ 86399 ∧ 86399 < 86400) ∧
      readTime [0, 2, 0, 0, 0, 60, 2] = some (⟨2, 60⟩, .synced) ∧
      readTime [0, 2, 0, 1, 81, 128, 1] = some (⟨2, 86400⟩, .free) ∧
      (station .boiler .active).mc.config.role ≠ some .exportTie ∧
      ({ DayClock.reset with hold := some ⟨⟨5, 3600⟩, ⟨5, 3500⟩⟩ } : DayClock).hold =
        some ⟨⟨5, 3600⟩, ⟨5, 3500⟩⟩ := by decide

theorem meets_LinkAndTimersAct_clock :
    let d : DayClock := { DayClock.reset with syncTimer := some 0, timeTimer := some 0 }
    d.syncTimer = some 0 ∧ d.timeTimer = some 0 ∧ (station .exportTie .active).mc.mode ≠ .standbyDeep ∧
      (station .exportTie .active).liu.tx.length < 4 ∧
      ({ MeteringUnit.reset with holdCheckDue := true } : MeteringUnit).holdCheckDue = true := by decide

/-- An interval opened at an hour's start. -/
def openHour : Interval := ⟨⟨5, 0⟩, 3600, 2, 8, 4, 3, 0, 0, 0, .free, noFlags⟩

def metered (t : Nat) (x : Option HeatSample) : State :=
  atTime 5 t ((station .townheat .active).setMu
    { MeteringUnit.reset with openInterval := some openHour, held := x, fraction := 1000, worksRem := 359999999 })

theorem meets_TownSecondConservesEnergy :
    let s := metered 59 (some ⟨50000, 20000, 0, true⟩)
    s.mc.mode ≠ .loading ∧ s.mc.config.role = some .townheat ∧ s.dc.hold = none ∧ s.dc.pendingStep = none ∧
      (nextSecond s.dc.time).sec % 3600 ≠ 0 ∧ s.mu.openInterval = some openHour ∧ s.mu.fraction ≤ 1000 ∧
      s.mu.worksRem < 360000000 ∧ s.mu.purchRem < 360000000 ∧
      openHour.works + (s.mu.worksRem + 50000 * 20000 * 419) / 360000000 < 2 ^ 32 ∧
      openHour.purchased + (s.mu.purchRem + 50000 * 20000 * 419) / 360000000 < 2 ^ 32 := by decide

/-- With no sample, and with one of the greatest energy. -/
theorem meets_HourBoundaryBillsTheInterval (x : Option HeatSample) (hx : x = none ∨ x = some ⟨50000, 20000, 0, true⟩) :
    let s := metered 3599 x
    s.mc.mode ≠ .loading ∧ s.mc.config.role = some .townheat ∧ s.dc.hold = none ∧ s.dc.pendingStep = none ∧
      (nextSecond s.dc.time).sec % 3600 = 0 ∧ s.mu.openInterval = some openHour ∧ s.mu.fraction ≤ 1000 ∧
      s.mu.worksRem < 360000000 ∧ s.mu.purchRem < 360000000 ∧
      openHour.works + (s.mu.worksRem + 50000 * 20000 * 419) / 360000000 < 2 ^ 32 ∧
      openHour.purchased + (s.mu.purchRem + 50000 * 20000 * 419) / 360000000 < 2 ^ 32 ∧
      secondsFrom openHour.start (nextSecond s.dc.time) = openHour.planned ∧ openHour.planned ≤ 3600 ∧
      s.rs.holdQueue = [] ∧ s.rs.inFlight = false ∧ s.rs.nextSeq + 1 < 2 ^ 32 ∧
      noneLost s.rs := by
  rcases hx with rfl | rfl <;> decide

/-- A period opened at a half hour's start. -/
def openHalf : Period := ⟨⟨5, 1800⟩, 1800, 900, 45000, 0, 0, .free, noFlags⟩

def tied (t : Nat) : State :=
  atTime 5 t ((station .exportTie .active).setTie { TieUnit.reset with openPeriod := some openHalf })

theorem meets_TieSecondCountsAndRecomputesTheGap :
    let s := tied 3598
    s.mc.mode ≠ .loading ∧ s.mc.config.role = some .exportTie ∧ s.dc.hold = none ∧ s.dc.pendingStep = none ∧
      (nextSecond s.dc.time).sec % 1800 ≠ 0 ∧ s.tie.openPeriod = some openHalf ∧
      posNumber (nextSecond s.dc.time) < posNumber openHalf.start + openHalf.planned ∧
      openHalf.energyE < openHalf.energyC := by decide

theorem meets_HalfHourBoundarySettlesThePeriod :
    let s := tied 3599
    (nextSecond s.dc.time).sec % 1800 = 0 ∧ s.tie.openPeriod = some openHalf ∧ openHalf.planned ≤ 1800 ∧
      openHalf.commitment ≤ 20000 ∧ secondsFrom openHalf.start (nextSecond s.dc.time) = openHalf.planned ∧
      -2147483648 ≤ openHalf.energyE - ((openHalf.commitment * openHalf.planned / 36 : Nat) : Int) ∧
      openHalf.energyE ≤ 2147483647 ∧ s.rs.holdQueue = [] ∧ s.rs.nextSeq + 1 < 2 ^ 32 := by decide

theorem meets_MeasuresAreHeldWithinRange_heat :
    (station .townheat .active).mc.mode ≠ .loading ∧
      (station .townheat .active).mc.config.role = some .townheat := by decide

theorem meets_GrantsAndExcessStayWithinSupply :
    let ws : List WantMember := [⟨100, 0, 3, 3⟩, ⟨200, 400, 0, 0⟩]
    (∀ w ∈ ws, w.minClass ≤ 3 ∧ w.headClass ≤ 3) ∧ (walkThrough ws 700 8).short = none ∧
      (walkThrough ws 699 8).short ≠ none := by decide

/-- A CONSUMER alone on its main asks for nothing, so that its minimum grant is not short. -/
theorem meets_ActiveRoundMovesTheSetpoint :
    let s0 := (station .consumer .active).setSe { ShareEngine.reset with roundTimer := some 0, fallback := false }
    let s := s0.setMc { s0.mc with config := { s0.mc.config with min := 0, max := 0 } }
    let w : WantMember := ⟨(effectiveWant s).1, (effectiveWant s).2 - (effectiveWant s).1, 0, 0⟩
    s.se.roundTimer = some 0 ∧ s.mc.mode = .active ∧ severity s ≠ .failed ∧ s.mc.waitingRequest = none ∧
      s.mc.config.role = some .consumer ∧ wantMain s.mc.config = some .m0 ∧ s.liu.tx = [] ∧
      (s.cu.get short0).own = false ∧ (wantClasses s.mc.config) = (0, 0) ∧
      (effectiveWant s).1 ≤ minGrantOf (wantMembers .m0 (snapshot s)) (supply .m0 (snapshot s)) w := by decide

/-- The same with a supply: a producer's offer of 300 SU serves the minimum of 200. -/
theorem meets_ActiveRoundMovesTheSetpoint_supplied :
    let s := withPeer 4 { peer .producer with records := [.offer .m0 300 300 .none] } ((station .consumer .active).setSe
      { ShareEngine.reset with roundTimer := some 0, fallback := false })
    let w : WantMember := ⟨(effectiveWant s).1, (effectiveWant s).2 - (effectiveWant s).1, 0, 0⟩
    (effectiveWant s) = (200, 1000) ∧ supply .m0 (snapshot s) = 300 ∧
      minGrantOf (wantMembers .m0 (snapshot s)) (supply .m0 (snapshot s)) w = 200 ∧
      grantOf (wantMembers .m0 (snapshot s)) (supply .m0 (snapshot s)) w = 300 := by decide

theorem meets_RoundsByModeAndRole_listenIn (k : Nat) (_hk : k = 1 ∨ k = 2) :
    let s := (station .consumer .listenIn).setSe { ShareEngine.reset with roundTimer := some 0, roundCount := k }
    s.se.roundTimer = some 0 ∧ s.mc.mode = .listenIn ∧ (s.se.roundCount < 2 ∨ s.se.roundCount = 2) ∧
      severity s ≠ .failed ∧ State.reset.se.roundTimer ≠ some 0 := by
  rcases _hk with rfl | rfl <;> decide

theorem meets_MeasuresAreHeldWithinRange :
    let p := station .producer .active
    (station .consumer .active).mc.config.role = some .consumer ∧ p.mc.mode ≠ .loading ∧ p.mc.config.main ≠ .m2 ∧
      ({ p.mc.config with main := .m2 } : StationConfig).main = .m2 ∧
      (station .boiler .active).mc.config.role = some .boiler := by decide

/-- A ladder of one step in any state, its line without a member, as the line falls by its one member's RELEASE. -/
def falling (a : Action) (x : LadderState) (s : State) : State :=
  heard [⟨9, .claim, [0, 0]⟩] (withPeer 9 (peer .consumer) (asserted [9] (ladder x 1 (steps [step5 a] s))))

/-- The same ladder with no step taken, as the line rises by a peer's ASSERT. -/
def rising (a : Action) (x : LadderState) (s : State) : State :=
  heard [⟨9, .claim, [0, 1]⟩] (withPeer 9 (peer .consumer) (ladder x 0 (steps [step5 a] s)))

theorem rising_risesAt (a : Action) (x : LadderState) :
    ∃ u, RisesAt .claimDelivered short0 (rising a x (station .boiler .active)) u :=
  ⟨_, rfl, rfl, Or.inr (Or.inl rfl), Or.inl ⟨rfl, show Mode.active ≠ Mode.listenIn by decide⟩, ⟨9, .claim, [0, 1]⟩, [], peer .consumer, rfl, rfl, rfl,
    rfl, rfl⟩

theorem falling_fallsAt (a : Action) (x : LadderState) :
    ∃ u, FallsAt .claimDelivered short0 (falling a x (station .boiler .active)) u :=
  ⟨_, 9, peer .consumer, rfl, rfl, Or.inl ⟨rfl, ⟨9, .claim, [0, 0]⟩, [], rfl, rfl, rfl, rfl, rfl⟩⟩

/-- A LEAVE of the one member, and its removal by age. -/
theorem meets_FallsAt_removals :
    let e := { peer .consumer with age := 81 }
    let s := heard [⟨9, .leave, [1]⟩] (withPeer 9 e (asserted [9] (ladder .top 1 (station .boiler .active))))
    (∃ u, FallsAt .leaveDelivered short0 s u) ∧ ∃ u, FallsAt (.entryGoesAbsent 9) short0 s u := by
  have h : ∀ k : ClaimLine, k ≠ short0 → 9 ∉ ((asserted [9] (station .boiler .active)).cu.get k).sources := by
    rintro ⟨_ | _ | _, _ | _⟩ <;> decide
  exact ⟨⟨_, 9, { peer .consumer with age := 81 }, rfl, rfl, Or.inr ⟨h, by decide, by decide,
      Or.inl ⟨rfl, ⟨9, .leave, [1]⟩, [], rfl, rfl, rfl, rfl⟩⟩⟩,
    ⟨_, 9, { peer .consumer with age := 81 }, rfl, rfl, Or.inr ⟨h, by decide, by decide,
      Or.inr ⟨9, rfl, rfl, by decide, rfl⟩⟩⟩⟩

/-- Steps of every kind are taken from IDLE and from DWELL and UNDO DWELL, and undone from TOP and from both. -/
theorem meets_TakesFrom (a : Action) (x : LadderState) (hx : x = .dwell ∨ x = .undoDwell) :
    (∃ u, TakesFrom .claimDelivered short0 (rising a .idle (station .boiler .active)) u) ∧
      (ladderSteps short0 (rising a .idle (station .boiler .active)))[0]? = some (step5 a) ∧
      ∃ c u, TakesFrom c short0 (asserted [9] (ladder x 0 (steps [step5 a] (station .boiler .active)))) u := by
  refine ⟨(rising_risesAt a .idle).imp fun _ h => Or.inl ⟨h, rfl⟩, rfl, ?_⟩
  rcases hx with rfl | rfl
  · exact ⟨.dwellExpiry short0, _, Or.inr ⟨⟨rfl, Or.inl ⟨rfl, rfl⟩⟩, nofun, rfl⟩⟩
  · exact ⟨.undoDwellExpiry short0, _, Or.inr ⟨⟨rfl, Or.inr ⟨rfl, rfl⟩⟩, nofun, rfl⟩⟩

theorem meets_UndoesFrom (a : Action) (x : LadderState) (hx : x = .dwell ∨ x = .undoDwell) :
    (∃ u, UndoesFrom .claimDelivered short0 (falling a .top (station .boiler .active)) u) ∧
      ((falling a .top (station .boiler .active)).rl.get short0).taken = 0 + 1 ∧
      (ladderSteps short0 (falling a .top (station .boiler .active)))[0]? = some (step5 a) ∧
      ∃ c u, UndoesFrom c short0 (ladder x 1 (steps [step5 a] (station .boiler .active))) u := by
  refine ⟨(falling_fallsAt a .top).imp fun _ h => Or.inl ⟨h, rfl⟩, rfl, rfl, ?_⟩
  rcases hx with rfl | rfl
  · exact ⟨.dwellExpiry short0, _, Or.inr ⟨⟨rfl, Or.inl ⟨rfl, rfl⟩⟩, rfl, rfl⟩⟩
  · exact ⟨.undoDwellExpiry short0, _, Or.inr ⟨⟨rfl, Or.inr ⟨rfl, rfl⟩⟩, rfl, rfl⟩⟩

/-- Ladders in DWELL and UNDO DWELL with their dwell expired, with one step and with none left; and a rise and a fall
handed to a ladder in DWELL. -/
theorem meets_DwellExpiriesMoveTheLadder :
    let one := steps [step5 .none] (station .boiler .active)
    let s := asserted [9] (ladder .dwell 0 one)
    let u := ladder .undoDwell 1 one
    ((rising .none .dwell one).rl.get short0).state ≠ .idle ∧ ((falling .none .dwell one).rl.get short0).state ≠ .top ∧
      (s.rl.get short0).state = .dwell ∧ (s.rl.get short0).dwell = some 0 ∧ (s.cu.get short0).sources ≠ [] ∧
      (ladderSteps short0 s)[(s.rl.get short0).taken]? = some (step5 .none) ∧ (step5 .none).action = .none ∧
      (ladderSteps short0 (ladder .dwell 1 one)).length = ((ladder .dwell 1 one).rl.get short0).taken ∧
      (u.rl.get short0).state = .undoDwell ∧ (u.rl.get short0).dwell = some 0 ∧ (u.cu.get short0).sources = [] ∧
      (u.rl.get short0).taken = 0 + 1 ∧ (ladderSteps short0 u)[0]? = some (step5 .none) ∧
      ((ladder .undoDwell 0 one).rl.get short0).taken = 0 := by decide

theorem meets_StepsActOnTheirBlocks :
    let b := (station .boiler .active).setFu ⟨.gas, some .gas, none, none⟩
    let s := asserted [9] (ladder .dwell 0 (steps [step5 .fuelBackup] b))
    let r := asserted [9] (ladder .dwell 0 (steps [step5 (.raise 20000)] b))
    (s.rl.get short0).state = .dwell ∧ (s.rl.get short0).dwell = some 0 ∧ (s.cu.get short0).sources ≠ [] ∧
      (ladderSteps short0 r)[0]? = some (step5 (.raise 20000)) := by decide

/-- A holder's FLARE STEP and a WAKE, taken and undone, at the ends of the flare's range. -/
theorem meets_StepsActOnTheirBlocks_flare :
    let at_ := fun p => (steps [step5 .flareStep] (station .holder .active)).setHu ⟨950, .high, none, some p, none, []⟩
    let u := ladder .dwell 1 (at_ 1)
    ((asserted [9] (ladder .dwell 0 (at_ 3))).cu.get short0).sources ≠ [] ∧ (at_ 3).hu.position.getD 0 = 3 ∧
      (at_ 4).hu.position = some 4 ∧ (u.cu.get short0).sources = [] ∧ (u.rl.get short0).taken = 0 + 1 ∧
      (ladderSteps short0 u)[0]? = some (step5 .flareStep) ∧ u.hu.position = some 1 ∧ u.hu.band ≠ .flare ∧
      (at_ 0).hu.position.getD 0 = 0 ∧ u.hu.move = none ∧ u.hu.waiting = [] ∧
      (ladderSteps short0 (steps [step5 (.wake .boiler)] u))[0]? = some (step5 (.wake .boiler)) ∧
      u.liu.tx.length < 4 ∧ (some ⟨1, none, 60⟩ : Option FlareMove) ≠ none := by decide

/-- A take of FUEL BACKUP and an undo of it: settled on the fuel asked for, on the other, and with a changeover
either way, with and without a recorded target. -/
theorem meets_FuelStepsAskTheFuelUnit :
    let b := fun f => (steps [step5 .fuelBackup] (station .boiler .active)).setFu f
    let s := asserted [9] (ladder .dwell 0 (b ⟨.gas, some .gas, none, none⟩))
    let u := ladder .dwell 1 (b ⟨.backup, some .backup, none, none⟩)
    let c : Changeover := ⟨.backup, 300, [surplus0]⟩
    (s.rl.get short0).state = .dwell ∧ (s.rl.get short0).dwell = some 0 ∧ (s.cu.get short0).sources ≠ [] ∧
      (ladderSteps short0 s)[(s.rl.get short0).taken]? = some (step5 .fuelBackup) ∧
      s.fu.flight = none ∧ s.fu.mode ≠ settledMode .backup ∧ u.fu.mode ≠ settledMode .gas ∧
      s.fu.mode = settledMode .gas ∧ (u.cu.get short0).sources = [] ∧ (u.rl.get short0).taken = 0 + 1 ∧
      (ladderSteps short0 u)[0]? = some (step5 .fuelBackup) ∧
      (b ⟨.toBackup, some .gas, some c, none⟩).fu.flight = some c ∧ c.target = .backup ∧ c.target ≠ .gas ∧
      (b ⟨.toBackup, some .gas, some c, some ⟨.gas, [surplus0]⟩⟩).fu.recorded = some ⟨.gas, [surplus0]⟩ := by decide

theorem meets_FuelStatusReportsTheFuel :
    let s := station .boiler .active
    let c : Changeover := ⟨.backup, 300, [short0]⟩
    s.mc.mode ≠ .loading ∧ s.mc.config.role = some .boiler ∧ s.fu.flight = none ∧
      (s.setFu ⟨.toBackup, some .gas, some c, none⟩).fu.flight = some c ∧ c.target ≠ .gas ∧
      (s.setFu ⟨.toBackup, some .gas, some c, some ⟨.gas, [surplus0]⟩⟩).fu.recorded = some ⟨.gas, [surplus0]⟩ ∧
      ((ladder .stepping 1 s).rl.get short0).state = .stepping := by decide

theorem meets_ChangeoverTimesOut :
    let c : Changeover := ⟨.backup, 0, [short0]⟩
    let s := ladder .stepping 1 ((station .boiler .active).setFu ⟨.toBackup, some .gas, some c, some ⟨.gas, [surplus0]⟩⟩)
    s.fu.flight = some c ∧ c.timer = 0 ∧ s.fu.recorded = some ⟨.gas, [surplus0]⟩ ∧
      FuelMode.gas = settledMode .gas ∧ FuelMode.unknown ≠ settledMode .gas ∧ short0 ∈ c.joined ∧
      short0 ∉ [surplus0] ∧ (s.rl.get short0).state = .stepping ∧ surplus0 ∉ c.joined := by decide

theorem meets_LimitsFollowTheBand :
    faultPresent .levelLost State.reset.mc.faults = false ∧ State.reset.hu.band = .none ∧
      faultPresent .levelLost [⟨.levelLost, ⟨0, 0⟩⟩] = true := by decide

/-- At a first sample, at a boundary plus 20 and a boundary less 21. -/
theorem meets_LevelSampleBandsTheHolder :
    let s := station .holder .active
    let n := s.setHu ⟨500, .normal, some 0, none, none, []⟩
    s.mc.mode ≠ .loading ∧ s.mc.config.role = some .holder ∧ s.hu.band = .none ∧ n.hu.band ≠ .none ∧
      bandCode n.hu.band < bandCode .high ∧ lowerBoundary s.mc.config .high + 20 ≤ 720 ∧
      279 + 20 < lowerBoundary s.mc.config .normal ∧ n.hu.levelTimer = some 0 ∧ n.mc.faults.length < 8 := by decide

theorem meets_FlareMovesEnd :
    let s := station .holder .active
    let m : FlareMove := ⟨4, some ⟨surplus0, false⟩, 0⟩
    let f := s.setHu ⟨950, .high, none, some 3, some m, []⟩
    s.mc.mode ≠ .loading ∧ s.mc.config.role = some .holder ∧ s.mc.config.main ≠ .m2 ∧ f.hu.band ≠ .flare ∧
      f.hu.move = some m ∧ Nat.min 5 4 = m.target ∧ f.hu.waiting = [] ∧ Nat.min 3 4 ≠ m.target ∧ m.timer = 0 ∧
      (s.setHu ⟨950, .flare, none, some (0 + 1), none, []⟩).hu.position = some (0 + 1) := by decide

theorem meets_ScheduleAndEnergyAreTaken :
    let s := atTime 65535 86399 (station .exportTie .active)
    (List.replicate 48 20001).length = 48 ∧ s.mc.config.role = some .exportTie ∧ s.mc.mode ≠ .loading ∧
      s.tie.slotA = none ∧ (0 : Nat) = (s.dc.time.day + 1) % 65536 ∧ (65535 : Nat) = s.dc.time.day ∧
      (1 : Nat) ≠ s.dc.time.day ∧ (1 : Nat) ≠ (s.dc.time.day + 1) % 65536 ∧
      (tied 1800).tie.openPeriod = some openHalf ∧ openHalf.energyE + 32767 ≤ 2147483647 ∧
      s.tie.openPeriod = none := by decide

/-- A commit in flight with one record, and with two, in LEAVING with the ready timer running. -/
theorem meets_CommitEndKeepsOrRetries :
    let r : StoreRecord := .bill ⟨1, ⟨0, 0⟩, 3600, 0, .free, 0, 0, 0, 0, 0, 0, noFlags⟩
    let s := (station .townheat .leaving).setRs { RecordUnit.blank with holdQueue := [r], inFlight := true, nextSeq := 2 }
    s.rs.inFlight = true ∧ s.rs.holdQueue = r :: [] ∧ s.mc.mode = .leaving ∧
      ({ s.mc with readyTimer := some 0 } : ModeController).readyTimer ≠ none ∧ s.mc.readyTimer = none := by decide

/-- A store of one record, number 5: READs for 4, 5 and 6, and one with the record held in flight. -/
theorem meets_ReadsAreTakenAndServed :
    let r : StoreRecord := .bill ⟨5, ⟨0, 0⟩, 3600, 0, .free, 0, 0, 0, 0, 0, 0, noFlags⟩
    let s := (station .townheat .active).setRs { RecordUnit.blank with slots := [(4, r)], newest := 5, nextSeq := 6 }
    let h := (station .townheat .active).setRs { RecordUnit.blank with holdQueue := [r], inFlight := true, nextSeq := 6 }
    s.rs.slotA = none ∧ keptKind s.mc.config = some .bill ∧ recordKindCode .bill = 1 ∧
      oldestRetained s.rs = some 5 ∧ 4 < 5 ∧ (5 ∈ retainedNumbers s.rs ++ heldNumbers s.rs) ∧
      (∀ n ∈ retainedNumbers s.rs ++ heldNumbers s.rs, n < 6) ∧ oldestRetained h.rs = none ∧
      5 ∈ heldNumbers h.rs ∧ h.rs.inFlight = true ∧ at1 [0, 1, 0, 0, 0, 5, 4] 0 = s.mc.node.val ∧
      at4 [0, 1, 0, 0, 0, 5, 4] 2 = 5 ∧ s.mc.mode ≠ .listenOnly := by decide

theorem meets_ReadsAreTakenAndServed_placed :
    let b : BillRecord := ⟨5, ⟨0, 0⟩, 3600, 0, .free, 0, 0, 0, 0, 0, 0, noFlags⟩
    let sl : ReadSlot := ⟨5, 1, .ok, false, false, none, 0⟩
    let s := (station .townheat .active).setRs
      { RecordUnit.blank with slots := [(4, .bill b)], newest := 5, nextSeq := 6, slotA := some sl }
    getSlot .a s.rs = some sl ∧ sl.waiting = false ∧ sl.inQueue = false ∧ s.liu.tx.length < 3 ∧
      (∀ e ∈ s.liu.tx, bodyKind e.body ≠ .record) ∧ s.mc.mode ≠ .loading ∧ s.mc.mode ≠ .standbyDeep ∧
      sl.status ≠ .none ∧ sl.next ∈ retainedNumbers s.rs ++ heldNumbers s.rs ∧ keptKind s.mc.config = some .bill ∧
      servedRecord sl.next s.rs = some (.bill b) ∧ ({ sl with status := .none } : ReadSlot).status = .none ∧
      ({ sl with waiting := true } : ReadSlot).waiting = true := by decide

theorem meets_LinkAndTimersAct :
    let s := (station .consumer .active).setFp ⟨.up, some 0, some 0, []⟩
    let l := State.reset.setMc { State.reset.mc with mode := .listenOnly, helloTimer := some 0 }
    s.mc.mode ≠ .loading ∧ s.fp.linkTimer = some 0 ∧ s.fp.link = .up ∧ s.mc.faults.length < 8 ∧
      s.fp.statusTimer = some 0 ∧ severity s ≠ .failed ∧ wantMain s.mc.config = some .m0 ∧
      l.mc.helloTimer = some 0 ∧ l.mc.mode = .listenOnly ∧ l.liu.tx.length < 4 := by decide

theorem meets_StandbyRequestsWaitAndTakeEffect_request :
    let s := station .boiler .standbyListen
    s.mc.config.role = some .boiler ∧ s.mc.mode ≠ .loading ∧ s.mc.mode ≠ .listenOnly := by decide

theorem meets_StandbyRequestsWaitAndTakeEffect :
    let s0 := (station .boiler .active).setSe { ShareEngine.reset with roundTimer := some 0 }
    let s := fun l => s0.setMc { s0.mc with waitingRequest := some ⟨l, true⟩ }
    (s .deep).se.roundTimer = some 0 ∧ (s .deep).mc.mode = .active ∧
      (s .deep).mc.waitingRequest = some ⟨.deep, true⟩ ∧ (s .listen).mc.waitingRequest = some ⟨.listen, true⟩ ∧
      (∀ e ∈ (s .deep).liu.tx, e.sending = none) ∧ (s .listen).mc.latch = ⟨false, false, Six.all false⟩ := by decide

/-- A STATE being sent and a CLAIM waiting as STANDBY-DEEP takes effect: the STATE runs to its end, the LEAVE
stands behind it. -/
theorem test_standby_deep_keeps_the_entry_being_sent :
    let e := sends (.state .boiler 10 [] none) 3
    let s0 := queued [waits (.claim short0 .assert), e]
      ((station .boiler .active).setSe { ShareEngine.reset with roundTimer := some 0 })
    let s := s0.setMc { s0.mc with waitingRequest := some ⟨.deep, true⟩ }
    (∀ x ∈ [waits (.claim short0 .assert)] ++ [], x.sending = none) ∧ e.sending ≠ none ∧
      (after .roundExpiry s).liu.tx = [{ e with noRetry := true }, waits (.leave .deepStandby)] := by decide

theorem meets_WakeCausesLatchAndWake :
    let f : Frame := ⟨9, .wake, [2, 2, 0]⟩
    let s := fun m => heard [f] (station .boiler m)
    (s .leaving).mc.config.role = some .boiler ∧ (s .leaving).mc.mode = .leaving ∧
      (s .leaving).liu.rx = f :: [] ∧ f.kind = .wake ∧ wakeMatches f.payload (s .leaving) = true ∧
      (s .standbyListen).mc.mode = .standbyListen ∧ (s .standbyDeep).mc.mode = .standbyDeep ∧
      (s .standbyDeep).liu.tx = [] := by decide

theorem meets_ResetWarningLeavesAndReturns :
    let s := station .boiler .standbyDeep
    s.mc.mode ∈ [Mode.listenIn, .active, .standbyListen, .standbyDeep] ∧ keptKind s.mc.config = none ∧
      s.liu.tx = [] ∧ s.rs.holdQueue = [] ∧
      (station .boiler .leaving).mc.mode = .leaving ∧
      ({ State.reset.mc with mode := .listenOnly } : ModeController).mode = .listenOnly := by decide

theorem meets_ResetWarningLeavesAndReturns_returns :
    let s := (station .boiler .leaving).setMc { (station .boiler .leaving).mc with returnTimer := some 0 }
    s.mc.returnTimer = some 0 ∧ s.mc.mode = .leaving ∧ s.mc.config.role = some .boiler ∧ Role.boiler ≠ .holder ∧
      s.liu.tx = [] ∧ ({ s.mc with readyTimer := some 0 } : ModeController).readyTimer = some 0 ∧
      ({ s.mc with mode := .listenOnly } : ModeController).mode ≠ .leaving := by decide

theorem meets_SupplyLowClosesAndOpens :
    let s := tied 3600
    let t := (metered 3600 none)
    (keptKind (station .boiler .active).mc.config = none ∧ State.reset.mc.mode = .loading) ∧
      (s.mc.mode ≠ .loading ∧ s.mc.supplyLow = false ∧ s.rs.holdQueue = [] ∧ s.rs.inFlight = false ∧
        noneLost s.rs ∧ s.rs.nextSeq + 1 < 2 ^ 32 ∧
        s.mc.config.role = some .exportTie ∧ s.tie.openPeriod = some openHalf ∧
        secondsFrom openHalf.start s.dc.time ≤ 1800) ∧
      (t.mc.config.role = some .townheat ∧ t.mu.openInterval = some openHour ∧
        secondsFrom openHour.start t.dc.time ≤ 3600) ∧
      (station .exportTie .active).tie.openPeriod = none ∧ (station .townheat .active).mu.openInterval = none := by
  decide

theorem meets_WellFormedCommandsGoOn :
    (Instr.schedule 65535 (List.replicate 48 0)).wellFormed = true ∧
      (Instr.schedule 65535 (List.replicate 49 0)).wellFormed = false ∧ queueWellFormed State.reset := by
  refine ⟨by decide, by decide, ?_⟩
  intro c h; exact absurd h (by simp [State.reset])

/-- The premises of the invariants: a step that answers a next state from one that keeps the bounds. -/
theorem meets_QueuesStayBounded :
    QueuesBounded State.reset ∧ step State.reset = .next State.reset := by
  refine ⟨⟨?_, ?_, ?_, ?_, ?_, ?_⟩, rfl⟩ <;> decide

theorem meets_FuelAndLaddersStayLawful :
    FuelLaw ((station .boiler .active).setFu ⟨.toBackup, some .gas, some ⟨.backup, 300, []⟩, some ⟨.gas, [short0]⟩⟩) ∧
      LadderLaw (station .boiler .active) := by
  refine ⟨⟨?_, ?_⟩, ⟨?_, ?_, ?_, ?_⟩⟩
  · intro f; cases f <;> simp [toMode, State.setFu]
  · intro r h; injection h with h; subst h; exact ⟨_, rfl, by decide⟩
  all_goals simp only [station, State.reset, Ladder.reset]
  · intro l; rcases l with ⟨_ | _ | _, _ | _⟩ <;> decide
  · intro l; rcases l with ⟨_ | _ | _, _ | _⟩ <;> decide
  · intro l; rcases l with ⟨_ | _ | _, _ | _⟩ <;> decide
  · intro h; exact absurd h (by decide)

theorem meets_ClaimsStayBacked : ClaimLaw (withPeer 9 (peer .consumer) (asserted [9] (station .boiler .active))) := by
  refine ⟨?_, ?_, by decide, by decide, fun h => absurd h (by decide)⟩
  · intro l n; rcases l with ⟨_ | _ | _, _ | _⟩ <;> simp [asserted, station, State.reset, Six.all, setLine, withPeer,
      State.setCu, State.setPeers, Six.get, Six.set, short0, LineState.reset, assocPut, assocGet]
    intro h; subst h; simp
  · intro l; rcases l with ⟨_ | _ | _, _ | _⟩ <;> decide

theorem meets_OutputStaysWithinTheGrant :
    ShareLaw ((station .consumer .active).setSe { ShareEngine.reset with fallback := false, setpoint := 150, grant := 200 }) := by
  refine ⟨?_, ?_, ?_, ?_, ?_, ?_, ?_⟩ <;> decide

theorem meets_ClockStaysWithinRange : ClockLaw (tied 86399) := by
  refine ⟨⟨by decide, by decide⟩, ?_, ?_, ?_, by decide, by decide, by decide, ?_, ?_⟩
  · intro q h; cases h
  · intro q h; cases h
  · intro q h; cases h
  · intro p h; injection h with h; subst h; exact ⟨by decide, by decide⟩
  · intro i h; cases h

theorem meets_TablesStayCanonical : TablesCanonical (withPeer 31 (peer .consumer) (station .boiler .active)) := by
  refine ⟨?_, by decide, by decide, by decide, ?_, ?_, by decide, by decide, by decide, by decide, by decide,
    fun _ => rfl, fun _ => rfl⟩
  · simp [risingKeys, withPeer, station, State.reset, State.setPeers, assocPut]
  · intro l; rcases l with ⟨_ | _ | _, _ | _⟩ <;> simp [risingKeys, withPeer, station, State.reset, State.setPeers, Six.all, Six.get, LineState.reset]
  · simp [risingKeys, withPeer, station, State.reset, State.setPeers, RecordUnit.blank]

/-! ### Witnesses of the statements on loads, queues, spans and reports -/

theorem meets_ImageChecksAndClamps :
    List.Forall₂ (fun (b : List Byte) n => b.length = 0 ∨ b.length = n) [List.replicate 9 0, [], [], [], [], [], [0, 50]]
        [9, 29, 4, 132, 1, 24, 2] ∧
      State.reset.mc.mode = .loading ∧ (none : Option (List Byte)).bind rawImage = none ∧
      ((some turbineImage).bind rawImage).isSome = true := by
  refine ⟨by simp, by decide, by decide, by decide +kernel⟩

/-- An image of an EXPORT TIE at node 3, and a station that resets in a period. -/
def tieBody : List Byte :=
  [1, 9, 3, 6, 5, 0, 100, 0, 50, 0, 0] ++ [2, 0, 3, 0, 4, 0, 5, 0, 6, 0] ++ [7, 2, 0, 50]
def tieImage : List Byte := tieBody ++ byte2 (crc16 tieBody)
def tieLoading (now : Nat) (tag : Option Nat) : State :=
  let s := atTime 5 now (tied 2000)
  { s with
    mc := { s.mc with mode := .loading, cause := .pin, rememberedTag := tag }
    dc := { s.dc with resetTime := ⟨5, 2000⟩ } }

/-- A power-on load, the first hand-over still to come. -/
theorem meets_UnitsStartAtTheEndOfLoading_powerOn :
    (rawImage tieImage).map (outcomeOf 3) = some .ok ∧ (rawImage tieImage).map imageRole = some (some .exportTie) ∧
      State.reset.mc.mode = .loading ∧ State.reset.mc.cause = .powerOn ∧ State.reset.mc.supplyLow = false ∧
      State.reset.rs.firstHandOver = true ∧ State.reset.rs.holdQueue = [] := by decide +kernel

/-- Kept over a pin reset after a power-on, the numbers before the next one lost; and a held record. -/
theorem meets_UnitsStartAtTheEndOfLoading_lost :
    let s := (tieLoading 3600 (some (crc16 tieBody))).setRs { RecordUnit.blank with nextSeq := 3 }
    ¬noneLost s.rs ∧ s.rs.holdQueue = [] ∧ s.rs.inFlight = false ∧ s.rs.nextSeq + 1 < 2 ^ 32 ∧
      s.mc.cause ≠ .powerOn ∧ s.tie.openPeriod = some openHalf := by decide +kernel

/-- Before the end of the kept period and at it, with an unchanged and a changed tag. -/
theorem meets_UnitsStartAtTheEndOfLoading :
    let s := tieLoading 3599 (some (crc16 tieBody))
    (rawImage tieImage).map (outcomeOf 3) = some .ok ∧ (rawImage tieImage).map imageRole = some (some .exportTie) ∧
      (rawImage tieImage).map RawImage.computed = s.mc.rememberedTag ∧ s.mc.mode = .loading ∧
      s.mc.cause ≠ .powerOn ∧ s.mc.supplyLow = false ∧ s.rs.holdQueue = [] ∧ s.rs.inFlight = false ∧
      noneLost s.rs ∧ s.rs.nextSeq + 1 < 2 ^ 32 ∧ s.tie.openPeriod = some openHalf ∧
      secondsFrom s.dc.resetTime s.dc.time < posNumber openHalf.start + openHalf.planned - posNumber s.dc.resetTime ∧
      posNumber openHalf.start + openHalf.planned - posNumber s.dc.resetTime ≤
        secondsFrom s.dc.resetTime (tieLoading 3600 none).dc.time := by decide +kernel

/-- At a changed tag the metering state that no role of the new image uses is cleared too. -/
theorem test_changed_tag_clears_both_units :
    let s := tieLoading 2100 none
    (after (.loadComplete 3 (some tieImage)) (s.setMu { s.mu with worksRem := 5, openInterval := some openHour })).mu =
      MeteringUnit.reset := by decide +kernel

/-- A full queue of a RECORD, a HELLO and two STATEs, one of them being sent. -/
theorem meets_EnqueueReplacesPlacesOrDrops :
    let st := TxBody.state .boiler 10 [] none
    let q := [waits (.record .busy 0 [] none), sends st 0, waits (.hello none 0 0 0), waits st]
    let s := queued q (station .boiler .active)
    let c := queued [waits (.claim short0 .assert)] (station .boiler .active)
    s.mc.mode ∈ [Mode.listenOnly, .listenIn, .active, .standbyListen] ∧ s.liu.tx.length = 4 ∧
      s.liu.tx = [waits (.record .busy 0 [] none), sends st 0, waits (.hello none 0 0 0)] ++ waits st :: [] ∧
      (∀ x ∈ [waits (.record .busy 0 [] none), sends st 0, waits (.hello none 0 0 0)], x.sending = none →
        bodyKind x.body ≠ .record → precedence x.body < precedence st) ∧
      precedence (.leave .deepStandby) ≤ precedence st ∧
      enqueue (.leave .deepStandby) s = queued
        [waits (.record .busy 0 [] none), sends st 0, waits (.hello none 0 0 0), waits (.leave .deepStandby)]
        (station .boiler .active) ∧
      (∀ x ∈ (queued [waits (.leave .deepStandby), waits (.leave .deepStandby), waits (.leave .deepStandby),
        waits (.leave .deepStandby)] s).liu.tx, precedence x.body < precedence st) ∧
      Edge.release = c.liu.lastEdge.get short0 ∧ Edge.assert ≠ c.liu.lastEdge.get short0 ∧
      c.liu.tx = [] ++ waits (.claim short0 .assert) :: [] := by decide

/-- A time after the open half hour and hour, and one within them. -/
theorem meets_TimeStepsAreAccounted :
    let d : DayClock := { (tied 2000).dc with pendingStep := some ⟨6, 7300⟩, spanStart := some openHalf.start }
    let s := (tied 2000).setRs RecordUnit.blank
    s.mc.mode ≠ .loading ∧ d.hold = none ∧ posNumber openHalf.start ≤ posNumber ⟨6, 7300⟩ ∧ s.rs.holdQueue = [] ∧
      s.rs.inFlight = false ∧ noneLost s.rs ∧ s.rs.nextSeq + 1 < 2 ^ 32 ∧
      (nextSecond ⟨6, 7300⟩).sec % 1800 ≠ 0 ∧ (nextSecond ⟨6, 7300⟩).sec % 3600 ≠ 0 ∧
      posNumber openHalf.start + openHalf.planned ≤ posNumber ⟨6, 7300⟩ ∧
      posNumber ⟨5, 3599⟩ < posNumber openHalf.start + openHalf.planned ∧
      posNumber openHour.start + openHour.planned ≤ posNumber ⟨5, 3600⟩ ∧
      (metered 2000 none).mu.openInterval = some openHour ∧ (metered 2000 none).mu.held = none ∧
      (metered 2000 none).mu.worksRem < 360000000 := by decide

/-- A consumer with a RAISE standing, one with a SHED, and one without want. -/
theorem meets_WantAndOfferFollowTheirRules :
    let s := fun xs => ladder .dwell 1 (steps xs (station .consumer .active))
    wantMain (s []).mc.config = some .m0 ∧ effectiveWant (s [step5 (.raise 19001)]) = (200, 20000) ∧
      effectiveWant (s [step5 .shed]) = (200, 200) ∧ effectiveWant (s [step5 .none]) = (200, 1000) ∧
      (station .boiler .standbyDeep).mc.mode = .standbyDeep ∧ (station .boiler .active).fu.mode = .unknown := by
  decide

theorem meets_RoundsByModeAndRole (r : Role) (hr : r ∈ [Role.producer, .holder, .exportTie]) :
    let s := (station r .active).setSe { ShareEngine.reset with roundTimer := some 0 }
    let f := (station .consumer .active).setMc
      { (station .consumer .active).mc with faults := [⟨.fieldLinkLost, ⟨0, 0⟩⟩] }
    s.se.roundTimer = some 0 ∧ s.mc.mode = .active ∧ severity s ≠ .failed ∧ s.mc.waitingRequest = none ∧
      s.mc.config.role = some r ∧ s.liu.tx = [] ∧ severity f = .failed ∧
      (r = .producer → (0 < (mainResult s.mc.config.main (snapshot s)).excess ↔
        (s.cu.get ⟨s.mc.config.main, .surplus⟩).own = true)) := by
  simp only [List.mem_cons, List.not_mem_nil, or_false] at hr
  rcases hr with rfl | rfl | rfl <;> decide

/-- A consumer short of its minimum, one supplied, and a producer with excess, at the counters' ends. -/
theorem meets_OwnClaimsAtARound :
    let s := (station .consumer .active).setSe { ShareEngine.reset with roundTimer := some 0, shortfallCount := 1 }
    let p := (station .producer .active).setSe
      { ShareEngine.reset with roundTimer := some 0, excessCount := 1, measured := some 50 }
    let supplied := withPeer 4 { peer .producer with records := [.offer .m0 300 300 .none] } s
    s.se.roundTimer = some 0 ∧ s.mc.mode = .active ∧ s.mc.waitingRequest = none ∧
      wantMain s.mc.config = some .m0 ∧ s.liu.tx = [] ∧
      minGrantOf (wantMembers .m0 (snapshot s)) (supply .m0 (snapshot s)) ⟨200, 800, 0, 0⟩ < (effectiveWant s).1 ∧
      (effectiveWant supplied).1 ≤
        minGrantOf (wantMembers .m0 (snapshot supplied)) (supply .m0 (snapshot supplied)) ⟨200, 800, 0, 0⟩ ∧
      ((setLine short0 ⟨true, [0], false⟩ supplied).cu.get short0).own = true ∧ 1 ≤ s.se.shortfallCount ∧
      0 < (mainResult .m0 (snapshot p)).excess ∧ (p.cu.get surplus0).own = false ∧ 1 ≤ p.se.excessCount ∧
      (mainResult .m0 (snapshot (p.setSe { p.se with measured := some 0 }))).excess = 0 := by decide

/-- A HIGH holder at a level that enters FLARE, and moves in flight with requests waiting. -/
theorem meets_FlareFloorAndWaitingRequests :
    let c := (setLine surplus0 ⟨true, [0], false⟩ (station .holder .active))
    let s := c.setHu ⟨850, .high, none, none, none, []⟩
    let m : FlareMove := ⟨0, some ⟨surplus0, true⟩, 9⟩
    let w := c.setHu ⟨850, .high, none, some 1, some ⟨4, none, 9⟩, [⟨surplus0, false⟩]⟩
    s.mc.mode ≠ .loading ∧ s.mc.config.role = some .holder ∧ s.mc.config.main ≠ .m2 ∧ s.hu.band = .high ∧
      s.mc.config.t4 + 20 ≤ Nat.min 920 1000 ∧ (s.cu.get ⟨s.mc.config.main, .surplus⟩).own = true ∧
      (s.cu.get ⟨s.mc.config.main, .shortfall⟩).own = false ∧ s.hu.position.getD 0 = 0 ∧
      (c.setHu ⟨850, .high, none, some 1, some m, []⟩).hu.move = some m ∧ m.target = 0 ∧
      w.hu.move = some ⟨4, none, 9⟩ ∧ w.hu.waiting = ⟨surplus0, false⟩ :: [] ∧ w.hu.band ≠ .flare ∧ (3 : Nat) < 4 := by
  decide

/-- A record of a number, with or without POWER FAIL. -/
def bill (n : Nat) (pf : Bool) : StoreRecord :=
  .bill ⟨n, ⟨0, 0⟩, 3600, 0, .free, 0, 0, 0, 0, 0, 0, { noFlags with powerFail := pf }⟩

/-- A full queue in flight drops record 6, the waiting one of least number. -/
theorem meets_HandOversQueueAndDrop :
    let q := [bill 5 false] ++ [bill 7 true, bill 6 false, bill 8 false]
    let s := (station .townheat .active).setRs { RecordUnit.blank with holdQueue := q, inFlight := true, nextSeq := 9 }
    s.rs.nextSeq + 1 < 2 ^ 32 ∧ 4 ≤ s.rs.holdQueue.length ∧ [bill 5 false].length = (if s.rs.inFlight then 1 else 0) ∧
      [bill 7 true, bill 6 false, bill 8 false] = [bill 7 true] ++ bill 6 false :: [bill 8 false] ∧
      (handOver (bill 0 true) s).rs.holdQueue =
        [bill 5 false, bill 7 true, withGap (bill 9 true), bill 8 false] ∧
      (∃ k ∈ [1, 2, 3, 4], k < s.rs.nextSeq ∧ s.rs.nextSeq - k ∉ retainedNumbers s.rs) ∧
      (tied 2000).mc.supplyLow = false ∧ (tied 2000).tie.openPeriod = some openHalf := by decide

theorem meets_NodeStatusShowsTheBlocks :
    ((station .exportTie .leaving).setFp ⟨.up, none, some 0, []⟩).fp.statusTimer = some 0 ∧
      (tied 2000).tie.openPeriod = some openHalf := by decide

theorem meets_ResetWarningClosesShort :
    let s := (tied 3600).setRs RecordUnit.blank
    s.mc.mode ∈ [Mode.listenIn, .active, .standbyListen, .standbyDeep] ∧ s.rs.holdQueue = [] ∧
      s.rs.inFlight = false ∧ noneLost s.rs ∧ s.rs.nextSeq + 1 < 2 ^ 32 ∧
      s.tie.openPeriod = some openHalf ∧ secondsFrom openHalf.start s.dc.time ≤ 1800 ∧
      (metered 3600 none).mu.openInterval = some openHour ∧
      secondsFrom openHour.start (metered 3600 none).dc.time ≤ 3600 ∧
      (station .exportTie .active).tie.openPeriod = none := by decide

/-! ### The own entry and the fall to LEAVING -/

/-- R19, R20: in LISTEN-ONLY the own entry stands with role UNCONFIGURED and no records; in LOADING it is ABSENT. -/
theorem test_own_entry_in_listen_only :
    (ownEntry (after (.loadComplete 3 none) State.reset)).map (fun e => (e.role, e.records)) = some (none, []) ∧
      ownEntry State.reset = none := by decide

/-- R23, R183: a STATE whose one record is discarded leaves its entry no mains. -/
theorem test_discarded_records_leave_no_mains :
    let s := heard [⟨9, .state, [3, 5, 1, 0, 0, 1, 9, 0, 0, 0, 0, 0, 0, 0, 0]⟩]
      (withPeer 9 (peer .consumer) (station .boiler .active))
    ((assocGet 9 (after .stateDelivered s).peers).map PeerEntry.mains) = some ⟨false, false, false⟩ := by decide

/-- R30: a STATE of an EXPORT TIE that carries an OFFER leaves its entry no main record. -/
theorem test_tie_state_leaves_no_records :
    let f : Frame := ⟨9, .state, [6, 5, 1, 0, 0, 1, 1, 0, 0, 100, 0, 0, 0, 0, 0, 0, 0, 0, 0]⟩
    (readState f.payload).map (fun x => (x.role, x.records.length)) = some (.exportTie, 1) ∧
      (assocGet 9 (after .stateDelivered (heard [f] (station .boiler .active))).peers).map PeerEntry.records =
        some [] := by decide

/-- R48, R52: a RAISE undone by the releases of LEAVING sends no SETPOINT but the fallback value. -/
theorem test_leaving_sends_the_fallback_setpoint_alone :
    let s := setLine short0 ⟨true, [0], false⟩ (ladder .top 1 (steps [step5 (.raise 500)] ((station .consumer .active).setSe
      { ShareEngine.reset with fallback := false, grant := 1500, setpoint := 1500 })))
    ((after .resetWarning s).fp.out.filter fun m => match m with | .setpoint _ _ => true | _ => false) =
      [.setpoint .m0 0] := by decide

/-! ### Witnesses of the clauses on other modes, undone steps, reports and the start under SUPPLY LOW -/

/-- A round of LISTEN-IN and of STANDBY-LISTEN at a count that requests a STATE there and one that does not. -/
theorem meets_RoundsByModeAndRole_fallback (m : Mode) (hm : m = .listenIn ∨ m = .standbyListen) (k : Nat)
    (hk : k = 0 ∨ k = 1) :
    let s := (station .boiler m).setSe { ShareEngine.reset with roundTimer := some 0, roundCount := k }
    s.se.roundTimer = some 0 ∧ (s.mc.mode = .listenIn ∧ s.se.roundCount < 2 ∨
      s.mc.mode = .standbyListen ∧ s.mc.waitingRequest = none) ∧ s.mc.config.role = some .boiler ∧ s.liu.tx = [] ∧
      wantMain s.mc.config ≠ none := by
  rcases hm with rfl | rfl <;> rcases hk with rfl | rfl <;> decide

/-- R54: STANDBY-LISTEN requests a STATE at its round 1 and none at its round 2. -/
theorem test_standby_rounds_request_every_fourth_state :
    let s := fun k => (station .boiler .standbyListen).setSe
      { ShareEngine.reset with roundTimer := some 0, roundCount := k }
    ((after .roundExpiry (s 0)).liu.tx.map fun e => bodyKind e.body) = [.state] ∧
      (after .roundExpiry (s 1)).liu.tx = [] := by decide

/-- Undoes in flight that a changeover timeout, a changeover's recorded target and a flare move end. -/
theorem meets_ChangeoverTimesOut_undone :
    let c : Changeover := ⟨.gas, 0, [short0]⟩
    let s := ladder .undoInFlight 1 ((station .boiler .active).setFu ⟨.toGas, some .backup, some c, none⟩)
    let r := ladder .undoInFlight 1 ((station .boiler .active).setFu
      ⟨.toBackup, some .gas, some ⟨.backup, 0, []⟩, some ⟨.gas, [short0]⟩⟩)
    s.fu.flight = some c ∧ c.timer = 0 ∧ s.fu.recorded = none ∧ short0 ∈ c.joined ∧
      (s.rl.get short0).state = .undoInFlight ∧
      r.fu.recorded = some ⟨.gas, [short0]⟩ ∧ FuelMode.gas = settledMode .gas ∧
      (r.rl.get short0).state = .undoInFlight := by decide

theorem meets_FlareMovesEnd_undone :
    let m : FlareMove := ⟨0, some ⟨short0, true⟩, 0⟩
    let s := ladder .undoInFlight 1 ((station .holder .active).setHu ⟨500, .normal, none, some 2, some m, []⟩)
    s.mc.mode ≠ .loading ∧ s.mc.config.role = some .holder ∧ s.mc.config.main ≠ .m2 ∧ s.hu.band ≠ .flare ∧
      s.hu.move = some m ∧ Nat.min 0 4 = m.target ∧ s.hu.waiting = [] ∧ m.timer = 0 ∧
      (s.rl.get short0).state = .undoInFlight ∧
      ((after (.flareStatus 0) s).rl.get short0).state = .undoDwell ∧
      ((after .flareTimeout s).rl.get short0).outcome = some .timedOut := by decide

/-- A reverse second, and one with no sample, in an interval whose missing count stands at its end. -/
theorem meets_TownSecondConservesEnergy_counts :
    let s := metered 60 (some ⟨100, 300, 300, false⟩)
    let n := (metered 60 none).setMu
      { (metered 60 none).mu with openInterval := some { openHour with missing := 65535 } }
    s.mc.mode ≠ .loading ∧ s.mc.config.role = some .townheat ∧ s.dc.hold = none ∧ s.dc.pendingStep = none ∧
      (nextSecond s.dc.time).sec % 3600 ≠ 0 ∧ s.mu.openInterval = some openHour ∧ s.mu.fraction ≤ 1000 ∧
      s.mu.worksRem < 360000000 ∧ s.mu.purchRem < 360000000 ∧
      openHour.works + (s.mu.worksRem + 100 * (300 - 300) * 419) / 360000000 < 2 ^ 32 ∧
      openHour.purchased + (s.mu.purchRem + 100 * (300 - 300) * 419) / 360000000 < 2 ^ 32 ∧
      (after .meteringSecond s).mu.openInterval.map (fun j => (j.missing, j.reverse, j.overRange)) = some (0, 1, 0) ∧
      n.mu.held = none ∧
      (after .meteringSecond n).mu.openInterval.map Interval.missing = some 65535 := by decide

/-- A BOILER of main 2 at a TOWNHEAT and an EXPORT TIE at a TURBINE, past both thresholds, of a sender heard. -/
theorem meets_reports_of_peer_events (r own : Role)
    (h : (own = .townheat ∧ r = .boiler) ∨ (own = .turbine ∧ r = .exportTie)) :
    let e := { peer r with age := 81 }
    let s := fun f => heard [f] (withPeer 9 e (station own .active))
    assocGet 9 (s ⟨9, .leave, [1]⟩).peers = some e ∧ (s ⟨9, .leave, [1]⟩).liu.rx = ⟨9, .leave, [1]⟩ :: [] ∧
      (s ⟨9, .leave, [1]⟩).mc.config.role = some own ∧ e.mains.m2 = true ∧ e.stale = false ∧
      3 * e.period < e.age ∧ 8 * e.period < e.age ∧
      readHello [3, 1, 5, 0, 7, 2] = .configured ⟨.consumer, ⟨true, false, false⟩, 5, 7, .pin⟩ ∧
      e.role ≠ .consumer ∧ at1 [7, 0, 0, 0, 0, 2] 0 = 7 ∧ at1 [7, 0, 0, 0, 0, 2] 5 = 2 ∧
      ((readState [3, 5, 1, 0, 1, 0]).map StateRead.role) = some .consumer := by
  rcases h with ⟨rfl, rfl⟩ | ⟨rfl, rfl⟩ <;> decide

/-- R32, R147: the removal of the one counted entry takes the purchased fraction back to 0. -/
theorem test_removed_entry_leaves_the_fraction :
    let e : PeerEntry := { peer .producer with records := [.offer .m2 300 300 .backup] }
    let s := heard [⟨9, .leave, [1]⟩] (withPeer 9 e (station .townheat .active))
    (after .leaveDelivered (s.setMu { s.mu with fraction := 1000 })).mu.fraction = 0 := by decide

/-- A HOLDER that returns in each band, and what it queues in band HIGH (R64, R178). -/
theorem meets_ResetWarningLeavesAndReturns_holder (b : Band) :
    let h := station .holder .leaving
    let s := (h.setMc { h.mc with returnTimer := some 0 }).setHu ⟨800, b, none, none, none, []⟩
    s.mc.returnTimer = some 0 ∧ s.mc.mode = .leaving ∧ s.mc.config.role = some .holder ∧ s.liu.tx = [] ∧
      (∀ l ∈ holderLines s.mc.config, (s.cu.get l).own = false) ∧
      (b = .high → ((after .returnTimerExpiry s).liu.tx.map fun e => bodyKind e.body) = [.hello, .claim] ∧
        (after .returnTimerExpiry s).mc.mode = .listenIn) := by
  cases b <;> decide

/-- The end of LOADING with SUPPLY LOW asserted: at power-on, and with an unchanged tag and no period kept. -/
theorem meets_UnitsStartAtTheEndOfLoading_supplyLow :
    let p := State.reset.setMc { State.reset.mc with supplyLow := true }
    let u := (tieLoading 2100 (some (crc16 tieBody))).setTie TieUnit.reset
    let s := u.setMc { u.mc with supplyLow := true }
    p.mc.mode = .loading ∧ p.mc.cause = .powerOn ∧ p.mc.supplyLow = true ∧ p.rs.holdQueue = [] ∧
      p.rs.inFlight = false ∧ p.rs.nextSeq + 1 < 2 ^ 32 ∧
      s.mc.mode = .loading ∧ s.mc.cause ≠ .powerOn ∧ s.mc.rememberedTag = (rawImage tieImage).map RawImage.computed ∧
      s.mc.supplyLow = true ∧ s.tie.openPeriod = none ∧ s.rs.holdQueue = [] ∧ s.rs.inFlight = false ∧
      s.rs.nextSeq + 1 < 2 ^ 32 := by decide +kernel

/-- R131, R162, R179: a first start under SUPPLY LOW leaves no open period and one record of length 0. -/
theorem test_start_under_supply_low :
    let t := after (.loadComplete 3 (some tieImage)) (State.reset.setMc { State.reset.mc with supplyLow := true })
    t.tie.openPeriod = none ∧
      t.rs.holdQueue.map recordFlags =
        [{ noFlags with partialStart := true, powerFail := true, noSchedule := true }] := by decide +kernel

/-! ### A round's own claim, and the quality of a span kept over a reset -/

/-- R58: the SHED that the round's own SHORTFALL starts comes after the STATE of the round, which carries the want
before it; CLAIM and STATE are queued in the order of R38. -/
theorem test_step_of_the_own_claim_comes_after_the_round :
    let s := steps [step5 .shed] ((station .consumer .active).setSe
      { ShareEngine.reset with roundTimer := some 0, fallback := false })
    let t := after .roundExpiry s
    t.liu.tx = [waits (.claim short0 .assert), waits (.state .consumer 10 [.want .m0 200 1000 0 0] none)] ∧
      (t.rl.get short0).taken = 1 ∧ (t.rl.get short0).state = .dwell ∧ effectiveWant t = (200, 200) := by decide

/-- R58: a falling own claim undoes its ladder's step after the round too. -/
theorem test_undo_of_the_own_claim_comes_after_the_round :
    let s := asserted [0] (ladder .top 1 (steps [step5 .shed] ((station .consumer .active).setSe
      { ShareEngine.reset with roundTimer := some 0, fallback := false, shortfallCount := 1 })))
    let u := setLine short0 { s.cu.get short0 with own := true } s
    let t := after .roundExpiry (withPeer 4 { peer .producer with records := [.offer .m0 300 300 .none] } u)
    (waits (.state .consumer 10 [.want .m0 200 200 0 0] none)) ∈ t.liu.tx ∧
      (t.rl.get short0).taken = 0 ∧ (t.cu.get short0).sources = [] ∧ effectiveWant t = (200, 1000) := by decide

/-- R129, R159: a period SYNCED before a pin reset that outlasts it settles with the FREE held since the reset. -/
theorem test_kept_period_settles_with_the_quality_since_the_reset :
    let u := (tieLoading 3600 (some (crc16 tieBody))).setTie
      { TieUnit.reset with openPeriod := some { openHalf with quality := .synced } }
    let s := u.setDc { u.dc with quality := .free }
    ((after (.loadComplete 3 (some tieImage)) s).rs.holdQueue.map fun r => match r with
      | .settle x => some x.quality
      | .bill _ => none) = [some .free] := by decide +kernel

/-! ### Walks, counting, extras, and the SETPOINT of LISTEN-ONLY -/

/-- R41: a full tier, a skipped one, a short one with its floor, and an unserved one. -/
theorem meets_GrantsAndExcessStayWithinSupply_short :
    let ws : List WantMember := [⟨100, 50, 0, 3⟩, ⟨200, 400, 2, 1⟩, ⟨100, 0, 2, 0⟩]
    walkThrough ws 300 8 = ⟨0, some 3⟩ ∧ ws.map (minGrantOf ws 300) = [100, 133, 66] ∧
      ws.map (grantOf ws 300) = [100, 133, 66] ∧ (∀ w ∈ ws, w.minClass ≤ 3 ∧ w.headClass ≤ 3) ∧
      walkThrough ws 400 8 = ⟨0, some 6⟩ ∧ walkThrough ws 850 8 = ⟨0, none⟩ := by decide

/-- R30: a STALE and a FAILED producer count 0, a STALE consumer its min alone. -/
theorem test_snapshot_counts_by_standing :
    let o : PeerEntry := { peer .producer with records := [.offer .m0 300 300 .none] }
    let w : PeerEntry := { peer .consumer with records := [.want .m0 100 400 1 2], stale := true }
    let s := withPeer 4 o (withPeer 5 { o with stale := true } (withPeer 6 { o with severity := .failed }
      (withPeer 7 w (station .holder .active))))
    s.mc.mode ≠ .loading ∧ offerSum .m0 (snapshot s) = 300 ∧ wantMembers .m0 (snapshot s) = [⟨100, 0, 1, 2⟩] := by
  decide

/-- R31, R139: a boiler on BACKUP, one on GAS and a producer; of 1000 SU 300 are purchased. -/
theorem test_fraction_counts_by_fuel :
    let b := fun (f : FuelField) (n : Nat) => { peer .boiler with records := [.offer .m2 900 n f] }
    let s := withPeer 4 (b .backup 300) (withPeer 5 (b .gas 500) (withPeer 6 { b .backup 80 with stale := true }
      (withPeer 7 { peer .producer with records := [.offer .m2 200 0 .none] } (station .townheat .active))))
    (recomputeFraction s).mu.fraction = 300 ∧ (recomputeFraction s).mu.heatTotal = 1000 ∧
      heatOfRole .boiler (measuredOn [.gas]) s = 500 := by decide

/-- R32: of two ties the fresher gives the gap, and a turbine in LISTEN-IN adds no capacity. -/
theorem test_turbine_counts_the_freshest_tie :
    let t := fun (g a : Nat) => { peer .exportTie with extras := .tie g, age := a }
    let k := { peer .turbine with extras := .turbine 500 }
    let s := withPeer 4 (t 900 3) (withPeer 5 (t 400 2) (withPeer 6 k (withPeer 7 { k with mode := .listenIn }
      (station .turbine .active))))
    risingKeys (s.peers.map Prod.fst) ∧ tieInForce (t 400 2) ∧ (t 400 2).extras = .tie 400 ∧
      (recomputeTurbine s).turbine.gapUsed = 400 ∧ (recomputeTurbine s).turbine.capacitySum = 1500 := by
  refine ⟨?_, ⟨rfl, rfl, by decide⟩, rfl, by decide, by decide⟩
  simp [risingKeys, withPeer, station, State.reset, State.setPeers, assocPut]

/-- R50, R132: the extras of a tie with a period open and with none, and of a turbine. -/
theorem meets_WantAndOfferFollowTheirRules_extras :
    (tied 2000).tie.openPeriod = some openHalf ∧ ownExtras (tied 2000) = some (0, 900) ∧
      (station .exportTie .active).tie.openPeriod = none ∧ (station .exportTie .active).tie.gap = 0 ∧
      ownExtras (station .turbine .active) = some (1000, 2000) ∧ ownExtras (station .boiler .active) = none := by
  decide

/-- R52: a TURBINE whose strap does not match its image sends its fallback value in LISTEN-ONLY; an unread image
sends none. -/
theorem test_listen_only_sends_the_known_fallback :
    ((after (.loadComplete 4 (some turbineImage)) State.reset).fp.out.take 1) = [.setpoint .m2 100] ∧
      ((after (.loadComplete 4 none) State.reset).fp.out.filter fun m => match m with
        | .setpoint _ _ => true
        | _ => false) = [] := by decide +kernel

/-- R38, R49: the STATE of a BOILER on gas offers heat by the output the round has settled. -/
theorem test_boiler_offers_by_the_settled_output :
    let b := (station .boiler .active).setFu ⟨.gas, some .gas, none, none⟩
    let c := b.setMc { b.mc with config := { b.mc.config with heatCapacity := 5000, efficiency := 800 } }
    let s := c.setSe { ShareEngine.reset with roundTimer := some 0, fallback := false, setpoint := 50 }
    let t := after .roundExpiry (withPeer 4 { peer .producer with records := [.offer .m0 900 900 .none] } s)
    t.se.setpoint = 150 ∧ ownRecords s = [.want .m0 200 1000 0 0, .offer .m2 40 0 .gas] ∧
      waits (.state .boiler 10 [.want .m0 200 1000 0 0, .offer .m2 120 0 .gas] none) ∈ t.liu.tx := by decide

/-- R151: a trim below its range is held at −1023, whichever later check fails; a bad CRC leaves 0. -/
theorem test_trim_is_held_in_range :
    let body : List Byte := [1, 9, 3, 4, 5, 0, 100, 0, 50, 128, 0, 2, 0, 3, 0, 4, 0, 5, 0, 6, 0, 7, 0]
    (after (.loadComplete 3 (some (body ++ byte2 (crc16 body)))) State.reset).dc.trim = -1023 ∧
      (after (.loadComplete 3 (some (body ++ [0, 0]))) State.reset).dc.trim = 0 := by decide +kernel

/-! ### Falls in TOP, SETPOINTs, the end of an hour with a sample, reports in band FLARE -/

/-- R48, R81, R94: a SHED that a rise takes brings the output down to the min at once, with its SETPOINT; in fallback
the output stands. -/
theorem test_shed_sends_the_lowered_setpoint :
    let s := fun fb => rising .shed .idle ((station .consumer .active).setSe
      { ShareEngine.reset with fallback := fb, grant := 900, minGrant := 200, setpoint := 700 })
    let t := after .claimDelivered (s false)
    t.se.setpoint = 200 ∧ t.se.grant = 200 ∧ t.fp.out = [.setpoint .m0 200] ∧
      setpointSent (s false) t = [.setpoint .m0 200] ∧
      (after .claimDelivered (s true)).se.setpoint = 700 ∧ (after .claimDelivered (s true)).fp.out = [] := by decide

/-- R48: a RAISE undone by a fall in TOP; the grant above the max comes down, and the output with it. -/
theorem test_fall_in_top_undoes_the_raise :
    let t := after .claimDelivered (falling (.raise 500) .top ((station .consumer .active).setSe
      { ShareEngine.reset with fallback := false, grant := 1500, minGrant := 200, setpoint := 1400 }))
    t.rl.get short0 = ⟨.undoDwell, 0, some 5, some .completed⟩ ∧ (t.cu.get short0).sources = [] ∧
      t.se.grant = 1000 ∧ t.fp.out = [.setpoint .m0 1000] := by decide

/-- R67, R97, R100, R101: a FLARE STEP undone by a fall in TOP, and from UNDO DWELL, waits for the move down. -/
theorem test_flare_step_undone_in_top_and_undo_dwell :
    let h := (station .holder .active).setHu ⟨800, .high, none, some 2, none, []⟩
    let t := after .claimDelivered (falling .flareStep .top h)
    let v := after (.undoDwellExpiry short0) (ladder .undoDwell 1 (steps [step5 .flareStep] h))
    t.fp.out = [.flareCommand 1] ∧ t.rl.get short0 = ⟨.undoInFlight, 0, none, none⟩ ∧
      v.fp.out = [.flareCommand 1] ∧ v.rl.get short0 = ⟨.undoInFlight, 0, none, none⟩ := by decide

/-- R48, R108: a FUEL GAS undone in TOP starts TO BACKUP, and the halved want brings the output down after FUEL
COMMAND. -/
theorem test_fuel_step_undone_in_top :
    let b := ((station .boiler .active).setFu ⟨.gas, some .gas, none, none⟩).setSe
      { ShareEngine.reset with fallback := false, grant := 900, minGrant := 200, setpoint := 800 }
    let t := after .claimDelivered (falling .fuelGas .top b)
    t.fu = ⟨.toBackup, some .gas, some ⟨.backup, 300, [short0]⟩, none⟩ ∧
      t.fp.out = [.fuelCommand .backup, .setpoint .m0 500] ∧ t.se.minGrant = 0 := by decide

/-- R101: an UNDO DWELL that reads the OR asserted takes its WAKE again. -/
theorem test_undo_dwell_takes_the_step_again :
    let s := asserted [9] (ladder .undoDwell 0 (steps [step5 (.wake .boiler)] (station .boiler .active)))
    (after (.undoDwellExpiry short0) s).liu.tx = [waits (.wake .boiler .m0)] ∧
      ((after (.undoDwellExpiry short0) s).rl.get short0).taken = 1 := by decide

/-- R46, R48: a lower CAPABILITY, and a lower DEMAND, send the lowered output. -/
theorem test_capability_and_demand_send_the_setpoint :
    let se := { ShareEngine.reset with fallback := false, grant := 900, minGrant := 200, setpoint := 800 }
    let t := after (.capability 300) ((station .consumer .active).setSe se)
    let d := after (.demand 600) ((station .townheat .active).setSe se)
    t.se.setpoint = 300 ∧ t.fp.out = [.setpoint .m0 300] ∧ d.se.setpoint = 600 ∧ d.fp.out = [.setpoint .m2 600] := by
  decide

/-- R48, R110, R112: a changeover to BACKUP that completes sends SETPOINT 0, and one that times out to UNKNOWN too. -/
theorem test_completed_changeover_sends_setpoint_0 :
    let b := fun f => ((station .boiler .active).setFu f).setSe
      { ShareEngine.reset with fallback := false, grant := 500, minGrant := 0, setpoint := 400 }
    let t := after (.fuelStatus .backup) (b ⟨.toBackup, some .gas, some ⟨.backup, 300, []⟩, none⟩)
    let x := after .changeoverTimeout (b ⟨.toBackup, none, some ⟨.backup, 0, []⟩, none⟩)
    t.fp.out = [.setpoint .m0 0] ∧ t.se.setpoint = 0 ∧ x.fp.out = [.setpoint .m0 0] := by decide

/-- R52: the fallback SETPOINT is the one message a TURBINE sends at the end of LOADING. -/
theorem test_listen_in_sends_the_fallback_setpoint :
    (after (.loadComplete 3 (some turbineImage)) State.reset).fp.out = [.setpoint .m2 100] ∧
      (after (.loadComplete 3 (some turbineImage)) State.reset).se.setpoint = 100 := by decide +kernel

/-- R143: the sample of the last second of an hour is billed in that hour: 1163 kWh with the remainder, and a peak. -/
theorem test_hour_boundary_bills_its_last_second :
    let t := after .meteringSecond (metered 3599 (some ⟨50000, 20000, 0, true⟩))
    (t.rs.holdQueue.map fun r => match r with
      | .bill x => (x.works, x.purchased, x.peak, x.missing, x.overRange)
      | .settle _ => (0, 0, 0, 0, 0)) = [(8, 4 + 1163, 1163, 0, 1)] ∧
      t.mu.worksRem = 359999999 ∧ t.mu.purchRem = 50000 * 20000 * 419 - 1163 * 360000000 ∧ t.mu.minuteAcc = 0 ∧
      t.mu.openInterval.map (fun i => (i.works, i.purchased, i.missing)) = some (0, 0, 0) := by decide

/-- R71: what a report does in band FLARE, from a position and with a move in flight or none. -/
theorem test_reports_in_band_flare :
    let s := fun p m => (station .holder .active).setHu ⟨950, .flare, none, p, m, []⟩
    let m : FlareMove := ⟨2, none, 30⟩
    (after (.flareStatus 7) (s (some 2) none)).hu = ⟨950, .flare, none, some 4, none, []⟩ ∧
      (after (.flareStatus 1) (s none (some m))).hu = ⟨950, .flare, none, some 1, some m, []⟩ ∧
      (after (.flareStatus 0) (s none (some m))).hu = ⟨950, .flare, none, some 0, some m, []⟩ ∧
      (after (.flareStatus 0) (s (some 0) none)).hu = ⟨950, .flare, none, some 0, none, []⟩ ∧
      (after (.flareStatus 0) (s (some 3) (some m))).hu = ⟨950, .flare, none, some 1, some m, []⟩ ∧
      (after (.flareStatus 0) (s (some 3) (some m))).fp.out = [] := by decide

theorem meets_FlareMovesEnd_inBandFlare :
    let s := (station .holder .active).setHu ⟨950, .flare, none, some 3, some ⟨2, none, 30⟩, []⟩
    s.mc.mode ≠ .loading ∧ s.mc.config.role = some .holder ∧ s.mc.config.main ≠ .m2 ∧ s.hu.band = .flare ∧
      (∀ p ∈ [0, 1, 5], ∀ m, s.hu.move = some m → Nat.min p 4 ≠ m.target) ∧ 1 ≤ s.hu.position.getD 0 ∧
      s.hu.move ≠ none := by
  refine ⟨by decide, by decide, by decide, by decide, ?_, by decide, by decide⟩
  rintro p hp m hm
  obtain rfl : m = ⟨2, none, 30⟩ := (Option.some.inj hm).symm
  simp only [List.mem_cons, List.not_mem_nil, or_false] at hp
  rcases hp with rfl | rfl | rfl <;> decide

/-- R183 leaves the third byte of a node selector at 0; the model matches by the number alone whatever it is
(notes/assumptions/53.md). -/
theorem test_node_selector_is_its_number :
    wakeMatches [1, 0, 0] (station .boiler .active) = true ∧ wakeMatches [1, 0, 2] (station .boiler .active) = true ∧
      wakeMatches [1, 5, 0] (station .boiler .active) = false := by decide

/-! ### Entries, waking at once, holds and clamps, slots that look again, flare moves in band FLARE -/

/-- R92, R153: what the end of LOADING raises with a step replaced or none, and a quality SYNCED or not. -/
theorem test_faults_of_the_end_of_loading :
    let s := fun r b q => (steps [⟨.none, 5, b⟩] (station r .loading)).setDc { State.reset.dc with quality := q }
    let kinds := fun x => (raiseLoadFaults x).mc.faults.map FaultEntry.kind
    kinds (s .townheat false .synced) = [] ∧ kinds (s .townheat false .free) = [.timeFree] ∧
      kinds (s .exportTie false .unset) = [.timeFree] ∧ kinds (s .consumer false .free) = [] ∧
      kinds (s .consumer true .free) = [.configStep] ∧
      loadFaults (s .townheat true .free).mc.config .free = [.configStep, .timeFree] := by decide

/-- A consumer at the third expiry of LISTEN-IN with its line asserted, pending and open, a step there or none. -/
def thirdExpiry (xs : List Step) : State :=
  let s := setLine short0 ⟨false, [9], true⟩ (steps xs (station .consumer .listenIn))
  (s.setSe { ShareEngine.reset with roundTimer := some 0, roundCount := 2, fallback := true }).setMc
    { s.mc with latch := ⟨true, false, Six.all false⟩ }

/-- R85, R98, R174: at that expiry the IDLE ladder takes step 0, the latch is cleared and ACTIVE runs its round 1. -/
theorem meets_RoundsByModeAndRole_entry :
    let s := thirdExpiry []
    let w : WantMember := ⟨200, 800, (wantClasses s.mc.config).1, (wantClasses s.mc.config).2⟩
    let x := { s with peers := [(4, { peer .producer with records := [.offer .m0 300 300 .none] })] }
    let t := after .roundExpiry (thirdExpiry [step5 (.raise 700)])
    StartsAtEntry short0 (step5 (.raise 700)) (thirdExpiry [step5 (.raise 700)]) ∧
      (∀ l st, ¬StartsAtEntry l st x) ∧ severity x ≠ .failed ∧ wantMain x.mc.config = some .m0 ∧
      x.liu.tx = [] ∧ x.se.fallback = true ∧ (x.cu.get short0).own = false ∧ x.mc.waitingRequest = none ∧
      (effectiveWant x).1 ≤ minGrantOf (wantMembers .m0 (snapshot x)) (supply .m0 (snapshot x)) w ∧
      t.rl.get short0 = ⟨.dwell, 1, some 5, some .completed⟩ ∧ (t.cu.get short0).pending = false ∧
      t.mc.latch = ⟨false, false, Six.all false⟩ ∧ t.se.roundCount = 1 := by
  refine ⟨by unfold StartsAtEntry; decide, ?_, by decide, by decide, by decide, by decide, by decide, by decide,
    by decide, by decide, by decide, by decide, by decide⟩
  rintro ⟨m, k⟩ st ⟨-, -, -, -, h⟩
  revert h
  cases m <;> cases k <;> exact fun h => nomatch h

/-- R176, R177: a standby request that keeps a latched cause wakes at once; a CLAIM RISE alone not from DEEP. -/
theorem meets_StandbyRequestsWaitAndTakeEffect_latched :
    let s0 := (station .boiler .active).setSe { ShareEngine.reset with roundTimer := some 0 }
    let s := fun level latch => s0.setMc { s0.mc with waitingRequest := some ⟨level, false⟩, latch := latch }
    let rise : WakeLatch := ⟨false, false, (Six.all false).set short0 true⟩
    let frame : WakeLatch := ⟨true, false, Six.all false⟩
    (s .listen rise).mc.latch ≠ ⟨false, false, Six.all false⟩ ∧
      (after .roundExpiry (s .deep frame)).mc.mode = .listenIn ∧
      (after .roundExpiry (s .deep rise)).mc.mode = .standbyDeep ∧
      (after .roundExpiry (s .listen rise)).mc.mode = .active ∧
      (after .roundExpiry (s .listen rise)).mc.latch = ⟨false, false, Six.all false⟩ := by decide

/-- R83, R113: STANDBY-LISTEN marks an asserted line pending and takes a boiler's requests from its Fuel Unit. -/
theorem test_standby_listen_marks_and_withdraws :
    let b := (setLine short0 ⟨false, [9], false⟩ (station .boiler .active)).setFu
      ⟨.toBackup, some .gas, some ⟨.backup, 30, [short0]⟩, some ⟨.gas, [short0]⟩⟩
    let s := (b.setSe { ShareEngine.reset with roundTimer := some 0 }).setMc
      { b.mc with waitingRequest := some ⟨.listen, true⟩ }
    let t := after .roundExpiry s
    (t.cu.get short0).pending = true ∧ t.fu = ⟨.toBackup, some .gas, some ⟨.backup, 30, []⟩, none⟩ := by decide

/-- A station in a hold at ⟨5, 2000⟩ with its reference time at a second, and a number of held seconds counted. -/
def holding (reference n : Nat) (f : Option TimePos) (s : State) : State :=
  (s.setDc { s.dc with hold := some ⟨⟨5, 2000⟩, ⟨5, reference⟩⟩, pendingStep := f }).setMu { s.mu with heldSeconds := n }

/-- A station whose pending time lies before the start of its open span. -/
def clamped (start : TimePos) (s : State) : State :=
  s.setDc { s.dc with pendingStep := some ⟨4, 86000⟩, spanStart := some start }

/-- R141, R157: the 60th held second of a TOWNHEAT makes its check due, and so does the one that ends the hold, at the
clamp point or by an adopted time; an earlier one does not. -/
theorem meets_TownSecondConservesEnergy_held :
    let s := metered 2000 (some ⟨100, 400, 300, false⟩)
    let due := fun x => (after .meteringSecond x).mu.holdCheckDue
    let n := fun x => (after .meteringSecond x).mu.heldSeconds
    HeldAt False (holding 1000 58 none s) ∧ HeldAt True (holding 1999 3 none s) ∧
      HeldAt True (holding 1000 3 (some ⟨5, 2000⟩) s) ∧
      due (holding 1000 58 none s) = false ∧ n (holding 1000 58 none s) = 59 ∧
      due (holding 1000 59 none s) = true ∧ n (holding 1000 59 none s) = 0 ∧
      due (holding 1999 3 none s) = true ∧ due (holding 1000 3 (some ⟨5, 2000⟩) s) = true ∧
      (after .meteringSecond (holding 1000 58 none s)).mu.minuteAcc = s.mu.minuteAcc + energyOfSecond s := by
  refine ⟨⟨_, rfl, .inl (by decide)⟩, ⟨_, rfl, .inl (by decide)⟩, ⟨_, rfl, .inr ⟨_, rfl, by decide, trivial⟩⟩, ?_⟩
  decide

/-- R141, R145, R157: at a clamp the interval is flagged TIME STEPPED, its minute check comes before the second. -/
theorem meets_TownSecondConservesEnergy_clamped :
    let m := metered 2000 (some ⟨100, 400, 300, false⟩)
    let s := clamped openHour.start (m.setMu { m.mu with minuteAcc := 1440000000, heldSeconds := 7 })
    let t := after .meteringSecond s
    ClampsTo openHour.start ⟨4, 86000⟩ s ∧ posNumber openHour.start < posNumber openHour.start + openHour.planned ∧
      t.mu.openInterval.map (fun j => (j.flags, j.peak)) = some ({ noFlags with timeStepped := true }, 4) ∧
      t.mu.minuteAcc = energyOfSecond s ∧ t.mu.heldSeconds = 1 ∧ t.dc.time = openHour.start := by
  refine ⟨⟨rfl, by decide, .inl ⟨rfl, rfl⟩⟩, ?_⟩
  decide

/-- R138: a second of a TOWNHEAT with no interval open clears the sample and counts nothing. -/
theorem meets_TownSecondConservesEnergy_none :
    let m := metered 2000 (some ⟨100, 400, 300, false⟩)
    let s := m.setMu { m.mu with openInterval := none }
    s.mu.openInterval = none ∧ s.dc.pendingStep = none ∧ s.mu.held ≠ none ∧
      (after .meteringSecond s).mu = { s.mu with held := none } := by decide

/-- R124, R125, R127, R157: a held second and a clamp of a tie count the second and take the gap at the clamp point; with
no period open the gap is 0. -/
theorem meets_TieSecondCountsAndRecomputesTheGap_held :
    let h := holding 1000 0 none (tied 2000)
    let c := clamped openHalf.start (tied 2000)
    let shown := fun x => (after .meteringSecond x).tie.openPeriod.map fun p => (p.missing, p.flags.timeStepped)
    let n := (tied 2000).setTie { (tied 2000).tie with openPeriod := none, gap := 7 }
    HeldAt False h ∧ ClampsTo openHalf.start ⟨4, 86000⟩ c ∧ posNumber h.dc.time < posNumber openHalf.start + openHalf.planned ∧
      shown h = some (1, false) ∧ (after .meteringSecond h).tie.gap = 1013 ∧
      shown c = some (1, true) ∧ (after .meteringSecond c).tie.gap = 900 ∧
      (after .meteringSecond n).tie.gap = 0 := by
  refine ⟨⟨_, rfl, .inl (by decide)⟩, ⟨rfl, by decide, .inl ⟨rfl, rfl⟩⟩, ?_⟩
  decide

/-- R166, R167: slots that wait on the commit in flight of record 6. A READ for 6 is then answered OK from its slot, by
report or, after a write error, from the hold queue; a slot that has sent 5 goes on with 6. -/
theorem meets_CommitEndKeepsOrRetries_slots :
    let first : ReadSlot := ⟨6, 2, .ok, true, false, none, 0⟩
    let onward : ReadSlot := ⟨6, 1, .trimmed, true, false, some 5, 1⟩
    let s := (station .townheat .active).setRs { RecordUnit.blank with
      slots := [(4, bill 5 false)], newest := 5, nextSeq := 7, holdQueue := [bill 6 false], inFlight := true
      slotA := some first, slotB := some onward }
    let served := fun c => ((after c s).rs.slotA, (after c s).rs.slotB)
    s.rs.inFlight = true ∧ s.rs.holdQueue = bill 6 false :: [] ∧ first.waiting = true ∧ first.lastSent = none ∧
      onward.waiting = true ∧ onward.lastSent = some 5 ∧
      served (.commitEnd .whole) = (some { first with waiting := false }, some { onward with status := .ok, waiting := false }) ∧
      served (.commitEnd .error) = served (.commitEnd .whole) := by decide

/-- R61, R70: a first sample and one from LOW that enter band FLARE, with the claims asserted, in a mode in which they
do not follow, and with a ladder that takes a FLARE STEP as SURPLUS rises. -/
theorem meets_FlareFloorAndWaitingRequests_entries :
    let h := fun (b : Band) (s : State) => s.setHu ⟨500, b, none, none, none, []⟩
    let s := h .none (station .holder .active)
    let low := h .low (station .holder .leaving)
    let x := (station .holder .active)
    let stepping := h .low (x.setMc { x.mc with config := { x.mc.config with
      lines := x.mc.config.lines.set surplus0 ⟨false, [step5 .flareStep]⟩ } })
    EntersFlare 900 s ∧ EntersFlare 920 low ∧ EntersFlare 920 stepping ∧
      (∀ st ∈ ladderSteps short0 s ++ ladderSteps surplus0 s, st.action ≠ .flareStep) ∧
      (ladderSteps surplus0 stepping)[(stepping.rl.get surplus0).taken]? = some (step5 .flareStep) ∧
      (stepping.cu.get surplus0).sources = [] ∧ (stepping.rl.get surplus0).state = .idle ∧
      (after (.level .ok 900) s).hu.move = some ⟨1, none, 60⟩ ∧
      (after (.level .ok 900) low).hu.move = none ∧
      (after (.level .ok 920) low).hu.move = some ⟨1, none, 60⟩ ∧
      (after (.level .ok 920) stepping).hu.move = some ⟨1, some ⟨surplus0, false⟩, 60⟩ ∧
      (after (.level .ok 920) stepping).fp.out = [.flareCommand 1] := by
  unfold EntersFlare
  decide

/-- R68 to R70: in band FLARE a report of the target in flight, with nothing waiting; and a move that completes at 0, by
report or by its timer, followed by the floor move ahead of a waiting request. -/
theorem meets_FlareMovesEnd_targetInBandFlare :
    let s := fun target waiting => (station .holder .active).setHu
      ⟨950, .flare, none, some 2, some ⟨target, none, 0⟩, waiting⟩
    let w : List FlareRequest := [⟨surplus0, false⟩]
    (s 2 []).hu.waiting = [] ∧ (s 0 w).hu.band = .flare ∧
      (after (.flareStatus 2) (s 2 [])).hu = ⟨950, .flare, none, some 2, none, []⟩ ∧
      (after (.flareStatus 0) (s 0 w)).hu = ⟨950, .flare, none, some 0, some ⟨1, none, 60⟩, w⟩ ∧
      (after .flareTimeout (s 0 w)).hu = ⟨950, .flare, none, some 0, some ⟨1, none, 60⟩, w⟩ ∧
      (after (.flareStatus 0) (s 0 w)).fp.out = [.flareCommand 1] := by decide

end Sys2Proof.Tests
end

section
/-! SUPPORT. What the Fuel Unit keeps of its reports through a request, a fall and a claim set (R75, R109): the last
reported fuel stands. -/

namespace Sys2Proof.Machine

variable (s : State)

@[simp] theorem startChangeover_lastReported (f : Fuel) (joined : List ClaimLine) :
    (startChangeover f joined s).fu.lastReported = s.fu.lastReported := by
  simp [startChangeover, setFuelMode]

@[simp] theorem joinFlight_lastReported (c : Changeover) (l : ClaimLine) :
    (joinFlight c l s).fu.lastReported = s.fu.lastReported := by
  simp only [joinFlight]
  cases s.fu.recorded with
  | none => rfl
  | some r => simp

@[simp] theorem recordTarget_lastReported (f : Fuel) (c : Changeover) (l : ClaimLine) :
    (recordTarget f c l s).fu.lastReported = s.fu.lastReported := by
  simp only [recordTarget]
  cases s.fu.recorded with
  | none => simp
  | some r => rfl

/-- Only a FUEL STATUS reports a fuel; a ladder's request does not (R109, R110). -/
@[simp] theorem fuelRequest_lastReported (f : Fuel) (l : ClaimLine) :
    (fuelRequest f l s).fu.lastReported = s.fu.lastReported := by
  simp only [fuelRequest]
  cases s.fu.flight with
  | none => dsimp only; split <;> simp
  | some c => dsimp only; split <;> simp

@[simp] theorem askUndo_lastReported (a : Action) (l : ClaimLine) :
    (askUndo a l s).fu.lastReported = s.fu.lastReported := by
  cases a <;> simp [askUndo]

@[simp] theorem undoStep_lastReported (l : ClaimLine) : (undoStep l s).fu.lastReported = s.fu.lastReported := by
  simp only [undoStep]; (repeat' split) <;> simp

@[simp] theorem ladderFall_lastReported (l : ClaimLine) :
    (ladderFall l s).fu.lastReported = s.fu.lastReported := by
  simp only [ladderFall]; split <;> simp

@[simp] theorem fall_lastReported (l : ClaimLine) : (fall l s).fu.lastReported = s.fu.lastReported := by
  simp [fall]

@[simp] theorem clearBit_lastReported (n : Nat) (l : ClaimLine) :
    (clearBit n l s).fu.lastReported = s.fu.lastReported := by
  simp only [clearBit, clearBitWith]; (repeat' split) <;> simp

end Sys2Proof.Machine
end

section
/-! SUPPORT. What a report of R32 establishes: the purchased fraction and the turbine's want agree with the Peer Table as
it stands, and no value of a block not concerned moves. -/

namespace Sys2Proof.Machine

variable {e : PeerEntry} {s t u : State}

theorem reportsToMetering_iff :
    reportsToMetering e = true ↔ (e.role = .boiler ∨ e.role = .producer) ∧ e.mains.m2 = true := by
  simp [reportsToMetering]

theorem reportsToExport_iff : reportsToExport e = true ↔ e.role = .exportTie ∨ e.role = .turbine := by
  simp [reportsToExport]

/-- The report of an entry the Metering Unit of a TOWNHEAT is concerned with (R32). -/
theorem reportEntry_townheat (h : s.mc.config.role = some .townheat) :
    reportEntry e s = if reportsToMetering e then recomputeFraction s else s := by
  rw [reportEntry, h]

/-- The report of an entry the Export Unit of a TURBINE is concerned with (R32). -/
theorem reportEntry_turbine (h : s.mc.config.role = some .turbine) :
    reportEntry e s = if reportsToExport e then recomputeTurbine s else s := by
  rw [reportEntry, h]

/-- In every other role an entry's events are reported to no block (R32). -/
theorem reportEntry_other (h : s.mc.config.role ≠ some .townheat) (h' : s.mc.config.role ≠ some .turbine) :
    reportEntry e s = s := by
  unfold reportEntry
  split <;> simp_all

theorem recomputeFraction_ofTable (s : State) : fractionOfTable (recomputeFraction s) := by
  have hb := heatFromBackup_eq s
  have ht := heatWhole_eq s
  simp only [fractionOfTable, heatOfRole, recomputeFraction, State.setMu, purchasedFraction] at hb ht ⊢
  simp [hb, ht]

theorem recomputeTurbine_part (s : State) :
    (recomputeTurbine s).turbine = turbineFrom (gapUsed s.peers)
      (capacitySum s.mc.config.electricCapacity s.peers) s.mc.config.electricCapacity s.mc.config.steamRate := by
  simp [recomputeTurbine]

theorem recomputeTurbine_freshestGap (hk : risingKeys (s.peers.map Prod.fst)) :
    freshestGapUsed (recomputeTurbine s) := by
  have hg : (recomputeTurbine s).turbine.gapUsed = gapUsed s.peers := by rw [recomputeTurbine_part]; rfl
  rw [freshestGapUsed, hg, (recomputeTurbine_frame s).2.1]
  refine ⟨gapUsed_none s.peers, fun x hx gap hforce hextras hfresh => ?_⟩
  rw [gapUsed, gapUsed_freshest s.peers hk x hx gap ⟨hforce, hextras⟩ hfresh]

theorem recomputeTurbine_ofTable (s : State) : turbineOfTable (recomputeTurbine s) := by
  have hp : (recomputeTurbine s).peers = s.peers := by simp
  have hm : (recomputeTurbine s).mc = s.mc := by simp
  have hc := capacitySum_eq s s.mc.config.electricCapacity
  refine ⟨fun hk => recomputeTurbine_freshestGap (by rwa [hp] at hk), ?_⟩
  simp only [hp, hm, recomputeTurbine_part]
  exact ⟨hc, rfl, rfl, rfl⟩

/-- A report reaches the block it concerns, and no other (R32). -/
theorem reportEntry_reportedFor (e : PeerEntry) (s : State) : ReportedFor e s (reportEntry e s) where
  fraction hrole hkind hmain := by
    rw [reportEntry_townheat hrole, if_pos (reportsToMetering_iff.2 ⟨hkind, hmain⟩)]
    exact recomputeFraction_ofTable s
  turbine hrole hkind := by
    rw [reportEntry_turbine hrole, if_pos (reportsToExport_iff.2 hkind)]
    exact recomputeTurbine_ofTable s
  noFraction h := by
    by_cases hheat : s.mc.config.role = some .townheat
    · have hno : ¬reportsToMetering e = true := by
        rw [← Bool.not_eq_true] at h
        rw [reportsToMetering_iff]
        tauto
      rw [reportEntry_townheat hheat, if_neg hno]
    · by_cases hturb : s.mc.config.role = some .turbine
      · rw [reportEntry_turbine hturb]; split <;> simp
      · rw [reportEntry_other hheat hturb]
  noTurbine h := by
    by_cases hturb : s.mc.config.role = some .turbine
    · have hno : ¬reportsToExport e = true := by rw [reportsToExport_iff]; tauto
      rw [reportEntry_turbine hturb, if_neg hno]
    · by_cases hheat : s.mc.config.role = some .townheat
      · rw [reportEntry_townheat hheat]; split <;> simp
      · rw [reportEntry_other hheat hturb]

/-- What a report establishes counts from any state of the same role, purchased fraction and turbine part. -/
theorem ReportedFor.of_same (h : ReportedFor e u t) (hrole : u.mc.config.role = s.mc.config.role)
    (hmu : u.mu = s.mu) (hturbine : u.turbine = s.turbine) : ReportedFor e s t := by
  obtain ⟨h1, h2, h3, h4⟩ := h
  rw [hrole] at h1 h2 h3 h4
  rw [hmu] at h3
  rw [hturbine] at h4
  exact ⟨h1, h2, h3, h4⟩

end Sys2Proof.Machine
end

section
/-! SUPPORT. What the removal of a PRESENT entry does (R21): the table and the source sets after it, its report, and
what it leaves. -/

namespace Sys2Proof.Machine

variable (n : Nat) (e : PeerEntry) (s : State)

/-- The empty claim set clears a bit on each line and brings no rise, so that no wake cause reaches the Mode Controller
and no fuel is reported. -/
theorem applyClaimsOn_noClaims (ls : List ClaimLine) :
    (applyClaimsOn n noClaims ls s).mc = s.mc ∧
      (applyClaimsOn n noClaims ls s).fu.lastReported = s.fu.lastReported := by
  induction ls generalizing s with
  | nil => exact ⟨rfl, rfl⟩
  | cons l ls ih =>
    have hl : applyClaim n noClaims l s = clearBit n l s := by simp [applyClaim, noClaims]
    obtain ⟨hmc, hfu⟩ := ih (clearBit n l s)
    rw [applyClaimsOn, hl]
    exact ⟨by rw [hmc]; simp, by rw [hfu]; simp⟩

@[simp] theorem applyClaims_noClaims_mc : (applyClaims n noClaims s).mc = s.mc := by
  simp only [applyClaims, applyClaimsOn_noClaims, orderDrawn_frame]

@[simp] theorem applyClaims_noClaims_lastReported :
    (applyClaims n noClaims s).fu.lastReported = s.fu.lastReported := by
  simp only [applyClaims, applyClaimsOn_noClaims, orderDrawn_frame]

@[simp] theorem removeEntry_peers : (removeEntry n e s).peers = assocErase n s.peers := by
  simp [removeEntry]

@[simp] theorem removeEntry_mc : (removeEntry n e s).mc = s.mc := by
  simp [removeEntry]

@[simp] theorem removeEntry_lastReported : (removeEntry n e s).fu.lastReported = s.fu.lastReported := by
  simp [removeEntry]

/-- A removal clears the number from every source set and no other number from any (R21, R80). -/
theorem mem_removeEntry_sources (l : ClaimLine) (m : Nat) :
    m ∈ ((removeEntry n e s).cu.get l).sources ↔ m ≠ n ∧ m ∈ (s.cu.get l).sources := by
  have hcu : (removeEntry n e s).cu = (applyClaims n noClaims (s.setPeers (assocErase n s.peers))).cu := by
    simp [removeEntry]
  rw [hcu, mem_applyClaims]
  by_cases hm : m = n
  · simp [hm, noClaims]
  · simp [hm]

/-- A removal is reported (R21, R32). -/
theorem removeEntry_reportedFor : ReportedFor e s (removeEntry n e s) :=
  (reportEntry_reportedFor e _).of_same (by simp) (by simp) (by simp)

/-- What a removal leaves unchanged. -/
theorem removeEntry_eventFrame : PeerEventFrame s (removeEntry n e s) := by
  constructor <;> simp

end Sys2Proof.Machine
end

section
/-! The statements about the Peer Table: LEAVE (R27). -/

namespace Sys2Proof.Machine

variable {f : Frame} {rest : List Frame} {s t : State}

theorem headOf_of_rx (hrx : s.liu.rx = f :: rest) : headOf f.kind s = some f := by
  simp [headOf, hrx]

theorem takeHead_of_rx (hrx : s.liu.rx = f :: rest) :
    takeHead s = { s with liu := { s.liu with rx := rest } } := by
  rw [takeHead, hrx]; rfl

/-- The receive queue is no part of the frame of a Peer Table event. -/
theorem PeerEventFrame.of_takeHead (h : PeerEventFrame (takeHead s) t) : PeerEventFrame s t := { h with }

/-- A LEAVE at the head is taken, and its sender's entry removed if it is PRESENT (R15, R27). -/
theorem exec_leaveDelivered_of_head (hrx : s.liu.rx = f :: rest) (hkind : f.kind = .leave) :
    exec .leaveDelivered s = .next (removeIfPresent f.sender (takeHead s)) := by
  have hhead : headOf .leave s = some f := hkind ▸ headOf_of_rx hrx
  simp only [exec, execLeaveDelivered, hhead]

theorem removeIfPresent_absent {n : Nat} (h : assocGet n s.peers = none) : removeIfPresent n s = s := by
  rw [removeIfPresent, h]

theorem removeIfPresent_present {n : Nat} {e : PeerEntry} (h : assocGet n s.peers = some e) :
    removeIfPresent n s = removeEntry n e s := by
  rw [removeIfPresent, h]

/-- Settles O17: a LEAVE of a PRESENT sender is the removal of its entry, of an ABSENT one its head frame taken. -/
theorem leaveRemovesTheEntry : Obligations.LeaveRemovesTheEntry := by
  intro f rest s hrx hkind
  have hpeers : (takeHead s).peers = s.peers := rfl
  rw [exec_leaveDelivered_of_head hrx hkind]
  constructor
  · intro habsent
    rw [removeIfPresent_absent (hpeers ▸ habsent), takeHead_of_rx hrx]
  · intro e hpresent
    rw [removeIfPresent_present (hpeers ▸ hpresent)]
    refine ⟨_, rfl, ?rx, ?absent, ?noClaim, ?otherEntries, ?otherClaims, ?reported, ?frame⟩
    case rx => simp [takeHead_of_rx hrx]
    case absent => simp
    case noClaim => intro l hmem; exact ((mem_removeEntry_sources _ _ _ l _).1 hmem).1 rfl
    case otherEntries => intro n hn; rw [removeEntry_peers, assocGet_erase_ne _ hn, hpeers]
    case otherClaims => intro l n hn; rw [mem_removeEntry_sources]; exact and_iff_right hn
    case reported => exact (removeEntry_reportedFor _ e _).of_same rfl rfl rfl
    case frame => exact (removeEntry_eventFrame _ e _).of_takeHead

end Sys2Proof.Machine
end

section
/-! The statements about a holder: its draw and absorb limits (R63, R65). -/

namespace Sys2Proof.Machine

variable {s : State}

/-- LEVEL LOST holds both limits at 0, whatever the band (R65). -/
theorem limits_of_levelLost (h : faultPresent .levelLost s.mc.faults = true) :
    drawLimit s = 0 ∧ absorbLimit s = 0 :=
  ⟨if_pos h, if_pos h⟩

theorem drawLimit_of_level (h : faultPresent .levelLost s.mc.faults = false) :
    drawLimit s = bandDraw s.hu.band s.mc.config.drawMax := by
  rw [drawLimit, h, if_neg Bool.false_ne_true]

theorem absorbLimit_of_level (h : faultPresent .levelLost s.mc.faults = false) :
    absorbLimit s = bandAbsorb s.hu.band s.mc.config.absorbMax := by
  rw [absorbLimit, h, if_neg Bool.false_ne_true]

/-- Settles O38: without LEVEL LOST each row of R63's table is the limits' value at that band. -/
theorem limitsFollowTheBand : Obligations.LimitsFollowTheBand := by
  refine fun s => ⟨fun hlevel => ?bands, limits_of_levelLost⟩
  rw [drawLimit_of_level hlevel, absorbLimit_of_level hlevel]
  refine ⟨?none, ?emptyGuard, ?low, ?normal, ?high, ?flare⟩ <;>
    · intro hband
      rw [hband]
      exact ⟨rfl, rfl⟩

end Sys2Proof.Machine
end

section
/-! SUPPORT. What a command's outcome is: the state it leaves, and how a law of every command becomes one of every
step. -/

namespace Sys2Proof.Machine

/-- The state a command leaves; the state itself where the command is refused. -/
def effect (c : Instr) (s : State) : State :=
  match exec c s with
  | .next t => t
  | .fault _ | .refused _ => s

theorem effect_of_next {c : Instr} {s t : State} (h : exec c s = .next t) : effect c s = t := by
  simp only [effect, h]

/-- No command faults: a well-formed one goes on to its effect. -/
theorem exec_of_wellFormed {c : Instr} (h : c.wellFormed = true) (s : State) : exec c s = .next (effect c s) := by
  cases c with
  | schedule day entries => simp [effect, exec, execSchedule, h]
  | exportEnergy status kwh => simp [effect, exec, execExportEnergy, h]
  | timeSet day sec => simp [effect, exec, execTimeSet, h]
  | _ => rfl

theorem exec_of_illFormed {c : Instr} (h : c.wellFormed = false) (s : State) : exec c s = .refused .illFormed := by
  cases c with
  | schedule day entries => simp [exec, execSchedule, h]
  | exportEnergy status kwh => simp [exec, execExportEnergy, h]
  | timeSet day sec => simp [exec, execTimeSet, h]
  | _ => cases h

theorem effect_of_illFormed {c : Instr} (h : c.wellFormed = false) (s : State) : effect c s = s := by
  simp only [effect, exec_of_illFormed h]

/-- A law that every command keeps, and that says nothing of the queue, is kept by every step. -/
theorem step_keeps {P : State → Prop} (queue : ∀ s q, P s → P { s with pending := q })
    (command : ∀ c s, P s → P (effect c s)) (s t : State) (hs : P s) (h : step s = .next t) : P t := by
  cases hp : s.pending with
  | nil =>
    simp only [step, hp, Host.Outcome.next.injEq] at h
    exact h ▸ hs
  | cons c rest =>
    simp only [step, hp] at h
    exact effect_of_next h ▸ command c _ (queue s rest hs)

end Sys2Proof.Machine
end

section
/-! The statements about the step, the resets and the laws at reset. -/

namespace Sys2Proof.Machine

/-- Settles O1: the step is the match on the queue. -/
theorem stepRunsFrontCommand : Obligations.StepRunsFrontCommand := by
  constructor
  · intro c rest s hp
    simp only [step, hp]
  · intro s hp
    simp only [step, hp]

theorem reset_lines (l : ClaimLine) : State.reset.cu.get l = ⟨false, [], false⟩ := by
  simp [State.reset, LineState.reset]

theorem reset_ladders (l : ClaimLine) : State.reset.rl.get l = ⟨.idle, 0, none, none⟩ := by
  simp [State.reset, Ladder.reset]

end Sys2Proof.Machine
end

section
/-! SUPPORT. The effect of each command, one equation per command. -/

namespace Sys2Proof.Machine

variable (s : State)

theorem effect_powerOnReset : effect .powerOnReset s =
    { State.reset with
      rs := storeAfterPower s.rs
      fp := { FieldPort.reset with out := s.fp.out }
      mc := { ModeController.reset with node := s.mc.node, supplyLow := s.mc.supplyLow }
      freeNext := s.freeNext
      pending := s.pending } := rfl

theorem effect_pinReset : effect .pinReset s =
    { State.reset with
      tie := tieAfterPin s.tie
      mu := meterAfterPin s.mu
      dc := clockAfterPin s.dc
      rs := storeAfterPin s.rs
      fp := { FieldPort.reset with out := s.fp.out }
      mc := modeAfterPin s.mc
      freeNext := s.freeNext
      pending := s.pending } := rfl

theorem effect_loadComplete (strap : Node) (image : Option (List Byte)) : effect (.loadComplete strap image) s =
    if s.mc.mode = .loading then load strap (image.bind rawImage) s else s := by
  cases image <;> rfl

theorem effect_listenOnlyHelloTimer : effect .listenOnlyHelloTimer s =
    if expired s.mc.helloTimer then
      enqueue (unconfiguredHello (freeNumber s)) (drawn (s.setMc { s.mc with helloTimer := some 60 }))
    else s := rfl

theorem effect_nodeStatusTimer : effect .nodeStatusTimer s =
    if expired s.fp.statusTimer then statusAtEntry s else s := rfl

theorem effect_lineAttemptStart (quietUs : Nat) : effect (.lineAttemptStart quietUs) s =
    match selectedEntry s.liu.tx with
    | none => s
    | some e =>
      if (sendingEntry s.liu.tx).isNone && s.liu.backoff.isNone &&
          decide (quietGap e.body s.mc.node.val ≤ quietUs) then startAttempt e s
      else s := rfl

theorem effect_frameSentWhole : effect .frameSentWhole s =
    match sendingEntry s.liu.tx with
    | some e => sentWhole e s
    | none => s := rfl

theorem effect_collision : effect .collision s =
    match sendingEntry s.liu.tx with
    | some e => collided e s
    | none => s := rfl

theorem effect_backoffExpiry : effect .backoffExpiry s = s.setLiu { s.liu with backoff := none } := rfl

theorem effect_frameReceived (bytes : List Byte) : effect (.frameReceived bytes) s =
    if s.mc.mode = .loading ∨ (sendingEntry s.liu.tx).isSome then s
    else match goodFrame bytes with
      | some f => takeFrame f s
      | none => s := rfl

theorem effect_clashTimerExpiry : effect .clashTimerExpiry s =
    if expired s.liu.clash then clearFault .numberClash (s.setLiu { s.liu with clash := none }) else s := rfl

theorem effect_stateDelivered : effect .stateDelivered s =
    match headOf .state s with
    | none => s
    | some f =>
      match readState f.payload with
      | some x => takeState f.sender x (takeHead s)
      | none => takeHead s := rfl

theorem effect_helloDelivered : effect .helloDelivered s =
    match headOf .hello s with
    | none => s
    | some f =>
      match readHello f.payload with
      | .unconfigured => removeIfPresent f.sender (takeHead s)
      | .configured h => takeHello f.sender h (takeHead s)
      | .discarded => takeHead s := rfl

theorem effect_claimDelivered : effect .claimDelivered s =
    match headOf .claim s with
    | none => s
    | some f =>
      match readClaim f.payload with
      | some (l, e) => takeClaim f.sender l e (takeHead s)
      | none => takeHead s := rfl

theorem effect_leaveDelivered : effect .leaveDelivered s =
    match headOf .leave s with
    | none => s
    | some f => removeIfPresent f.sender (takeHead s) := rfl

theorem effect_timeDelivered : effect .timeDelivered s =
    match headOf .time s with
    | none => s
    | some f =>
      match readTime f.payload with
      | some (p, q) => takeTime p q (takeHead s)
      | none => takeHead s := rfl

theorem effect_wakeDelivered : effect .wakeDelivered s =
    match headOf .wake s with
    | none => s
    | some f => if wakeMatches f.payload s then latchCause .wakeFrame (takeHead s) else takeHead s := rfl

theorem effect_readDelivered : effect .readDelivered s =
    match headOf .read s with
    | none => s
    | some f =>
      if at1 f.payload 0 = s.mc.node.val ∧ s.mc.mode ≠ .listenOnly then
        takeRead (at1 f.payload 1) (at4 f.payload 2) (at1 f.payload 6) (takeHead s)
      else takeHead s := rfl

theorem effect_recordFrameDiscarded : effect .recordFrameDiscarded s =
    match headOf .record s with
    | some _ => takeHead s
    | none => s := rfl

theorem effect_meteringSecond : effect .meteringSecond s =
    if s.mc.mode = .loading then s.setDc { s.dc with time := nextSecond s.dc.time }
    else clockSecond (tickTimers (s.setDc (trimmed s.dc))) := rfl

theorem effect_entryGoesStale (node : Node) : effect (.entryGoesStale node) s =
    match assocGet node.val s.peers with
    | none => s
    | some e =>
      if !e.stale && decide (3 * e.period < e.age) then
        reportEntry e (s.setPeers (assocPut node.val { e with stale := true } s.peers))
      else s := rfl

theorem effect_entryGoesAbsent (node : Node) : effect (.entryGoesAbsent node) s =
    match assocGet node.val s.peers with
    | none => s
    | some e => if 8 * e.period < e.age then removeEntry node.val e s else s := rfl

theorem effect_holdMinuteCheck : effect .holdMinuteCheck s =
    if s.mu.holdCheckDue then (minuteCheck s).setMu { (minuteCheck s).mu with holdCheckDue := false } else s := rfl

theorem effect_syncTimerExpiry : effect .syncTimerExpiry s =
    if expired s.dc.syncTimer then
      let t := s.setDc { s.dc with quality := .free, syncTimer := none }
      if keepsTimeFree s.mc.config then raiseFault .timeFree t else t
    else s := rfl

theorem effect_timeTimerExpiry : effect .timeTimerExpiry s =
    if expired s.dc.timeTimer then
      enqueue (.time (broadcastTime s.dc) s.dc.quality) (s.setDc { s.dc with timeTimer := some 60 })
    else s := rfl

theorem effect_roundExpiry : effect .roundExpiry s =
    if expired s.se.roundTimer then roundExpires (s.setSe { s.se with roundTimer := some s.mc.config.period })
    else s := rfl

theorem effect_dwellExpiry (l : ClaimLine) : effect (.dwellExpiry l) s =
    if (s.rl.get l).state = .dwell ∧ expired (s.rl.get l).dwell then resampleDwell l s else s := rfl

theorem effect_undoDwellExpiry (l : ClaimLine) : effect (.undoDwellExpiry l) s =
    if (s.rl.get l).state = .undoDwell ∧ expired (s.rl.get l).dwell then resampleUndoDwell l s else s := rfl

theorem effect_fuelStatus (f : Fuel) : effect (.fuelStatus f) s = fieldMessage .fuelStatus (fuelReport f) s := rfl

theorem effect_changeoverTimeout : effect .changeoverTimeout s =
    match s.fu.flight with
    | some c => if c.timer = 0 then changeoverExpires c s else s
    | none => s := rfl

theorem effect_flareStatus (p : Nat) : effect (.flareStatus p) s = fieldMessage .flareStatus (flareReport p) s := rfl

theorem effect_flareTimeout : effect .flareTimeout s =
    match s.hu.move with
    | some m => if m.timer = 0 then flareExpires m s else s
    | none => s := rfl

theorem effect_level (st : SampleStatus) (v : Nat) : effect (.level st v) s = fieldMessage .level (takeLevel st v) s :=
  rfl

theorem effect_levelLost : effect .levelLost s =
    if expired s.hu.levelTimer then raiseFault .levelLost s else s := rfl

theorem effect_capability (su : Nat) : effect (.capability su) s = fieldMessage .capability (takeCapability su) s := rfl

theorem effect_gasMeasure (su : Nat) : effect (.gasMeasure su) s = fieldMessage .gasMeasure (takeMeasured su) s := rfl

theorem effect_heatOut (su : Nat) : effect (.heatOut su) s = fieldMessage .heatOut (takeMeasured su) s := rfl

theorem effect_demand (su : Nat) : effect (.demand su) s = fieldMessage .demand (takeDemand su) s := rfl

theorem effect_heatSample (st : SampleStatus) (flow supply return_ : Nat) :
    effect (.heatSample st flow supply return_) s =
      fieldMessage .heatSample (takeHeatSample st flow supply return_) s := rfl

theorem effect_schedule (day : Nat) (entries : List Nat) : effect (.schedule day entries) s =
    if (Instr.schedule day entries).wellFormed then fieldMessage .schedule (takeSchedule day entries) s else s := by
  by_cases h : (Instr.schedule day entries).wellFormed <;> simp [effect, exec, execSchedule, h]

theorem effect_exportEnergy (st : SampleStatus) (kwh : Int) : effect (.exportEnergy st kwh) s =
    if (Instr.exportEnergy st kwh).wellFormed then fieldMessage .exportEnergy (takeEnergy st kwh) s else s := by
  by_cases h : (Instr.exportEnergy st kwh).wellFormed <;> simp [effect, exec, execExportEnergy, h]

theorem effect_timeSet (day sec : Nat) : effect (.timeSet day sec) s =
    if (Instr.timeSet day sec).wellFormed then fieldMessage .timeSet (takeTimeSet ⟨day, sec⟩) s else s := by
  by_cases h : (Instr.timeSet day sec).wellFormed <;> simp [effect, exec, execTimeSet, h]

theorem effect_commitEnd (result : WriteResult) : effect (.commitEnd result) s =
    match s.rs.inFlight, s.rs.holdQueue with
    | true, r :: rest => commitEnds result r rest s
    | _, _ => s := rfl

theorem effect_recordPlace (i : ReadSlotId) : effect (.recordPlace i) s =
    if slotReady (getSlot i s.rs) && recordRoom s &&
        !(roomForOne s && slotReady (getSlot (otherSlot i) s.rs) && !takenFirst i s.rs) then placeRecord i s
    else s := rfl

theorem effect_fieldMessageDiscarded (r : DiscardReason) : effect (.fieldMessageDiscarded r) s =
    match r with
    | .bad => s
    | .unused _ => if s.mc.mode = .loading then s else linkRestored s := rfl

theorem effect_fieldLinkLost : effect .fieldLinkLost s =
    if expired s.fp.linkTimer && s.fp.link == .up then
      raiseFault .fieldLinkLost (s.setFp { s.fp with link := .lost })
    else s := rfl

theorem effect_standbyRequest (level : StandbyLevel) (clearWake : Bool) :
    effect (.standbyRequest level clearWake) s =
      fieldMessage .standbyRequest (takeStandbyRequest level clearWake) s := rfl

theorem effect_resume : effect .resume s = fieldMessage .resume (latchCause .resume) s := rfl

theorem effect_resetWarning : effect .resetWarning s = fieldMessage .resetWarning takeResetWarning s := rfl

theorem effect_readyTimerExpiry : effect .readyTimerExpiry s =
    if expired s.mc.readyTimer then sendResetReady s else s := rfl

theorem effect_returnTimerExpiry : effect .returnTimerExpiry s =
    if expired s.mc.returnTimer then
      if s.mc.mode = .leaving then returnToListenIn (warningOver s) else warningOver s
    else s := rfl

theorem effect_supplyLowAsserted : effect .supplyLowAsserted s =
    if s.mc.supplyLow then s
    else
      let t := s.setMc { s.mc with supplyLow := true }
      if s.mc.mode = .loading then t else tellAsserted t := rfl

theorem effect_supplyLowReleased : effect .supplyLowReleased s =
    if s.mc.supplyLow then
      let t := s.setMc { s.mc with supplyLow := false }
      if s.mc.mode = .loading then t else tellReleased t
    else s := rfl

end Sys2Proof.Machine
end

section
/-! The statements about the resets, the laws at reset and the well-formed commands. -/

namespace Sys2Proof.Machine

/-- Settles O2: each reset is written block by block, so every conjunct is one of its fields. -/
theorem resetsSetEveryBlock : Obligations.ResetsSetEveryBlock := by
  refine ⟨?_, ?_, ?_⟩
  · have all : ∀ (x : MainResult) (m : Main), (⟨x, x, x⟩ : Three MainResult).get m = x := by
      intro x m
      cases m <;> rfl
    simp [all, State.reset, LineUnit.reset, ShareEngine.reset, HolderUnit.reset, LineState.reset, Ladder.reset,
      FuelUnit.reset, TieUnit.reset, TurbineUnit.reset, MeteringUnit.reset, DayClock.reset, RecordUnit.blank,
      FieldPort.reset, ModeController.reset]
  · intro s
    exact ⟨_, rfl, rfl, rfl, rfl, rfl, rfl, rfl, rfl, rfl, rfl, rfl, rfl, rfl, rfl, rfl, rfl, rfl, rfl⟩
  · intro s
    refine ⟨_, rfl, rfl, rfl, rfl, rfl, rfl, rfl, rfl, rfl, rfl, rfl, ?_, rfl, rfl, rfl, rfl⟩
    cases hq : s.dc.quality <;> simp [State.reset, clockAfterPin, qualityAfterPin, hq]

/-- Settles O54: at reset every queue, table and set is empty, every ladder IDLE and every number 0. -/
theorem lawsHoldAtReset : Obligations.LawsHoldAtReset := by
  refine ⟨⟨?_, ?_, ?_, ?_, ?_, ?_⟩, ⟨?_, ?_⟩, ⟨?_, ?_, ?_, ?_⟩, ⟨?_, ?_, ?_, ?_, ?_⟩, ⟨?_, ?_, ?_, ?_, ?_, ?_, ?_⟩,
    ⟨?_, ?_, ?_, ?_, ?_, ?_, ?_, ?_, ?_⟩, ⟨?_, ?_, ?_, ?_, ?_, ?_, ?_, ?_, ?_, ?_, ?_, ?_, ?_⟩⟩
  case refine_7 => intro f; cases f <;> simp [State.reset, FuelUnit.reset, toMode]
  all_goals
    simp [State.reset, LineUnit.reset, ShareEngine.reset, LineState.reset, Ladder.reset, FuelUnit.reset, TieUnit.reset,
      MeteringUnit.reset, DayClock.reset, RecordUnit.blank, ModeController.reset, assocGet, posOk, optPosOk, risingKeys,
      wantMain, StationConfig.unconfigured]

/-- Every command leaves the queue behind it as it stands: none of the operations it is made of writes it. -/
@[simp] theorem effect_pending (c : Instr) (s : State) : (effect c s).pending = s.pending := by
  cases c <;>
    simp only [
      effect_powerOnReset, effect_pinReset, effect_loadComplete, effect_listenOnlyHelloTimer, effect_nodeStatusTimer,
      effect_lineAttemptStart, effect_frameSentWhole, effect_collision, effect_backoffExpiry, effect_frameReceived,
      effect_clashTimerExpiry, effect_stateDelivered, effect_helloDelivered, effect_claimDelivered,
      effect_leaveDelivered, effect_timeDelivered, effect_wakeDelivered, effect_readDelivered,
      effect_recordFrameDiscarded, effect_meteringSecond, effect_entryGoesStale, effect_entryGoesAbsent,
      effect_holdMinuteCheck, effect_syncTimerExpiry, effect_timeTimerExpiry, effect_roundExpiry, effect_dwellExpiry,
      effect_undoDwellExpiry, effect_fuelStatus, effect_changeoverTimeout, effect_flareStatus, effect_flareTimeout,
      effect_level, effect_levelLost, effect_capability, effect_gasMeasure, effect_heatOut, effect_demand,
      effect_heatSample, effect_schedule, effect_exportEnergy, effect_timeSet, effect_commitEnd, effect_recordPlace,
      effect_fieldMessageDiscarded, effect_fieldLinkLost, effect_standbyRequest, effect_resume, effect_resetWarning,
      effect_readyTimerExpiry, effect_returnTimerExpiry, effect_supplyLowAsserted, effect_supplyLowReleased,
      fieldMessage] <;>
    (repeat' split) <;> simp [*]

theorem step_of_wellFormed {c : Instr} {rest : List Instr} {s : State} (hp : s.pending = c :: rest)
    (hc : c.wellFormed = true) : step s = .next (effect c { s with pending := rest }) := by
  simp only [step, hp, exec_of_wellFormed hc]

/-- As many steps as a queue of well-formed commands has run it to its end. -/
theorem run_of_wellFormed (q : List Instr) (s : State) (hp : s.pending = q)
    (hq : ∀ c ∈ q, c.wellFormed = true) : goesOn (Host.Core.run Sys2Proof.core q.length s) := by
  induction q generalizing s with
  | nil => exact ⟨s, rfl⟩
  | cons c rest ih =>
    have hstep : Sys2Proof.core.step s = .next (effect c { s with pending := rest }) :=
      step_of_wellFormed hp (hq c List.mem_cons_self)
    simp only [List.length_cons, Host.Core.run, hstep]
    exact ih _ (by simp) fun d hd => hq d (List.mem_cons_of_mem c hd)

/-- Settles O53: each command's effect is a state with the queue as it stood, and a queue runs by induction on it. -/
theorem wellFormedCommandsGoOn : Obligations.WellFormedCommandsGoOn :=
  ⟨fun c s h => ⟨_, exec_of_wellFormed h s, effect_pending c s⟩, fun _ s h => exec_of_illFormed h s,
    fun s hq => run_of_wellFormed s.pending s rfl hq⟩

end Sys2Proof.Machine
end

section
/-! SUPPORT. The edges of the claim lines reach ladders, fuel, flare, share, queue and mode by a few operations alone.
A law that those keep is kept by every event of a line: by a rise, a fall, a wake, an own claim, an event of a peer. -/

namespace Sys2Proof.Machine

/-- ACTIVE entered, before the pending lines are resampled. -/
def activated (s : State) : State :=
  rebuildWant ((s.setMc { s.mc with mode := .active, latch := emptyLatch }).setSe { s.se with roundCount := 0 })

theorem enterActive_eq (s : State) : enterActive s = resamplePending (activated s) := rfl

/-- A source set written: as it stood, or with a number in or out. -/
def SourcesEdited (x y : LineState) : Prop :=
  y.sources = x.sources ∨ ∃ n, y.sources = setAdd n x.sources ∨ y.sources = setRemove n x.sources

/-- A law that a ladder's rise and fall, a request of the LIU and what a wake does all keep. In LOADING no ladder
rises. -/
structure EdgeKept (P : State → Prop) : Prop where
  drawn : ∀ s, P s → P (drawn s)
  enqueue : ∀ b s, P s → P (enqueue b s)
  ladderRise : ∀ l s, s.mc.mode ≠ .loading → P s → P (ladderRise l s)
  ladderFall : ∀ l s, P s → P (ladderFall l s)
  setPending : ∀ b l s, P s → P (setPending b l s)
  latch : ∀ x s, P s → P (s.setMc { s.mc with latch := x })
  activated : ∀ s, P s → P (activated s)
  enterListenIn : ∀ s, P s → P (enterListenIn s)

/-- An edge law that says nothing of a line but that its source set was edited. -/
structure LineKept (P : State → Prop) : Prop extends EdgeKept P where
  setLine : ∀ l x s, SourcesEdited (s.cu.get l) x → P s → P (setLine l x s)

namespace EdgeKept

variable {P : State → Prop} (h : EdgeKept P)
include h

theorem orderDrawn {α : Type} (l : List α) {s : State} (hs : P s) : P (orderDrawn l s) := by
  simp only [Machine.orderDrawn]
  split
  · exact hs
  · exact h.drawn s hs

theorem clearPending (ls : List ClaimLine) {s : State} (hs : P s) : P (clearPending ls s) := by
  induction ls generalizing s with
  | nil => exact hs
  | cons l rest ih => exact ih (h.setPending false l s hs)

theorem handRises (ls : List ClaimLine) {s : State} (hm : s.mc.mode ≠ .loading) (hs : P s) : P (handRises ls s) := by
  induction ls generalizing s with
  | nil => exact hs
  | cons l rest ih => exact ih (by simpa using hm) (h.ladderRise l s hm hs)

theorem enterActive {s : State} (hs : P s) : P (enterActive s) := by
  rw [enterActive_eq, resamplePending]
  refine h.handRises _ ?_ (h.orderDrawn _ (h.clearPending _ (h.activated s hs)))
  simp [Machine.activated]

theorem actOnLatch {s : State} (hs : P s) : P (actOnLatch s) := by
  simp only [Machine.actOnLatch]
  split
  · split
    · exact h.enterActive hs
    · exact hs
  · split
    · exact h.enterListenIn s hs
    · exact hs
  all_goals exact hs

theorem latchCause (c : WakeCause) {s : State} (hs : P s) : P (latchCause c s) := by
  simp only [Machine.latchCause]
  split
  · exact hs
  · exact h.actOnLatch (h.latch _ s hs)

theorem noteRise (l : ClaimLine) {s : State} (hs : P s) : P (noteRise l s) := by
  have ht : P (if heldBack l s then Machine.setPending true l s else s) := by
    split
    · exact h.setPending true l s hs
    · exact hs
  simp only [Machine.noteRise]
  split
  · exact h.latchCause _ ht
  · exact ht

omit h in
/-- A wake cause does not bring LOADING about. -/
theorem latchCause_mode (c : WakeCause) {s : State} (hm : s.mc.mode ≠ .loading) :
    (Machine.latchCause c s).mc.mode ≠ .loading := by
  simp only [Machine.latchCause, Machine.actOnLatch]
  (repeat' split) <;> simp_all [enterActive_eq, Machine.activated, Machine.enterListenIn]

omit h in
theorem noteRise_mode (l : ClaimLine) {s : State} (hm : s.mc.mode ≠ .loading) :
    (Machine.noteRise l s).mc.mode ≠ .loading := by
  simp only [Machine.noteRise]
  split
  · exact latchCause_mode _ (by split <;> simpa using hm)
  · split <;> simpa using hm

omit h in
/-- In LOADING a rise that is not held back meets a ladder that is not IDLE, and changes nothing. -/
theorem ladderRise_noteRise_loading (l : ClaimLine) {s : State} (hm : s.mc.mode = .loading)
    (hb : heldBack l s = false) : Machine.ladderRise l (Machine.noteRise l s) = s := by
  have hn : Machine.noteRise l s = s := by simp [Machine.noteRise, hb, Machine.latchCause, hm]
  have hi : (s.rl.get l).state ≠ .idle := by
    simpa [heldBack, masked, modeMasks, hm] using hb
  rw [hn, Machine.ladderRise]
  split <;> simp_all

theorem rise (l : ClaimLine) {s : State} (hs : P s) : P (rise l s) := by
  simp only [Machine.rise]
  split
  · exact h.noteRise l hs
  · next hb =>
    by_cases hm : s.mc.mode = .loading
    · rwa [ladderRise_noteRise_loading l hm (by simpa using hb)]
    · exact h.ladderRise l _ (noteRise_mode l hm) (h.noteRise l hs)

theorem fall (l : ClaimLine) {s : State} (hs : P s) : P (fall l s) :=
  h.ladderFall l _ (h.setPending false l s hs)

theorem handEdge (before : State) (l : ClaimLine) {s : State} (hm : s.mc.mode ≠ .loading) (hs : P s) :
    P (handEdge before l s) := by
  simp only [Machine.handEdge]
  split
  · exact hs
  · split
    · split
      · exact hs
      · exact h.ladderRise l s hm hs
    · exact h.ladderFall l s hs

theorem handEdges (before : State) (ls : List ClaimLine) {s : State} (hm : s.mc.mode ≠ .loading) (hs : P s) :
    P (handEdges before ls s) := by
  induction ls generalizing s with
  | nil => exact hs
  | cons l rest ih => exact ih (by simpa using hm) (h.handEdge before l hm hs)

end EdgeKept

namespace LineKept

variable {P : State → Prop} (h : LineKept P)
include h

theorem setBitWith (edge : State → State) (he : ∀ t, P t → P (edge t)) (n : Nat) (l : ClaimLine) {s : State}
    (hs : P s) : P (setBitWith edge n l s) := by
  have ht := h.setLine l { s.cu.get l with sources := setAdd n (s.cu.get l).sources } s (.inr ⟨n, .inl rfl⟩) hs
  simp only [Machine.setBitWith]
  split
  · exact hs
  · split
    · exact he _ ht
    · exact ht

theorem clearBitWith (edge : State → State) (he : ∀ t, P t → P (edge t)) (n : Nat) (l : ClaimLine) {s : State}
    (hs : P s) : P (clearBitWith edge n l s) := by
  have ht := h.setLine l { s.cu.get l with sources := setRemove n (s.cu.get l).sources } s (.inr ⟨n, .inr rfl⟩) hs
  simp only [Machine.clearBitWith]
  split
  · split
    · exact he _ ht
    · exact ht
  · exact hs

theorem setBit (n : Nat) (l : ClaimLine) {s : State} (hs : P s) : P (setBit n l s) :=
  h.setBitWith _ (fun _ => h.rise l) n l hs

theorem clearBit (n : Nat) (l : ClaimLine) {s : State} (hs : P s) : P (clearBit n l s) :=
  h.clearBitWith _ (fun _ => h.fall l) n l hs

theorem assertOwnWith (edge : State → State) (he : ∀ t, P t → P (edge t)) (l : ClaimLine) {s : State} (hs : P s) :
    P (assertOwnWith edge l s) := by
  simp only [Machine.assertOwnWith]
  split
  · exact hs
  · exact h.enqueue _ _ (h.setBitWith edge he _ l (h.setLine l _ s (.inl rfl) hs))

theorem releaseOwnWith (edge : State → State) (he : ∀ t, P t → P (edge t)) (l : ClaimLine) {s : State} (hs : P s) :
    P (releaseOwnWith edge l s) := by
  simp only [Machine.releaseOwnWith]
  split
  · exact h.enqueue _ _ (h.clearBitWith edge he _ l (h.setLine l _ s (.inl rfl) hs))
  · exact hs

theorem assertOwn (l : ClaimLine) {s : State} (hs : P s) : P (assertOwn l s) :=
  h.assertOwnWith _ (fun _ => h.rise l) l hs

theorem releaseOwn (l : ClaimLine) {s : State} (hs : P s) : P (releaseOwn l s) :=
  h.releaseOwnWith _ (fun _ => h.fall l) l hs

theorem assertInRound (l : ClaimLine) {s : State} (hs : P s) : P (assertInRound l s) :=
  h.assertOwnWith _ (fun _ => h.noteRise l) l hs

theorem releaseInRound (l : ClaimLine) {s : State} (hs : P s) : P (releaseInRound l s) :=
  h.releaseOwnWith _ (fun _ => h.setPending false l _) l hs

theorem releaseAll (ls : List ClaimLine) {s : State} (hs : P s) : P (releaseAll ls s) := by
  induction ls generalizing s with
  | nil => exact hs
  | cons l rest ih => exact ih (h.releaseOwn l hs)

theorem bandClaims (b : Band) {s : State} (hs : P s) : P (bandClaims b s) := by
  simp only [Machine.bandClaims]
  split
  · exact h.releaseOwn _ (h.releaseOwn _ hs)
  · exact h.releaseOwn _ (h.releaseOwn _ hs)
  · exact h.assertOwn _ (h.releaseOwn _ hs)
  · exact h.assertOwn _ (h.releaseOwn _ hs)
  · exact h.assertOwn _ (h.releaseOwn _ hs)
  · exact h.assertOwn _ (h.releaseOwn _ hs)

theorem applyClaim (n : Nat) (set : Six Bool) (l : ClaimLine) {s : State} (hs : P s) : P (applyClaim n set l s) := by
  simp only [Machine.applyClaim]
  split
  · exact h.setBit n l hs
  · exact h.clearBit n l hs

theorem applyClaimsOn (n : Nat) (set : Six Bool) (ls : List ClaimLine) {s : State} (hs : P s) :
    P (applyClaimsOn n set ls s) := by
  induction ls generalizing s with
  | nil => exact hs
  | cons l rest ih => exact ih (h.applyClaim n set l hs)

theorem applyClaims (n : Nat) (set : Six Bool) {s : State} (hs : P s) : P (applyClaims n set s) :=
  h.applyClaimsOn n set _ (h.orderDrawn _ hs)

theorem applyEdge (n : Nat) (l : ClaimLine) (e : Edge) {s : State} (hs : P s) : P (applyEdge n l e s) := by
  cases e with
  | assert => exact h.setBit n l hs
  | release => exact h.clearBit n l hs

end LineKept

end Sys2Proof.Machine
end

section
/-! SUPPORT. A law that says nothing of the share, the port, the holder, the turbine, the meter and the peers, and of
the mode at most whether it is LOADING, is kept by every event of a peer, by every round and by every mode entry. -/

namespace Sys2Proof.Machine

/-- A law of a block that these operations keep. -/
structure BlockKept (P : State → Prop) : Prop where
  drawn : ∀ s, P s → P (drawn s)
  enqueue : ∀ b s, P s → P (enqueue b s)
  ladderRise : ∀ l s, s.mc.mode ≠ .loading → P s → P (ladderRise l s)
  ladderFall : ∀ l s, P s → P (ladderFall l s)
  setLine : ∀ l x s, SourcesEdited (s.cu.get l) x → P s → P (setLine l x s)
  markPending : ∀ s, P s → P (markPending s)
  clearLadders : ∀ s, P s → P (clearLadders s)
  clearLines : ∀ s, P s → P (s.setCu (Six.all .reset))
  takeHead : ∀ s, P s → P (takeHead s)
  lineSleeps : ∀ s, P s → P (lineSleeps s)
  lineLeaves : ∀ s, P s → P (lineLeaves s)
  setPeers : ∀ x s, P s → P (s.setPeers x)
  setSe : ∀ x s, P s → P (s.setSe x)
  setHu : ∀ x s, P s → P (s.setHu x)
  setTurbine : ∀ x s, P s → P (s.setTurbine x)
  fraction : ∀ s, P s → P (recomputeFraction s)
  shortClose : ∀ s, P s → P (shortClose s)
  setFp : ∀ x s, P s → P (s.setFp x)
  setMc : ∀ x s, x.node = s.mc.node → x.config = s.mc.config → (x.mode = s.mc.mode ∨ x.mode ≠ .loading) → P s →
    P (s.setMc x)

namespace BlockKept

variable {P : State → Prop} (h : BlockKept P)
include h

theorem sendField (m : FieldOut) {s : State} (hs : P s) : P (sendField m s) := h.setFp _ s hs

theorem enterFallback {s : State} (hs : P s) : P (enterFallback s) := by
  simp only [Machine.enterFallback]
  split
  · exact h.sendField _ (h.setSe _ s hs)
  · exact h.setSe _ s hs

theorem rebuildWant {s : State} (hs : P s) : P (rebuildWant s) := by
  simp only [Machine.rebuildWant]
  split
  · exact hs
  · split
    · exact h.sendField _ (h.setSe _ s hs)
    · exact h.setSe _ s hs

theorem raiseFault (k : FaultKind) {s : State} (hs : P s) : P (raiseFault k s) := by
  have ht := h.setMc { s.mc with faults := faultsRaised k s.dc.time s.mc.faults } s rfl rfl (.inl rfl) hs
  simp only [Machine.raiseFault]
  split
  · exact h.enterFallback ht
  · exact ht

theorem clearFault (k : FaultKind) {s : State} (hs : P s) : P (clearFault k s) := h.setMc _ s rfl rfl (.inl rfl) hs

theorem setPending (b : Bool) (l : ClaimLine) {s : State} (hs : P s) : P (setPending b l s) :=
  h.setLine l _ s (.inl rfl) hs

theorem activated {s : State} (hs : P s) : P (activated s) :=
  h.rebuildWant (h.setSe _ _ (h.setMc _ s rfl rfl (.inr nofun) hs))

theorem enterListenIn {s : State} (hs : P s) : P (enterListenIn s) :=
  h.rebuildWant (h.markPending _ (h.enterFallback (h.setSe _ _ (h.enqueue _ _ (h.setFp _ _
    (h.setMc _ s rfl rfl (.inr nofun) hs))))))

/-- A law of a block is a law of the lines' edges. -/
theorem lineKept : LineKept P where
  drawn := h.drawn
  enqueue := h.enqueue
  ladderRise := h.ladderRise
  ladderFall := h.ladderFall
  setPending b l _ := h.setPending b l
  latch _ s := h.setMc _ s rfl rfl (.inl rfl)
  activated _ := h.activated
  enterListenIn _ := h.enterListenIn
  setLine := h.setLine

/-! ### Events of a peer -/

theorem reportEntry (e : PeerEntry) {s : State} (hs : P s) : P (reportEntry e s) := by
  simp only [Machine.reportEntry]
  split
  · split
    · exact h.fraction s hs
    · exact hs
  · split
    · exact h.rebuildWant (h.setTurbine _ s hs)
    · exact hs
  all_goals exact hs

theorem removeEntry (n : Nat) (e : PeerEntry) {s : State} (hs : P s) : P (removeEntry n e s) :=
  h.reportEntry e (h.lineKept.applyClaims n _ (h.setPeers _ s hs))

theorem removeIfPresent (n : Nat) {s : State} (hs : P s) : P (removeIfPresent n s) := by
  simp only [Machine.removeIfPresent]
  split
  · exact h.removeEntry n _ hs
  · exact hs

theorem writeEntry (n : Nat) (e : PeerEntry) {s : State} (hs : P s) : P (writeEntry n e s) :=
  h.reportEntry e (h.lineKept.applyClaims n _ (h.setPeers _ s hs))

theorem takeState (n : Nat) (x : StateRead) {s : State} (hs : P s) : P (takeState n x s) := by
  simp only [Machine.takeState]
  split
  · exact h.writeEntry n _ hs
  · split
    · exact h.writeEntry n _ hs
    · exact h.writeEntry n _ (h.removeEntry n _ hs)

theorem takeHello (n : Nat) (x : HelloRead) {s : State} (hs : P s) : P (takeHello n x s) := by
  simp only [Machine.takeHello]
  split
  · exact h.setPeers _ s hs
  · split
    · exact h.setPeers _ _ (h.removeEntry n _ hs)
    · split
      · exact h.lineKept.applyClaims n _ (h.setPeers _ s hs)
      · exact h.setPeers _ s hs

theorem takeClaim (n : Nat) (l : ClaimLine) (e : Edge) {s : State} (hs : P s) : P (takeClaim n l e s) := by
  simp only [Machine.takeClaim]
  split
  · exact hs
  · exact h.lineKept.applyEdge n l e (h.setPeers _ s hs)

theorem stateDelivered {s : State} (hs : P s) : P (effect .stateDelivered s) := by
  rw [effect_stateDelivered]
  split
  · exact hs
  · split
    · exact h.takeState _ _ (h.takeHead s hs)
    · exact h.takeHead s hs

theorem helloDelivered {s : State} (hs : P s) : P (effect .helloDelivered s) := by
  rw [effect_helloDelivered]
  split
  · exact hs
  · split
    · exact h.removeIfPresent _ (h.takeHead s hs)
    · exact h.takeHello _ _ (h.takeHead s hs)
    · exact h.takeHead s hs

theorem claimDelivered {s : State} (hs : P s) : P (effect .claimDelivered s) := by
  rw [effect_claimDelivered]
  split
  · exact hs
  · split
    · exact h.takeClaim _ _ _ (h.takeHead s hs)
    · exact h.takeHead s hs

theorem leaveDelivered {s : State} (hs : P s) : P (effect .leaveDelivered s) := by
  rw [effect_leaveDelivered]
  split
  · exact hs
  · exact h.removeIfPresent _ (h.takeHead s hs)

theorem wakeDelivered {s : State} (hs : P s) : P (effect .wakeDelivered s) := by
  rw [effect_wakeDelivered]
  split
  · exact hs
  · split
    · exact h.lineKept.latchCause _ (h.takeHead s hs)
    · exact h.takeHead s hs

theorem recordFrameDiscarded {s : State} (hs : P s) : P (effect .recordFrameDiscarded s) := by
  rw [effect_recordFrameDiscarded]
  split
  · exact h.takeHead s hs
  · exact hs

theorem entryGoesStale (node : Node) {s : State} (hs : P s) : P (effect (.entryGoesStale node) s) := by
  rw [effect_entryGoesStale]
  split
  · exact hs
  · split
    · exact h.reportEntry _ (h.setPeers _ s hs)
    · exact hs

theorem entryGoesAbsent (node : Node) {s : State} (hs : P s) : P (effect (.entryGoesAbsent node) s) := by
  rw [effect_entryGoesAbsent]
  split
  · exact hs
  · split
    · exact h.removeEntry _ _ hs
    · exact hs

/-! ### Field Port messages and timers of the port, the holder and the Mode Controller -/

theorem linkRestored {s : State} (hs : P s) : P (linkRestored s) := h.clearFault _ (h.setFp _ s hs)

theorem fieldMessage (k : FieldKind) (take : State → State) (ht : ∀ t, P t → P (take t)) {s : State} (hs : P s) :
    P (fieldMessage k take s) := by
  simp only [Machine.fieldMessage]
  split
  · exact hs
  · split
    · exact ht _ (h.linkRestored hs)
    · exact h.linkRestored hs

theorem fieldMessageDiscarded (r : DiscardReason) {s : State} (hs : P s) : P (effect (.fieldMessageDiscarded r) s) := by
  rw [effect_fieldMessageDiscarded]
  split
  · exact hs
  · split
    · exact hs
    · exact h.linkRestored hs

theorem fieldLinkLost {s : State} (hs : P s) : P (effect .fieldLinkLost s) := by
  rw [effect_fieldLinkLost]
  split
  · exact h.raiseFault _ (h.setFp _ s hs)
  · exact hs

theorem capability (su : Nat) {s : State} (hs : P s) : P (effect (.capability su) s) :=
  h.fieldMessage _ _ (fun t ht => h.rebuildWant (h.setSe _ t ht)) hs

theorem gasMeasure (su : Nat) {s : State} (hs : P s) : P (effect (.gasMeasure su) s) :=
  h.fieldMessage _ _ (fun t ht => h.setSe _ t ht) hs

theorem heatOut (su : Nat) {s : State} (hs : P s) : P (effect (.heatOut su) s) :=
  h.fieldMessage _ _ (fun t ht => h.setSe _ t ht) hs

theorem resume {s : State} (hs : P s) : P (effect .resume s) :=
  h.fieldMessage _ _ (fun _ ht => h.lineKept.latchCause _ ht) hs

theorem takeStandbyRequest (level : StandbyLevel) (clearWake : Bool) {s : State} (hs : P s) :
    P (takeStandbyRequest level clearWake s) := by
  simp only [Machine.takeStandbyRequest, standbyOutcome, requestWaits]
  split
  · exact h.setMc _ s rfl rfl (.inl rfl) hs
  · split
    · exact h.setMc _ s rfl rfl (.inl rfl) hs
    · exact h.setMc _ s rfl rfl (.inl rfl) hs
    · exact h.setMc _ s rfl rfl (.inl rfl) hs
    · split
      · exact h.setMc _ s rfl rfl (.inl rfl) hs
      · exact h.setMc _ s rfl rfl (.inl rfl) hs
    · exact h.setMc _ s rfl rfl (.inl rfl) hs
    · exact hs
    · exact hs

theorem standbyRequest (level : StandbyLevel) (clearWake : Bool) {s : State} (hs : P s) :
    P (effect (.standbyRequest level clearWake) s) :=
  h.fieldMessage _ _ (fun _ ht => h.takeStandbyRequest level clearWake ht) hs

theorem sendNodeStatus {s : State} (hs : P s) : P (sendNodeStatus s) := h.sendField _ hs

theorem statusAtEntry {s : State} (hs : P s) : P (statusAtEntry s) := h.sendNodeStatus (h.setFp _ s hs)

theorem nodeStatusTimer {s : State} (hs : P s) : P (effect .nodeStatusTimer s) := by
  rw [effect_nodeStatusTimer]
  split
  · exact h.statusAtEntry hs
  · exact hs

theorem listenOnlyHelloTimer {s : State} (hs : P s) : P (effect .listenOnlyHelloTimer s) := by
  rw [effect_listenOnlyHelloTimer]
  split
  · exact h.enqueue _ _ (h.drawn _ (h.setMc _ s rfl rfl (.inl rfl) hs))
  · exact hs

theorem sendResetReady {s : State} (hs : P s) : P (sendResetReady s) :=
  h.setMc _ _ rfl rfl (.inl rfl) (h.sendField _ hs)

theorem readyTimerExpiry {s : State} (hs : P s) : P (effect .readyTimerExpiry s) := by
  rw [effect_readyTimerExpiry]
  split
  · exact h.sendResetReady hs
  · exact hs

theorem returnTimerExpiry {s : State} (hs : P s) : P (effect .returnTimerExpiry s) := by
  have hw : P (warningOver s) := h.setMc _ s rfl rfl (.inl rfl) hs
  rw [effect_returnTimerExpiry]
  split
  · split
    · simp only [returnToListenIn]
      split
      · exact h.lineKept.bandClaims _ (h.enterListenIn hw)
      · exact h.enterListenIn hw
    · exact hw
  · exact hs

theorem floorEntry {s : State} (hs : P s) : P (floorEntry s) := by
  have hc : ∀ n r, P (commandFlare n r s) := fun n r => h.setHu _ _ (h.sendField _ hs)
  simp only [Machine.floorEntry]
  (repeat' split)
  · exact hc _ _
  · exact hs
  · exact hc _ _
  · exact hs

theorem bandChanged {s : State} (hs : P s) : P (bandChanged s) := by
  have ht : P (if claimsFollowBand s.mc.mode then Machine.bandClaims s.hu.band s else s) := by
    split
    · exact h.lineKept.bandClaims _ hs
    · exact hs
  simp only [Machine.bandChanged]
  split
  · exact h.floorEntry ht
  · exact ht

theorem takeLevel (st : SampleStatus) (v : Nat) {s : State} (hs : P s) : P (takeLevel st v s) := by
  cases st with
  | bad => exact hs
  | ok =>
    have ht := h.clearFault .levelLost (h.setHu { s.hu with
      level := holdPerMille v, levelTimer := some 30
      band := bandAfter s.mc.config s.hu.band (holdPerMille v) } s hs)
    simp only [Machine.takeLevel, levelSample]
    split
    · exact ht
    · exact h.bandChanged ht

theorem level (st : SampleStatus) (v : Nat) {s : State} (hs : P s) : P (effect (.level st v) s) :=
  h.fieldMessage _ _ (fun _ ht => h.takeLevel st v ht) hs

theorem levelLost {s : State} (hs : P s) : P (effect .levelLost s) := by
  rw [effect_levelLost]
  split
  · exact h.raiseFault _ hs
  · exact hs

/-! ### Mode entries and rounds -/

theorem engineReleases {s : State} (hs : P s) : P (engineReleases s) := h.lineKept.releaseAll _ (h.setSe _ s hs)

theorem releaseAndClear {s : State} (hs : P s) : P (releaseAndClear s) := by
  simp only [Machine.releaseAndClear]
  split
  · split
    · exact h.engineReleases (h.clearLadders _ (h.drawn s hs))
    · exact h.clearLadders _ (h.engineReleases (h.drawn s hs))
  · exact h.engineReleases (h.clearLadders s hs)

theorem enterStandbyListen {s : State} (hs : P s) : P (enterStandbyListen s) :=
  h.markPending _ (h.rebuildWant (h.releaseAndClear (h.setSe _ _ (h.enterFallback
    (h.setMc _ s rfl rfl (.inr nofun) hs)))))

theorem enterStandbyDeep {s : State} (hs : P s) : P (enterStandbyDeep s) :=
  h.rebuildWant (h.clearLines _ (h.clearLadders _ (h.enterFallback (h.setSe _ _ (h.setPeers _ _ (h.lineSleeps _
    (h.setMc _ s rfl rfl (.inr nofun) hs)))))))

theorem enterLeaving {s : State} (hs : P s) : P (enterLeaving s) :=
  h.rebuildWant (h.enterFallback (h.lineKept.releaseAll _ (h.engineReleases (h.setSe _ _ (h.lineLeaves _
    (h.setMc _ s rfl rfl (.inr nofun) hs))))))

theorem settleSetpoints {s : State} (hs : P s) : P (settleSetpoints s) := by
  simp only [Machine.settleSetpoints]
  split
  · split
    · exact h.sendField _ (h.setSe _ s hs)
    · exact h.setSe _ s hs
  · exact h.enterFallback hs

theorem computeShare {s : State} (hs : P s) : P (computeShare s) := by
  simp only [Machine.computeShare]
  split
  · exact h.setSe _ s hs
  · exact h.setSe _ s hs

theorem evaluateClaims (effMin : Nat) {s : State} (hs : P s) : P (evaluateClaims effMin s) := by
  have hx : ∀ x, P (s.setSe x) := fun x => h.setSe x s hs
  simp only [Machine.evaluateClaims, evaluateShortfall, evaluateSurplus]
  (repeat' split)
  · exact h.lineKept.assertInRound _ (hx _)
  · exact h.lineKept.releaseInRound _ (hx _)
  · exact hx _
  · exact hx _
  · exact hx _
  · exact h.lineKept.releaseInRound _ (hx _)
  · exact h.lineKept.assertInRound _ (hx _)
  · exact hx _
  · exact hs
  · exact hs

theorem requestState {s : State} (hs : P s) : P (requestState s) := by
  simp only [Machine.requestState]
  split
  · split
    · exact h.enqueue _ s hs
    · exact hs
  · exact hs

theorem requestHello {s : State} (hs : P s) : P (requestHello s) := by
  simp only [Machine.requestHello]
  split
  · exact h.enqueue _ s hs
  · exact hs

theorem roundWork {s : State} (hs : P s) : P (roundWork s) :=
  h.sendNodeStatus (h.requestHello (h.requestState (h.evaluateClaims _ (h.settleSetpoints (h.computeShare
    (h.setSe _ s hs))))))

end BlockKept

/-- That the station is not in LOADING is a law that these operations keep. -/
theorem awake_kept : BlockKept fun s => s.mc.mode ≠ .loading where
  drawn _ h := h
  enqueue _ _ h := by simpa using h
  ladderRise _ _ _ h := by simpa using h
  ladderFall _ _ h := by simpa using h
  setLine _ _ _ _ h := h
  markPending _ h := h
  clearLadders _ h := by simpa using h
  clearLines _ h := h
  takeHead _ h := h
  lineSleeps _ h := by simpa using h
  lineLeaves _ h := by simpa using h
  setPeers _ _ h := h
  setSe _ _ h := h
  setHu _ _ h := h
  setTurbine _ _ h := h
  fraction _ h := h
  shortClose _ h := by simpa using h
  setFp _ _ h := h
  setMc x s _ _ hx h := by
    rcases hx with hx | hx
    · simpa [hx] using h
    · simpa using hx

namespace BlockKept

variable {P : State → Prop} (h : BlockKept P)
include h

theorem runRound {s : State} (hm : s.mc.mode ≠ .loading) (hs : P s) : P (runRound s) :=
  h.lineKept.handEdges _ _ (awake_kept.roundWork hm) (h.roundWork hs)

theorem takeEffect (r : StandbyRequest) {s : State} (hs : P s) : P (takeEffect r s) := by
  have ht : P (clearIfAsked r s) := by
    simp only [clearIfAsked]
    split
    · exact h.setMc _ s rfl rfl (.inl rfl) hs
    · exact hs
  simp only [Machine.takeEffect]
  split
  · refine h.lineKept.actOnLatch (h.runRound ?_ (h.setMc _ _ rfl rfl (.inl rfl) (h.enterStandbyListen ht)))
    simp [requestTaken, Machine.enterStandbyListen, Machine.markPending]
  · exact h.lineKept.actOnLatch (h.statusAtEntry (h.setMc _ _ rfl rfl (.inl rfl) (h.enterStandbyDeep ht)))

theorem roundExpires {s : State} (hs : P s) : P (roundExpires s) := by
  simp only [Machine.roundExpires]
  split
  case h_1 hm =>
    split
    · exact h.runRound (awake_kept.lineKept.enterActive (by simp [hm])) (h.lineKept.enterActive hs)
    · exact h.runRound (by simp [hm]) hs
  case h_2 hm =>
    split
    · exact h.takeEffect _ hs
    · exact h.runRound (by simp [hm]) hs
  case h_3 hm =>
    split
    · exact h.takeEffect _ hs
    · exact h.runRound (by simp [hm]) hs
  all_goals exact hs

theorem roundExpiry {s : State} (hs : P s) : P (effect .roundExpiry s) := by
  rw [effect_roundExpiry]
  split
  · exact h.roundExpires (h.setSe _ s hs)
  · exact hs

theorem startReady {s : State} (hs : P s) : P (startReady s) := by
  have ht : P (s.setMc { s.mc with readyTimer := some 2 }) := h.setMc _ s rfl rfl (.inl rfl) hs
  simp only [Machine.startReady]
  split
  · exact h.sendResetReady ht
  · exact ht

theorem takeResetWarning {s : State} (hs : P s) : P (takeResetWarning s) := by
  have hl : P (Machine.statusAtEntry (Machine.startReady (Machine.shortClose (Machine.enterLeaving s)))) :=
    h.statusAtEntry (h.startReady (h.shortClose _ (h.enterLeaving hs)))
  simp only [Machine.takeResetWarning]
  split
  · exact hl
  · exact hl
  · exact hl
  · exact hl
  · exact h.sendResetReady (h.setMc _ s rfl rfl (.inl rfl) hs)
  · exact hs
  · exact hs

theorem resetWarning {s : State} (hs : P s) : P (effect .resetWarning s) :=
  h.fieldMessage _ _ (fun _ ht => h.takeResetWarning ht) hs

end BlockKept

end Sys2Proof.Machine
end

section
/-! SUPPORT. The commands that a law of a block is kept by, whatever the law. -/

namespace Sys2Proof.Machine

/-- The events of peers, rounds, modes and the port, that reach a block through the lines' edges alone. -/
def throughBlocks : Instr → Bool
  | .stateDelivered | .helloDelivered | .claimDelivered | .leaveDelivered | .wakeDelivered | .recordFrameDiscarded
  | .entryGoesStale _ | .entryGoesAbsent _ | .fieldMessageDiscarded _ | .fieldLinkLost | .capability _
  | .gasMeasure _ | .heatOut _ | .resume | .standbyRequest _ _ | .nodeStatusTimer | .listenOnlyHelloTimer
  | .readyTimerExpiry | .returnTimerExpiry | .level _ _ | .levelLost | .roundExpiry | .resetWarning => true
  | .powerOnReset | .pinReset | .loadComplete _ _ | .lineAttemptStart _ | .frameSentWhole | .collision
  | .backoffExpiry | .frameReceived _ | .clashTimerExpiry | .timeDelivered | .readDelivered | .meteringSecond
  | .holdMinuteCheck | .syncTimerExpiry | .timeTimerExpiry | .dwellExpiry _ | .undoDwellExpiry _ | .fuelStatus _
  | .changeoverTimeout | .flareStatus _ | .flareTimeout | .demand _ | .heatSample _ _ _ _ | .schedule _ _
  | .exportEnergy _ _ | .timeSet _ _ | .commitEnd _ | .recordPlace _ | .supplyLowAsserted
  | .supplyLowReleased => false

theorem BlockKept.command {P : State → Prop} (h : BlockKept P) {c : Instr} (hc : throughBlocks c = true) {s : State}
    (hs : P s) : P (effect c s) := by
  cases c with
  | stateDelivered => exact h.stateDelivered hs
  | helloDelivered => exact h.helloDelivered hs
  | claimDelivered => exact h.claimDelivered hs
  | leaveDelivered => exact h.leaveDelivered hs
  | wakeDelivered => exact h.wakeDelivered hs
  | recordFrameDiscarded => exact h.recordFrameDiscarded hs
  | entryGoesStale node => exact h.entryGoesStale node hs
  | entryGoesAbsent node => exact h.entryGoesAbsent node hs
  | fieldMessageDiscarded r => exact h.fieldMessageDiscarded r hs
  | fieldLinkLost => exact h.fieldLinkLost hs
  | capability su => exact h.capability su hs
  | gasMeasure su => exact h.gasMeasure su hs
  | heatOut su => exact h.heatOut su hs
  | resume => exact h.resume hs
  | standbyRequest level clearWake => exact h.standbyRequest level clearWake hs
  | nodeStatusTimer => exact h.nodeStatusTimer hs
  | listenOnlyHelloTimer => exact h.listenOnlyHelloTimer hs
  | readyTimerExpiry => exact h.readyTimerExpiry hs
  | returnTimerExpiry => exact h.returnTimerExpiry hs
  | level st v => exact h.level st v hs
  | levelLost => exact h.levelLost hs
  | roundExpiry => exact h.roundExpiry hs
  | resetWarning => exact h.resetWarning hs
  | _ => cases hc

/-- A law of a block that every other command keeps too is kept by every step. -/
theorem BlockKept.step {P : State → Prop} (h : BlockKept P) (queue : ∀ s q, P s → P { s with pending := q })
    (others : ∀ c s, throughBlocks c = false → P s → P (effect c s)) (s t : State) (hs : P s)
    (hstep : step s = .next t) : P t := by
  refine step_keeps queue (fun c s hs => ?_) s t hs hstep
  cases hc : throughBlocks c with
  | true => exact h.command hc hs
  | false => exact others c s hc hs

end Sys2Proof.Machine
end

section
/-! SUPPORT. The law of the Fuel Unit, and that every command keeps it (R107, R109). -/

namespace Sys2Proof.Machine

theorem toMode_inj {f g : Fuel} : toMode f = toMode g ↔ f = g := by
  cases f <;> cases g <;> simp [toMode]

theorem settledMode_ne_toMode (f g : Fuel) : settledMode f ≠ toMode g := by
  cases f <;> cases g <;> simp [settledMode, toMode]

theorem modeAfterTimeout_ne_toMode (f : Fuel) (s : State) : modeAfterTimeout s ≠ toMode f := by
  simp only [modeAfterTimeout]
  split
  · exact settledMode_ne_toMode _ f
  · cases f <;> simp [toMode]

/-- No changeover in flight, and the fuel mode a settled one. -/
def FuelAtRest (fu : FuelUnit) : Prop := fu.flight = none ∧ (∀ f, fu.mode ≠ toMode f) ∧ fu.recorded = none

/-- A changeover in flight, the fuel mode its target's, a recorded target the other one. -/
def FuelMoving (c : Changeover) (fu : FuelUnit) : Prop :=
  fu.flight = some c ∧ fu.mode = toMode c.target ∧ ∀ r, fu.recorded = some r → c.target ≠ r.target

/-- The law of the Fuel Unit: at rest, or moving. -/
theorem fuelLaw_iff {s : State} : FuelLaw s ↔ FuelAtRest s.fu ∨ ∃ c, FuelMoving c s.fu := by
  constructor
  · rintro ⟨hflight, hrecorded⟩
    cases hf : s.fu.flight with
    | none =>
      refine .inl ⟨hf, fun f hm => ?_, ?_⟩
      · simpa [hf] using (hflight f).1 hm
      · cases hr : s.fu.recorded with
        | none => rfl
        | some r => simpa [hf] using hrecorded r hr
    | some c =>
      refine .inr ⟨c, hf, (hflight c.target).2 ⟨c, hf, rfl⟩, fun r hr => ?_⟩
      simpa [hf] using hrecorded r hr
  · rintro (⟨hf, hm, hr⟩ | ⟨c, hf, hm, hr⟩)
    · exact ⟨fun f => by simp [hf, hm f], fun r h => by simp [hr] at h⟩
    · refine ⟨fun f => ?_, fun r h => ⟨c, hf, hr r h⟩⟩
      rw [hm, toMode_inj]
      simp [hf]

theorem FuelLaw.of_fu {s t : State} (h : FuelLaw s) (e : t.fu = s.fu) : FuelLaw t := by
  rw [fuelLaw_iff] at h ⊢
  rwa [e]

theorem startChangeover_fu (f : Fuel) (joined : List ClaimLine) (s : State) :
    (startChangeover f joined s).fu =
      { s.fu with mode := toMode f, flight := some ⟨f, s.mc.config.changeoverLimit, joined⟩ } := by
  simp [startChangeover, setFuelMode]

theorem joinFlight_fu (c : Changeover) (l : ClaimLine) (s : State) :
    (joinFlight c l s).fu = { s.fu with flight := some { c with joined := c.joined ++ [l] }, recorded := none } := by
  simp only [joinFlight]
  split <;> simp

theorem recordTarget_fu_again {f : Fuel} {c : Changeover} {l : ClaimLine} {s : State} {r : RecordedTarget}
    (h : s.fu.recorded = some r) :
    (recordTarget f c l s).fu = { s.fu with recorded := some { r with waiting := r.waiting ++ [l] } } := by
  simp [recordTarget, h]

theorem recordTarget_fu_first {f : Fuel} {c : Changeover} {l : ClaimLine} {s : State} (h : s.fu.recorded = none) :
    (recordTarget f c l s).fu =
      { s.fu with flight := some { c with joined := [] }, recorded := some ⟨f, [l]⟩ } := by
  simp [recordTarget, h]

theorem fuelRequest_fuelLaw (f : Fuel) (l : ClaimLine) (s : State) (h : FuelLaw s) : FuelLaw (fuelRequest f l s) := by
  rcases fuelLaw_iff.1 h with ⟨hf, hm, hr⟩ | ⟨c, hf, hm, hr⟩
  · simp only [fuelRequest, hf]
    split
    · exact h.of_fu (by simp)
    · refine fuelLaw_iff.2 (.inr ⟨⟨f, s.mc.config.changeoverLimit, [l]⟩, ?_⟩)
      rw [startChangeover_fu]
      exact ⟨rfl, rfl, by simp [hr]⟩
  · simp only [fuelRequest, hf]
    split
    · refine fuelLaw_iff.2 (.inr ⟨{ c with joined := c.joined ++ [l] }, ?_⟩)
      rw [joinFlight_fu]
      exact ⟨rfl, hm, nofun⟩
    · next ht =>
      rw [fuelLaw_iff]
      cases hrec : s.fu.recorded with
      | some r =>
        rw [recordTarget_fu_again hrec]
        exact .inr ⟨c, hf, hm, by simpa using hr r hrec⟩
      | none =>
        rw [recordTarget_fu_first hrec]
        exact .inr ⟨{ c with joined := [] }, rfl, hm, by simpa using ht⟩

theorem startRecorded_fuelLaw (r : RecordedTarget) (s : State) : FuelLaw (startRecorded r s) := by
  refine fuelLaw_iff.2 (.inr ⟨⟨r.target, s.mc.config.changeoverLimit, r.waiting⟩, ?_⟩)
  rw [startRecorded, startChangeover_fu]
  exact ⟨rfl, rfl, nofun⟩

theorem fuelReport_fuelLaw (f : Fuel) (s : State) (h : FuelLaw s) : FuelLaw (fuelReport f s) := by
  have rest := fuelLaw_iff.1 h
  simp only [fuelReport]
  split
  · next hf =>
    rcases rest with ⟨_, _, hr⟩ | ⟨c, hc, _⟩
    · refine fuelLaw_iff.2 (.inl ?_)
      simpa [FuelAtRest, setFuelMode, hf, hr] using settledMode_ne_toMode f
    · simp [hf] at hc
  · split
    · simp only [completeChangeover]
      split
      · next hr =>
        refine fuelLaw_iff.2 (.inl ?_)
        simpa [FuelAtRest, hr] using settledMode_ne_toMode f
      · exact startRecorded_fuelLaw _ _
    · exact fuelLaw_iff.2 rest

theorem changeoverExpires_fuelLaw (c : Changeover) (s : State) : FuelLaw (changeoverExpires c s) := by
  simp only [changeoverExpires]
  split
  · next hr =>
    refine fuelLaw_iff.2 (.inl ?_)
    simpa [FuelAtRest, setFuelMode, hr] using fun f => modeAfterTimeout_ne_toMode f s
  · split
    · refine fuelLaw_iff.2 (.inl ?_)
      simpa [FuelAtRest, setFuelMode] using fun f => modeAfterTimeout_ne_toMode f s
    · exact startRecorded_fuelLaw _ _

theorem recordedWithout_target {l : ClaimLine} {x : Option RecordedTarget} {r : RecordedTarget}
    (h : recordedWithout l x = some r) : ∃ y, x = some y ∧ y.target = r.target := by
  cases x with
  | none => simp [recordedWithout] at h
  | some y =>
    simp only [recordedWithout] at h
    split at h
    · cases h
    · cases h
      exact ⟨y, rfl, rfl⟩

theorem withdrawFuel_fuelLaw (l : ClaimLine) (s : State) (h : FuelLaw s) : FuelLaw (withdrawFuel l s) := by
  rcases fuelLaw_iff.1 h with ⟨hf, hm, hr⟩ | ⟨c, hf, hm, hr⟩
  · refine fuelLaw_iff.2 (.inl ⟨?_, hm, ?_⟩)
    · simp [withdrawFuel, hf]
    · simp [withdrawFuel, hr, recordedWithout]
  · refine fuelLaw_iff.2 (.inr ⟨{ c with joined := dropLine l c.joined }, ?_, hm, fun r hrec => ?_⟩)
    · simp [withdrawFuel, hf]
    · obtain ⟨y, hy, ht⟩ := recordedWithout_target hrec
      exact ht ▸ hr y hy

theorem withdrawAll_fuelLaw (ls : List ClaimLine) (s : State) (h : FuelLaw s) : FuelLaw (withdrawAll ls s) := by
  induction ls generalizing s with
  | nil => exact h
  | cons l rest ih => exact ih _ (withdrawFuel_fuelLaw l s h)

theorem askTake_fuelLaw (a : Action) (l : ClaimLine) (s : State) (h : FuelLaw s) : FuelLaw (askTake a l s) := by
  cases a with
  | fuelBackup => exact fuelRequest_fuelLaw _ l s h
  | fuelGas => exact fuelRequest_fuelLaw _ l s h
  | none => exact h.of_fu (by simp [askTake])
  | raise n => exact h.of_fu (by simp [askTake])
  | shed => exact h.of_fu (by simp [askTake])
  | flareStep => exact h.of_fu (by simp [askTake])
  | wake r => exact h.of_fu (by simp [askTake])

theorem askUndo_fuelLaw (a : Action) (l : ClaimLine) (s : State) (h : FuelLaw s) : FuelLaw (askUndo a l s) := by
  cases a with
  | fuelBackup => exact fuelRequest_fuelLaw _ l s h
  | fuelGas => exact fuelRequest_fuelLaw _ l s h
  | none => exact h.of_fu (by simp [askUndo])
  | raise n => exact h.of_fu (by simp [askUndo])
  | shed => exact h.of_fu (by simp [askUndo])
  | flareStep => exact h.of_fu (by simp [askUndo])
  | wake r => exact h.of_fu (by simp [askUndo])

theorem takeStep_fuelLaw (l : ClaimLine) (s : State) (h : FuelLaw s) : FuelLaw (takeStep l s) := by
  simp only [takeStep]
  split
  · exact h
  · exact askTake_fuelLaw _ l _ (h.of_fu (by simp))

theorem undoStep_fuelLaw (l : ClaimLine) (s : State) (h : FuelLaw s) : FuelLaw (undoStep l s) := by
  simp only [undoStep]
  split
  · exact h
  · split
    · exact h
    · exact askUndo_fuelLaw _ l _ (h.of_fu (by simp))

theorem resampleDwell_fuelLaw (l : ClaimLine) (s : State) (h : FuelLaw s) : FuelLaw (resampleDwell l s) := by
  simp only [resampleDwell]
  split
  · split
    · exact takeStep_fuelLaw l s h
    · exact h.of_fu (by simp)
  · exact undoStep_fuelLaw l s h

theorem resampleUndoDwell_fuelLaw (l : ClaimLine) (s : State) (h : FuelLaw s) : FuelLaw (resampleUndoDwell l s) := by
  simp only [resampleUndoDwell]
  split
  · exact takeStep_fuelLaw l s h
  · split
    · exact h.of_fu (by simp)
    · exact undoStep_fuelLaw l s h

/-- The law of the Fuel Unit is kept by every event of a line, of a peer, of a round and of a mode. -/
theorem fuelLaw_kept : BlockKept FuelLaw where
  drawn _ h := h.of_fu rfl
  enqueue _ _ h := h.of_fu (by simp)
  ladderRise l s _ h := by
    simp only [ladderRise]
    split
    · exact takeStep_fuelLaw l s h
    all_goals exact h
  ladderFall l s h := by
    simp only [ladderFall]
    split
    · exact undoStep_fuelLaw l s h
    all_goals exact h
  setLine _ _ _ _ h := h.of_fu rfl
  markPending _ h := h.of_fu rfl
  clearLadders s h := (withdrawAll_fuelLaw allLines s h).of_fu (by simp [clearLadders])
  clearLines _ h := h.of_fu rfl
  takeHead _ h := h.of_fu rfl
  lineSleeps _ h := h.of_fu (by simp)
  lineLeaves _ h := h.of_fu (by simp)
  setPeers _ _ h := h.of_fu rfl
  setSe _ _ h := h.of_fu rfl
  setHu _ _ h := h.of_fu rfl
  setTurbine _ _ h := h.of_fu rfl
  fraction _ h := h.of_fu rfl
  shortClose _ h := h.of_fu (by simp)
  setFp _ _ h := h.of_fu rfl
  setMc _ _ _ _ _ h := h.of_fu rfl

end Sys2Proof.Machine
end

section
/-! The statement about the Fuel Unit's law. -/

namespace Sys2Proof.Machine

/-- The commands that are neither an event of the lines nor one of the Fuel Unit or a ladder leave the Fuel Unit but for
its timer, which the metering second counts down. -/
theorem effect_fuelLaw (c : Instr) (s : State) (hc : throughBlocks c = false) (h : FuelLaw s) :
    FuelLaw (effect c s) := by
  cases c with
  | powerOnReset => exact lawsHoldAtReset.2.1.of_fu rfl
  | pinReset => exact lawsHoldAtReset.2.1.of_fu rfl
  | fuelStatus f =>
    exact fuelLaw_kept.fieldMessage _ _ (fuelReport_fuelLaw f) h
  | changeoverTimeout =>
    rw [effect_changeoverTimeout]
    split
    · split
      · exact changeoverExpires_fuelLaw _ s
      · exact h
    · exact h
  | dwellExpiry l =>
    rw [effect_dwellExpiry]
    split
    · exact resampleDwell_fuelLaw l s h
    · exact h
  | undoDwellExpiry l =>
    rw [effect_undoDwellExpiry]
    split
    · exact resampleUndoDwell_fuelLaw l s h
    · exact h
  | meteringSecond =>
    rw [effect_meteringSecond]
    split
    · exact h.of_fu rfl
    · have ht : FuelLaw (tickTimers (s.setDc (trimmed s.dc))) := by
        rcases fuelLaw_iff.1 h with ⟨hf, hm, hr⟩ | ⟨c, hf, hm, hr⟩
        · exact fuelLaw_iff.2 (.inl ⟨by simp [tickTimers, hf], by simpa using hm, by simpa using hr⟩)
        · exact fuelLaw_iff.2 (.inr ⟨{ c with timer := c.timer - 1 }, by simp [tickTimers, hf], by simpa using hm,
            by simpa using hr⟩)
      exact ht.of_fu (by simp)
  | _ =>
    cases hc <;>
    refine h.of_fu ?_ <;>
    simp only [effect_loadComplete, effect_lineAttemptStart, effect_frameSentWhole, effect_collision,
      effect_backoffExpiry, effect_frameReceived, effect_clashTimerExpiry, effect_timeDelivered, effect_readDelivered,
      effect_holdMinuteCheck, effect_syncTimerExpiry, effect_timeTimerExpiry, effect_flareStatus, effect_flareTimeout,
      effect_demand, effect_heatSample, effect_schedule, effect_exportEnergy, effect_timeSet, effect_commitEnd,
      effect_recordPlace, effect_supplyLowAsserted, effect_supplyLowReleased, fieldMessage] <;>
    (repeat' split) <;> simp

/-- Every step keeps the Fuel Unit's law. -/
theorem step_fuelLaw (s t : State) (h : FuelLaw s) (hstep : step s = .next t) : FuelLaw t :=
  fuelLaw_kept.step (fun _ _ h => h.of_fu rfl) effect_fuelLaw s t h hstep

end Sys2Proof.Machine
end

section
/-! SUPPORT. The law of the Response Ladders, and that every command keeps it (R93, R103). -/

namespace Sys2Proof.Machine

/-- A ladder within its steps: none taken while IDLE, at least one while it stands on one. -/
def LadderOk (steps : Nat) (x : Ladder) : Prop :=
  x.taken ≤ steps ∧ (x.state = .idle → x.taken = 0) ∧
    (x.state = .stepping ∨ x.state = .dwell ∨ x.state = .top → 1 ≤ x.taken)

theorem ladderLaw_iff {s : State} : LadderLaw s ↔
    (∀ l, LadderOk (ladderSteps l s).length (s.rl.get l)) ∧ (s.mc.mode = .loading → ∀ l, (s.rl.get l).state = .idle) :=
  ⟨fun h => ⟨fun l => ⟨h.taken l, h.idle l, h.standing l⟩, h.loading⟩,
    fun ⟨h, hl⟩ => ⟨fun l => (h l).1, fun l => (h l).2.1, fun l => (h l).2.2, hl⟩⟩

/-- The law speaks of the ladders, their configured steps and LOADING alone. -/
theorem LadderLaw.of_same {s t : State} (h : LadderLaw s) (hr : t.rl = s.rl) (hc : t.mc.config = s.mc.config)
    (hm : t.mc.mode = .loading → s.mc.mode = .loading) : LadderLaw t := by
  rw [ladderLaw_iff] at h ⊢
  simp only [ladderSteps, hr, hc] at h ⊢
  exact ⟨h.1, fun ht => h.2 (hm ht)⟩

theorem LadderLaw.setLadder {s : State} (h : LadderLaw s) (l : ClaimLine) (x : Ladder)
    (hx : LadderOk (ladderSteps l s).length x) (hm : s.mc.mode = .loading → x.state = .idle) :
    LadderLaw (setLadder l x s) := by
  rw [ladderLaw_iff] at h ⊢
  refine ⟨fun k => ?_, fun ht k => ?_⟩
  · simp only [Machine.setLadder, ladderSteps, State.setRl, Six.get_set]
    split
    · next hk => exact hk ▸ hx
    · exact h.1 k
  · simp only [Machine.setLadder, State.setRl, Six.get_set]
    split
    · exact hm ht
    · exact h.2 ht k

theorem completeAction_ladderLaw (l : ClaimLine) (o : ActionOutcome) (s : State) (h : LadderLaw s) :
    LadderLaw (completeAction l o s) := by
  have hl := (ladderLaw_iff.1 h).1 l
  have hi := fun hm => (ladderLaw_iff.1 h).2 hm l
  simp only [completeAction]
  split
  · next hst => exact h.setLadder l _ ⟨hl.1, nofun, fun _ => hl.2.2 (.inl hst)⟩ (by simp_all)
  · next hst => exact h.setLadder l _ ⟨hl.1, nofun, by simp⟩ (by simp_all)
  all_goals exact h

theorem completeAll_ladderLaw (ls : List ClaimLine) (o : ActionOutcome) (s : State) (h : LadderLaw s) :
    LadderLaw (completeAll ls o s) := by
  induction ls generalizing s with
  | nil => exact h
  | cons l rest ih => exact ih _ (completeAction_ladderLaw l o s h)

theorem rebuildWant_ladderLaw (s : State) (h : LadderLaw s) : LadderLaw (rebuildWant s) :=
  h.of_same (by simp) (by simp) (by simp)

theorem fuelRequest_ladderLaw (f : Fuel) (l : ClaimLine) (s : State) (h : LadderLaw s) :
    LadderLaw (fuelRequest f l s) := by
  have hfu : ∀ x, LadderLaw (s.setFu x) := fun x => h.of_same rfl rfl id
  simp only [fuelRequest]
  split
  · split
    · exact completeAction_ladderLaw l _ s h
    · exact h.of_same (by simp) (by simp) (by simp)
  · split
    · simp only [joinFlight]
      split
      · exact hfu _
      · exact completeAll_ladderLaw _ _ _ (hfu _)
    · simp only [recordTarget]
      split
      · exact hfu _
      · exact completeAll_ladderLaw _ _ _ (hfu _)

theorem startRecorded_ladderLaw (r : RecordedTarget) (s : State) (h : LadderLaw s) : LadderLaw (startRecorded r s) :=
  h.of_same (by simp) (by simp) (by simp)

theorem fuelReport_ladderLaw (f : Fuel) (s : State) (h : LadderLaw s) : LadderLaw (fuelReport f s) := by
  have hcomplete : ∀ ls fu, LadderLaw (completeAll ls .completed (clearFault .changeoverTimeout (s.setFu fu))) :=
    fun ls fu => completeAll_ladderLaw _ _ _ (h.of_same (by simp) (by simp) (by simp))
  simp only [fuelReport]
  split
  · exact h.of_same (by simp) (by simp) (by simp)
  · split
    · simp only [completeChangeover]
      split
      · exact rebuildWant_ladderLaw _ (hcomplete _ _)
      · exact startRecorded_ladderLaw _ _ (hcomplete _ _)
    · exact h.of_same rfl rfl id

theorem changeoverExpires_ladderLaw (c : Changeover) (s : State) (h : LadderLaw s) :
    LadderLaw (changeoverExpires c s) := by
  have hcomplete : ∀ ls m fu, LadderLaw
      (completeAll ls .timedOut (setFuelMode m ((raiseFault .changeoverTimeout s).setFu fu))) :=
    fun ls m fu => completeAll_ladderLaw _ _ _ (h.of_same (by simp) (by simp) (by simp))
  simp only [changeoverExpires]
  split
  · exact hcomplete _ _ _
  · split
    · exact completeAll_ladderLaw _ _ _ ((hcomplete _ _ _).of_same rfl rfl id)
    · exact startRecorded_ladderLaw _ _ (hcomplete _ _ _)

theorem commandFlare_ladderLaw (n : Nat) (r : Option FlareRequest) (s : State) (h : LadderLaw s) :
    LadderLaw (commandFlare n r s) := h.of_same (by simp) (by simp) (by simp)

theorem startFlare_ladderLaw (r : FlareRequest) (s : State) (h : LadderLaw s) : LadderLaw (startFlare r s) := by
  simp only [startFlare]
  split
  · exact completeAction_ladderLaw _ _ s h
  · exact h.of_same (by simp) (by simp) (by simp)

theorem startWaiting_ladderLaw (rs : List FlareRequest) (s : State) (h : LadderLaw s) :
    LadderLaw (startWaiting rs s) := by
  induction rs generalizing s with
  | nil => exact h.of_same rfl rfl id
  | cons r rest ih =>
    have ht := startFlare_ladderLaw r _ (h.of_same (t := s.setHu { s.hu with waiting := rest }) rfl rfl id)
    simp only [startWaiting]
    split
    · exact ht
    · exact ih _ ht

theorem flareRequest_ladderLaw (r : FlareRequest) (s : State) (h : LadderLaw s) : LadderLaw (flareRequest r s) := by
  simp only [flareRequest]
  split
  · exact startFlare_ladderLaw r s h
  · exact h.of_same rfl rfl id

theorem completeFlare_ladderLaw (m : FlareMove) (o : ActionOutcome) (s : State) (h : LadderLaw s) :
    LadderLaw (completeFlare m o s) := by
  have ht : ∀ hu, LadderLaw (reportFlare m o (s.setHu hu)) := by
    intro hu
    simp only [reportFlare]
    split
    · exact completeAction_ladderLaw _ _ _ (h.of_same rfl rfl id)
    · exact h.of_same rfl rfl id
  simp only [completeFlare, afterFlareMove]
  split
  · exact commandFlare_ladderLaw _ _ _ (ht _)
  · exact startWaiting_ladderLaw _ _ (ht _)

theorem flareReport_ladderLaw (p : Nat) (s : State) (h : LadderLaw s) : LadderLaw (flareReport p s) := by
  simp only [flareReport]
  split
  · split
    · exact completeFlare_ladderLaw _ _ _ (h.of_same (by simp) (by simp) (by simp))
    · exact h.of_same rfl rfl id
  · split
    · exact h.of_same (by simp) (by simp) (by simp)
    · exact h.of_same rfl rfl id

theorem askTake_ladderLaw (a : Action) (l : ClaimLine) (s : State) (h : LadderLaw s) : LadderLaw (askTake a l s) := by
  have hr := rebuildWant_ladderLaw s h
  cases a with
  | none => exact completeAction_ladderLaw l _ s h
  | raise n => exact completeAction_ladderLaw l _ _ hr
  | shed => exact completeAction_ladderLaw l _ _ hr
  | fuelBackup => exact fuelRequest_ladderLaw _ l s h
  | fuelGas => exact fuelRequest_ladderLaw _ l s h
  | flareStep => exact flareRequest_ladderLaw _ s h
  | wake r => exact completeAction_ladderLaw l _ _ (h.of_same (by simp) (by simp) (by simp))

theorem askUndo_ladderLaw (a : Action) (l : ClaimLine) (s : State) (h : LadderLaw s) : LadderLaw (askUndo a l s) := by
  have hr := rebuildWant_ladderLaw s h
  cases a with
  | none => exact completeAction_ladderLaw l _ s h
  | raise n => exact completeAction_ladderLaw l _ _ hr
  | shed => exact completeAction_ladderLaw l _ _ hr
  | fuelBackup => exact fuelRequest_ladderLaw _ l s h
  | fuelGas => exact fuelRequest_ladderLaw _ l s h
  | flareStep => exact flareRequest_ladderLaw _ s h
  | wake r => exact completeAction_ladderLaw l _ s h

theorem takeStep_ladderLaw (l : ClaimLine) (s : State) (hm : s.mc.mode ≠ .loading) (h : LadderLaw s) :
    LadderLaw (takeStep l s) := by
  simp only [takeStep]
  split
  · exact h
  · next st hst =>
    obtain ⟨hlt, -⟩ := List.getElem?_eq_some_iff.1 hst
    refine askTake_ladderLaw _ l _ (h.setLadder l _ ⟨hlt, nofun, fun _ => ?_⟩ fun hl => absurd hl hm)
    exact Nat.le_add_left 1 _

theorem undoStep_ladderLaw (l : ClaimLine) (s : State) (hm : s.mc.mode ≠ .loading) (h : LadderLaw s) :
    LadderLaw (undoStep l s) := by
  simp only [undoStep]
  split
  · exact h
  · next k hk =>
    split
    · exact h
    · refine askUndo_ladderLaw _ l _ (h.setLadder l _ ⟨?_, nofun, by simp⟩ fun hl => absurd hl hm)
      have := h.taken l
      show k ≤ _
      omega

theorem ladderFall_ladderLaw (l : ClaimLine) (s : State) (h : LadderLaw s) : LadderLaw (ladderFall l s) := by
  simp only [ladderFall]
  split
  · next ht =>
    refine undoStep_ladderLaw l s (fun hm => ?_) h
    simp [h.loading hm l] at ht
  all_goals exact h

theorem resampleDwell_ladderLaw (l : ClaimLine) (s : State) (hd : (s.rl.get l).state = .dwell) (h : LadderLaw s) :
    LadderLaw (resampleDwell l s) := by
  have hm : s.mc.mode ≠ .loading := fun hm => by simp [h.loading hm l] at hd
  simp only [resampleDwell]
  split
  · split
    · exact takeStep_ladderLaw l s hm h
    · exact h.setLadder l _ ⟨h.taken l, nofun, fun _ => h.standing l (.inr (.inl hd))⟩ fun hl => absurd hl hm
  · exact undoStep_ladderLaw l s hm h

theorem resampleUndoDwell_ladderLaw (l : ClaimLine) (s : State) (hd : (s.rl.get l).state = .undoDwell)
    (h : LadderLaw s) : LadderLaw (resampleUndoDwell l s) := by
  have hm : s.mc.mode ≠ .loading := fun hm => by simp [h.loading hm l] at hd
  simp only [resampleUndoDwell]
  split
  · exact takeStep_ladderLaw l s hm h
  · split
    · next h0 => exact h.setLadder l _ ⟨h.taken l, fun _ => h0, by simp⟩ fun _ => rfl
    · exact undoStep_ladderLaw l s hm h

theorem clearLadders_ladderLaw (s : State) : LadderLaw (clearLadders s) := by
  rw [ladderLaw_iff]
  simp [clearLadders, clearedLadder, LadderOk]

/-- The law of the ladders is kept by every event of a line, of a peer, of a round and of a mode. -/
theorem ladderLaw_kept : BlockKept LadderLaw where
  drawn _ h := h.of_same rfl rfl id
  enqueue _ _ h := h.of_same (by simp) (by simp) (by simp)
  ladderRise l s hm h := by
    simp only [ladderRise]
    split
    · exact takeStep_ladderLaw l s hm h
    all_goals exact h
  ladderFall := ladderFall_ladderLaw
  setLine _ _ _ _ h := h.of_same rfl rfl id
  markPending _ h := h.of_same rfl rfl id
  clearLadders s _ := clearLadders_ladderLaw s
  clearLines _ h := h.of_same rfl rfl id
  takeHead _ h := h.of_same rfl rfl id
  lineSleeps _ h := h.of_same (by simp) (by simp) (by simp)
  lineLeaves _ h := h.of_same (by simp) (by simp) (by simp)
  setPeers _ _ h := h.of_same rfl rfl id
  setSe _ _ h := h.of_same rfl rfl id
  setHu _ _ h := h.of_same rfl rfl id
  setTurbine _ _ h := h.of_same rfl rfl id
  fraction _ h := h.of_same rfl rfl id
  shortClose _ h := h.of_same (by simp) (by simp) (by simp)
  setFp _ _ h := h.of_same rfl rfl id
  setMc x s _ hc hm h := by
    refine h.of_same rfl hc fun ht => ?_
    rcases hm with hm | hm
    · exact hm ▸ ht
    · exact absurd ht hm

end Sys2Proof.Machine
end

section
/-! The statement about the laws of the Fuel Unit and the ladders. -/

namespace Sys2Proof.Machine

/-- A load leaves LOADING, for LISTEN-IN or LISTEN-ONLY (R174). -/
theorem load_mode (strap : Node) (image : Option RawImage) (s : State) :
    (load strap image s).mc.mode = .listenIn ∨ (load strap image s).mc.mode = .listenOnly := by
  simp only [load]
  (repeat' split) <;> simp [notLoaded, loaded, enterListenIn]

/-- The commands that are neither an event of the lines nor one that moves a ladder leave the ladders as they stand but
for their dwell timers. -/
theorem effect_ladderLaw (c : Instr) (s : State) (hc : throughBlocks c = false) (h : LadderLaw s) :
    LadderLaw (effect c s) := by
  cases c with
  | powerOnReset => exact lawsHoldAtReset.2.2.1.of_same rfl rfl id
  | pinReset => exact lawsHoldAtReset.2.2.1.of_same rfl rfl id
  | loadComplete strap image =>
    rw [effect_loadComplete]
    split
    · next hm =>
      have hi := h.loading hm
      have ht : ∀ l, (s.rl.get l).taken = 0 := fun l => h.idle l (hi l)
      rw [ladderLaw_iff]
      refine ⟨fun l => by simp [LadderOk, ht l, hi l], fun hl => ?_⟩
      rcases load_mode strap (image.bind rawImage) s with hx | hx <;> simp [hx] at hl
    · exact h
  | fuelStatus f => exact ladderLaw_kept.fieldMessage _ _ (fuelReport_ladderLaw f) h
  | changeoverTimeout =>
    rw [effect_changeoverTimeout]
    split
    · split
      · exact changeoverExpires_ladderLaw _ s h
      · exact h
    · exact h
  | flareStatus p => exact ladderLaw_kept.fieldMessage _ _ (flareReport_ladderLaw p) h
  | flareTimeout =>
    rw [effect_flareTimeout]
    split
    · split
      · exact completeFlare_ladderLaw _ _ _ (ladderLaw_kept.raiseFault _ h)
      · exact h
    · exact h
  | dwellExpiry l =>
    rw [effect_dwellExpiry]
    split
    · next hd => exact resampleDwell_ladderLaw l s hd.1 h
    · exact h
  | undoDwellExpiry l =>
    rw [effect_undoDwellExpiry]
    split
    · next hd => exact resampleUndoDwell_ladderLaw l s hd.1 h
    · exact h
  | meteringSecond =>
    rw [effect_meteringSecond]
    split
    · exact h.of_same rfl rfl id
    · have ht : LadderLaw (tickTimers (s.setDc (trimmed s.dc))) := by
        rw [ladderLaw_iff] at h ⊢
        simpa [tickTimers, ladderTick, ladderSteps, LadderOk] using h
      exact ht.of_same (by simp) (by simp) (by simp)
  | _ =>
    cases hc <;>
    refine h.of_same ?_ ?_ ?_ <;>
    simp only [effect_lineAttemptStart, effect_frameSentWhole, effect_collision, effect_backoffExpiry,
      effect_frameReceived, effect_clashTimerExpiry, effect_timeDelivered, effect_readDelivered,
      effect_holdMinuteCheck, effect_syncTimerExpiry, effect_timeTimerExpiry, effect_demand, effect_heatSample,
      effect_schedule, effect_exportEnergy, effect_timeSet, effect_commitEnd, effect_recordPlace,
      effect_supplyLowAsserted, effect_supplyLowReleased, fieldMessage] <;>
    (repeat' split) <;> simp

/-- Settles O56: each law holds of every command's effect. -/
theorem fuelAndLaddersStayLawful : Obligations.FuelAndLaddersStayLawful :=
  ⟨step_fuelLaw, ladderLaw_kept.step (fun _ _ h => h.of_same rfl rfl id) effect_ladderLaw⟩

end Sys2Proof.Machine
end

section
/-! SUPPORT. The accounting units, the Day Clock and the Record Store: what their events are made of. A law that
hand-overs keep, and writes of the three blocks that leave every position in range, is kept by every event of the
accounting. -/

namespace Sys2Proof.Machine

/-! ### Positions -/

theorem posOk_nextSecond {p : TimePos} (h : posOk p) : posOk (nextSecond p) := by
  obtain ⟨hd, hs⟩ := h
  simp only [nextSecond]
  split
  · exact ⟨hd, by show p.sec + 1 < _; omega⟩
  · exact ⟨Nat.mod_lt _ (by decide), by show 0 < _; decide⟩

theorem posOk_periodStart {p : TimePos} (h : posOk p) : posOk (periodStart p) := by
  refine ⟨h.1, ?_⟩
  have := h.2
  simp only [periodStart, periodOf]
  omega

theorem posOk_hourStart {p : TimePos} (h : posOk p) : posOk (hourStart p) := by
  refine ⟨h.1, ?_⟩
  have := h.2
  simp only [hourStart, hourOf]
  omega

/-! ### The end of LOADING -/

/-- A load goes on as LISTEN-IN with the image, or as LISTEN-ONLY (R174). -/
theorem load_cases (strap : Node) (image : Option RawImage) (s : State) :
    let t := loadCommon strap (loadOutcomeOf strap image) image s
    load strap image s = notLoaded image t ∨
      ∃ r img, image = some img ∧ imageRole img = some r ∧ outcomeOf strap img = .ok ∧
        load strap image s = loaded r img t := by
  intro t
  cases image with
  | none => exact .inl rfl
  | some img =>
    simp only [load]
    split
    · next r ho hr => exact .inr ⟨r, img, rfl, hr, ho, rfl⟩
    · exact .inl rfl

/-! ### A law of the accounting -/

/-- A law of the accounting: one that hand-overs keep, and the writes of the tie, the meter and the clock that leave
every position they hold an allowed one. Which positions are allowed is the law's own. -/
structure AccountKept (ok : TimePos → Prop) (P : State → Prop) : Prop where
  next : ∀ p, ok p → ok (nextSecond p)
  periodStart : ∀ p, ok p → ok (periodStart p)
  hourStart : ∀ p, ok p → ok (hourStart p)
  time : ∀ s, P s → ok s.dc.time
  period : ∀ s p, P s → s.tie.openPeriod = some p → ok p.start
  interval : ∀ s i, P s → s.mu.openInterval = some i → ok i.start
  drawn : ∀ s, P s → P (drawn s)
  handOver : ∀ r s, P s → P (handOver r s)
  setTie : ∀ x s, (∀ p, x.openPeriod = some p → ok p.start) → P s → P (s.setTie x)
  setMu : ∀ x s, (∀ i, x.openInterval = some i → ok i.start) → P s → P (s.setMu x)
  setSpan : ∀ x s, (∀ p, x = some p → ok p) → P s → P (s.setDc { s.dc with spanStart := x })
  setTime : ∀ p s, ok p → P s → P (s.setDc { s.dc with time := p })
  setHold : ∀ x s, (∀ y, x = some y → ok y.point ∧ ok y.reference) → P s →
    P (s.setDc { s.dc with hold := x, pendingStep := none })
  stepTaken : ∀ s, P s → P (s.setDc { s.dc with pendingStep := none })

namespace AccountKept

variable {ok : TimePos → Prop} {P : State → Prop} (h : AccountKept ok P)
include h

/-! ### The tie -/

theorem emptySlots {s : State} (hs : P s) : P (emptySlots s) := h.setTie _ s (fun p => h.period s p hs) hs

theorem recomputeGap {s : State} (hs : P s) : P (recomputeGap s) := h.setTie _ s (fun p => h.period s p hs) hs

theorem openPeriod (p : TimePos) (f : RecordFlags) {s : State} (hp : ok p) (hs : P s) : P (openPeriod p f s) := by
  refine h.recomputeGap (h.setSpan _ _ (fun q hq => ?_) (h.setTie _ s (fun q hq => ?_) hs))
  · cases hq
    exact hp
  · cases hq
    exact hp

theorem closePeriod (p : Period) (len : Nat) {s : State} (hs : P s) : P (closePeriod p len s) :=
  h.setSpan none _ nofun (h.setTie _ _ nofun (h.handOver _ s hs))

/-- A period opened at the present second. -/
theorem openPeriodNow (f : RecordFlags) {s : State} (hs : P s) : P (Machine.openPeriod s.dc.time f s) :=
  h.openPeriod _ f (h.time s hs) hs

theorem tieShortClose {s : State} (hs : P s) : P (tieShortClose s) := by
  simp only [Machine.tieShortClose]
  split
  · exact hs
  · exact h.openPeriodNow _ (h.closePeriod _ _ hs)

theorem tiePowerFail {s : State} (hs : P s) : P (tiePowerFail s) := by
  simp only [Machine.tiePowerFail]
  split
  · exact hs
  · exact h.recomputeGap (h.closePeriod _ _ hs)

theorem tieSupplyBack {s : State} (hs : P s) : P (tieSupplyBack s) := by
  simp only [Machine.tieSupplyBack]
  split
  · exact h.openPeriodNow _ hs
  · exact hs

theorem tieCounts {s : State} (hs : P s) : P (tieCounts s) := by
  simp only [Machine.tieCounts]
  split
  · exact hs
  · next p hp =>
    refine h.setTie _ s (fun q hq => ?_) hs
    cases hq
    exact h.period s p hs hp

theorem tieBoundary {s : State} (hs : P s) : P (tieBoundary s) := by
  simp only [Machine.tieBoundary]
  split
  · exact h.emptySlots hs
  · exact h.openPeriodNow _ (h.emptySlots (h.closePeriod _ _ hs))

theorem tieSecond (b : Bool) {s : State} (hs : P s) : P (tieSecond b s) := by
  simp only [Machine.tieSecond]
  split
  · exact h.tieBoundary (h.tieCounts hs)
  · exact h.recomputeGap (h.tieCounts hs)

theorem tieStep {s : State} (hs : P s) : P (tieStep s) := by
  simp only [Machine.tieStep]
  split
  · exact h.emptySlots hs
  · next p hp =>
    split
    · refine h.setTie _ s (fun q hq => ?_) hs
      cases hq
      exact h.period s p hs hp
    · have ht := h.emptySlots (h.closePeriod { p with flags := { p.flags with timeStepped := true } } p.planned hs)
      exact h.openPeriod _ _ (h.periodStart _ (h.time _ ht)) ht

theorem resumePeriod (p : Period) {s : State} (hp : s.tie.openPeriod = some p) (hs : P s) : P (resumePeriod p s) := by
  have hstart := h.period s p hs hp
  simp only [Machine.resumePeriod]
  split
  · refine h.recomputeGap (h.setSpan _ _ (fun q hq => ?_) (h.setTie _ s (fun q hq => ?_) hs))
    · cases hq
      exact hstart
    · cases hq
      exact hstart
  · exact h.openPeriodNow _ (h.emptySlots (h.closePeriod _ _ hs))

theorem tieStart (k : StartKind) {s : State} (hs : P s) : P (tieStart k s) := by
  simp only [Machine.tieStart]
  split
  · exact h.openPeriodNow _ hs
  · exact h.openPeriodNow _ hs
  · split
    · next hp => exact h.resumePeriod _ hp hs
    · exact h.openPeriodNow _ (h.emptySlots hs)

/-! ### The meter -/

/-- A write of the meter that leaves the interval open as it stands. -/
theorem setMuKeep (x : MeteringUnit) {s : State} (hx : x.openInterval = s.mu.openInterval) (hs : P s) :
    P (s.setMu x) := h.setMu x s (fun i hi => h.interval s i hs (hx ▸ hi)) hs

/-- A write of the meter that changes the open interval but for its start. -/
theorem setMuMap (x : MeteringUnit) (f : Interval → Interval) (hf : ∀ i, (f i).start = i.start) {s : State}
    (hx : x.openInterval = s.mu.openInterval.map f) (hs : P s) : P (s.setMu x) := by
  refine h.setMu x s (fun i hi => ?_) hs
  obtain ⟨j, hj, rfl⟩ := Option.map_eq_some_iff.1 (hx ▸ hi)
  exact hf j ▸ h.interval s j hs hj

theorem minuteCheck {s : State} (hs : P s) : P (minuteCheck s) := h.setMuMap _ _ (fun _ => by rfl) rfl hs

theorem flagInterval (f : RecordFlags → RecordFlags) {s : State} (hs : P s) : P (flagInterval f s) :=
  h.setMuMap _ _ (fun _ => by rfl) rfl hs

theorem openIntervalAt (p : TimePos) (f : RecordFlags) {s : State} (hp : ok p) (hs : P s) :
    P (openIntervalAt p f s) := by
  refine h.setSpan _ _ (fun q hq => ?_) (h.setMu _ s (fun q hq => ?_) hs)
  · cases hq
    exact hp
  · cases hq
    exact hp

/-- An interval opened at the present second. -/
theorem openIntervalNow (f : RecordFlags) {s : State} (hs : P s) : P (Machine.openIntervalAt s.dc.time f s) :=
  h.openIntervalAt _ f (h.time s hs) hs

theorem closeInterval (i : Interval) (len : Nat) {s : State} (hs : P s) : P (closeInterval i len s) :=
  h.setSpan none _ nofun (h.setMu _ _ nofun (h.handOver _ s hs))

theorem closeIntervalNow {s : State} (hs : P s) : P (closeIntervalNow s) := by
  simp only [Machine.closeIntervalNow]
  split
  · exact h.closeInterval _ _ hs
  · exact hs

theorem meterShortClose {s : State} (hs : P s) : P (meterShortClose s) := by
  simp only [Machine.meterShortClose]
  split
  · exact hs
  · exact h.openIntervalNow _ (h.closeIntervalNow (h.flagInterval _ (h.minuteCheck hs)))

theorem meterPowerFail {s : State} (hs : P s) : P (meterPowerFail s) := by
  simp only [Machine.meterPowerFail]
  split
  · exact hs
  · exact h.closeIntervalNow (h.flagInterval _ (h.minuteCheck hs))

theorem meterSupplyBack {s : State} (hs : P s) : P (meterSupplyBack s) := by
  simp only [Machine.meterSupplyBack]
  split
  · exact h.openIntervalNow _ hs
  · exact hs

theorem hourBoundary {s : State} (hs : P s) : P (hourBoundary s) := by
  simp only [Machine.hourBoundary]
  split
  · exact h.minuteCheck hs
  · exact h.openIntervalNow _ (h.closeIntervalNow (h.minuteCheck hs))

theorem integrateSecond {s : State} (hs : P s) : P (integrateSecond s) := by
  simp only [Machine.integrateSecond]
  split
  · exact h.setMuKeep _ rfl hs
  · next i hi =>
    have ht : P (if countsOverflow i s.mu then Machine.drawn s else s) := by
      split
      · exact h.drawn s hs
      · exact hs
    refine h.setMu _ _ (fun j hj => ?_) ht
    cases hj
    have hstart : ∀ free1 free2, (intervalAfter i s.mu s.dc.quality free1 free2).start = i.start := by
      intro free1 free2
      simp only [intervalAfter, countSecond]
      split <;> rfl
    exact (hstart _ _).symm ▸ h.interval s i hs hi

theorem meterSecond (b : Option TimePos) {s : State} (hs : P s) : P (meterSecond b s) := by
  simp only [Machine.meterSecond]
  split
  · exact h.integrateSecond hs
  · split
    · exact h.hourBoundary (h.integrateSecond hs)
    · split
      · exact h.minuteCheck (h.integrateSecond hs)
      · exact h.integrateSecond hs

theorem countHeld (ends : Bool) {s : State} (hs : P s) : P (countHeld ends s) := by
  simp only [Machine.countHeld]
  split
  · exact h.setMuKeep _ rfl hs
  · exact h.setMuKeep _ rfl hs

theorem beginHold {s : State} (hs : P s) : P (beginHold s) := h.setMuKeep _ rfl hs

theorem meterStep {s : State} (hs : P s) : P (meterStep s) := by
  have ht := h.flagInterval setStepped (h.minuteCheck hs)
  simp only [Machine.meterStep]
  split
  · exact ht
  · next i _ =>
    split
    · exact ht
    · have hu := h.closeInterval i i.planned ht
      exact h.openIntervalAt _ _ (h.hourStart _ (h.time _ hu)) hu

theorem resumeInterval (i : Interval) {s : State} (hi : s.mu.openInterval = some i) (hs : P s) :
    P (resumeInterval i s) := by
  have hstart := h.interval s i hs hi
  have hu : ∀ j : Interval, j.start = i.start → P (if minutePassed s.dc.resetTime (sinceReset s) then
      Machine.minuteCheck (s.setMu { s.mu with openInterval := some j })
      else s.setMu { s.mu with openInterval := some j }) := by
    intro j hj
    have ht : P (s.setMu { s.mu with openInterval := some j }) := by
      refine h.setMu _ s (fun k hk => ?_) hs
      cases hk
      exact hj.symm ▸ hstart
    split
    · exact h.minuteCheck ht
    · exact ht
  simp only [Machine.resumeInterval]
  split
  · refine h.setSpan _ _ (fun p hp => ?_) (hu _ rfl)
    cases hp
    exact hstart
  · split
    · exact h.openIntervalNow _ (h.closeInterval _ _ (hu _ rfl))
    · exact h.openIntervalNow _ (hu _ rfl)

theorem recomputeFraction {s : State} (hs : P s) : P (recomputeFraction s) := h.setMuKeep _ rfl hs

theorem meterStart (k : StartKind) {s : State} (hs : P s) : P (meterStart k s) := by
  have hr := h.recomputeFraction hs
  simp only [Machine.meterStart]
  split
  · exact h.openIntervalNow _ hr
  · exact h.openIntervalNow _ hr
  · split
    · next hi => exact h.resumeInterval _ hi hr
    · exact h.openIntervalNow _ hr

/-! ### Seconds, steps and holds -/

theorem notifyStep {s : State} (hs : P s) : P (notifyStep s) := by
  simp only [Machine.notifyStep]
  split
  · exact h.meterStep hs
  · exact h.tieStep hs
  all_goals exact hs

theorem deliverSecond {s : State} (hs : P s) : P (deliverSecond s) := by
  simp only [Machine.deliverSecond]
  split
  · exact h.meterSecond _ hs
  · exact h.tieSecond _ hs
  all_goals exact hs

theorem deliverHeld (ends : Bool) {s : State} (hs : P s) : P (deliverHeld ends s) := by
  simp only [Machine.deliverHeld]
  split
  · exact h.countHeld _ (h.meterSecond _ hs)
  · exact h.tieSecond _ hs
  all_goals exact hs

theorem advanceTime {s : State} (hs : P s) : P (advanceTime s) :=
  h.deliverSecond (h.setTime _ s (h.next _ (h.time s hs)) hs)

theorem heldSecond (x : Hold) {s : State} (hx : ok x.point ∧ ok x.reference) (hs : P s) : P (heldSecond x s) := by
  refine h.deliverHeld _ (h.setHold _ s (fun y hy => ?_) hs)
  split at hy
  · cases hy
  · cases hy
    exact hx

/-- The clock of a step: the time value moved, the pending step taken. -/
theorem stepTo (p : TimePos) {s : State} (hp : ok p) (hs : P s) :
    P (s.setDc { s.dc with time := p, pendingStep := none }) := h.stepTaken _ (h.setTime p s hp hs)

theorem clampAt (point f : TimePos) {s : State} (hp : ok point) (hf : ok f) (hs : P s) : P (clampAt point f s) :=
  h.heldSecond _ ⟨hp, h.next f hf⟩ (h.beginHold (h.notifyStep (h.stepTo point hp hs)))

theorem stepSecond (f : TimePos) {s : State} (hspan : ∀ p, s.dc.spanStart = some p → ok p) (hf : ok f) (hs : P s) :
    P (stepSecond f s) := by
  simp only [Machine.stepSecond]
  split
  · next p hp => exact h.clampAt _ _ (hspan p (Option.filter_eq_some_iff.1 hp).1) hf hs
  · exact h.advanceTime (h.notifyStep (h.stepTo f hf hs))

theorem holdSecondWith (f : TimePos) (x : Hold) {s : State} (hx : ok x.point) (hf : ok f) (hs : P s) :
    P (holdSecondWith f x s) := by
  simp only [Machine.holdSecondWith]
  split
  · exact h.clampAt _ _ hx hf hs
  · exact h.deliverHeld _ (h.setHold none s nofun hs)

theorem clockSecond {s : State} (hspan : ∀ p, s.dc.spanStart = some p → ok p)
    (hpending : ∀ p, s.dc.pendingStep = some p → ok p)
    (hhold : ∀ x, s.dc.hold = some x → ok x.point ∧ ok x.reference) (hs : P s) : P (clockSecond s) := by
  simp only [Machine.clockSecond]
  split
  · exact h.advanceTime hs
  · next f _ hf => exact h.stepSecond f hspan (hpending f hf) hs
  · next x hx _ => exact h.heldSecond _ ⟨(hhold x hx).1, h.next _ (hhold x hx).2⟩ hs
  · next x f hx hf => exact h.holdSecondWith f x (hhold x hx).1 (hpending f hf) hs

/-! ### Resets announced, SUPPLY LOW, the start -/

theorem shortClose {s : State} (hs : P s) : P (shortClose s) := by
  simp only [Machine.shortClose]
  split
  · exact h.meterShortClose hs
  · exact h.tieShortClose hs
  all_goals exact hs

theorem tellAsserted {s : State} (hs : P s) : P (tellAsserted s) := by
  simp only [Machine.tellAsserted]
  split
  · exact h.meterPowerFail hs
  · exact h.tiePowerFail hs
  all_goals exact hs

theorem tellReleased {s : State} (hs : P s) : P (tellReleased s) := by
  simp only [Machine.tellReleased]
  split
  · exact h.meterSupplyBack hs
  · exact h.tieSupplyBack hs
  all_goals exact hs

theorem protectedAtStart (k : StartKind) {s : State} (hs : P s) : P (protectedAtStart k s) := by
  have hc : P ((s.setTie (clearTie s.tie)).setMu (clearMetering s.mu)) := h.setMu _ _ nofun (h.setTie _ s nofun hs)
  simp only [Machine.protectedAtStart]
  split
  · exact hc
  · exact hc
  · exact hs

/-- The start of the accounting unit, for a law that a TURBINE's first computation keeps. -/
theorem startAndTell (hturbine : ∀ s, P s → P (recomputeTurbine s)) (k : StartKind) {s : State} (hs : P s) :
    P (startAndTell k s) := by
  have hp := h.protectedAtStart k hs
  have ht : P (startUnit k (Machine.protectedAtStart k s)) := by
    simp only [startUnit]
    split
    · exact h.meterStart k hp
    · exact h.tieStart k hp
    · exact hturbine _ hp
    all_goals exact hp
  simp only [Machine.startAndTell]
  split
  · exact h.tellAsserted ht
  · exact ht

theorem restartAndStart (hturbine : ∀ s, P s → P (recomputeTurbine s)) (hrestart : ∀ s, P s → P (restartCommit s))
    (k : StartKind) {s : State} (hs : P s) : P (restartAndStart k s) := by
  simp only [Machine.restartAndStart]
  split
  · exact h.startAndTell hturbine k hs
  · split
    · exact h.startAndTell hturbine k (hrestart _ (h.drawn s hs))
    · exact hrestart _ (h.startAndTell hturbine k (h.drawn s hs))

end AccountKept

end Sys2Proof.Machine
end

section
/-! SUPPORT. The law of the Day Clock, and that every command keeps it (R151 to R157). -/

namespace Sys2Proof.Machine

/-- The law speaks of the clock, and of the starts of the open period and interval, alone. -/
theorem ClockLaw.of_same {s t : State} (h : ClockLaw s) (hd : t.dc = s.dc)
    (hp : t.tie.openPeriod = s.tie.openPeriod) (hi : t.mu.openInterval = s.mu.openInterval) : ClockLaw t where
  time := hd ▸ h.time
  pendingStep := hd ▸ h.pendingStep
  spanStart := hd ▸ h.spanStart
  clampPoint := hd ▸ h.clampPoint
  trim := hd ▸ h.trim
  trimAcc := hd ▸ h.trimAcc
  synced := hd ▸ h.synced
  openPeriod p ht := h.openPeriod p (hp ▸ ht)
  openInterval i ht := h.openInterval i (hi ▸ ht)

/-- The law of the Day Clock is kept by the accounting, every position in range. -/
theorem clockLaw_kept : AccountKept posOk ClockLaw where
  next _ := posOk_nextSecond
  periodStart _ := posOk_periodStart
  hourStart _ := posOk_hourStart
  time _ h := h.time
  period _ p h := h.openPeriod p
  interval _ i h := h.openInterval i
  drawn _ h := h.of_same rfl rfl rfl
  handOver _ _ h := h.of_same (by simp) (by simp) (by simp)
  setTie _ _ hx h := { h with openPeriod := hx }
  setMu _ _ hx h := { h with openInterval := hx }
  setSpan _ _ hx h := { h with spanStart := hx }
  setTime _ _ hp h := { h with time := hp }
  setHold _ _ hx h := { h with pendingStep := nofun, clampPoint := hx }
  stepTaken _ h := { h with pendingStep := nofun }

/-- The trim's accumulator stays below a whole second's share (R151). -/
theorem trimmed_trimAcc {dc : DayClock} (ht : dc.trim.natAbs ≤ 1023) (ha : dc.trimAcc ≤ 1023) :
    (trimmed dc).trimAcc ≤ 1023 := by
  simp only [trimmed]
  split
  · show dc.trimAcc + dc.trim.natAbs - 1024 ≤ 1023
    omega
  · show dc.trimAcc + dc.trim.natAbs ≤ 1023
    omega

/-- The trim moves its accumulator and the second's length alone. -/
theorem trimmed_eq (dc : DayClock) :
    trimmed dc = { dc with trimAcc := (trimmed dc).trimAcc, secondLength := (trimmed dc).secondLength } := by
  simp only [trimmed]
  split <;> rfl

theorem trimmed_clockLaw (s : State) (h : ClockLaw s) : ClockLaw (s.setDc (trimmed s.dc)) := by
  have hacc := trimmed_trimAcc h.trim h.trimAcc
  rw [trimmed_eq]
  exact { h with trimAcc := hacc }

theorem tick_isSome (x : Timer) : (tick x).isSome = x.isSome := by
  rcases x with _ | _ | n <;> rfl

theorem tickTimers_clockLaw (s : State) (h : ClockLaw s) : ClockLaw (tickTimers s) where
  time := by simpa using h.time
  pendingStep := by simpa using h.pendingStep
  spanStart := by simpa using h.spanStart
  clampPoint := by simpa using h.clampPoint
  trim := by simpa using h.trim
  trimAcc := by simpa using h.trimAcc
  synced := by
    have hs : (tickTimers s).dc.syncTimer = tick s.dc.syncTimer := by simp [tickTimers]
    rw [hs, tick_isSome]
    simpa using h.synced
  openPeriod := by simpa using h.openPeriod
  openInterval := by simpa using h.openInterval

/-- An adopted time is held until the next second (R153, R155, R157). -/
theorem adopted_clockLaw (f : TimePos) (s : State) (hf : posOk f) (h : ClockLaw s) : ClockLaw (s.setDc (adopted f s.dc)) := by
  have hpend : optPosOk (some f) := by
    intro q hq
    cases hq
    exact hf
  have hsync : ((Quality.synced = .synced) ↔ (some 600 : Timer).isSome = true) := by simp
  simp only [adopted]
  split
  · next hn =>
    refine { h with synced := hsync, pendingStep := ?_, clampPoint := h.clampPoint }
    simp only [State.setDc, pendingFor]
    split
    · exact nofun
    · exact hpend
  · simp only [adoptedInHold]
    split
    · exact { h with synced := hsync, pendingStep := hpend }
    · exact { h with synced := hsync, pendingStep := hpend, clampPoint := nofun }

theorem adopt_clockLaw (f : TimePos) (s : State) (hf : posOk f) (h : ClockLaw s) : ClockLaw (adopt f s) :=
  (adopted_clockLaw f s hf h).of_same rfl rfl rfl

theorem posOk_of_timeOk {f : TimePos} (hd : f.day < 65536) (h : timeOk f = true) : posOk f :=
  ⟨hd, Nat.lt_succ_of_le (by simpa [timeOk] using h)⟩

/-- A TIME frame carries a day of two bytes. -/
theorem readTime_day {p : List Byte} {f : TimePos} {q : Quality} (h : readTime p = some (f, q)) : f.day < 65536 := by
  have hb : ∀ i, at1 p i < 256 := fun i => (p.getD i 0).isLt
  simp only [readTime] at h
  split at h
  · cases h
  · cases h
    have h0 := hb 0
    have h1 := hb 1
    show at1 p 0 * 256 + at1 p 1 < 65536
    omega

theorem imageTrim_range (image : Option RawImage) : (imageTrim image).natAbs ≤ 1023 := by
  simp only [imageTrim]
  split
  · split
    · split
      · decide
      · split
        · decide
        · omega
    · decide
  · decide

theorem startRoleTimers_clockLaw (s : State) (h : ClockLaw s) : ClockLaw (startRoleTimers s) := by
  simp only [startRoleTimers]
  split
  · exact h.of_same rfl rfl rfl
  · exact { h with }
  all_goals exact h

theorem load_clockLaw (strap : Node) (image : Option RawImage) (s : State) (h : ClockLaw s) :
    ClockLaw (load strap image s) := by
  have hcommon : ClockLaw (loadCommon strap (loadOutcomeOf strap image) image s) :=
    { h with trim := imageTrim_range image, trimAcc := Nat.zero_le _ }
  have hturbine : ∀ u, ClockLaw u → ClockLaw (recomputeTurbine u) := fun u hu =>
    hu.of_same (by simp) (by simp) (by simp)
  have hrestart : ∀ u, ClockLaw u → ClockLaw (restartCommit u) := fun u hu => hu.of_same rfl rfl rfl
  rcases load_cases strap image s with hl | ⟨r, img, -, -, -, hl⟩
  · rw [hl]
    exact hcommon.of_same (by simp) (by simp) (by simp)
  · rw [hl]
    refine clockLaw_kept.restartAndStart hturbine hrestart _ (startRoleTimers_clockLaw _ ?_)
    exact hcommon.of_same (by simp) (by simp) (by simp)

/-- A field message for a law that the restored link keeps. -/
theorem fieldMessage_clockLaw (k : FieldKind) (take : State → State) (ht : ∀ t, ClockLaw t → ClockLaw (take t))
    (s : State) (h : ClockLaw s) : ClockLaw (fieldMessage k take s) := by
  have hl : ClockLaw (linkRestored s) := h.of_same (by simp) (by simp) (by simp)
  simp only [fieldMessage]
  split
  · exact h
  · split
    · exact ht _ hl
    · exact hl

theorem takeEnergy_clockLaw (st : SampleStatus) (kwh : Int) (s : State) (h : ClockLaw s) :
    ClockLaw (takeEnergy st kwh s) := by
  cases st with
  | bad => exact h
  | ok =>
    simp only [takeEnergy, energySample]
    split
    · exact h
    · next p hp =>
      have hd : ClockLaw (energyDrawn p.energyE kwh s) := h.of_same (by simp) (by simp) (by simp)
      refine { hd with openPeriod := fun q hq => ?_ }
      cases hq
      exact h.openPeriod p hp

theorem takeResetWarning_clockLaw (s : State) (h : ClockLaw s) : ClockLaw (takeResetWarning s) := by
  have hl : ClockLaw (statusAtEntry (startReady (shortClose (enterLeaving s)))) :=
    (clockLaw_kept.shortClose (h.of_same (t := enterLeaving s) (by simp) (by simp) (by simp))).of_same
      (by simp) (by simp) (by simp)
  simp only [takeResetWarning]
  split
  · exact hl
  · exact hl
  · exact hl
  · exact hl
  · exact h.of_same (by simp) (by simp) (by simp)
  · exact h
  · exact h

theorem takeHead_clockLaw (s : State) (h : ClockLaw s) : ClockLaw (takeHead s) := h.of_same rfl rfl rfl

/-- The commands that reach neither the clock nor the starts of the open period and interval keep the law as it stands;
of the others the accounting's keep it, and an adoption gives a time that is one. -/
theorem effect_clockLaw (c : Instr) (s : State) (h : ClockLaw s) : ClockLaw (effect c s) := by
  cases c with
  | powerOnReset =>
    exact lawsHoldAtReset.2.2.2.2.2.1.of_same rfl rfl rfl
  | pinReset =>
    have hreset := lawsHoldAtReset.2.2.2.2.2.1
    refine { hreset with time := h.time, synced := ?_, openPeriod := h.openPeriod, openInterval := h.openInterval }
    rw [effect_pinReset]
    cases hq : s.dc.quality <;> simp [clockAfterPin, qualityAfterPin, hq, DayClock.reset]
  | loadComplete strap image =>
    rw [effect_loadComplete]
    split
    · exact load_clockLaw strap _ s h
    · exact h
  | meteringSecond =>
    rw [effect_meteringSecond]
    split
    · exact { h with time := posOk_nextSecond h.time }
    · have ht := tickTimers_clockLaw _ (trimmed_clockLaw s h)
      exact clockLaw_kept.clockSecond (fun p => ht.spanStart p) (fun p => ht.pendingStep p)
        (fun x => ht.clampPoint x) ht
  | syncTimerExpiry =>
    have ht : ClockLaw (s.setDc { s.dc with quality := .free, syncTimer := none }) :=
      { h with synced := by simp [State.setDc] }
    rw [effect_syncTimerExpiry]
    split
    · split
      · exact ht.of_same (by simp) (by simp) (by simp)
      · exact ht
    · exact h
  | timeTimerExpiry =>
    have ht : ClockLaw (s.setDc { s.dc with timeTimer := some 60 }) := { h with }
    rw [effect_timeTimerExpiry]
    split
    · exact ht.of_same (by simp) (by simp) (by simp)
    · exact h
  | timeDelivered =>
    rw [effect_timeDelivered]
    split
    · exact h
    · split
      · next hr =>
        simp only [takeTime]
        split
        · next hok => exact adopt_clockLaw _ _ (posOk_of_timeOk (readTime_day hr) hok.2.2) (takeHead_clockLaw s h)
        · exact takeHead_clockLaw s h
      · exact takeHead_clockLaw s h
  | timeSet day sec =>
    rw [effect_timeSet]
    split
    · next hw =>
      refine fieldMessage_clockLaw _ _ (fun t ht => ?_) s h
      simp only [takeTimeSet]
      split
      · next hok => exact adopt_clockLaw _ _ (posOk_of_timeOk (by simpa [Instr.wellFormed, dayOk] using hw) hok) ht
      · exact ht
    · exact h
  | holdMinuteCheck =>
    rw [effect_holdMinuteCheck]
    split
    · exact clockLaw_kept.setMuKeep _ rfl (clockLaw_kept.minuteCheck h)
    · exact h
  | exportEnergy status kwh =>
    rw [effect_exportEnergy]
    split
    · exact fieldMessage_clockLaw _ _ (takeEnergy_clockLaw status kwh) s h
    · exact h
  | resetWarning => exact fieldMessage_clockLaw _ _ takeResetWarning_clockLaw s h
  | supplyLowAsserted =>
    have ht : ClockLaw (s.setMc { s.mc with supplyLow := true }) := h.of_same rfl rfl rfl
    rw [effect_supplyLowAsserted]
    split
    · exact h
    · split
      · exact ht
      · exact clockLaw_kept.tellAsserted ht
  | supplyLowReleased =>
    have ht : ClockLaw (s.setMc { s.mc with supplyLow := false }) := h.of_same rfl rfl rfl
    rw [effect_supplyLowReleased]
    split
    · split
      · exact ht
      · exact clockLaw_kept.tellReleased ht
    · exact h
  | _ =>
    refine h.of_same ?_ ?_ ?_ <;>
    simp only [
      effect_listenOnlyHelloTimer, effect_nodeStatusTimer, effect_lineAttemptStart, effect_frameSentWhole,
      effect_collision, effect_backoffExpiry, effect_frameReceived, effect_clashTimerExpiry, effect_stateDelivered,
      effect_helloDelivered, effect_claimDelivered, effect_leaveDelivered, effect_wakeDelivered, effect_readDelivered,
      effect_recordFrameDiscarded, effect_entryGoesStale, effect_entryGoesAbsent, effect_roundExpiry,
      effect_dwellExpiry, effect_undoDwellExpiry, effect_fuelStatus, effect_changeoverTimeout, effect_flareStatus,
      effect_flareTimeout, effect_level, effect_levelLost, effect_capability, effect_gasMeasure, effect_heatOut,
      effect_demand, effect_heatSample, effect_schedule, effect_commitEnd, effect_recordPlace,
      effect_fieldMessageDiscarded, effect_fieldLinkLost, effect_standbyRequest, effect_resume,
      effect_readyTimerExpiry, effect_returnTimerExpiry, fieldMessage] <;>
    (repeat' split) <;> simp

/-- Settles O59. -/
theorem clockStaysWithinRange : Obligations.ClockStaysWithinRange :=
  step_keeps (fun _ _ h => h.of_same rfl rfl rfl) effect_clockLaw

end Sys2Proof.Machine
end

section
/-! SUPPORT. The transmit queue within its bounds, and what each edit of it keeps (R3, R5, R7 to R10). -/

namespace Sys2Proof.Machine

/-- A transmit queue within its capacity, with at most one entry being sent and none at its eighth collision. -/
structure TxBounded (tx : List TxEntry) : Prop where
  length : tx.length ≤ 4
  oneSending : (tx.filter fun e => !isWaiting e).length ≤ 1
  collisions : ∀ e ∈ tx, e.collisions < 8

theorem TxBounded.of_sublist {a b : List TxEntry} (h : TxBounded b) (hs : a.Sublist b) : TxBounded a where
  length := hs.length_le.trans h.length
  oneSending := (hs.filter _).length_le.trans h.oneSending
  collisions e he := h.collisions e (hs.subset he)

theorem TxBounded.removeFirst {tx : List TxEntry} (h : TxBounded tx) (p : TxEntry → Bool) :
    TxBounded (removeFirst p tx) := h.of_sublist (sublist_removeFirst p tx)

/-- A waiting entry at the tail of a queue with room. -/
theorem TxBounded.append {tx : List TxEntry} (h : TxBounded tx) (hl : tx.length < 4) (b : TxBody) :
    TxBounded (tx ++ [newEntry b]) where
  length := by simp; omega
  oneSending := by simpa [newEntry, isWaiting] using h.oneSending
  collisions := by
    intro e he
    rcases List.mem_append.1 he with he | he
    · exact h.collisions e he
    · rw [List.mem_singleton.1 he]
      exact Nat.zero_lt_succ 7

/-- The sending entries after a change: as many where the change keeps who is sent. -/
theorem filter_changeFirst {p : TxEntry → Bool} {f : TxEntry → TxEntry}
    (hw : ∀ e, p e = true → isWaiting (f e) = isWaiting e) (tx : List TxEntry) :
    ((changeFirst p f tx).filter fun e => !isWaiting e).length = (tx.filter fun e => !isWaiting e).length := by
  induction tx with
  | nil => rfl
  | cons a t ih =>
    simp only [changeFirst]
    split
    · next hp => simp [List.filter_cons, hw a hp]; split <;> simp
    · simp [List.filter_cons]; split <;> simp [ih]

/-- A change of one entry that leaves its count below eight and sends no other. -/
theorem TxBounded.changeFirst {tx : List TxEntry} (h : TxBounded tx) {p : TxEntry → Bool} {f : TxEntry → TxEntry}
    (hw : ∀ e, p e = true → isWaiting (f e) = isWaiting e)
    (hc : ∀ e ∈ tx, p e = true → (f e).collisions < 8) : TxBounded (changeFirst p f tx) where
  length := by simpa using h.length
  oneSending := by rw [filter_changeFirst hw]; exact h.oneSending
  collisions := by
    intro e he
    rcases mem_changeFirst he with he | ⟨y, hy, hp, rfl⟩
    · exact h.collisions e he
    · exact hc y hy hp

/-- The entry being sent changed into a waiting one. -/
theorem TxBounded.changeSending {tx : List TxEntry} (h : TxBounded tx) {f : TxEntry → TxEntry}
    (hw : ∀ e, isWaiting (f e) = true) (hc : ∀ e ∈ tx, (f e).collisions < 8) :
    TxBounded (Machine.changeFirst (fun e => !isWaiting e) f tx) where
  length := by simpa using h.length
  oneSending := by
    refine le_trans ?_ h.oneSending
    clear h hc
    induction tx with
    | nil => exact le_rfl
    | cons a t ih =>
      simp only [Machine.changeFirst]
      split
      · next hp => simp [hw a, hp]
      · next hp => simpa [List.filter_cons, hp] using ih
  collisions := by
    intro e he
    rcases mem_changeFirst he with he | ⟨y, hy, -, rfl⟩
    · exact h.collisions e he
    · exact hc y hy

theorem length_removeFirst {α : Type} {p : α → Bool} {l : List α} (h : ∃ x ∈ l, p x = true) :
    (removeFirst p l).length + 1 = l.length := by
  induction l with
  | nil => simp at h
  | cons a t ih =>
    simp only [removeFirst]
    split
    · simp
    · next ha =>
      obtain ⟨x, hx, hp⟩ := h
      rcases List.mem_cons.1 hx with rfl | hx
      · exact absurd hp ha
      · simp [ih ⟨x, hx, hp⟩]

/-! ### Placing an entry (R7, R10) -/

/-- The larger of a number and one that may be there. -/
def largerOf (acc : Option Nat) (p : Nat) : Option Nat :=
  match acc with
  | none => some p
  | some q => some (Nat.max p q)

theorem lowestCandidate_eq (tx : List TxEntry) :
    lowestCandidate tx = ((tx.filter isCandidate).map fun e => precedence e.body).foldl largerOf none := rfl

/-- A fold of the larger gives a greatest member, of the list or the number it began with. -/
theorem foldl_largerOf {l : List Nat} {acc : Option Nat} {m : Nat} (h : l.foldl largerOf acc = some m) :
    (m ∈ l ∨ acc = some m) ∧ (∀ x ∈ l, x ≤ m) ∧ ∀ q, acc = some q → q ≤ m := by
  induction l generalizing acc with
  | nil => exact ⟨.inr h, nofun, fun q hq => by simp_all⟩
  | cons a t ih =>
    obtain ⟨hm, ht, hq⟩ := ih h
    cases acc with
    | none =>
      have ha := hq a rfl
      refine ⟨.inl ?_, ?_, nofun⟩
      · rcases hm with hm | hm
        · exact List.mem_cons_of_mem a hm
        · cases hm
          exact List.mem_cons_self
      · intro x hx
        rcases List.mem_cons.1 hx with rfl | hx
        · exact ha
        · exact ht x hx
    | some b =>
      have hab := hq (Nat.max a b) rfl
      have ha : a ≤ m := (Nat.le_max_left a b).trans hab
      have hb : b ≤ m := (Nat.le_max_right a b).trans hab
      refine ⟨?_, ?_, fun q hq => by cases hq; exact hb⟩
      · rcases hm with hm | hm
        · exact .inl (List.mem_cons_of_mem a hm)
        · have hm : Nat.max a b = m := by simpa [largerOf] using hm
          rcases Nat.le_total a b with hle | hle
          · exact .inr (congrArg some ((Nat.max_eq_right hle).symm.trans hm))
          · exact .inl (((Nat.max_eq_left hle).symm.trans hm) ▸ List.mem_cons_self)
      · intro x hx
        rcases List.mem_cons.1 hx with rfl | hx
        · exact ha
        · exact ht x hx

/-- The lowest precedence is one of a waiting candidate, and no other candidate's is lower (R10). -/
theorem lowestCandidate_some {tx : List TxEntry} {p : Nat} (h : lowestCandidate tx = some p) :
    (∃ e ∈ tx, (isCandidate e && precedence e.body == p) = true) ∧
      ∀ e ∈ tx, isCandidate e = true → precedence e.body ≤ p := by
  rw [lowestCandidate_eq] at h
  obtain ⟨hm, hle, -⟩ := foldl_largerOf h
  constructor
  · rcases hm with hm | hm
    · obtain ⟨e, he, hp⟩ := List.mem_map.1 hm
      obtain ⟨het, hc⟩ := List.mem_filter.1 he
      exact ⟨e, het, by simp [hc, hp]⟩
    · cases hm
  · intro e he hc
    exact hle _ (List.mem_map.2 ⟨e, List.mem_filter.2 ⟨he, hc⟩, rfl⟩)

theorem TxBounded.placeEntry {tx : List TxEntry} (h : TxBounded tx) (b : TxBody) : TxBounded (placeEntry b tx) := by
  simp only [Machine.placeEntry]
  split
  · next hl => exact h.append hl b
  · simp only [placeFull]
    split
    · exact h
    · next p hp =>
      split
      · exact h
      · have hr := length_removeFirst (lowestCandidate_some hp).1
        have := h.length
        exact (h.removeFirst _).append (by omega) b

theorem TxBounded.placeState {tx : List TxEntry} (h : TxBounded tx) (b : TxBody) : TxBounded (placeState b tx) := by
  simp only [Machine.placeState]
  split
  · refine h.changeFirst (fun e he => ?_) fun e _ _ => Nat.zero_lt_succ 7
    have hw : isWaiting e = true := (Bool.and_eq_true_iff.1 he).1
    rw [hw]
    rfl
  · exact h.placeEntry b

theorem survivorCount_lt (old free : Nat) : survivorCount old free < 8 := by
  simp only [survivorCount]
  (repeat' split) <;> omega

/-- Every request of the queue keeps it within its bounds. -/
theorem enqueue_txBounded (b : TxBody) (s : State) (h : TxBounded s.liu.tx) : TxBounded (enqueue b s).liu.tx := by
  simp only [enqueue]
  split
  · split
    · next l e =>
      simp only [enqueueClaim]
      split
      · exact h.placeEntry _
      · split
        · exact h.removeFirst _
        · refine TxBounded.changeFirst (by simpa using h) (fun _ _ => rfl) fun _ _ _ => survivorCount_lt _ _
    · exact h.placeState _
    all_goals exact h.placeEntry _
  · exact h

theorem TxBounded.queueLeft {tx : List TxEntry} (h : TxBounded tx) (gone : TxBody → Bool) :
    TxBounded (queueLeft gone tx) := by
  have hf := h.of_sublist (List.filter_sublist (l := tx) (p := fun e => !(isWaiting e && gone e.body)))
  have hwaiting : ∀ e : TxEntry, isWaiting (if gone e.body then { e with noRetry := true } else e) = isWaiting e := by
    intro e
    split <;> rfl
  refine ⟨by simpa [Machine.queueLeft] using hf.length, ?_, ?_⟩
  · rw [Machine.queueLeft, List.filter_map, List.length_map]
    simpa [Function.comp_def, hwaiting] using hf.oneSending
  · intro e he
    obtain ⟨y, hy, rfl⟩ := List.mem_map.1 he
    have := hf.collisions y hy
    split
    · exact this
    · exact this

end Sys2Proof.Machine
end

section
/-! SUPPORT. The law of the queues, and that every command keeps it (R3, R5, R7, R14, R162). -/

namespace Sys2Proof.Machine

theorem queuesBounded_iff {s : State} : QueuesBounded s ↔
    TxBounded s.liu.tx ∧ s.liu.rx.length ≤ 8 ∧ s.rs.holdQueue.length ≤ 4 ∧ s.liu.drops ≤ 255 :=
  ⟨fun h => ⟨⟨h.tx, h.oneSending, h.collisions⟩, h.rx, h.hold, h.drops⟩,
    fun ⟨ht, hr, hh, hd⟩ => ⟨ht.length, hr, hh, ht.oneSending, ht.collisions, hd⟩⟩

theorem QueuesBounded.txBounded {s : State} (h : QueuesBounded s) : TxBounded s.liu.tx := (queuesBounded_iff.1 h).1

/-- The law speaks of the two queues of the LIU, its drop count and the hold queue alone. -/
theorem QueuesBounded.of_same {s t : State} (h : QueuesBounded s) (hl : t.liu = s.liu)
    (hq : t.rs.holdQueue = s.rs.holdQueue) : QueuesBounded t := by
  rw [queuesBounded_iff] at h ⊢
  rwa [hl, hq]

/-- An operation that edits the transmit queue alone. -/
theorem QueuesBounded.of_tx {s t : State} (h : QueuesBounded s) (htx : TxBounded t.liu.tx) (hrx : t.liu.rx = s.liu.rx)
    (hd : t.liu.drops = s.liu.drops) (hq : t.rs.holdQueue = s.rs.holdQueue) : QueuesBounded t := by
  rw [queuesBounded_iff] at h ⊢
  rw [hrx, hd, hq]
  exact ⟨htx, h.2⟩

theorem enqueue_queuesBounded (b : TxBody) (s : State) (h : QueuesBounded s) : QueuesBounded (enqueue b s) :=
  h.of_tx (enqueue_txBounded b s h.txBounded) (by simp) (by simp) (by simp)

/-! ### The hold queue (R162, R163) -/

theorem length_dropOldestWaiting {w : List StoreRecord} (h : w ≠ []) : (dropOldestWaiting w).length + 1 = w.length := by
  simp only [dropOldestWaiting]
  split
  · next hn =>
    rw [leastOf_none, List.map_eq_nil_iff] at hn
    exact absurd hn h
  · next n hn =>
    obtain ⟨r, hr, hs⟩ := List.mem_map.1 (leastOf_mem hn)
    exact length_removeFirst ⟨r, hr, by simpa using hs⟩

theorem length_placeWaiting (r : StoreRecord) (w : List StoreRecord) : (placeWaiting r w).length = w.length + 1 := by
  simp only [placeWaiting]
  split
  · have := congrArg List.length (List.takeWhile_append_dropWhile (p := isPowerFail) (l := w))
    simp only [List.length_append, List.length_cons] at this ⊢
    omega
  · simp

/-- The records in flight and the waiting ones are the hold queue. -/
theorem flightPart_append_waitingPart (rs : RecordUnit) : flightPart rs ++ waitingPart rs = rs.holdQueue := by
  simp only [flightPart, waitingPart]
  split
  · simpa using List.take_append_drop 1 rs.holdQueue
  · rfl

theorem length_flightPart_le (rs : RecordUnit) : (flightPart rs).length ≤ 1 := by
  simp only [flightPart]
  split <;> simp

theorem length_queueAfter_le (r : StoreRecord) (rs : RecordUnit) (h : rs.holdQueue.length ≤ 4) :
    (queueAfter r rs).length ≤ 4 := by
  have hparts := congrArg List.length (flightPart_append_waitingPart rs)
  have hflight := length_flightPart_le rs
  rw [List.length_append] at hparts
  simp only [queueAfter, List.length_append, length_placeWaiting]
  split
  · next hf =>
    have hfull : 4 ≤ rs.holdQueue.length := by simpa [holdFull] using hf
    have hne : waitingPart rs ≠ [] := by
      intro hn
      rw [hn, List.length_nil] at hparts
      omega
    have := length_dropOldestWaiting hne
    omega
  · next hf =>
    have hroom : ¬4 ≤ rs.holdQueue.length := by simpa [holdFull] using hf
    omega

@[simp] theorem startIfIdle_holdQueue (rs : RecordUnit) : (startIfIdle rs).holdQueue = rs.holdQueue := by
  simp only [startIfIdle, startCommit]
  (repeat' split) <;> simp [*]

theorem handOver_holdQueue (r : StoreRecord) (s : State) : (handOver r s).rs.holdQueue = queueAfter r s.rs := by
  simp [handOver]

theorem handOver_queuesBounded (r : StoreRecord) (s : State) (h : QueuesBounded s) : QueuesBounded (handOver r s) := by
  rw [queuesBounded_iff] at h ⊢
  obtain ⟨htx, hrx, hhold, hd⟩ := h
  rw [handOver_holdQueue]
  simpa using ⟨htx, hrx, length_queueAfter_le r s.rs hhold, hd⟩

theorem queuesBounded_accountKept : AccountKept (fun _ => True) QueuesBounded where
  next _ _ := trivial
  periodStart _ _ := trivial
  hourStart _ _ := trivial
  time _ _ := trivial
  period _ _ _ _ := trivial
  interval _ _ _ _ := trivial
  drawn _ h := h.of_same rfl rfl
  handOver := handOver_queuesBounded
  setTie _ _ _ h := h.of_same rfl rfl
  setMu _ _ _ h := h.of_same rfl rfl
  setSpan _ _ _ h := h.of_same rfl rfl
  setTime _ _ _ h := h.of_same rfl rfl
  setHold _ _ _ h := h.of_same rfl rfl
  stepTaken _ h := h.of_same rfl rfl

/-! ### The line -/

theorem askTake_txBounded (a : Action) (l : ClaimLine) (s : State) (h : TxBounded s.liu.tx) :
    TxBounded (askTake a l s).liu.tx := by
  cases a with
  | wake r => simpa [askTake] using enqueue_txBounded _ s h
  | fuelBackup => simpa [askTake] using h
  | fuelGas => simpa [askTake] using h
  | none => simpa [askTake] using h
  | raise n => simpa [askTake] using h
  | shed => simpa [askTake] using h
  | flareStep => simpa [askTake] using h

theorem takeStep_txBounded (l : ClaimLine) (s : State) (h : TxBounded s.liu.tx) : TxBounded (takeStep l s).liu.tx := by
  simp only [takeStep]
  split
  · exact h
  · exact askTake_txBounded _ l _ h

theorem takeStep_queuesBounded (l : ClaimLine) (s : State) (h : QueuesBounded s) : QueuesBounded (takeStep l s) :=
  h.of_tx (takeStep_txBounded l s h.txBounded) (by simp) (by simp) (by simp)

theorem undoStep_queuesBounded (l : ClaimLine) (s : State) (h : QueuesBounded s) : QueuesBounded (undoStep l s) :=
  h.of_same (by simp) (by simp)

theorem lineSleeps_queuesBounded (s : State) (h : QueuesBounded s) : QueuesBounded (lineSleeps s) := by
  have hs : QueuesBounded (slotsFreed s.liu.tx s) := h.of_same (by simp) (by simp)
  have ht := enqueue_queuesBounded (.leave .deepStandby) _
    (hs.of_tx (t := (slotsFreed s.liu.tx s).setLiu { (slotsFreed s.liu.tx s).liu with
      tx := queueLeft (fun _ => true) (slotsFreed s.liu.tx s).liu.tx })
      (hs.txBounded.queueLeft fun _ => true) rfl rfl rfl)
  exact { ht with rx := Nat.zero_le _ }

theorem lineLeaves_queuesBounded (s : State) (h : QueuesBounded s) : QueuesBounded (lineLeaves s) :=
  enqueue_queuesBounded _ _ (h.of_tx (t := s.setLiu { s.liu with
    tx := queueLeft (fun b => isHello b || isState b) s.liu.tx })
    (h.txBounded.queueLeft fun b => isHello b || isState b) rfl rfl rfl)

theorem takeHead_queuesBounded (s : State) (h : QueuesBounded s) : QueuesBounded (takeHead s) :=
  { h with rx := le_trans (by simp [takeHead]) h.rx }

/-- The law of the queues is kept by every event of a line, of a peer, of a round and of a mode. -/
theorem queuesBounded_kept : BlockKept QueuesBounded where
  drawn _ h := h.of_same rfl rfl
  enqueue := enqueue_queuesBounded
  ladderRise l s _ h := by
    simp only [ladderRise]
    split
    · exact takeStep_queuesBounded l s h
    all_goals exact h
  ladderFall l s h := h.of_same (by simp) (by simp)
  setLine _ _ _ _ h := h.of_same rfl rfl
  markPending _ h := h.of_same rfl rfl
  clearLadders _ h := h.of_same (by simp) (by simp)
  clearLines _ h := h.of_same rfl rfl
  takeHead := takeHead_queuesBounded
  lineSleeps := lineSleeps_queuesBounded
  lineLeaves := lineLeaves_queuesBounded
  setPeers _ _ h := h.of_same rfl rfl
  setSe _ _ h := h.of_same rfl rfl
  setHu _ _ h := h.of_same rfl rfl
  setTurbine _ _ h := h.of_same rfl rfl
  fraction _ h := h.of_same rfl rfl
  shortClose _ h := queuesBounded_accountKept.shortClose h
  setFp _ _ h := h.of_same rfl rfl
  setMc _ _ _ _ _ h := h.of_same rfl rfl

/-! ### Attempts and their ends (R2 to R6) -/

theorem filter_changeFirst_le (p : TxEntry → Bool) (f : TxEntry → TxEntry) (tx : List TxEntry) :
    ((changeFirst p f tx).filter fun e => !isWaiting e).length ≤ (tx.filter fun e => !isWaiting e).length + 1 := by
  induction tx with
  | nil => exact Nat.zero_le _
  | cons a t ih =>
    simp only [changeFirst]
    split
    · simp only [List.filter_cons]
      (repeat' split) <;> simp <;> omega
    · simp only [List.filter_cons]
      split
      · simpa using ih
      · exact ih

theorem sendingEntry_none {tx : List TxEntry} (h : sendingEntry tx = none) :
    (tx.filter fun e => !isWaiting e) = [] := by
  rw [sendingEntry, List.find?_eq_none] at h
  exact List.filter_eq_nil_iff.2 h

theorem sendingEntry_mem {tx : List TxEntry} {e : TxEntry} (h : sendingEntry tx = some e) : e ∈ tx :=
  List.mem_of_find?_eq_some h

theorem startAttempt_queuesBounded (e : TxEntry) (s : State) (hn : sendingEntry s.liu.tx = none)
    (h : QueuesBounded s) : QueuesBounded (startAttempt e s) := by
  refine h.of_tx ⟨?_, ?_, ?_⟩ rfl rfl rfl
  · simpa [startAttempt] using h.tx
  · refine (filter_changeFirst_le _ _ _).trans ?_
    simp [sendingEntry_none hn]
  · intro x hx
    rcases mem_changeFirst hx with hx | ⟨y, hy, -, rfl⟩
    · exact h.collisions x hx
    · exact h.collisions y hy

theorem reportRecord_queuesBounded (b : TxBody) (sent : Bool) (s : State) (h : QueuesBounded s) :
    QueuesBounded (reportRecord b sent s) := h.of_same (by simp) (by simp)

theorem sentWhole_queuesBounded (e : TxEntry) (s : State) (h : QueuesBounded s) : QueuesBounded (sentWhole e s) := by
  refine reportRecord_queuesBounded _ _ _ ?_
  have ht : QueuesBounded (s.setLiu { s.liu with
      tx := withoutSending s.liu.tx, drops := 0, lastEdge := edgesAfter e.body s.liu.lastEdge }) :=
    queuesBounded_iff.2 ⟨h.txBounded.removeFirst _, h.rx, h.hold, Nat.zero_le _⟩
  exact ht.of_same (by simp) (by simp)

theorem newerClaim_holds {l : ClaimLine} {tx : List TxEntry} {e : TxEntry} (h : newerClaim l tx = some e) :
    (isWaiting e && claimsLine l e.body) = true :=
  List.find?_some (p := fun x => isWaiting x && claimsLine l x.body) h

theorem removedQueue_txBounded (e : TxEntry) (k : Nat) (s : State) (h : TxBounded s.liu.tx) :
    TxBounded (removedQueue e k s) := by
  simp only [removedQueue]
  split
  · split
    · next newer hnewer =>
      split
      · exact h.removeFirst _
      · have hw : isWaiting newer = true := (Bool.and_eq_true_iff.1 (newerClaim_holds hnewer)).1
        exact (h.removeFirst _).changeSending (fun _ => hw) fun _ _ => survivorCount_lt _ _
    · exact h.removeFirst _
  all_goals exact h.removeFirst _

theorem bothGone_txBounded (b : TxBody) {tx : List TxEntry} (h : TxBounded tx) : TxBounded (bothGone b tx) := by
  simp only [bothGone]
  split
  · exact (h.removeFirst _).removeFirst _
  all_goals exact h.removeFirst _

theorem countDrop_queuesBounded (s : State) (h : QueuesBounded s) : QueuesBounded (countDrop s) := by
  have ht : QueuesBounded (s.setLiu { s.liu with drops := Nat.min (s.liu.drops + 1) 255 }) :=
    { h with drops := Nat.min_le_right _ _ }
  simp only [countDrop]
  split
  · exact ht.of_same (by simp) (by simp)
  · exact ht

/-- A collision waits again only below its eighth. -/
theorem endByCount_waits {k : Nat} (h : endByCount k = .waits) : k < 8 := by
  simp only [endByCount] at h
  split at h
  · assumption
  · cases h

theorem collisionEnd_waits {e : TxEntry} {k : Nat} {s : State} (h : collisionEnd e k s = .waits) : k < 8 := by
  simp only [collisionEnd] at h
  split at h
  · cases h
  · split at h
    · split at h
      · cases h
      · exact endByCount_waits h
    · split at h
      · exact endByCount_waits h
      · split at h <;> cases h
    all_goals exact endByCount_waits h

theorem collided_queuesBounded (e : TxEntry) (s : State) (h : QueuesBounded s) : QueuesBounded (collided e s) := by
  simp only [collided]
  split
  · next hw =>
    have hk := collisionEnd_waits hw
    exact h.of_tx (h.txBounded.changeSending (fun _ => rfl) fun _ _ => hk) rfl rfl rfl
  · refine reportRecord_queuesBounded _ _ _ ?_
    exact h.of_tx (removedQueue_txBounded _ _ s h.txBounded) (by simp) (by simp) (by simp)
  · exact h.of_tx (bothGone_txBounded _ h.txBounded) rfl rfl rfl
  · refine reportRecord_queuesBounded _ _ _ (countDrop_queuesBounded _ ?_)
    exact h.of_tx (h.txBounded.removeFirst _) rfl rfl rfl

theorem queueFrame_queuesBounded (f : Frame) (s : State) (h : QueuesBounded s) : QueuesBounded (queueFrame f s) := by
  simp only [queueFrame]
  split
  · next hl => exact { h with rx := by simpa using hl }
  · exact h

theorem takeFrame_queuesBounded (f : Frame) (s : State) (h : QueuesBounded s) : QueuesBounded (takeFrame f s) := by
  simp only [takeFrame]
  split
  · have ht : QueuesBounded (s.setLiu { s.liu with clash := some 64 }) := { h with }
    exact ht.of_same (by simp [numberClash]) (by simp [numberClash])
  · split
    · exact queueFrame_queuesBounded f s h
    · exact h

/-! ### The store -/

theorem placeRecord_queuesBounded (i : ReadSlotId) (s : State) (h : QueuesBounded s) :
    QueuesBounded (placeRecord i s) := by
  simp only [placeRecord]
  split
  · exact h
  · split
    · exact h.of_same (by simp) (by simp)
    · next sl _ =>
      have ht := enqueue_queuesBounded (slotRecord i sl s) (servedDrawn sl s) (h.of_same (by simp) (by simp))
      exact ht.of_same rfl (by simp [setSlot]; split <;> rfl)

theorem takeRead_queuesBounded (k q n : Nat) (s : State) (h : QueuesBounded s) : QueuesBounded (takeRead k q n s) := by
  simp only [takeRead]
  split
  · exact h.of_same rfl rfl
  · split
    · exact h.of_same rfl rfl
    · split
      · exact enqueue_queuesBounded _ s h
      · exact h

theorem committed_holdQueue (r : StoreRecord) (rest : List StoreRecord) (rs : RecordUnit) :
    (committed r rest rs).holdQueue = rest := by
  cases rest <;> rfl

theorem commitEnds_queuesBounded (result : WriteResult) (r : StoreRecord) (rest : List StoreRecord) (s : State)
    (hq : s.rs.holdQueue = r :: rest) (h : QueuesBounded s) : QueuesBounded (commitEnds result r rest s) := by
  have hlen : rest.length ≤ 4 := by
    have := h.hold
    rw [hq, List.length_cons] at this
    omega
  cases result with
  | whole =>
    have ht : QueuesBounded (s.setRs (slotsLookAgain (committed r rest s.rs))) :=
      { h with hold := by simpa [slotsLookAgain, committed_holdQueue] using hlen }
    exact ht.of_same (by simp [commitEnds]) (by simp [commitEnds])
  | error =>
    have ht : QueuesBounded (s.setRs (slotsLookAgain { s.rs with inFlight := false })) := { h with }
    exact ht.of_same (by simp [commitEnds]) (by simp [commitEnds])

end Sys2Proof.Machine
end

section
/-! SUPPORT. The end of LOADING as a law of the blocks sees it; and the statement that the queues stay within their
bounds (R3, R5, R7, R14, R162, R172). -/

namespace Sys2Proof.Machine

/-- The faults of the end of LOADING keep a law of the blocks. -/
theorem BlockKept.raiseLoadFaults {P : State → Prop} (h : BlockKept P) {s : State} (hs : P s) :
    P (raiseLoadFaults s) := by
  have hall : ∀ (ks : List FaultKind) (t : State), P t → P (raiseAll ks t) := by
    intro ks
    induction ks with
    | nil => exact fun _ ht => ht
    | cons k rest ih => exact fun t ht => ih _ (h.raiseFault k ht)
  exact hall _ _ (h.lineKept.orderDrawn _ hs)

theorem notLoaded_queuesBounded (image : Option RawImage) (s : State) (h : QueuesBounded s) :
    QueuesBounded (notLoaded image s) := by
  have ht := enqueue_queuesBounded (.leave .unconfigured)
    (s.setMc { s.mc with mode := .listenOnly, config := .unconfigured, helloTimer := some 60 }) (h.of_same rfl rfl)
  exact ht.of_same (by simp [notLoaded, statusAtEntry, restartCommit]) (by simp [notLoaded, statusAtEntry, restartCommit])

theorem loaded_queuesBounded (r : Role) (img : RawImage) (s : State) (h : QueuesBounded s) :
    QueuesBounded (loaded r img s) := by
  have hf : QueuesBounded (raiseLoadFaults (s.setMc { s.mc with config := configOf r img, rememberedTag := some img.computed })) :=
    queuesBounded_kept.raiseLoadFaults (h.of_same rfl rfl)
  have hl : QueuesBounded (startRoleTimers (enterListenIn (raiseLoadFaults
      (s.setMc { s.mc with config := configOf r img, rememberedTag := some img.computed })))) :=
    (queuesBounded_kept.enterListenIn hf).of_same (by simp) (by simp)
  exact queuesBounded_accountKept.restartAndStart (fun _ ht => ht.of_same (by simp) (by simp))
    (fun _ ht => ht.of_same (by simp [restartCommit]) (by simp [restartCommit])) _ hl

theorem load_queuesBounded (strap : Node) (image : Option RawImage) (s : State) (h : QueuesBounded s) :
    QueuesBounded (load strap image s) := by
  have ht : QueuesBounded (loadCommon strap (loadOutcomeOf strap image) image s) := h.of_same (by simp) (by simp)
  rcases load_cases strap image s with hn | ⟨r, img, -, -, -, hl⟩
  · exact hn ▸ notLoaded_queuesBounded image _ ht
  · exact hl ▸ loaded_queuesBounded r img _ ht

theorem resampleDwell_queuesBounded (l : ClaimLine) (s : State) (h : QueuesBounded s) :
    QueuesBounded (resampleDwell l s) := by
  simp only [resampleDwell]
  split
  · split
    · exact takeStep_queuesBounded l s h
    · exact h.of_same (by simp) (by simp)
  · exact undoStep_queuesBounded l s h

theorem resampleUndoDwell_queuesBounded (l : ClaimLine) (s : State) (h : QueuesBounded s) :
    QueuesBounded (resampleUndoDwell l s) := by
  simp only [resampleUndoDwell]
  split
  · exact takeStep_queuesBounded l s h
  · split
    · exact h.of_same (by simp) (by simp)
    · exact undoStep_queuesBounded l s h

theorem effect_queuesBounded (c : Instr) (s : State) (hc : throughBlocks c = false) (h : QueuesBounded s) :
    QueuesBounded (effect c s) := by
  cases c with
  | powerOnReset => exact ⟨Nat.zero_le 4, Nat.zero_le 8, Nat.zero_le 4, Nat.zero_le 1, nofun, Nat.zero_le 255⟩
  | pinReset => exact ⟨Nat.zero_le 4, Nat.zero_le 8, h.hold, Nat.zero_le 1, nofun, Nat.zero_le 255⟩
  | loadComplete strap image =>
    rw [effect_loadComplete]
    split
    · exact load_queuesBounded _ _ s h
    · exact h
  | lineAttemptStart quietUs =>
    rw [effect_lineAttemptStart]
    split
    · exact h
    · split
      · next hg =>
        have hn : sendingEntry s.liu.tx = none := by
          simp only [Bool.and_eq_true, Option.isNone_iff_eq_none] at hg
          exact hg.1.1
        exact startAttempt_queuesBounded _ s hn h
      · exact h
  | frameSentWhole =>
    rw [effect_frameSentWhole]
    split
    · exact sentWhole_queuesBounded _ s h
    · exact h
  | collision =>
    rw [effect_collision]
    split
    · exact collided_queuesBounded _ s h
    · exact h
  | backoffExpiry => exact { h with }
  | frameReceived bytes =>
    rw [effect_frameReceived]
    split
    · exact h
    · split
      · exact takeFrame_queuesBounded _ s h
      · exact h
  | clashTimerExpiry =>
    have ht : QueuesBounded (s.setLiu { s.liu with clash := none }) := { h with }
    rw [effect_clashTimerExpiry]
    split
    · exact queuesBounded_kept.clearFault _ ht
    · exact h
  | timeDelivered =>
    have ht := takeHead_queuesBounded s h
    rw [effect_timeDelivered]
    split
    · exact h
    · split
      · exact ht.of_same (by simp) (by simp)
      · exact ht
  | readDelivered =>
    have ht := takeHead_queuesBounded s h
    rw [effect_readDelivered]
    split
    · exact h
    · split
      · exact takeRead_queuesBounded _ _ _ _ ht
      · exact ht
  | meteringSecond =>
    rw [effect_meteringSecond]
    split
    · exact h.of_same rfl rfl
    · have ht : QueuesBounded (tickTimers (s.setDc (trimmed s.dc))) := by
        rw [queuesBounded_iff] at h ⊢
        simpa [tickTimers] using h
      exact queuesBounded_accountKept.clockSecond (fun _ _ => trivial) (fun _ _ => trivial)
        (fun _ _ => ⟨trivial, trivial⟩) ht
  | timeTimerExpiry =>
    rw [effect_timeTimerExpiry]
    split
    · exact enqueue_queuesBounded _ _ (h.of_same rfl rfl)
    · exact h
  | commitEnd result =>
    rw [effect_commitEnd]
    split
    · next r rest _ hq => exact commitEnds_queuesBounded result r rest s hq h
    · exact h
  | recordPlace i =>
    rw [effect_recordPlace]
    split
    · exact placeRecord_queuesBounded i s h
    · exact h
  | supplyLowAsserted =>
    have ht : QueuesBounded (s.setMc { s.mc with supplyLow := true }) := h.of_same rfl rfl
    rw [effect_supplyLowAsserted]
    split
    · exact h
    · split
      · exact ht
      · exact queuesBounded_accountKept.tellAsserted ht
  | supplyLowReleased =>
    have ht : QueuesBounded (s.setMc { s.mc with supplyLow := false }) := h.of_same rfl rfl
    rw [effect_supplyLowReleased]
    split
    · split
      · exact ht
      · exact queuesBounded_accountKept.tellReleased ht
    · exact h
  | exportEnergy status kwh =>
    rw [effect_exportEnergy]
    split
    · exact queuesBounded_kept.fieldMessage _ _ (fun t ht => ht.of_same (by simp) (by simp)) h
    · exact h
  | dwellExpiry l =>
    rw [effect_dwellExpiry]
    split
    · exact resampleDwell_queuesBounded l s h
    · exact h
  | undoDwellExpiry l =>
    rw [effect_undoDwellExpiry]
    split
    · exact resampleUndoDwell_queuesBounded l s h
    · exact h
  | syncTimerExpiry =>
    have ht : QueuesBounded (s.setDc { s.dc with quality := .free, syncTimer := none }) := h.of_same rfl rfl
    rw [effect_syncTimerExpiry]
    split
    · split
      · exact queuesBounded_kept.raiseFault _ ht
      · exact ht
    · exact h
  | _ =>
    cases hc <;>
    refine h.of_same ?_ ?_ <;>
    simp only [effect_holdMinuteCheck, effect_fuelStatus,
      effect_changeoverTimeout, effect_flareStatus, effect_flareTimeout, effect_demand, effect_heatSample,
      effect_schedule, effect_timeSet, fieldMessage] <;>
    (repeat' split) <;> simp

/-- Settles O55. -/
theorem queuesStayBounded : Obligations.QueuesStayBounded :=
  queuesBounded_kept.step (fun _ _ h => h.of_same rfl rfl) effect_queuesBounded

end Sys2Proof.Machine
end

section
/-! SUPPORT. The backing of the claim lines: what a source set may hold, and that every operation of a line, a peer, a
round and a mode entry keeps it (R16, R19, R28, R75 to R80, R88). -/

namespace Sys2Proof.Machine

/-- The law of the claims, but for what it says of LOADING. -/
structure ClaimsBacked (s : State) : Prop where
  members : ∀ l n, n ∈ (s.cu.get l).sources → n = s.mc.node.val ∨ (assocGet n s.peers).isSome = true
  ownMember : ∀ l, s.mc.node.val ∈ (s.cu.get l).sources ↔ (s.cu.get l).own = true
  notOwnEntry : assocGet s.mc.node.val s.peers = none
  heard : ∀ f ∈ s.liu.rx, f.sender ≠ s.mc.node.val

/-- Nothing heard and nothing claimed. -/
structure NothingHeard (s : State) : Prop where
  rx : s.liu.rx = []
  peers : s.peers = []
  sources : ∀ l, (s.cu.get l).sources = []
  own : ∀ l, (s.cu.get l).own = false

/-- Two states alike in all that the law of the claims speaks of. -/
structure ClaimsAlike (s t : State) : Prop where
  node : t.mc.node = s.mc.node
  rx : t.liu.rx = s.liu.rx
  peers : t.peers = s.peers
  sources : ∀ l, (t.cu.get l).sources = (s.cu.get l).sources
  own : ∀ l, (t.cu.get l).own = (s.cu.get l).own

theorem claimLaw_iff {s : State} : ClaimLaw s ↔ ClaimsBacked s ∧ (s.mc.mode = .loading → NothingHeard s) :=
  ⟨fun h => ⟨⟨h.members, h.ownMember, h.notOwnEntry, h.heard⟩, fun hm =>
      ⟨(h.loading hm).1, (h.loading hm).2.1, fun l => ((h.loading hm).2.2 l).1, fun l => ((h.loading hm).2.2 l).2⟩⟩,
    fun ⟨h, hl⟩ => ⟨h.members, h.ownMember, h.notOwnEntry, h.heard, fun hm =>
      ⟨(hl hm).rx, (hl hm).peers, fun l => ⟨(hl hm).sources l, (hl hm).own l⟩⟩⟩⟩

theorem NothingHeard.backed {s : State} (h : NothingHeard s) : ClaimsBacked s where
  members l n hn := by simp [h.sources l] at hn
  ownMember l := by simp [h.sources l, h.own l]
  notOwnEntry := by simp [h.peers, assocGet]
  heard f hf := by simp [h.rx] at hf

theorem NothingHeard.of_alike {s t : State} (h : NothingHeard s) (hst : ClaimsAlike s t) : NothingHeard t :=
  ⟨hst.rx.trans h.rx, hst.peers.trans h.peers, fun l => (hst.sources l).trans (h.sources l),
    fun l => (hst.own l).trans (h.own l)⟩

theorem ClaimsBacked.of_alike {s t : State} (h : ClaimsBacked s) (hst : ClaimsAlike s t) : ClaimsBacked t where
  members l n hn := by
    rw [hst.node, hst.peers]
    exact h.members l n (hst.sources l ▸ hn)
  ownMember l := by
    rw [hst.node, hst.sources, hst.own]
    exact h.ownMember l
  notOwnEntry := by
    rw [hst.node, hst.peers]
    exact h.notOwnEntry
  heard := by
    rw [hst.node, hst.rx]
    exact h.heard

/-! ### Own claims (R76, R77) -/

/-- What an edge of a line brings about leaves the claims alone. -/
def Quiet (edge : State → State) : Prop := ∀ t, ClaimsAlike t (edge t)

theorem quiet_rise (l : ClaimLine) : Quiet (rise l) := fun t => ⟨by simp, by simp, by simp, by simp, by simp⟩

theorem quiet_fall (l : ClaimLine) : Quiet (fall l) := fun t => ⟨by simp, by simp, by simp, by simp, by simp⟩

theorem quiet_noteRise (l : ClaimLine) : Quiet (noteRise l) := fun t => ⟨by simp, by simp, by simp, by simp, by simp⟩

theorem quiet_setPending (l : ClaimLine) : Quiet (setPending false l) := fun t =>
  ⟨by simp, by simp, by simp, by simp, by simp⟩

/-- A line written whose source set holds the own number exactly where the own claim stands, and else as before. -/
theorem setLine_backed (l : ClaimLine) (x : LineState) (s : State) (h : ClaimsBacked s)
    (hown : s.mc.node.val ∈ x.sources ↔ x.own = true)
    (hrest : ∀ n ∈ x.sources, n = s.mc.node.val ∨ n ∈ (s.cu.get l).sources) : ClaimsBacked (setLine l x s) where
  members k n hn := by
    simp only [setLine, setCu_cu, Six.get_set] at hn
    split at hn
    · rcases hrest n hn with hn | hn
      · exact .inl hn
      · exact h.members l n hn
    · exact h.members k n hn
  ownMember k := by
    simp only [setLine, setCu_cu, setCu_mc, Six.get_set]
    split
    · exact hown
    · exact h.ownMember k
  notOwnEntry := h.notOwnEntry
  heard := h.heard

/-- A line written twice stands as it was written last. -/
theorem setLine_setLine (l : ClaimLine) (x y : LineState) (s : State) :
    setLine l y (setLine l x s) = setLine l y s := by
  simp only [setLine, setCu_cu, Six.set_set]
  rfl

theorem enqueue_backed (b : TxBody) (s : State) (h : ClaimsBacked s) : ClaimsBacked (enqueue b s) :=
  h.of_alike ⟨by simp, by simp, by simp, by simp, by simp⟩

theorem assertOwnWith_backed (edge : State → State) (he : Quiet edge) (l : ClaimLine) (s : State)
    (h : ClaimsBacked s) : ClaimsBacked (assertOwnWith edge l s) := by
  have ht := setLine_backed l { s.cu.get l with own := true, sources := setAdd s.mc.node.val (s.cu.get l).sources } s h
    (by simp) (by simp)
  rw [← setLine_setLine l { s.cu.get l with own := true }] at ht
  simp only [assertOwnWith]
  split
  · exact h
  · next hown =>
    have hout : s.mc.node.val ∉ (s.cu.get l).sources := fun hn => hown ((h.ownMember l).1 hn)
    refine enqueue_backed _ _ ?_
    simp only [setBitWith, setLine, setCu_cu, Six.get_set_self] at ht ⊢
    rw [if_neg (by simpa using hout)]
    split
    · exact ht.of_alike (he _)
    · exact ht

theorem releaseOwnWith_backed (edge : State → State) (he : Quiet edge) (l : ClaimLine) (s : State)
    (h : ClaimsBacked s) : ClaimsBacked (releaseOwnWith edge l s) := by
  have ht := setLine_backed l { s.cu.get l with own := false, sources := setRemove s.mc.node.val (s.cu.get l).sources } s
    h (by simp) (by simp +contextual)
  rw [← setLine_setLine l { s.cu.get l with own := false }] at ht
  simp only [releaseOwnWith]
  split
  · next hown =>
    have hin : s.mc.node.val ∈ (s.cu.get l).sources := (h.ownMember l).2 hown
    refine enqueue_backed _ _ ?_
    simp only [clearBitWith, setLine, setCu_cu, Six.get_set_self] at ht ⊢
    rw [if_pos (by simpa using hin)]
    split
    · exact ht.of_alike (he _)
    · exact ht
  · exact h

theorem assertOwn_backed (l : ClaimLine) (s : State) (h : ClaimsBacked s) : ClaimsBacked (assertOwn l s) :=
  assertOwnWith_backed _ (quiet_rise l) l s h

theorem releaseOwn_backed (l : ClaimLine) (s : State) (h : ClaimsBacked s) : ClaimsBacked (releaseOwn l s) :=
  releaseOwnWith_backed _ (quiet_fall l) l s h

theorem assertInRound_backed (l : ClaimLine) (s : State) (h : ClaimsBacked s) : ClaimsBacked (assertInRound l s) :=
  assertOwnWith_backed _ (quiet_noteRise l) l s h

theorem releaseInRound_backed (l : ClaimLine) (s : State) (h : ClaimsBacked s) : ClaimsBacked (releaseInRound l s) :=
  releaseOwnWith_backed _ (quiet_setPending l) l s h

theorem releaseAll_backed (ls : List ClaimLine) (s : State) (h : ClaimsBacked s) : ClaimsBacked (releaseAll ls s) := by
  induction ls generalizing s with
  | nil => exact h
  | cons l rest ih => exact ih _ (releaseOwn_backed l s h)

theorem bandClaims_backed (b : Band) (s : State) (h : ClaimsBacked s) : ClaimsBacked (bandClaims b s) := by
  simp only [bandClaims]
  split
  · exact releaseOwn_backed _ _ (releaseOwn_backed _ s h)
  · exact releaseOwn_backed _ _ (releaseOwn_backed _ s h)
  · exact assertOwn_backed _ _ (releaseOwn_backed _ s h)
  · exact assertOwn_backed _ _ (releaseOwn_backed _ s h)
  · exact assertOwn_backed _ _ (releaseOwn_backed _ s h)
  · exact assertOwn_backed _ _ (releaseOwn_backed _ s h)

/-! ### Events of a peer (R21 to R28, R78 to R80) -/

/-- The peer entry of a number set, removed or kept, its claims handed on: the claims stay backed where the number is
another's and claims nothing unless PRESENT. -/
theorem applyClaims_backed (n : Nat) (set : Six Bool) (x : List (Nat × PeerEntry)) (s : State) (h : ClaimsBacked s)
    (hn : n ≠ s.mc.node.val) (hothers : ∀ m, m ≠ n → assocGet m x = assocGet m s.peers)
    (hset : ∀ l, set.get l = true → (assocGet n x).isSome = true) :
    ClaimsBacked (applyClaims n set (s.setPeers x)) where
  members l m hm := by
    rw [mem_applyClaims] at hm
    split at hm
    · next hmn =>
      subst hmn
      exact .inr (by simpa using hset l hm)
    · next hmn =>
      have := h.members l m hm
      simpa [hothers m hmn] using this
  ownMember l := by
    have := h.ownMember l
    simpa [mem_applyClaims, hn.symm] using this
  notOwnEntry := by
    have := h.notOwnEntry
    simpa [hothers _ hn.symm] using this
  heard := by simpa using h.heard

theorem noClaims_get (l : ClaimLine) : noClaims.get l = false := by simp [noClaims]

theorem reportEntry_backed (e : PeerEntry) (s : State) (h : ClaimsBacked s) : ClaimsBacked (reportEntry e s) :=
  h.of_alike ⟨by simp, by simp, by simp, by simp, by simp⟩

theorem removeEntry_backed (n : Nat) (e : PeerEntry) (s : State) (hn : n ≠ s.mc.node.val) (h : ClaimsBacked s) :
    ClaimsBacked (removeEntry n e s) :=
  reportEntry_backed e _ (applyClaims_backed n _ _ s h hn (fun _ hm => assocGet_erase_ne _ hm)
    fun l hl => by simp [noClaims_get] at hl)

/-- A peer entry is another's. -/
theorem ne_node_of_present {n : Nat} {e : PeerEntry} {s : State} (h : ClaimsBacked s)
    (he : assocGet n s.peers = some e) : n ≠ s.mc.node.val := by
  rintro rfl
  rw [h.notOwnEntry] at he
  cases he

theorem removeIfPresent_backed (n : Nat) (s : State) (h : ClaimsBacked s) : ClaimsBacked (removeIfPresent n s) := by
  simp only [removeIfPresent]
  split
  · next e he => exact removeEntry_backed n e s (ne_node_of_present h he) h
  · exact h

theorem writeEntry_backed (n : Nat) (e : PeerEntry) (s : State) (hn : n ≠ s.mc.node.val) (h : ClaimsBacked s) :
    ClaimsBacked (writeEntry n e s) :=
  reportEntry_backed e _ (applyClaims_backed n _ _ s h hn (fun _ hm => assocGet_put_ne _ _ hm)
    fun _ _ => by simp)

/-- An entry written for another number, the source sets standing. -/
theorem setPeers_backed (n : Nat) (e : PeerEntry) (s : State) (hn : n ≠ s.mc.node.val) (h : ClaimsBacked s) :
    ClaimsBacked (s.setPeers (assocPut n e s.peers)) where
  members l m hm := by
    by_cases hmn : m = n
    · subst hmn
      exact .inr (by simp)
    · have := h.members l m hm
      simpa [assocGet_put_ne _ _ hmn] using this
  ownMember := h.ownMember
  notOwnEntry := by
    have := h.notOwnEntry
    simpa [assocGet_put_ne _ _ hn.symm] using this
  heard := h.heard

theorem takeState_backed (n : Nat) (x : StateRead) (s : State) (hn : n ≠ s.mc.node.val) (h : ClaimsBacked s) :
    ClaimsBacked (takeState n x s) := by
  simp only [takeState]
  split
  · exact writeEntry_backed n _ s hn h
  · split
    · exact writeEntry_backed n _ s hn h
    · exact writeEntry_backed n _ _ (by simpa using hn) (removeEntry_backed n _ s hn h)

theorem takeHello_backed (n : Nat) (x : HelloRead) (s : State) (hn : n ≠ s.mc.node.val) (h : ClaimsBacked s) :
    ClaimsBacked (takeHello n x s) := by
  simp only [takeHello]
  split
  · exact setPeers_backed n _ s hn h
  · split
    · exact setPeers_backed n _ _ (by simpa using hn) (removeEntry_backed n _ s hn h)
    · split
      · exact applyClaims_backed n _ _ s h hn (fun _ hm => assocGet_put_ne _ _ hm) fun _ _ => by simp
      · exact setPeers_backed n _ s hn h

/-- A bit of a PRESENT peer set or cleared. -/
theorem applyEdge_backed (n : Nat) (l : ClaimLine) (e : Edge) (s : State) (hn : n ≠ s.mc.node.val)
    (hp : (assocGet n s.peers).isSome = true) (h : ClaimsBacked s) : ClaimsBacked (applyEdge n l e s) := by
  cases e with
  | assert =>
    refine ⟨fun k m hm => ?_, fun k => ?_, by simpa [applyEdge] using h.notOwnEntry, by simpa [applyEdge] using h.heard⟩
    · rw [applyEdge, mem_setBit] at hm
      rcases hm with ⟨-, rfl⟩ | hm
      · exact .inr (by simpa [applyEdge] using hp)
      · simpa [applyEdge] using h.members k m hm
    · simpa [applyEdge, mem_setBit, hn.symm] using h.ownMember k
  | release =>
    refine ⟨fun k m hm => ?_, fun k => ?_, by simpa [applyEdge] using h.notOwnEntry, by simpa [applyEdge] using h.heard⟩
    · rw [applyEdge, mem_clearBit] at hm
      simpa [applyEdge] using h.members k m hm.2
    · simpa [applyEdge, mem_clearBit, hn.symm] using h.ownMember k

theorem takeClaim_backed (n : Nat) (l : ClaimLine) (edge : Edge) (s : State) (h : ClaimsBacked s) :
    ClaimsBacked (takeClaim n l edge s) := by
  simp only [takeClaim]
  split
  · exact h
  · next e he =>
    have hn := ne_node_of_present h he
    exact applyEdge_backed n l edge _ hn (by simp) (setPeers_backed n _ s hn h)

/-! ### Rounds and mode entries -/

theorem engineReleases_backed (s : State) (h : ClaimsBacked s) : ClaimsBacked (engineReleases s) :=
  releaseAll_backed _ _ (h.of_alike ⟨rfl, rfl, rfl, fun _ => rfl, fun _ => rfl⟩)

theorem evaluateClaims_backed (effMin : Nat) (s : State) (h : ClaimsBacked s) :
    ClaimsBacked (evaluateClaims effMin s) := by
  have hx : ∀ x, ClaimsBacked (s.setSe x) := fun x => h.of_alike ⟨rfl, rfl, rfl, fun _ => rfl, fun _ => rfl⟩
  simp only [evaluateClaims, evaluateShortfall, evaluateSurplus]
  (repeat' split)
  · exact assertInRound_backed _ _ (hx _)
  · exact releaseInRound_backed _ _ (hx _)
  · exact hx _
  · exact hx _
  · exact hx _
  · exact releaseInRound_backed _ _ (hx _)
  · exact assertInRound_backed _ _ (hx _)
  · exact hx _
  · exact h
  · exact h

theorem roundWork_backed (s : State) (h : ClaimsBacked s) : ClaimsBacked (roundWork s) := by
  have hsettled : ∀ t, ClaimsBacked t → ClaimsBacked (settleSetpoints (computeShare t)) := fun t ht =>
    ht.of_alike ⟨by simp, by simp, by simp, by simp, by simp⟩
  have hended : ∀ t, ClaimsBacked t → ClaimsBacked (sendNodeStatus (requestHello (requestState t))) := fun t ht =>
    ht.of_alike ⟨by simp, by simp, by simp, by simp, by simp⟩
  exact hended _ (evaluateClaims_backed _ _ (hsettled _ (h.of_alike ⟨rfl, rfl, rfl, fun _ => rfl, fun _ => rfl⟩)))

theorem runRound_backed (s : State) (h : ClaimsBacked s) : ClaimsBacked (runRound s) :=
  (roundWork_backed s h).of_alike ⟨by simp [runRound], by simp [runRound], by simp [runRound], by simp [runRound],
    by simp [runRound]⟩

theorem releaseAndClear_backed (s : State) (h : ClaimsBacked s) : ClaimsBacked (releaseAndClear s) := by
  have hc : ∀ t, ClaimsBacked t → ClaimsBacked (clearLadders t) := fun t ht =>
    ht.of_alike ⟨by simp, by simp, by simp, by simp, by simp⟩
  have hd : ClaimsBacked (drawn s) := h.of_alike ⟨rfl, rfl, rfl, fun _ => rfl, fun _ => rfl⟩
  simp only [releaseAndClear]
  split
  · split
    · exact engineReleases_backed _ (hc _ hd)
    · exact hc _ (engineReleases_backed _ hd)
  · exact engineReleases_backed _ (hc _ h)

theorem enterStandbyListen_backed (s : State) (h : ClaimsBacked s) : ClaimsBacked (enterStandbyListen s) := by
  have hentered : ∀ t, ClaimsBacked t → ClaimsBacked (markPending (rebuildWant t)) := fun t ht =>
    ht.of_alike ⟨by simp, by simp, by simp, by simp, by simp⟩
  exact hentered _ (releaseAndClear_backed _ (h.of_alike ⟨by simp, by simp, by simp, by simp, by simp⟩))

/-- Entry to STANDBY-DEEP empties the peer table and every line. -/
theorem enterStandbyDeep_backed (s : State) : ClaimsBacked (enterStandbyDeep s) := by
  have hlines : ∀ l, ((enterStandbyDeep s).cu.get l) = .reset := fun l => by simp [enterStandbyDeep]
  have hpeers : (enterStandbyDeep s).peers = [] := by simp [enterStandbyDeep]
  have hrx : (enterStandbyDeep s).liu.rx = [] := by simp [enterStandbyDeep, lineSleeps]
  exact NothingHeard.backed ⟨hrx, hpeers, fun l => by rw [hlines]; rfl, fun l => by rw [hlines]; rfl⟩

theorem enterLeaving_backed (s : State) (h : ClaimsBacked s) : ClaimsBacked (enterLeaving s) := by
  have hentered : ∀ t, ClaimsBacked t → ClaimsBacked (rebuildWant (enterFallback t)) := fun t ht =>
    ht.of_alike ⟨by simp, by simp, by simp, by simp, by simp⟩
  exact hentered _ (releaseAll_backed _ _ (engineReleases_backed _
    (h.of_alike ⟨by simp, by simp, by simp, by simp, by simp⟩)))

end Sys2Proof.Machine
end

section
/-! SUPPORT. The statement that the claims stay backed, command by command (R16, R19, R28, R75, R88). -/

namespace Sys2Proof.Machine

theorem actOnLatch_backed (s : State) (h : ClaimsBacked s) : ClaimsBacked (actOnLatch s) :=
  h.of_alike ⟨by simp, by simp, by simp, by simp, by simp⟩

theorem clearIfAsked_backed (r : StandbyRequest) (s : State) (h : ClaimsBacked s) : ClaimsBacked (clearIfAsked r s) :=
  h.of_alike ⟨by simp, by simp, by simp, by simp, by simp⟩

theorem takeEffect_backed (r : StandbyRequest) (s : State) (h : ClaimsBacked s) : ClaimsBacked (takeEffect r s) := by
  have ht := clearIfAsked_backed r s h
  simp only [takeEffect]
  split
  · refine actOnLatch_backed _ (runRound_backed _ ?_)
    exact (enterStandbyListen_backed _ ht).of_alike ⟨rfl, rfl, rfl, fun _ => rfl, fun _ => rfl⟩
  · refine actOnLatch_backed _ ?_
    exact (enterStandbyDeep_backed (clearIfAsked r s)).of_alike
      ⟨by simp [requestTaken], by simp [requestTaken], by simp [requestTaken], by simp [requestTaken],
        by simp [requestTaken]⟩

theorem roundExpires_backed (s : State) (h : ClaimsBacked s) : ClaimsBacked (roundExpires s) := by
  simp only [roundExpires]
  split
  · split
    · exact runRound_backed _ (h.of_alike ⟨by simp, by simp, by simp, by simp, by simp⟩)
    · exact runRound_backed _ (h.of_alike ⟨rfl, rfl, rfl, fun _ => rfl, fun _ => rfl⟩)
  · split
    · exact takeEffect_backed _ s h
    · exact runRound_backed s h
  · split
    · exact takeEffect_backed _ s h
    · exact runRound_backed s h
  all_goals exact h

theorem takeResetWarning_backed (s : State) (h : ClaimsBacked s) : ClaimsBacked (takeResetWarning s) := by
  have hl : ClaimsBacked (statusAtEntry (startReady (shortClose (enterLeaving s)))) :=
    (enterLeaving_backed s h).of_alike ⟨by simp, by simp, by simp, by simp, by simp⟩
  simp only [takeResetWarning]
  split
  · exact hl
  · exact hl
  · exact hl
  · exact hl
  · exact h.of_alike ⟨by simp, by simp, by simp, by simp, by simp⟩
  · exact h
  · exact h

theorem bandChanged_backed (s : State) (h : ClaimsBacked s) : ClaimsBacked (bandChanged s) := by
  have ht : ClaimsBacked (if claimsFollowBand s.mc.mode then bandClaims s.hu.band s else s) := by
    split
    · exact bandClaims_backed _ s h
    · exact h
  exact ht.of_alike ⟨by simp [bandChanged]; split <;> simp, by simp [bandChanged]; split <;> simp,
    by simp [bandChanged]; split <;> simp, by simp [bandChanged]; split <;> simp,
    by simp [bandChanged]; split <;> simp⟩

theorem takeLevel_backed (st : SampleStatus) (v : Nat) (s : State) (h : ClaimsBacked s) :
    ClaimsBacked (takeLevel st v s) := by
  cases st with
  | bad => exact h
  | ok =>
    have ht : ClaimsBacked (clearFault .levelLost (s.setHu { s.hu with
        level := holdPerMille v, levelTimer := some 30
        band := bandAfter s.mc.config s.hu.band (holdPerMille v) })) :=
      h.of_alike ⟨by simp, by simp, by simp, by simp, by simp⟩
    simp only [takeLevel, levelSample]
    split
    · exact ht
    · exact bandChanged_backed _ ht

theorem returnToListenIn_backed (s : State) (h : ClaimsBacked s) : ClaimsBacked (returnToListenIn s) := by
  have ht : ClaimsBacked (enterListenIn s) := h.of_alike ⟨by simp, by simp, by simp, by simp, by simp⟩
  simp only [returnToListenIn]
  split
  · exact bandClaims_backed _ _ ht
  · exact ht

theorem fieldMessage_backed (k : FieldKind) (take : State → State) (ht : ∀ t, ClaimsBacked t → ClaimsBacked (take t))
    (s : State) (h : ClaimsBacked s) : ClaimsBacked (fieldMessage k take s) := by
  have hl : ClaimsBacked (linkRestored s) := h.of_alike ⟨by simp, by simp, by simp, by simp, by simp⟩
  simp only [fieldMessage]
  split
  · exact h
  · split
    · exact ht _ hl
    · exact hl

theorem takeHead_backed (s : State) (h : ClaimsBacked s) : ClaimsBacked (takeHead s) where
  members l n hn := by simpa using h.members l n (by simpa using hn)
  ownMember l := by simpa using h.ownMember l
  notOwnEntry := by simpa using h.notOwnEntry
  heard f hf := h.heard f (List.mem_of_mem_tail (by simpa [takeHead] using hf))

theorem mem_of_headOf {k : FrameKind} {f : Frame} {s : State} (h : headOf k s = some f) : f ∈ s.liu.rx := by
  simp only [headOf] at h
  split at h
  · next g rest hrx =>
    split at h
    · cases h
      exact hrx ▸ List.mem_cons_self
    · cases h
  · cases h

/-- The frame at the head of the receive queue comes from another number. -/
theorem headOf_sender {k : FrameKind} {f : Frame} {s : State} (h : ClaimsBacked s) (hf : headOf k s = some f) :
    f.sender ≠ (takeHead s).mc.node.val := h.heard f (mem_of_headOf hf)

/-- A frame is taken into the receive queue from another number alone. -/
theorem takeFrame_backed (f : Frame) (s : State) (h : ClaimsBacked s) : ClaimsBacked (takeFrame f s) := by
  simp only [takeFrame]
  split
  · exact h.of_alike ⟨by simp, by simp, by simp, by simp, by simp⟩
  · next hne =>
    split
    · simp only [queueFrame]
      split
      · refine ⟨h.members, h.ownMember, h.notOwnEntry, fun g hg => ?_⟩
        rcases List.mem_append.1 hg with hg | hg
        · exact h.heard g hg
        · rw [List.mem_singleton.1 hg]
          exact hne
      · exact h
    · exact h

theorem nothingHeard_powerOnReset (s : State) : NothingHeard (effect .powerOnReset s) :=
  ⟨rfl, rfl, fun l => congrArg LineState.sources (Six.get_all _ l), fun l => congrArg LineState.own (Six.get_all _ l)⟩

theorem nothingHeard_pinReset (s : State) : NothingHeard (effect .pinReset s) :=
  ⟨rfl, rfl, fun l => congrArg LineState.sources (Six.get_all _ l), fun l => congrArg LineState.own (Six.get_all _ l)⟩

/-- A second ages every peer entry, and makes none ABSENT. -/
theorem assocGet_aged (n : Nat) (peers : List (Nat × PeerEntry)) :
    assocGet n (aged peers) = (assocGet n peers).map fun e => { e with age := Nat.min (e.age + 1) 255 } := by
  induction peers with
  | nil => rfl
  | cons x rest ih =>
    simp only [aged, List.map_cons, assocGet] at ih ⊢
    split
    · rfl
    · exact ih

theorem tickTimers_peers (s : State) : (tickTimers s).peers = aged s.peers := rfl

theorem tickTimers_backed (s : State) (h : ClaimsBacked s) : ClaimsBacked (tickTimers s) where
  members l n hn := by
    have := h.members l n (by simpa using hn)
    simpa [tickTimers_peers, assocGet_aged] using this
  ownMember l := by simpa using h.ownMember l
  notOwnEntry := by simpa [tickTimers_peers, assocGet_aged] using h.notOwnEntry
  heard := by simpa using h.heard

/-- The claims stay backed by every command but the end of LOADING. -/
theorem effect_backed (c : Instr) (s : State) (hc : ∀ strap image, c ≠ .loadComplete strap image)
    (h : ClaimsBacked s) : ClaimsBacked (effect c s) := by
  have hh := takeHead_backed s h
  cases c with
  | loadComplete strap image => exact absurd rfl (hc strap image)
  | powerOnReset => exact (nothingHeard_powerOnReset s).backed
  | pinReset => exact (nothingHeard_pinReset s).backed
  | stateDelivered =>
    rw [effect_stateDelivered]
    split
    · exact h
    · next f hf =>
      split
      · exact takeState_backed _ _ _ (headOf_sender h hf) hh
      · exact hh
  | helloDelivered =>
    rw [effect_helloDelivered]
    split
    · exact h
    · next f hf =>
      split
      · exact removeIfPresent_backed _ _ hh
      · exact takeHello_backed _ _ _ (headOf_sender h hf) hh
      · exact hh
  | claimDelivered =>
    rw [effect_claimDelivered]
    split
    · exact h
    · split
      · exact takeClaim_backed _ _ _ _ hh
      · exact hh
  | leaveDelivered =>
    rw [effect_leaveDelivered]
    split
    · exact h
    · exact removeIfPresent_backed _ _ hh
  | timeDelivered =>
    have ht : ∀ p q, ClaimsBacked (takeTime p q (takeHead s)) := fun p q =>
      hh.of_alike ⟨by simp, by simp, by simp, by simp, by simp⟩
    rw [effect_timeDelivered]
    split
    · exact h
    · split
      · exact ht _ _
      · exact hh
  | wakeDelivered =>
    have ht : ClaimsBacked (latchCause .wakeFrame (takeHead s)) :=
      hh.of_alike ⟨by simp, by simp, by simp, by simp, by simp⟩
    rw [effect_wakeDelivered]
    split
    · exact h
    · split
      · exact ht
      · exact hh
  | readDelivered =>
    have ht : ∀ k q n, ClaimsBacked (takeRead k q n (takeHead s)) := fun k q n =>
      hh.of_alike ⟨by simp, by simp, by simp, by simp, by simp⟩
    rw [effect_readDelivered]
    split
    · exact h
    · split
      · exact ht _ _ _
      · exact hh
  | recordFrameDiscarded =>
    rw [effect_recordFrameDiscarded]
    split
    · exact hh
    · exact h
  | entryGoesStale node =>
    rw [effect_entryGoesStale]
    split
    · exact h
    · next e he =>
      split
      · exact reportEntry_backed e _ (setPeers_backed _ _ s (ne_node_of_present h he) h)
      · exact h
  | entryGoesAbsent node =>
    rw [effect_entryGoesAbsent]
    split
    · exact h
    · next e he =>
      split
      · exact removeEntry_backed _ e s (ne_node_of_present h he) h
      · exact h
  | frameReceived bytes =>
    rw [effect_frameReceived]
    split
    · exact h
    · split
      · exact takeFrame_backed _ s h
      · exact h
  | level st v => exact fieldMessage_backed _ _ (takeLevel_backed st v) s h
  | resetWarning => exact fieldMessage_backed _ _ takeResetWarning_backed s h
  | roundExpiry =>
    rw [effect_roundExpiry]
    split
    · exact roundExpires_backed _ (h.of_alike ⟨rfl, rfl, rfl, fun _ => rfl, fun _ => rfl⟩)
    · exact h
  | returnTimerExpiry =>
    have hw : ClaimsBacked (warningOver s) := h.of_alike ⟨by simp, by simp, by simp, by simp, by simp⟩
    rw [effect_returnTimerExpiry]
    split
    · split
      · exact returnToListenIn_backed _ hw
      · exact hw
    · exact h
  | meteringSecond =>
    rw [effect_meteringSecond]
    split
    · exact h.of_alike ⟨rfl, rfl, rfl, fun _ => rfl, fun _ => rfl⟩
    · have ht : ClaimsBacked (s.setDc (trimmed s.dc)) := h.of_alike ⟨rfl, rfl, rfl, fun _ => rfl, fun _ => rfl⟩
      exact (tickTimers_backed _ ht).of_alike ⟨by simp, by simp, by simp, by simp, by simp⟩
  | _ =>
    refine h.of_alike ⟨?_, ?_, ?_, ?_, ?_⟩ <;>
    simp only [effect_listenOnlyHelloTimer, effect_nodeStatusTimer, effect_lineAttemptStart, effect_frameSentWhole,
      effect_collision, effect_backoffExpiry, effect_clashTimerExpiry, effect_holdMinuteCheck,
      effect_syncTimerExpiry, effect_timeTimerExpiry, effect_dwellExpiry, effect_undoDwellExpiry, effect_fuelStatus,
      effect_changeoverTimeout, effect_flareStatus, effect_flareTimeout, effect_levelLost, effect_capability,
      effect_gasMeasure, effect_heatOut, effect_demand, effect_heatSample, effect_schedule, effect_exportEnergy,
      effect_timeSet, effect_commitEnd, effect_recordPlace, effect_fieldMessageDiscarded, effect_fieldLinkLost,
      effect_standbyRequest, effect_resume, effect_readyTimerExpiry, effect_supplyLowAsserted,
      effect_supplyLowReleased, fieldMessage] <;>
    (repeat' split) <;> simp

/-- After the end of LOADING, with nothing heard, the claims are backed whatever the straps (R172). -/
theorem load_nothingHeard (strap : Node) (image : Option RawImage) (s : State) (h : NothingHeard s) :
    NothingHeard (load strap image s) :=
  ⟨by simp [h.rx], by simp [h.peers], fun l => by simp [h.sources l], fun l => by simp [h.own l]⟩

/-- In LOADING, where nothing is heard, no command but a reset and the end of LOADING changes the claims. -/
theorem effect_alike_loading (c : Instr) (s : State) (hm : s.mc.mode = .loading) (hn : NothingHeard s)
    (hp : c ≠ .powerOnReset) (hr : c ≠ .pinReset) (hc : ∀ strap image, c ≠ .loadComplete strap image) :
    ClaimsAlike s (effect c s) := by
  have hrx := hn.rx
  have hhead : ∀ k, headOf k s = none := fun k => by simp [headOf, hrx]
  have hpeers : ∀ n, assocGet n s.peers = none := fun n => by simp [hn.peers, assocGet]
  cases c with
  | loadComplete strap image => exact absurd rfl (hc strap image)
  | powerOnReset => exact absurd rfl hp
  | pinReset => exact absurd rfl hr
  | _ =>
    refine ⟨?_, ?_, ?_, ?_, ?_⟩ <;>
    simp only [effect_listenOnlyHelloTimer, effect_nodeStatusTimer, effect_lineAttemptStart, effect_frameSentWhole,
      effect_collision, effect_backoffExpiry, effect_clashTimerExpiry, effect_holdMinuteCheck,
      effect_syncTimerExpiry, effect_timeTimerExpiry, effect_dwellExpiry, effect_undoDwellExpiry, effect_fuelStatus,
      effect_changeoverTimeout, effect_flareStatus, effect_flareTimeout, effect_levelLost, effect_capability,
      effect_gasMeasure, effect_heatOut, effect_demand, effect_heatSample, effect_schedule, effect_exportEnergy,
      effect_timeSet, effect_commitEnd, effect_recordPlace, effect_fieldMessageDiscarded, effect_fieldLinkLost,
      effect_standbyRequest, effect_resume, effect_readyTimerExpiry, effect_supplyLowAsserted,
      effect_supplyLowReleased, effect_stateDelivered, effect_helloDelivered, effect_claimDelivered,
      effect_leaveDelivered, effect_timeDelivered, effect_wakeDelivered, effect_readDelivered,
      effect_recordFrameDiscarded, effect_entryGoesStale, effect_entryGoesAbsent, effect_frameReceived,
      effect_level, effect_resetWarning, effect_roundExpiry, effect_returnTimerExpiry, effect_meteringSecond,
      roundExpires, fieldMessage, hm, hhead, hpeers] <;>
    (repeat' split) <;> simp_all

/-- A command that reaches no block through the lines' edges leaves LOADING only by its end, and enters it only by a
reset. -/
theorem effect_mode_of_others (c : Instr) (s : State) (ht : throughBlocks c = false) (hp : c ≠ .powerOnReset)
    (hr : c ≠ .pinReset) (hc : ∀ strap image, c ≠ .loadComplete strap image) : (effect c s).mc.mode = s.mc.mode := by
  cases c with
  | loadComplete strap image => exact absurd rfl (hc strap image)
  | powerOnReset => exact absurd rfl hp
  | pinReset => exact absurd rfl hr
  | _ =>
    cases ht <;>
    simp only [effect_lineAttemptStart, effect_frameSentWhole, effect_collision, effect_backoffExpiry,
      effect_frameReceived, effect_clashTimerExpiry, effect_timeDelivered, effect_readDelivered,
      effect_meteringSecond, effect_holdMinuteCheck, effect_syncTimerExpiry, effect_timeTimerExpiry,
      effect_dwellExpiry, effect_undoDwellExpiry, effect_fuelStatus, effect_changeoverTimeout, effect_flareStatus,
      effect_flareTimeout, effect_demand, effect_heatSample, effect_schedule, effect_exportEnergy, effect_timeSet,
      effect_commitEnd, effect_recordPlace, effect_supplyLowAsserted, effect_supplyLowReleased, fieldMessage] <;>
    (repeat' split) <;> simp

/-- LOADING is entered by a reset alone. -/
theorem effect_awake (c : Instr) (s : State) (hp : c ≠ .powerOnReset) (hr : c ≠ .pinReset)
    (hm : s.mc.mode ≠ .loading) : (effect c s).mc.mode ≠ .loading := by
  cases ht : throughBlocks c with
  | true => exact awake_kept.command ht hm
  | false =>
    cases c with
    | loadComplete strap image => rwa [effect_loadComplete, if_neg hm]
    | _ => rwa [effect_mode_of_others _ s ht hp hr (by simp)]

theorem effect_claimLaw (c : Instr) (s : State) (h : ClaimLaw s) : ClaimLaw (effect c s) := by
  obtain ⟨hb, hl⟩ := claimLaw_iff.1 h
  rw [claimLaw_iff]
  by_cases hp : c = .powerOnReset
  · rw [hp]
    exact ⟨(nothingHeard_powerOnReset s).backed, fun _ => nothingHeard_powerOnReset s⟩
  by_cases hr : c = .pinReset
  · rw [hr]
    exact ⟨(nothingHeard_pinReset s).backed, fun _ => nothingHeard_pinReset s⟩
  by_cases hm : s.mc.mode = .loading
  · by_cases hc : ∃ strap image, c = .loadComplete strap image
    · obtain ⟨strap, image, rfl⟩ := hc
      rw [effect_loadComplete, if_pos hm]
      have hn := load_nothingHeard strap (image.bind rawImage) s (hl hm)
      exact ⟨hn.backed, fun _ => hn⟩
    · have ha := effect_alike_loading c s hm (hl hm) hp hr fun strap image hx => hc ⟨strap, image, hx⟩
      exact ⟨hb.of_alike ha, fun _ => (hl hm).of_alike ha⟩
  · refine ⟨?_, fun ht => absurd ht (effect_awake c s hp hr hm)⟩
    by_cases hc : ∃ strap image, c = .loadComplete strap image
    · obtain ⟨strap, image, rfl⟩ := hc
      rwa [effect_loadComplete, if_neg hm]
    · exact effect_backed c s (fun strap image hx => hc ⟨strap, image, hx⟩) hb

/-- Settles O57. -/
theorem claimsStayBacked : Obligations.ClaimsStayBacked :=
  step_keeps (fun _ _ h => claimLaw_iff.2 ⟨(claimLaw_iff.1 h).1.of_alike ⟨rfl, rfl, rfl, fun _ => rfl, fun _ => rfl⟩,
    fun hm => ((claimLaw_iff.1 h).2 hm).of_alike ⟨rfl, rfl, rfl, fun _ => rfl, fun _ => rfl⟩⟩) effect_claimLaw

end Sys2Proof.Machine
end

section
/-! SUPPORT. What the law of the share speaks of, and what keeps it: the rebuild of the want, the ladders' steps and the
fuel mode they ask for (R42, R45 to R48, R51 to R53, R94, R107). -/

namespace Sys2Proof.Machine

/-! ### The law in two parts -/

/-- The law of the share but for the bounds on what is granted. -/
structure ShareCore (s : State) : Prop where
  inFallback : s.mc.mode ≠ .active ∨ severity s = .failed → s.se.fallback = true
  fallbackOutput : s.se.fallback = true → wantMain s.mc.config ≠ none →
    s.se.setpoint = s.mc.config.fallbackSetpoint
  output : s.se.fallback = false → wantMain s.mc.config ≠ none → s.se.setpoint ≤ s.se.grant
  classes : s.mc.config.minClass ≤ 3 ∧ s.mc.config.headClass ≤ 3
  loading : s.mc.mode = .loading → wantMain s.mc.config = none
  noWant : wantMain s.mc.config = none → s.se.grant = 0 ∧ s.se.minGrant = 0

/-- A station that wants nothing has an effective want of 0 (R47). -/
theorem effectiveWant_none {s : State} (h : wantMain s.mc.config = none) : effectiveWant s = (0, 0) := by
  simp only [effectiveWant, h]

theorem shareLaw_iff {s : State} : ShareLaw s ↔
    ShareCore s ∧ s.se.grant ≤ (effectiveWant s).2 ∧ s.se.minGrant ≤ (effectiveWant s).1 :=
  ⟨fun h => ⟨⟨h.inFallback, h.fallbackOutput, h.output, h.classes, h.loading, fun hn =>
      ⟨Nat.le_zero.1 (by simpa [effectiveWant_none hn] using h.grant),
        Nat.le_zero.1 (by simpa [effectiveWant_none hn] using h.minGrant)⟩⟩, h.grant, h.minGrant⟩,
    fun ⟨h, hg, hm⟩ => ⟨h.inFallback, h.fallbackOutput, h.output, hg, hm, h.classes, h.loading⟩⟩

/-- What of the law does not speak of fallback and of the output. -/
structure ConfigFits (s : State) : Prop where
  classes : s.mc.config.minClass ≤ 3 ∧ s.mc.config.headClass ≤ 3
  loading : s.mc.mode = .loading → wantMain s.mc.config = none
  noWant : wantMain s.mc.config = none → s.se.grant = 0 ∧ s.se.minGrant = 0

theorem ShareCore.fits {s : State} (h : ShareCore s) : ConfigFits s := ⟨h.classes, h.loading, h.noWant⟩

/-- Two states alike in all that the effective want is made of. -/
def WantAlike (s t : State) : Prop :=
  t.mc.mode = s.mc.mode ∧ t.mc.config = s.mc.config ∧ t.se.capability = s.se.capability ∧ t.fu.mode = s.fu.mode ∧
    t.turbine = s.turbine ∧ t.mu.demand = s.mu.demand ∧ ∀ l, (t.rl.get l).taken = (s.rl.get l).taken

/-- Two states alike in what the Share Engine holds and is held to. -/
def OutputAlike (s t : State) : Prop :=
  t.mc.mode = s.mc.mode ∧ t.mc.config = s.mc.config ∧ t.mc.faults = s.mc.faults ∧ t.se.fallback = s.se.fallback ∧
    t.se.setpoint = s.se.setpoint ∧ t.se.grant = s.se.grant ∧ t.se.minGrant = s.se.minGrant

theorem takenSteps_congr {s t : State} (hc : t.mc.config = s.mc.config)
    (ht : ∀ l, (t.rl.get l).taken = (s.rl.get l).taken) (l : ClaimLine) : takenSteps l t = takenSteps l s := by
  simp only [takenSteps, hc, ht]

/-- The base want follows the role's own quantities alone (R45). -/
theorem baseWant_congr {s t : State} (hc : t.mc.config = s.mc.config) (hcap : t.se.capability = s.se.capability)
    (hf : t.fu.mode = s.fu.mode) (htu : t.turbine = s.turbine) (hd : t.mu.demand = s.mu.demand) :
    baseWant t = baseWant s := by
  simp only [baseWant, boilerWant, townWant, gasMax, hc, hcap, hf, htu, hd]

/-- The effective want is a function of the role's quantities and of what the two ladders of the main raise and shed
(R47). -/
theorem effectiveWant_of_effects {s t : State} (hm : t.mc.mode = s.mc.mode) (hc : t.mc.config = s.mc.config)
    (hb : baseWant t = baseWant s) (hshed : ∀ m, shedTaken m t = shedTaken m s)
    (hraise : ∀ m, raiseSum m t = raiseSum m s) : effectiveWant t = effectiveWant s := by
  simp only [effectiveWant, hm, hc, hb, hshed, hraise]

theorem effectiveWant_congr {s t : State} (h : WantAlike s t) : effectiveWant t = effectiveWant s := by
  obtain ⟨hm, hc, hcap, hf, htu, hd, ht⟩ := h
  refine effectiveWant_of_effects hm hc (baseWant_congr hc hcap hf htu hd) (fun m => ?_) fun m => ?_
  · simp only [shedTaken, stepsOnMain, takenSteps_congr hc ht]
  · simp only [raiseSum, stepsOnMain, takenSteps_congr hc ht]

theorem severity_congr {s t : State} (h : t.mc.faults = s.mc.faults) : severity t = severity s := by
  simp only [severity, h]

theorem ShareCore.of_alike {s t : State} (h : ShareCore s) (ha : OutputAlike s t) : ShareCore t := by
  obtain ⟨hm, hc, hf, hfb, hsp, hg, hmg⟩ := ha
  refine ⟨?_, ?_, ?_, ?_, ?_, ?_⟩
  · rw [hm, severity_congr hf, hfb]
    exact h.inFallback
  · rw [hfb, hc, hsp]
    exact h.fallbackOutput
  · rw [hfb, hc, hsp, hg]
    exact h.output
  · rw [hc]
    exact h.classes
  · rw [hm, hc]
    exact h.loading
  · rw [hc, hg, hmg]
    exact h.noWant

theorem ShareLaw.core {s : State} (h : ShareLaw s) : ShareCore s := (shareLaw_iff.1 h).1

/-! ### Fallback and the rebuild (R47, R48, R52) -/

theorem enterFallback_se (s : State) : (enterFallback s).se.fallback = true ∧
    (wantMain s.mc.config ≠ none → (enterFallback s).se.setpoint = s.mc.config.fallbackSetpoint) ∧
    (enterFallback s).se.grant = s.se.grant ∧ (enterFallback s).se.minGrant = s.se.minGrant := by
  simp only [enterFallback]
  split
  · exact ⟨rfl, fun _ => rfl, rfl, rfl⟩
  · next hn => exact ⟨rfl, fun h => absurd hn h, rfl, rfl⟩

/-- Fallback entered, the law but for the grants holds whatever stood before (R52, R53). -/
theorem enterFallback_core (s : State) (h : ConfigFits s) : ShareCore (enterFallback s) := by
  obtain ⟨hf, hs, hg, hmg⟩ := enterFallback_se s
  refine ⟨fun _ => hf, fun _ hw => ?_, fun hn => ?_, by simpa using h.classes, by simpa using h.loading,
    by simpa [hg, hmg] using h.noWant⟩
  · simpa using hs (by simpa using hw)
  · rw [hf] at hn
    cases hn

theorem rebuildWant_se {s : State} (h : wantMain s.mc.config ≠ none) :
    (rebuildWant s).se = seLowered (effectiveWant s).1 (effectiveWant s).2 s.se := by
  simp only [rebuildWant]
  split
  · next hn => exact absurd hn h
  · split <;> rfl

theorem rebuildWant_of_noWant {s : State} (h : wantMain s.mc.config = none) : rebuildWant s = s := by
  simp only [rebuildWant, h]

theorem rebuildWant_core (s : State) (h : ShareCore s) : ShareCore (rebuildWant s) := by
  refine ⟨?_, ?_, ?_, by simpa using h.classes, by simpa using h.loading, fun hn => ?_⟩
  · rw [severity_congr (s := s) (by simp)]
    simpa using h.inFallback
  · intro hf hw
    have hf : s.se.fallback = true := by simpa using hf
    have hw : wantMain s.mc.config ≠ none := by simpa using hw
    rw [rebuildWant_se hw]
    simpa [seLowered, hf] using h.fallbackOutput hf hw
  · intro hf hw
    have hf : s.se.fallback = false := by simpa using hf
    have hw : wantMain s.mc.config ≠ none := by simpa using hw
    rw [rebuildWant_se hw]
    simp only [seLowered, hf, Bool.false_eq_true, if_false]
    exact Nat.min_le_right _ _
  · have hn : wantMain s.mc.config = none := by simpa using hn
    rw [rebuildWant_of_noWant hn]
    exact h.noWant hn

/-- After a rebuild nothing granted exceeds the want, whatever stood before (R48). -/
theorem rebuildWant_law (s : State) (h : ShareCore s) : ShareLaw (rebuildWant s) := by
  by_cases hw : wantMain s.mc.config = none
  · obtain ⟨hg, hmg⟩ := h.noWant hw
    rw [rebuildWant_of_noWant hw, shareLaw_iff, hg, hmg]
    exact ⟨h, Nat.zero_le _, Nat.zero_le _⟩
  · rw [shareLaw_iff, effectiveWant_congr (s := s) (by simp [WantAlike]), rebuildWant_se hw]
    exact ⟨rebuildWant_core s h, Nat.min_le_right _ _, Nat.min_le_right _ _⟩

/-! ### A law of the share, with the grants' bounds or without (R48, R94 to R97) -/

/-- A law that holds the core, comes with every rebuild and depends on the Share Engine and the want alone: the law of
the share itself, and its core. -/
structure ShareKept (P : State → Prop) : Prop where
  core : ∀ {s}, P s → ShareCore s
  rebuild : ∀ {s}, ShareCore s → P (rebuildWant s)
  ofCore : ∀ {s t}, P s → ShareCore t → effectiveWant t = effectiveWant s → t.se.grant = s.se.grant →
    t.se.minGrant = s.se.minGrant → P t

theorem shareCore_kept : ShareKept ShareCore :=
  ⟨id, fun h => rebuildWant_core _ h, fun _ ht _ _ _ => ht⟩

theorem shareLaw_kept : ShareKept ShareLaw where
  core h := h.core
  rebuild h := rebuildWant_law _ h
  ofCore h ht hw hg hmg := by
    rw [shareLaw_iff, hw, hg, hmg]
    exact ⟨ht, h.grant, h.minGrant⟩

/-! ### Faults (R52, R53, R180) -/

theorem graver_failed_iff (a b : Severity) : graver a b = .failed ↔ a = .failed ∨ b = .failed := by
  cases a <;> cases b <;> decide

theorem listSeverity_failed_iff (l : List FaultEntry) :
    listSeverity l = .failed ↔ ∃ e ∈ l, faultSeverity e.kind = .failed := by
  induction l with
  | nil => simp [listSeverity]
  | cons e t ih => rw [listSeverity, graver_failed_iff, ih, List.exists_mem_cons_iff]

/-- A fault cleared leaves no station FAILED that was not. -/
theorem clearFault_core (k : FaultKind) (s : State) (h : ShareCore s) : ShareCore (clearFault k s) := by
  refine ⟨fun hm => h.inFallback ?_, h.fallbackOutput, h.output, h.classes, h.loading, h.noWant⟩
  rcases hm with hm | hm
  · exact .inl hm
  · refine .inr ?_
    obtain ⟨e, he, hf⟩ := (listSeverity_failed_iff _).1 hm
    exact (listSeverity_failed_iff _).2 ⟨e, (List.mem_filter.1 he).1, hf⟩

/-- A fault raised that makes an ACTIVE station FAILED enters fallback. -/
theorem raiseFault_core (k : FaultKind) (s : State) (h : ShareCore s) : ShareCore (raiseFault k s) := by
  simp only [raiseFault]
  split
  · exact enterFallback_core _ ⟨h.classes, h.loading, h.noWant⟩
  · next hn =>
    refine ⟨fun hm => h.inFallback ?_, h.fallbackOutput, h.output, h.classes, h.loading, h.noWant⟩
    by_cases ha : s.mc.mode = .active
    · refine .inr (Classical.byContradiction fun hs => hn ⟨ha, hs, ?_⟩)
      rcases hm with hm | hm
      · exact absurd ha hm
      · exact hm
    · exact .inl ha

theorem raiseFault_grants (k : FaultKind) (s : State) :
    (raiseFault k s).se.grant = s.se.grant ∧ (raiseFault k s).se.minGrant = s.se.minGrant := by
  have hf := enterFallback_se (s.setMc { s.mc with faults := faultsRaised k s.dc.time s.mc.faults })
  simp only [raiseFault]
  split
  · exact ⟨hf.2.2.1, hf.2.2.2⟩
  · exact ⟨rfl, rfl⟩

/-! ### A step taken or undone (R94) -/

/-- An action that neither raises nor sheds. -/
def leavesWant : Action → Bool
  | .raise _ | .shed => false
  | .none | .fuelBackup | .fuelGas | .flareStep | .wake _ => true

theorem take_succ_effects {l : List Step} {k : Nat} {st : Step} (h : l[k]? = some st) (ha : leavesWant st.action = true) :
    ((l.take (k + 1)).any fun x => x.action == .shed) = ((l.take k).any fun x => x.action == .shed) ∧
      sumOf ((l.take (k + 1)).map fun x => raiseAmount x.action) = sumOf ((l.take k).map fun x => raiseAmount x.action) := by
  have hst : (st.action == .shed) = false ∧ raiseAmount st.action = 0 := by
    cases hx : st.action <;> simp_all [leavesWant, raiseAmount]
  rw [List.take_add_one, h]
  simp [hst.1, hst.2, List.any_append]

end Sys2Proof.Machine
end

section
/-! SUPPORT. The law of the share through the ladders, the fuel mode and the edges of the lines (R48, R94, R107). -/

namespace Sys2Proof.Machine

/-- A ladder written that stands on steps of the same effects leaves the want. -/
theorem effectiveWant_setLadder (l : ClaimLine) (x : Ladder) (s : State)
    (hshed : (((ladderSteps l s).take x.taken).any fun y => y.action == .shed) =
      ((takenSteps l s).any fun y => y.action == .shed))
    (hraise : sumOf (((ladderSteps l s).take x.taken).map fun y => raiseAmount y.action) =
      sumOf ((takenSteps l s).map fun y => raiseAmount y.action)) :
    effectiveWant (setLadder l x s) = effectiveWant s := by
  have hsteps : ∀ k, takenSteps k (setLadder l x s) =
      if k = l then (ladderSteps l s).take x.taken else takenSteps k s := by
    intro k
    simp only [takenSteps, setLadder, setRl_rl, setRl_mc, Six.get_set]
    split
    · next h =>
      subst h
      rfl
    · rfl
  have hany : ∀ k, ((takenSteps k (setLadder l x s)).any fun y => y.action == .shed) =
      ((takenSteps k s).any fun y => y.action == .shed) := by
    intro k
    rw [hsteps]
    split
    · next h =>
      subst h
      exact hshed
    · rfl
  have hsum : ∀ k, sumOf ((takenSteps k (setLadder l x s)).map fun y => raiseAmount y.action) =
      sumOf ((takenSteps k s).map fun y => raiseAmount y.action) := by
    intro k
    rw [hsteps]
    split
    · next h =>
      subst h
      exact hraise
    · rfl
  refine effectiveWant_of_effects rfl rfl rfl (fun m => ?_) fun m => ?_
  · simp only [shedTaken, stepsOnMain, List.any_append, hany]
  · simp only [raiseSum, stepsOnMain, List.map_append, sumOf_append, hsum]

namespace ShareKept

variable {P : State → Prop} (h : ShareKept P)
include h

theorem same {s t : State} (hs : P s) (ha : OutputAlike s t) (hw : effectiveWant t = effectiveWant s) : P t :=
  h.ofCore hs ((h.core hs).of_alike ha) hw ha.2.2.2.2.2.1 ha.2.2.2.2.2.2

theorem raiseFault (k : FaultKind) {s : State} (hs : P s) : P (raiseFault k s) :=
  h.ofCore hs (raiseFault_core k s (h.core hs)) (effectiveWant_congr (by simp [WantAlike])) (raiseFault_grants k s).1
    (raiseFault_grants k s).2

theorem clearFault (k : FaultKind) {s : State} (hs : P s) : P (clearFault k s) :=
  h.ofCore hs (clearFault_core k s (h.core hs)) (effectiveWant_congr (by simp [WantAlike])) rfl rfl

theorem of_alike {s t : State} (hs : P s) (ha : OutputAlike s t) (hw : WantAlike s t) : P t :=
  h.same hs ha (effectiveWant_congr hw)

theorem rebuilt {s : State} (hs : P s) : P (rebuildWant s) := h.rebuild (h.core hs)

/-- A rebuild after a change that leaves the Share Engine as it stands. -/
theorem rebuildAlike {s t : State} (hs : P s) (ha : OutputAlike s t) : P (rebuildWant t) :=
  h.rebuild ((h.core hs).of_alike ha)

theorem completeAll (ls : List ClaimLine) (o : ActionOutcome) {s : State} (hs : P s) : P (completeAll ls o s) :=
  h.of_alike hs (by simp [OutputAlike]) (by simp [WantAlike])

theorem completeAction (l : ClaimLine) (o : ActionOutcome) {s : State} (hs : P s) : P (completeAction l o s) :=
  h.of_alike hs (by simp [OutputAlike]) (by simp [WantAlike])

theorem enqueue (b : TxBody) {s : State} (hs : P s) : P (enqueue b s) :=
  h.of_alike hs (by simp [OutputAlike]) (by simp [WantAlike])

theorem flareRequest (r : FlareRequest) {s : State} (hs : P s) : P (flareRequest r s) :=
  h.of_alike hs (by simp [OutputAlike]) (by simp [WantAlike])

/-! ### The fuel mode (R107 to R112) -/

theorem setFuelMode (m : FuelMode) {s : State} (hs : ShareCore s) : P (setFuelMode m s) :=
  h.rebuild (hs.of_alike (by simp [OutputAlike]))

theorem startChangeover (f : Fuel) (joined : List ClaimLine) {s : State} (hs : ShareCore s) :
    P (startChangeover f joined s) :=
  h.setFuelMode _ (hs.of_alike (by simp [OutputAlike]))

theorem fuelRequest (f : Fuel) (l : ClaimLine) {s : State} (hs : P s) : P (fuelRequest f l s) := by
  simp only [Machine.fuelRequest]
  split
  · split
    · exact h.completeAction l _ hs
    · exact h.startChangeover f _ (h.core hs)
  · split
    · exact h.of_alike hs (by simp [OutputAlike]) (by simp [WantAlike])
    · exact h.of_alike hs (by simp [OutputAlike]) (by simp [WantAlike])

theorem fuelReport (f : Fuel) {s : State} (hs : P s) : P (fuelReport f s) := by
  simp only [Machine.fuelReport]
  split
  · exact h.setFuelMode _ ((h.core hs).of_alike (by simp [OutputAlike]))
  · split
    · next c _ _ =>
      have ht : ShareCore (s.setFu { s.fu with flight := none, lastReported := some f, mode := settledMode f }) :=
        (h.core hs).of_alike (by simp [OutputAlike])
      have hu := shareCore_kept.completeAll c.joined .completed (clearFault_core .changeoverTimeout _ ht)
      simp only [completeChangeover]
      split
      · exact h.rebuild hu
      · exact h.startChangeover _ _ (hu.of_alike (by simp [OutputAlike]))
    · exact h.of_alike hs (by simp [OutputAlike]) (by simp [WantAlike])

theorem changeoverExpires (c : Changeover) {s : State} (hs : P s) : P (changeoverExpires c s) := by
  have hr := raiseFault_core .changeoverTimeout s (h.core hs)
  have hv := h.completeAll c.joined .timedOut (h.setFuelMode (modeAfterTimeout s)
    (hr.of_alike (t := (Machine.raiseFault .changeoverTimeout s).setFu
      { (Machine.raiseFault .changeoverTimeout s).fu with flight := none }) (by simp [OutputAlike])))
  simp only [Machine.changeoverExpires]
  split
  · exact hv
  · split
    · exact h.completeAll _ _ (h.of_alike hv (by simp [OutputAlike]) (by simp [WantAlike]))
    · exact h.startChangeover _ _ ((h.core hv).of_alike (by simp [OutputAlike]))

/-! ### Steps (R93, R94) -/

theorem askTake (a : Action) (l : ClaimLine) {s t : State} (hs : P s) (ha : OutputAlike s t)
    (hw : leavesWant a = true → effectiveWant t = effectiveWant s) : P (askTake a l t) := by
  have hrebuilt : P (Machine.completeAction l .completed (rebuildWant t)) :=
    h.completeAction l _ (h.rebuildAlike hs ha)
  cases a with
  | none => exact h.completeAction l _ (h.same hs ha (hw rfl))
  | raise n => exact hrebuilt
  | shed => exact hrebuilt
  | fuelBackup => exact h.fuelRequest _ l (h.same hs ha (hw rfl))
  | fuelGas => exact h.fuelRequest _ l (h.same hs ha (hw rfl))
  | flareStep => exact h.flareRequest _ (h.same hs ha (hw rfl))
  | wake r => exact h.completeAction l _ (h.enqueue _ (h.same hs ha (hw rfl)))

theorem askUndo (a : Action) (l : ClaimLine) {s t : State} (hs : P s) (ha : OutputAlike s t)
    (hw : leavesWant a = true → effectiveWant t = effectiveWant s) : P (askUndo a l t) := by
  have hrebuilt : P (Machine.completeAction l .completed (rebuildWant t)) :=
    h.completeAction l _ (h.rebuildAlike hs ha)
  cases a with
  | none => exact h.completeAction l _ (h.same hs ha (hw rfl))
  | raise n => exact hrebuilt
  | shed => exact hrebuilt
  | fuelBackup => exact h.fuelRequest _ l (h.same hs ha (hw rfl))
  | fuelGas => exact h.fuelRequest _ l (h.same hs ha (hw rfl))
  | flareStep => exact h.flareRequest _ (h.same hs ha (hw rfl))
  | wake r => exact h.completeAction l _ (h.same hs ha (hw rfl))

theorem takeStep (l : ClaimLine) {s : State} (hs : P s) : P (takeStep l s) := by
  simp only [Machine.takeStep]
  split
  · exact hs
  · next st hst =>
    refine h.askTake _ l hs (by simp [OutputAlike, setLadder]) fun hn => ?_
    obtain ⟨hshed, hraise⟩ := take_succ_effects hst hn
    exact effectiveWant_setLadder l _ s hshed hraise

theorem undoStep (l : ClaimLine) {s : State} (hs : P s) : P (undoStep l s) := by
  simp only [Machine.undoStep]
  split
  · exact hs
  · next k hk =>
    split
    · exact hs
    · next st hst =>
      refine h.askUndo _ l hs (by simp [OutputAlike, setLadder]) fun hn => ?_
      obtain ⟨hshed, hraise⟩ := take_succ_effects hst hn
      have htaken : takenSteps l s = (ladderSteps l s).take (k + 1) := by rw [takenSteps, hk, ladderSteps]
      exact effectiveWant_setLadder l _ s (htaken ▸ hshed.symm) (htaken ▸ hraise.symm)

/-! ### The edges of the lines -/

/-- The law of the share is a law of the lines' edges. -/
theorem lineKept : LineKept P where
  drawn _ hs := h.of_alike hs (by simp [OutputAlike]) (by simp [WantAlike])
  enqueue b _ hs := h.enqueue b hs
  ladderRise l s _ hs := by
    simp only [ladderRise]
    split
    · exact h.takeStep l hs
    all_goals exact hs
  ladderFall l s hs := by
    simp only [ladderFall]
    split
    · exact h.undoStep l hs
    all_goals exact hs
  setPending _ _ _ hs := h.of_alike hs (by simp [OutputAlike]) (by simp [WantAlike])
  latch _ _ hs := h.of_alike hs (by simp [OutputAlike]) (by simp [WantAlike])
  activated s hs := by
    have hc := h.core hs
    refine h.rebuild ⟨fun hm => hc.inFallback (.inr ?_), hc.fallbackOutput, hc.output, hc.classes, nofun, hc.noWant⟩
    rcases hm with hm | hm
    · exact absurd rfl hm
    · exact hm
  enterListenIn s hs := by
    have hc := h.core hs
    have hf : ShareCore (enterFallback ((Machine.enqueue (configuredHello s.mc.config)
        ((s.setMc { s.mc with mode := .listenIn }).setFp { s.fp with statusTimer := none })).setSe
        { s.se with roundTimer := some s.mc.config.period, roundCount := 0 })) :=
      enterFallback_core _ ⟨by simpa using hc.classes, by simp, by simpa using hc.noWant⟩
    exact h.rebuild (shareCore_kept.of_alike (t := markPending _) hf (by simp [OutputAlike]) (by simp [WantAlike]))
  setLine _ _ _ _ hs := h.of_alike hs (by simp [OutputAlike]) (by simp [WantAlike])

end ShareKept

end Sys2Proof.Machine
end

section
/-! SUPPORT. The law of the share through the round, the mode entries and the events of a peer (R38 to R42, R51 to R58). -/

namespace Sys2Proof.Machine

/-! ### What a round grants (R40 to R42) -/

theorem tierGrant_le (w : Walk) (demand amount : Nat) : tierGrant w demand amount ≤ amount := by
  simp only [tierGrant]
  split
  · exact Nat.zero_le _
  · next hn =>
    split
    · exact le_rfl
    · next hd =>
      have hpos : 0 < demand := Nat.pos_of_ne_zero fun h0 => hn (.inr h0)
      calc w.rest * amount / demand ≤ demand * amount / demand :=
            Nat.div_le_div_right (Nat.mul_le_mul_right _ (Nat.le_of_lt (Nat.lt_of_not_le hd)))
        _ = amount := Nat.mul_div_cancel_left _ hpos

theorem minGrantOf_le (ws : List WantMember) (sup : Nat) (w : WantMember) (hc : w.minClass ≤ 3) :
    minGrantOf ws sup w ≤ w.minimum := by
  refine (tierGrant_le _ _ _).trans ?_
  rw [tierAmount, if_pos (by omega), if_pos rfl]

theorem grantOf_le (ws : List WantMember) (sup : Nat) (w : WantMember) (hc : w.minClass ≤ 3) :
    grantOf ws sup w ≤ w.minimum + w.headroom := by
  refine Nat.add_le_add (minGrantOf_le ws sup w hc) ((tierGrant_le _ _ _).trans ?_)
  rw [tierAmount, if_neg (by omega), if_pos rfl]

theorem effectiveWant_le (s : State) : (effectiveWant s).1 ≤ (effectiveWant s).2 := by
  simp only [effectiveWant]
  split
  · exact le_rfl
  · split
    · exact le_rfl
    · exact Nat.min_le_right _ _

theorem wantClasses_le {c : StationConfig} (h : c.minClass ≤ 3 ∧ c.headClass ≤ 3) : (wantClasses c).1 ≤ 3 := by
  simp only [wantClasses]
  split
  · decide
  · decide
  all_goals exact h.1

/-- A want among the station's own records is its effective want, with its classes (R50). -/
theorem want_of_mem_ownRecords {s : State} {m : Main} {lo hi c h : Nat}
    (hr : StateRecord.want m lo hi c h ∈ ownRecords s) :
    lo = (effectiveWant s).1 ∧ hi = (effectiveWant s).2 ∧ c = (wantClasses s.mc.config).1 := by
  simp only [ownRecords] at hr
  split at hr <;> simp at hr <;> exact ⟨hr.2.1, hr.2.2.1, hr.2.2.2.1⟩

/-- The own want member is within the effective want (R42). -/
theorem ownMember_within {m : Main} {s : State} {w : WantMember} (h : ownMember m s = some w)
    (hc : s.mc.config.minClass ≤ 3 ∧ s.mc.config.headClass ≤ 3) :
    w.minClass ≤ 3 ∧ w.minimum = (effectiveWant s).1 ∧ w.minimum + w.headroom ≤ (effectiveWant s).2 := by
  have hle := effectiveWant_le s
  simp only [ownMember] at h
  split at h
  · next e he =>
    have hrec : e.records = ownRecords s := by
      simp only [ownEntry] at he
      split at he
      · cases he
      · cases he
        rfl
    obtain ⟨r, hr, hw⟩ := List.mem_filterMap.1 (List.mem_of_mem_head? h)
    obtain ⟨x, hx, rfl⟩ := List.mem_map.1 hr
    rw [hrec] at hx
    cases x with
    | want n lo hi c g =>
      obtain ⟨rfl, rfl, rfl⟩ := want_of_mem_ownRecords hx
      simp only [keptRecord, countedWant] at hw
      split at hw
      · cases hw
        refine ⟨wantClasses_le hc, rfl, ?_⟩
        show (effectiveWant s).1 + ite _ _ _ ≤ _
        split <;> omega
      · cases hw
    | offer n o g f => cases hw
    | holder n lv b d a => cases hw
  · cases h

/-- What a round grants is within the effective want (R42). -/
theorem computeShare_grants (s : State) (h : ShareLaw s) :
    (computeShare s).se.grant ≤ (effectiveWant s).2 ∧ (computeShare s).se.minGrant ≤ (effectiveWant s).1 := by
  simp only [computeShare]
  split
  · next m _ =>
    simp only [setSe_se, grantsFrom]
    split
    · next w hw =>
      obtain ⟨hc, hmin, hsum⟩ := ownMember_within hw h.classes
      exact ⟨(grantOf_le _ _ w hc).trans hsum, hmin ▸ minGrantOf_le _ _ w hc⟩
    · exact ⟨h.grant, h.minGrant⟩
  · exact ⟨h.grant, h.minGrant⟩

/-! ### Setpoints (R51, R53) -/

theorem ramped_le (y g step : Nat) : ramped y g step ≤ g := by
  simp only [ramped]
  split
  · exact le_rfl
  · omega

/-- The setpoints settled, the law but for the grants holds whatever the output was before (R51, R53). -/
theorem settleSetpoints_core (s : State) (h : ConfigFits s) : ShareCore (settleSetpoints s) := by
  simp only [settleSetpoints]
  split
  · next ha =>
    have hin : ¬(s.mc.mode ≠ .active ∨ severity s = .failed) := by
      rintro (hx | hx)
      · exact hx ha.1
      · exact ha.2 hx
    split
    · exact ⟨fun hx => absurd hx hin, nofun, fun _ _ => ramped_le _ _ _, h.classes, h.loading, h.noWant⟩
    · next hn =>
      exact ⟨fun hx => absurd hx hin, nofun, fun _ hw => absurd hn hw, h.classes, h.loading, h.noWant⟩
  · exact enterFallback_core s h

theorem settleSetpoints_grants (s : State) :
    (settleSetpoints s).se.grant = s.se.grant ∧ (settleSetpoints s).se.minGrant = s.se.minGrant := by
  have hf := enterFallback_se s
  simp only [settleSetpoints]
  split
  · split
    · exact ⟨rfl, rfl⟩
    · exact ⟨rfl, rfl⟩
  · exact ⟨hf.2.2.1, hf.2.2.2⟩

theorem settled_shareLaw (s : State) (h : ShareLaw s) : ShareLaw (settleSetpoints (computeShare s)) := by
  obtain ⟨hg, hmg⟩ := settleSetpoints_grants (computeShare s)
  obtain ⟨hle, hmle⟩ := computeShare_grants s h
  have hw : effectiveWant (settleSetpoints (computeShare s)) = effectiveWant s :=
    effectiveWant_congr (by simp [WantAlike])
  rw [shareLaw_iff, hg, hmg, hw]
  refine ⟨settleSetpoints_core _ ⟨by simpa using h.classes, by simpa using h.loading, fun hn => ?_⟩, hle, hmle⟩
  have hz := effectiveWant_none (s := s) (by simpa using hn)
  rw [hz] at hle hmle
  exact ⟨Nat.le_zero.1 hle, Nat.le_zero.1 hmle⟩

/-! ### Rounds and mode entries -/

theorem shareLaw_line : LineKept ShareLaw := shareLaw_kept.lineKept

theorem ShareLaw.alike {s t : State} (h : ShareLaw s) (ha : OutputAlike s t) (hw : WantAlike s t) : ShareLaw t :=
  shareLaw_kept.of_alike h ha hw

theorem evaluateClaims_shareLaw (effMin : Nat) (s : State) (h : ShareLaw s) : ShareLaw (evaluateClaims effMin s) := by
  have hs : ∀ n, ShareLaw (s.setSe { s.se with shortfallCount := n }) := fun n =>
    h.alike (by simp [OutputAlike]) (by simp [WantAlike])
  have he : ∀ n, ShareLaw (s.setSe { s.se with excessCount := n }) := fun n =>
    h.alike (by simp [OutputAlike]) (by simp [WantAlike])
  simp only [evaluateClaims, evaluateShortfall, evaluateSurplus]
  (repeat' split)
  · exact shareLaw_line.assertInRound _ (hs _)
  · exact shareLaw_line.releaseInRound _ (hs _)
  · exact hs _
  · exact hs _
  · exact he _
  · exact shareLaw_line.releaseInRound _ (he _)
  · exact shareLaw_line.assertInRound _ (he _)
  · exact he _
  · exact h
  · exact h

theorem roundWork_shareLaw (s : State) (h : ShareLaw s) : ShareLaw (roundWork s) := by
  have hc : ShareLaw (countRound s) := h.alike (by simp [OutputAlike, countRound]) (by simp [WantAlike, countRound])
  have he := evaluateClaims_shareLaw (effectiveWant s).1 _ (settled_shareLaw _ hc)
  exact he.alike (by simp [OutputAlike, roundWork]) (by simp [WantAlike, roundWork])

theorem runRound_shareLaw (s : State) (hm : s.mc.mode ≠ .loading) (h : ShareLaw s) : ShareLaw (runRound s) :=
  shareLaw_line.handEdges _ _ (awake_kept.roundWork hm) (roundWork_shareLaw s h)

theorem engineReleases_shareCore (s : State) (h : ShareCore s) : ShareCore (engineReleases s) :=
  shareCore_kept.lineKept.releaseAll _ (h.of_alike (by simp [OutputAlike]))

theorem clearLadders_shareCore (s : State) (h : ShareCore s) : ShareCore (clearLadders s) :=
  rebuildWant_core _ (h.of_alike (by simp [OutputAlike]))

theorem releaseAndClear_shareCore (s : State) (h : ShareCore s) : ShareCore (releaseAndClear s) := by
  have hd : ShareCore (drawn s) := h.of_alike (by simp [OutputAlike])
  simp only [releaseAndClear]
  split
  · split
    · exact engineReleases_shareCore _ (clearLadders_shareCore _ hd)
    · exact clearLadders_shareCore _ (engineReleases_shareCore _ hd)
  · exact engineReleases_shareCore _ (clearLadders_shareCore _ h)

theorem ShareCore.setRoundCount {s : State} (h : ShareCore s) (n : Nat) :
    ShareCore (s.setSe { s.se with roundCount := n }) := h.of_alike (by simp [OutputAlike])

theorem ShareCore.setCu {s : State} (h : ShareCore s) (x : Six LineState) : ShareCore (s.setCu x) :=
  h.of_alike (by simp [OutputAlike])

theorem enterStandbyListen_shareLaw (s : State) (h : ShareLaw s) : ShareLaw (enterStandbyListen s) := by
  have hf : ShareCore (enterFallback (s.setMc { s.mc with mode := .standbyListen })) :=
    enterFallback_core _ ⟨h.classes, nofun, h.core.noWant⟩
  have hr := rebuildWant_law _ (releaseAndClear_shareCore _ (hf.setRoundCount 0))
  exact hr.alike (by simp [OutputAlike, enterStandbyListen]) (by simp [WantAlike, enterStandbyListen])

theorem enterStandbyDeep_shareLaw (s : State) (h : ShareLaw s) : ShareLaw (enterStandbyDeep s) := by
  refine rebuildWant_law _ (ShareCore.setCu (clearLadders_shareCore _ (enterFallback_core _ ⟨?_, ?_, ?_⟩)) _)
  · simpa using h.classes
  · simp
  · exact fun _ => ⟨rfl, rfl⟩

/-- A station that wants nothing keeps its law in fallback, whatever mode but LOADING it enters. -/
theorem ShareCore.of_noWant {s t : State} (h : ShareCore s) (hn : wantMain s.mc.config = none)
    (hc : t.mc.config = s.mc.config) (hf : t.se.fallback = true) (hg : t.se.grant = s.se.grant)
    (hmg : t.se.minGrant = s.se.minGrant) : ShareCore t := by
  refine ⟨fun _ => hf, fun _ hw => absurd (hc ▸ hn) hw, fun _ hw => absurd (hc ▸ hn) hw, hc ▸ h.classes,
    fun _ => hc ▸ hn, fun _ => ?_⟩
  rw [hg, hmg]
  exact h.noWant hn

theorem enterLeaving_shareLaw (s : State) (h : ShareLaw s) : ShareLaw (enterLeaving s) := by
  refine rebuildWant_law _ (enterFallback_core _ ⟨by simpa using h.classes, fun hm => absurd hm ?_, fun hn => ?_⟩)
  · exact awake_kept.lineKept.releaseAll _ (awake_kept.engineReleases (by simp))
  · have hn : wantMain s.mc.config = none := by simpa using hn
    exact (shareCore_kept.lineKept.releaseAll _ (engineReleases_shareCore _
      (h.core.of_noWant hn (by simp) rfl (by simp) (by simp)))).noWant (by simpa using hn)

theorem clearIfAsked_shareLaw (r : StandbyRequest) (s : State) (h : ShareLaw s) : ShareLaw (clearIfAsked r s) :=
  h.alike (by simp [OutputAlike, clearIfAsked]; split <;> simp) (by simp [WantAlike])

theorem requestTaken_shareLaw (s : State) (h : ShareLaw s) : ShareLaw (requestTaken s) :=
  h.alike (by simp [OutputAlike, requestTaken]) (by simp [WantAlike, requestTaken])

theorem statusAtEntry_shareLaw (s : State) (h : ShareLaw s) : ShareLaw (statusAtEntry s) :=
  h.alike (by simp [OutputAlike]) (by simp [WantAlike])

theorem takeEffect_shareLaw (r : StandbyRequest) (s : State) (h : ShareLaw s) : ShareLaw (takeEffect r s) := by
  have ht := clearIfAsked_shareLaw r s h
  simp only [takeEffect]
  split
  · refine shareLaw_line.actOnLatch (runRound_shareLaw _ ?_ (requestTaken_shareLaw _ (enterStandbyListen_shareLaw _ ht)))
    simp [requestTaken, enterStandbyListen, markPending]
  · exact shareLaw_line.actOnLatch (statusAtEntry_shareLaw _ (requestTaken_shareLaw _ (enterStandbyDeep_shareLaw _ ht)))

theorem roundExpires_shareLaw (s : State) (h : ShareLaw s) : ShareLaw (roundExpires s) := by
  simp only [roundExpires]
  split
  case h_1 hm =>
    split
    · exact runRound_shareLaw _ (awake_kept.lineKept.enterActive (by simp [hm])) (shareLaw_line.enterActive h)
    · exact runRound_shareLaw s (by simp [hm]) h
  case h_2 hm =>
    split
    · exact takeEffect_shareLaw _ s h
    · exact runRound_shareLaw s (by simp [hm]) h
  case h_3 hm =>
    split
    · exact takeEffect_shareLaw _ s h
    · exact runRound_shareLaw s (by simp [hm]) h
  all_goals exact h

theorem returnToListenIn_shareLaw (s : State) (h : ShareLaw s) : ShareLaw (returnToListenIn s) := by
  simp only [returnToListenIn]
  split
  · exact shareLaw_line.bandClaims _ (shareLaw_line.enterListenIn s h)
  · exact shareLaw_line.enterListenIn s h

theorem takeResetWarning_shareLaw (s : State) (h : ShareLaw s) : ShareLaw (takeResetWarning s) := by
  have hl : ShareLaw (statusAtEntry (startReady (shortClose (enterLeaving s)))) :=
    (enterLeaving_shareLaw s h).alike (by simp [OutputAlike]) (by simp [WantAlike])
  simp only [takeResetWarning]
  split
  · exact hl
  · exact hl
  · exact hl
  · exact hl
  · exact h.alike (by simp [OutputAlike]) (by simp [WantAlike])
  · exact h
  · exact h

/-! ### Events of a peer and of the port -/

theorem recomputeTurbine_shareLaw (s : State) (h : ShareLaw s) : ShareLaw (recomputeTurbine s) :=
  shareLaw_kept.rebuildAlike h (by simp [OutputAlike])

theorem reportEntry_shareLaw (e : PeerEntry) (s : State) (h : ShareLaw s) : ShareLaw (reportEntry e s) := by
  simp only [reportEntry]
  split
  · split
    · exact h.alike (by simp [OutputAlike]) (by simp [WantAlike])
    · exact h
  · split
    · exact recomputeTurbine_shareLaw s h
    · exact h
  all_goals exact h

theorem setPeers_shareLaw (x : List (Nat × PeerEntry)) (s : State) (h : ShareLaw s) : ShareLaw (s.setPeers x) :=
  h.alike (by simp [OutputAlike]) (by simp [WantAlike])

theorem takeHead_shareLaw (s : State) (h : ShareLaw s) : ShareLaw (takeHead s) :=
  h.alike (by simp [OutputAlike]) (by simp [WantAlike])

theorem removeEntry_shareLaw (n : Nat) (e : PeerEntry) (s : State) (h : ShareLaw s) : ShareLaw (removeEntry n e s) :=
  reportEntry_shareLaw e _ (shareLaw_line.applyClaims n _ (setPeers_shareLaw _ s h))

theorem removeIfPresent_shareLaw (n : Nat) (s : State) (h : ShareLaw s) : ShareLaw (removeIfPresent n s) := by
  simp only [removeIfPresent]
  split
  · exact removeEntry_shareLaw n _ s h
  · exact h

theorem writeEntry_shareLaw (n : Nat) (e : PeerEntry) (s : State) (h : ShareLaw s) : ShareLaw (writeEntry n e s) :=
  reportEntry_shareLaw e _ (shareLaw_line.applyClaims n _ (setPeers_shareLaw _ s h))

theorem takeState_shareLaw (n : Nat) (x : StateRead) (s : State) (h : ShareLaw s) : ShareLaw (takeState n x s) := by
  simp only [takeState]
  split
  · exact writeEntry_shareLaw n _ s h
  · split
    · exact writeEntry_shareLaw n _ s h
    · exact writeEntry_shareLaw n _ _ (removeEntry_shareLaw n _ s h)

theorem takeHello_shareLaw (n : Nat) (x : HelloRead) (s : State) (h : ShareLaw s) : ShareLaw (takeHello n x s) := by
  simp only [takeHello]
  split
  · exact setPeers_shareLaw _ s h
  · split
    · exact setPeers_shareLaw _ _ (removeEntry_shareLaw n _ s h)
    · split
      · exact shareLaw_line.applyClaims n _ (setPeers_shareLaw _ s h)
      · exact setPeers_shareLaw _ s h

theorem takeClaim_shareLaw (n : Nat) (l : ClaimLine) (e : Edge) (s : State) (h : ShareLaw s) :
    ShareLaw (takeClaim n l e s) := by
  simp only [takeClaim]
  split
  · exact h
  · exact shareLaw_line.applyEdge n l e (setPeers_shareLaw _ s h)

theorem bandChanged_shareLaw (s : State) (h : ShareLaw s) : ShareLaw (bandChanged s) := by
  have hf : ∀ t, ShareLaw t → ShareLaw (floorEntry t) := fun t ht =>
    ht.alike (by simp [OutputAlike]) (by simp [WantAlike])
  have ht : ShareLaw (if claimsFollowBand s.mc.mode then bandClaims s.hu.band s else s) := by
    split
    · exact shareLaw_line.bandClaims _ h
    · exact h
  simp only [bandChanged]
  split
  · exact hf _ ht
  · exact ht

theorem takeLevel_shareLaw (st : SampleStatus) (v : Nat) (s : State) (h : ShareLaw s) : ShareLaw (takeLevel st v s) := by
  cases st with
  | bad => exact h
  | ok =>
    have ht : ∀ x, ShareLaw (clearFault .levelLost (s.setHu x)) := fun x =>
      shareLaw_kept.clearFault _ (h.alike (by simp [OutputAlike]) (by simp [WantAlike]))
    simp only [takeLevel, levelSample]
    split
    · exact ht _
    · exact bandChanged_shareLaw _ (ht _)

theorem linkRestored_shareLaw (s : State) (h : ShareLaw s) : ShareLaw (linkRestored s) :=
  shareLaw_kept.clearFault _ (h.alike (by simp [OutputAlike]) (by simp [WantAlike]))

theorem fieldMessage_shareLaw (k : FieldKind) (take : State → State) (ht : ∀ t, ShareLaw t → ShareLaw (take t))
    (s : State) (h : ShareLaw s) : ShareLaw (fieldMessage k take s) := by
  simp only [fieldMessage]
  split
  · exact h
  · split
    · exact ht _ (linkRestored_shareLaw s h)
    · exact linkRestored_shareLaw s h

end Sys2Proof.Machine
end

section
/-! SUPPORT. The law of the share through the end of LOADING, and the statement it settles (R42, R45, R48, R51 to R53). -/

namespace Sys2Proof.Machine

/-! ### The end of LOADING (R52, R172, R174) -/

theorem holdClass_le (n : Nat) : holdClass n ≤ 3 := Nat.min_le_right _ _

theorem configOf_classes (r : Role) (img : RawImage) :
    (configOf r img).minClass ≤ 3 ∧ (configOf r img).headClass ≤ 3 := by
  cases r with
  | consumer => exact ⟨holdClass_le _, holdClass_le _⟩
  | boiler => exact ⟨holdClass_le _, holdClass_le _⟩
  | producer => exact ⟨Nat.zero_le 3, Nat.zero_le 3⟩
  | holder => exact ⟨Nat.zero_le 3, Nat.zero_le 3⟩
  | turbine => exact ⟨Nat.zero_le 3, Nat.zero_le 3⟩
  | townheat => exact ⟨Nat.zero_le 3, Nat.zero_le 3⟩
  | exportTie => exact ⟨Nat.zero_le 3, Nat.zero_le 3⟩

theorem raiseLoadFaults_grants (s : State) :
    (raiseLoadFaults s).se.grant = s.se.grant ∧ (raiseLoadFaults s).se.minGrant = s.se.minGrant := by
  have hall : ∀ (ks : List FaultKind) (t : State),
      (raiseAll ks t).se.grant = t.se.grant ∧ (raiseAll ks t).se.minGrant = t.se.minGrant := by
    intro ks
    induction ks with
    | nil => exact fun _ => ⟨rfl, rfl⟩
    | cons k rest ih =>
      intro t
      obtain ⟨hg, hm⟩ := raiseFault_grants k t
      exact ⟨(ih _).1.trans hg, (ih _).2.trans hm⟩
  have hd : ∀ ks : List FaultKind, (orderDrawn ks s).se = s.se := fun ks => by simp
  simp only [raiseLoadFaults]
  rw [(hall _ _).1, (hall _ _).2, hd]
  exact ⟨rfl, rfl⟩

/-- LISTEN-IN entered sets the law up, whatever stood before (R48, R52). -/
theorem enterListenIn_shareLaw (s : State) (hc : s.mc.config.minClass ≤ 3 ∧ s.mc.config.headClass ≤ 3)
    (hn : wantMain s.mc.config = none → s.se.grant = 0 ∧ s.se.minGrant = 0) : ShareLaw (enterListenIn s) := by
  have hf : ShareCore (enterFallback ((enqueue (configuredHello s.mc.config)
      ((s.setMc { s.mc with mode := .listenIn }).setFp { s.fp with statusTimer := none })).setSe
      { s.se with roundTimer := some s.mc.config.period, roundCount := 0 })) :=
    enterFallback_core _ ⟨by simpa using hc, by simp, by simpa using hn⟩
  exact rebuildWant_law _ (shareCore_kept.of_alike (t := markPending _) hf (by simp [OutputAlike]) (by simp [WantAlike]))

theorem startAndTell_shareLaw (k : StartKind) (s : State) (h : ShareLaw s) : ShareLaw (startAndTell k s) := by
  have hp : ShareLaw (protectedAtStart k s) := h.alike (by simp [OutputAlike]) (by simp [WantAlike])
  have ht : ShareLaw (startUnit k (protectedAtStart k s)) := by
    simp only [startUnit]
    split
    · exact hp.alike (by simp [OutputAlike]) (by simp [WantAlike])
    · exact hp.alike (by simp [OutputAlike]) (by simp [WantAlike])
    · exact recomputeTurbine_shareLaw _ hp
    all_goals exact hp
  simp only [startAndTell]
  split
  · exact ht.alike (by simp [OutputAlike]) (by simp [WantAlike])
  · exact ht

theorem restartAndStart_shareLaw (k : StartKind) (s : State) (h : ShareLaw s) : ShareLaw (restartAndStart k s) := by
  have hr : ∀ t, ShareLaw t → ShareLaw (restartCommit t) := fun t ht =>
    ht.alike (by simp [OutputAlike, restartCommit]) (by simp [WantAlike, restartCommit])
  have hd : ShareLaw (drawn s) := h.alike (by simp [OutputAlike]) (by simp [WantAlike])
  simp only [restartAndStart]
  split
  · exact startAndTell_shareLaw k s h
  · split
    · exact startAndTell_shareLaw k _ (hr _ hd)
    · exact hr _ (startAndTell_shareLaw k _ hd)

/-- The end of LOADING sets the law up for the configuration it loads. -/
theorem load_shareLaw (strap : Node) (image : Option RawImage) (s : State) (hm : s.mc.mode = .loading)
    (h : ShareLaw s) : ShareLaw (load strap image s) := by
  obtain ⟨hg, hmg⟩ := h.core.noWant (h.loading hm)
  have hfb : s.se.fallback = true := h.inFallback (.inl (by simp [hm]))
  rcases load_cases strap image s with hn | ⟨r, img, -, -, -, hl⟩
  · have hnone : wantMain (notLoaded image (loadCommon strap (loadOutcomeOf strap image) image s)).mc.config = none := by
      simp [notLoaded, statusAtEntry, restartCommit, wantMain, StationConfig.unconfigured]
    have hgrants : (notLoaded image (loadCommon strap (loadOutcomeOf strap image) image s)).se.grant = 0 ∧
        (notLoaded image (loadCommon strap (loadOutcomeOf strap image) image s)).se.minGrant = 0 := by
      simp [notLoaded, statusAtEntry, restartCommit, sendKnownFallback]
      split <;> simp [hg, hmg]
    rw [hn, shareLaw_iff, hgrants.1, hgrants.2]
    refine ⟨⟨fun _ => by simpa using hfb, fun _ hw => absurd hnone hw, fun _ hw => absurd hnone hw, ?_,
      fun _ => hnone, fun _ => hgrants⟩, Nat.zero_le _, Nat.zero_le _⟩
    simp [notLoaded, statusAtEntry, restartCommit, StationConfig.unconfigured]
  · rw [hl]
    refine restartAndStart_shareLaw _ _ ?_
    have hent := enterListenIn_shareLaw (raiseLoadFaults ((loadCommon strap (loadOutcomeOf strap image) image s).setMc
      { (loadCommon strap (loadOutcomeOf strap image) image s).mc with
        config := configOf r img, rememberedTag := some img.computed })) (by simpa using configOf_classes r img)
      fun _ => by
        obtain ⟨hg', hmg'⟩ := raiseLoadFaults_grants ((loadCommon strap (loadOutcomeOf strap image) image s).setMc
          { (loadCommon strap (loadOutcomeOf strap image) image s).mc with
            config := configOf r img, rememberedTag := some img.computed })
        rw [hg', hmg']
        exact ⟨by simpa using hg, by simpa using hmg⟩
    exact hent.alike (by simp [OutputAlike]) (by simp [WantAlike])

/-! ### Operations that raise and clear faults, and ladders resampled -/

theorem reportRecord_shareLaw (b : TxBody) (sent : Bool) (s : State) (h : ShareLaw s) :
    ShareLaw (reportRecord b sent s) := h.alike (by simp [OutputAlike]) (by simp [WantAlike])

theorem sentWhole_shareLaw (e : TxEntry) (s : State) (h : ShareLaw s) : ShareLaw (sentWhole e s) :=
  reportRecord_shareLaw _ _ _ (shareLaw_kept.clearFault _ (h.alike (by simp [OutputAlike]) (by simp [WantAlike])))

theorem countDrop_shareLaw (s : State) (h : ShareLaw s) : ShareLaw (countDrop s) := by
  have ht : ShareLaw (s.setLiu { s.liu with drops := Nat.min (s.liu.drops + 1) 255 }) :=
    h.alike (by simp [OutputAlike]) (by simp [WantAlike])
  simp only [countDrop]
  split
  · exact shareLaw_kept.raiseFault _ ht
  · exact ht

theorem collided_shareLaw (e : TxEntry) (s : State) (h : ShareLaw s) : ShareLaw (collided e s) := by
  have hl : ∀ x, ShareLaw (s.setLiu x) := fun x => h.alike (by simp [OutputAlike]) (by simp [WantAlike])
  simp only [collided]
  split
  · exact hl _
  · exact reportRecord_shareLaw _ _ _ (h.alike (by simp [OutputAlike]) (by simp [WantAlike]))
  · exact hl _
  · exact reportRecord_shareLaw _ _ _ (countDrop_shareLaw _ (hl _))

theorem adopt_shareLaw (f : TimePos) (s : State) (h : ShareLaw s) : ShareLaw (adopt f s) :=
  shareLaw_kept.clearFault _ (h.alike (by simp [OutputAlike]) (by simp [WantAlike]))

theorem commitEnds_shareLaw (result : WriteResult) (r : StoreRecord) (rest : List StoreRecord) (s : State)
    (h : ShareLaw s) : ShareLaw (commitEnds result r rest s) := by
  have hr : ∀ x, ShareLaw (s.setRs x) := fun x => h.alike (by simp [OutputAlike]) (by simp [WantAlike])
  cases result with
  | whole =>
    have hc := shareLaw_kept.clearFault .storeFault (hr (slotsLookAgain (committed r rest s.rs)))
    exact hc.alike (by simp [OutputAlike, commitEnds]) (by simp [WantAlike, commitEnds])
  | error => exact shareLaw_kept.raiseFault _ (hr _)

theorem completeFlare_shareLaw (m : FlareMove) (o : ActionOutcome) (s : State) (h : ShareLaw s) :
    ShareLaw (completeFlare m o s) := h.alike (by simp [OutputAlike]) (by simp [WantAlike])

theorem flareReport_shareLaw (p : Nat) (s : State) (h : ShareLaw s) : ShareLaw (flareReport p s) := by
  have hx : ∀ x, ShareLaw (s.setHu x) := fun x => h.alike (by simp [OutputAlike]) (by simp [WantAlike])
  simp only [flareReport]
  split
  · split
    · exact completeFlare_shareLaw _ _ _ (shareLaw_kept.clearFault _ h)
    · exact hx _
  · split
    · exact h.alike (by simp [OutputAlike]) (by simp [WantAlike])
    · exact hx _

theorem takeCapability_shareLaw (su : Nat) (s : State) (h : ShareLaw s) : ShareLaw (takeCapability su s) :=
  shareLaw_kept.rebuildAlike h (by simp [OutputAlike])

theorem takeDemand_shareLaw (su : Nat) (s : State) (h : ShareLaw s) : ShareLaw (takeDemand su s) :=
  shareLaw_kept.rebuildAlike h (by simp [OutputAlike])

theorem takeStandbyRequest_shareLaw (level : StandbyLevel) (clearWake : Bool) (s : State) (h : ShareLaw s) :
    ShareLaw (takeStandbyRequest level clearWake s) := h.alike (by simp [OutputAlike]) (by simp [WantAlike])

/-- A ladder written that stands on the steps it stood on. -/
theorem setLadder_shareLaw (l : ClaimLine) (x : Ladder) (s : State) (hx : x.taken = (s.rl.get l).taken)
    (h : ShareLaw s) : ShareLaw (setLadder l x s) :=
  h.alike (by simp [OutputAlike, setLadder]) (by
    have := Six.part_get_set Ladder.taken s.rl l
    simp_all [WantAlike, setLadder])

theorem resampleDwell_shareLaw (l : ClaimLine) (s : State) (h : ShareLaw s) : ShareLaw (resampleDwell l s) := by
  simp only [resampleDwell]
  split
  · split
    · exact shareLaw_kept.takeStep l h
    · exact setLadder_shareLaw l _ s rfl h
  · exact shareLaw_kept.undoStep l h

theorem resampleUndoDwell_shareLaw (l : ClaimLine) (s : State) (h : ShareLaw s) : ShareLaw (resampleUndoDwell l s) := by
  simp only [resampleUndoDwell]
  split
  · exact shareLaw_kept.takeStep l h
  · split
    · exact setLadder_shareLaw l _ s rfl h
    · exact shareLaw_kept.undoStep l h

/-! ### Every command -/

theorem reset_shareLaw {s : State} (hse : s.se = .reset) (hc : s.mc.config = .unconfigured) : ShareLaw s := by
  have hn : wantMain s.mc.config = none := by rw [hc]; rfl
  rw [shareLaw_iff, hse]
  refine ⟨⟨fun _ => by rw [hse]; rfl, fun _ hw => absurd hn hw, fun _ hw => absurd hn hw, ?_, fun _ => hn,
    fun _ => ?_⟩, Nat.zero_le _, Nat.zero_le _⟩
  · rw [hc]
    exact ⟨Nat.zero_le 3, Nat.zero_le 3⟩
  · rw [hse]
    exact ⟨rfl, rfl⟩

theorem effect_shareLaw (c : Instr) (s : State) (h : ShareLaw s) : ShareLaw (effect c s) := by
  have hh := takeHead_shareLaw s h
  cases c with
  | powerOnReset => exact reset_shareLaw rfl rfl
  | pinReset => exact reset_shareLaw rfl rfl
  | loadComplete strap image =>
    rw [effect_loadComplete]
    split
    · next hm => exact load_shareLaw _ _ s hm h
    · exact h
  | stateDelivered =>
    rw [effect_stateDelivered]
    split
    · exact h
    · split
      · exact takeState_shareLaw _ _ _ hh
      · exact hh
  | helloDelivered =>
    rw [effect_helloDelivered]
    split
    · exact h
    · split
      · exact removeIfPresent_shareLaw _ _ hh
      · exact takeHello_shareLaw _ _ _ hh
      · exact hh
  | claimDelivered =>
    rw [effect_claimDelivered]
    split
    · exact h
    · split
      · exact takeClaim_shareLaw _ _ _ _ hh
      · exact hh
  | leaveDelivered =>
    rw [effect_leaveDelivered]
    split
    · exact h
    · exact removeIfPresent_shareLaw _ _ hh
  | wakeDelivered =>
    rw [effect_wakeDelivered]
    split
    · exact h
    · split
      · exact shareLaw_line.latchCause _ hh
      · exact hh
  | entryGoesStale node =>
    rw [effect_entryGoesStale]
    split
    · exact h
    · split
      · exact reportEntry_shareLaw _ _ (setPeers_shareLaw _ s h)
      · exact h
  | entryGoesAbsent node =>
    rw [effect_entryGoesAbsent]
    split
    · exact h
    · split
      · exact removeEntry_shareLaw _ _ s h
      · exact h
  | clashTimerExpiry =>
    rw [effect_clashTimerExpiry]
    split
    · exact shareLaw_kept.clearFault _ (h.alike (by simp [OutputAlike]) (by simp [WantAlike]))
    · exact h
  | frameReceived bytes =>
    rw [effect_frameReceived]
    split
    · exact h
    · split
      · simp only [takeFrame]
        split
        · exact shareLaw_kept.raiseFault _ (h.alike (by simp [OutputAlike]) (by simp [WantAlike]))
        · exact h.alike (by simp [OutputAlike]; split <;> simp) (by simp [WantAlike]; split <;> simp)
      · exact h
  | frameSentWhole =>
    rw [effect_frameSentWhole]
    split
    · exact sentWhole_shareLaw _ s h
    · exact h
  | collision =>
    rw [effect_collision]
    split
    · exact collided_shareLaw _ s h
    · exact h
  | timeDelivered =>
    rw [effect_timeDelivered]
    split
    · exact h
    · split
      · simp only [takeTime]
        split
        · exact adopt_shareLaw _ _ hh
        · exact hh
      · exact hh
  | timeSet day sec =>
    rw [effect_timeSet]
    split
    · refine fieldMessage_shareLaw _ _ (fun t ht => ?_) s h
      simp only [takeTimeSet]
      split
      · exact adopt_shareLaw _ _ ht
      · exact ht
    · exact h
  | syncTimerExpiry =>
    have ht : ShareLaw (s.setDc { s.dc with quality := .free, syncTimer := none }) :=
      h.alike (by simp [OutputAlike]) (by simp [WantAlike])
    rw [effect_syncTimerExpiry]
    split
    · split
      · exact shareLaw_kept.raiseFault _ ht
      · exact ht
    · exact h
  | commitEnd result =>
    rw [effect_commitEnd]
    split
    · exact commitEnds_shareLaw result _ _ s h
    · exact h
  | levelLost =>
    rw [effect_levelLost]
    split
    · exact shareLaw_kept.raiseFault _ h
    · exact h
  | fieldLinkLost =>
    rw [effect_fieldLinkLost]
    split
    · exact shareLaw_kept.raiseFault _ (h.alike (by simp [OutputAlike]) (by simp [WantAlike]))
    · exact h
  | fieldMessageDiscarded r =>
    rw [effect_fieldMessageDiscarded]
    split
    · exact h
    · split
      · exact h
      · exact linkRestored_shareLaw s h
  | fuelStatus f => exact fieldMessage_shareLaw _ _ (fun _ ht => shareLaw_kept.fuelReport f ht) s h
  | changeoverTimeout =>
    rw [effect_changeoverTimeout]
    split
    · split
      · exact shareLaw_kept.changeoverExpires _ h
      · exact h
    · exact h
  | flareStatus p => exact fieldMessage_shareLaw _ _ (flareReport_shareLaw p) s h
  | flareTimeout =>
    rw [effect_flareTimeout]
    split
    · split
      · exact completeFlare_shareLaw _ _ _ (shareLaw_kept.raiseFault _ h)
      · exact h
    · exact h
  | level st v => exact fieldMessage_shareLaw _ _ (takeLevel_shareLaw st v) s h
  | capability su => exact fieldMessage_shareLaw _ _ (takeCapability_shareLaw su) s h
  | demand su => exact fieldMessage_shareLaw _ _ (takeDemand_shareLaw su) s h
  | gasMeasure su =>
    exact fieldMessage_shareLaw _ _ (fun _ ht => ht.alike (by simp [OutputAlike, takeMeasured])
      (by simp [WantAlike, takeMeasured])) s h
  | heatOut su =>
    exact fieldMessage_shareLaw _ _ (fun _ ht => ht.alike (by simp [OutputAlike, takeMeasured])
      (by simp [WantAlike, takeMeasured])) s h
  | heatSample st flow supply return_ =>
    exact fieldMessage_shareLaw _ _ (fun _ ht => ht.alike (by simp [OutputAlike]) (by simp [WantAlike])) s h
  | schedule day entries =>
    rw [effect_schedule]
    split
    · exact fieldMessage_shareLaw _ _ (fun _ ht => ht.alike (by simp [OutputAlike]) (by simp [WantAlike])) s h
    · exact h
  | exportEnergy status kwh =>
    rw [effect_exportEnergy]
    split
    · exact fieldMessage_shareLaw _ _ (fun _ ht => ht.alike (by simp [OutputAlike]) (by simp [WantAlike])) s h
    · exact h
  | standbyRequest level clearWake =>
    exact fieldMessage_shareLaw _ _ (takeStandbyRequest_shareLaw level clearWake) s h
  | resume => exact fieldMessage_shareLaw _ _ (fun _ ht => shareLaw_line.latchCause _ ht) s h
  | resetWarning => exact fieldMessage_shareLaw _ _ takeResetWarning_shareLaw s h
  | returnTimerExpiry =>
    have hw : ShareLaw (warningOver s) := h.alike (by simp [OutputAlike]) (by simp [WantAlike])
    rw [effect_returnTimerExpiry]
    split
    · split
      · exact returnToListenIn_shareLaw _ hw
      · exact hw
    · exact h
  | roundExpiry =>
    rw [effect_roundExpiry]
    split
    · exact roundExpires_shareLaw _ (h.alike (by simp [OutputAlike]) (by simp [WantAlike]))
    · exact h
  | dwellExpiry l =>
    rw [effect_dwellExpiry]
    split
    · exact resampleDwell_shareLaw l s h
    · exact h
  | undoDwellExpiry l =>
    rw [effect_undoDwellExpiry]
    split
    · exact resampleUndoDwell_shareLaw l s h
    · exact h
  | meteringSecond =>
    rw [effect_meteringSecond]
    split
    · exact h.alike (by simp [OutputAlike]) (by simp [WantAlike])
    · exact h.alike (by simp [OutputAlike, tickTimers]) (by simp [WantAlike, tickTimers, ladderTick])
  | _ =>
    refine h.alike ?_ ?_ <;>
    simp only [effect_listenOnlyHelloTimer, effect_nodeStatusTimer, effect_lineAttemptStart, effect_backoffExpiry,
      effect_readDelivered, effect_recordFrameDiscarded, effect_holdMinuteCheck, effect_timeTimerExpiry,
      effect_recordPlace, effect_readyTimerExpiry, effect_supplyLowAsserted, effect_supplyLowReleased] <;>
    (repeat' split) <;> simp [OutputAlike, WantAlike]

/-- Settles O58. -/
theorem outputStaysWithinTheGrant : Obligations.OutputStaysWithinTheGrant :=
  step_keeps (fun _ _ h => h.alike (by simp [OutputAlike]) (by simp [WantAlike])) effect_shareLaw

end Sys2Proof.Machine
end

section
/-! SUPPORT. The Peer Table and the receive queue in their canonical form, and the source sets in rising order (R13,
R19, R30, R75). -/

namespace Sys2Proof.Machine

/-! ### The Peer Table (R19 to R30) -/

/-- An entry that holds records only where its role is no EXPORT TIE (R30). -/
def EntryOk (e : PeerEntry) : Prop := e.role = .exportTie → e.records = []

/-- The Peer Table and the receive queue in canonical form. -/
structure PeersCanonical (s : State) : Prop where
  peers : risingKeys (s.peers.map Prod.fst)
  peersBelow : ∀ x ∈ s.peers, x.1 < 32
  entries : ∀ x ∈ s.peers, EntryOk x.2
  heard : ∀ f ∈ s.liu.rx, f.sender < 32

theorem PeersCanonical.of_same {s t : State} (h : PeersCanonical s) (hp : t.peers = s.peers) (hr : t.liu.rx = s.liu.rx) :
    PeersCanonical t where
  peers := hp ▸ h.peers
  peersBelow := hp ▸ h.peersBelow
  entries := hp ▸ h.entries
  heard := hr ▸ h.heard

/-- An entry written for a number below 32. -/
theorem PeersCanonical.put {s t : State} (h : PeersCanonical s) {n : Nat} {e : PeerEntry} (hn : n < 32) (he : EntryOk e)
    (hp : t.peers = assocPut n e s.peers) (hr : t.liu.rx = s.liu.rx) : PeersCanonical t where
  peers := hp ▸ rising_assocPut h.peers
  peersBelow x hx := by
    rcases mem_assocPut (hp ▸ hx) with rfl | hx
    · exact hn
    · exact h.peersBelow x hx
  entries x hx := by
    rcases mem_assocPut (hp ▸ hx) with rfl | hx
    · exact he
    · exact h.entries x hx
  heard := hr ▸ h.heard

theorem PeersCanonical.erase {s t : State} (h : PeersCanonical s) {n : Nat} (hp : t.peers = assocErase n s.peers)
    (hr : t.liu.rx = s.liu.rx) : PeersCanonical t where
  peers := hp ▸ rising_assocErase h.peers
  peersBelow x hx := h.peersBelow x (mem_assocErase (hp ▸ hx))
  entries x hx := h.entries x (mem_assocErase (hp ▸ hx))
  heard := hr ▸ h.heard

theorem entryOk_entryOfState (x : StateRead) : EntryOk (entryOfState x) := fun hr => by
  have hr : x.role = .exportTie := hr
  simp [entryOfState, heldRecords, hr]

theorem entryOk_entryUpdated {e : PeerEntry} {x : StateRead} (hrole : e.role = x.role) : EntryOk (entryUpdated e x) :=
  fun hr => by
    have hr : x.role = .exportTie := hrole ▸ hr
    simp [entryUpdated, heldRecords, hr]

theorem entryOk_entryGreeted {e : PeerEntry} (h : EntryOk e) (x : HelloRead) : EntryOk (entryGreeted e x) := by
  simp only [entryGreeted]
  split
  · exact h
  · exact h

theorem mem_of_assocGet {α : Type} {n : Nat} {v : α} {l : List (Nat × α)} (h : assocGet n l = some v) :
    (n, v) ∈ l := by
  induction l with
  | nil => cases h
  | cons x t ih =>
    simp only [assocGet] at h
    split at h
    · next hx =>
      cases h
      subst hx
      exact List.mem_cons_self
    · exact List.mem_cons_of_mem x (ih h)

theorem entryOk_of_assocGet {s : State} {n : Nat} {e : PeerEntry} (h : PeersCanonical s)
    (he : assocGet n s.peers = some e) : n < 32 ∧ EntryOk e :=
  ⟨h.peersBelow _ (mem_of_assocGet he), h.entries _ (mem_of_assocGet he)⟩

theorem removeEntry_canonical (n : Nat) (e : PeerEntry) (s : State) (h : PeersCanonical s) :
    PeersCanonical (removeEntry n e s) := h.erase (n := n) (by simp [removeEntry]) (by simp [removeEntry])

theorem removeIfPresent_canonical (n : Nat) (s : State) (h : PeersCanonical s) :
    PeersCanonical (removeIfPresent n s) := by
  simp only [removeIfPresent]
  split
  · exact removeEntry_canonical n _ s h
  · exact h

theorem writeEntry_canonical (n : Nat) (e : PeerEntry) (s : State) (hn : n < 32) (he : EntryOk e)
    (h : PeersCanonical s) : PeersCanonical (writeEntry n e s) :=
  h.put hn he (by simp [writeEntry]) (by simp [writeEntry])

theorem takeState_canonical (n : Nat) (x : StateRead) (s : State) (hn : n < 32) (h : PeersCanonical s) :
    PeersCanonical (takeState n x s) := by
  simp only [takeState]
  split
  · exact writeEntry_canonical n _ s hn (entryOk_entryOfState x) h
  · split
    · next hr => exact writeEntry_canonical n _ s hn (entryOk_entryUpdated hr) h
    · exact writeEntry_canonical n _ _ hn (entryOk_entryOfState x) (removeEntry_canonical n _ s h)

theorem takeHello_canonical (n : Nat) (x : HelloRead) (s : State) (hn : n < 32) (h : PeersCanonical s) :
    PeersCanonical (takeHello n x s) := by
  have hcreate : EntryOk (entryOfHello x) := fun _ => rfl
  simp only [takeHello]
  split
  · exact h.put hn hcreate rfl rfl
  · next e he =>
    have hgreet := entryOk_entryGreeted (entryOk_of_assocGet h he).2 x
    split
    · exact (removeEntry_canonical n e s h).put hn hcreate rfl rfl
    · split
      · exact h.put hn hgreet (by simp) (by simp)
      · exact h.put hn hgreet rfl rfl

theorem takeClaim_canonical (n : Nat) (l : ClaimLine) (edge : Edge) (s : State) (h : PeersCanonical s) :
    PeersCanonical (takeClaim n l edge s) := by
  simp only [takeClaim]
  split
  · exact h
  · next e he =>
    obtain ⟨hn, hok⟩ := entryOk_of_assocGet h he
    have hmarked : EntryOk { e with claims := e.claims.set l (edgeClaims edge) } := hok
    cases edge with
    | assert => exact h.put hn hmarked (by simp [applyEdge]) (by simp [applyEdge])
    | release => exact h.put hn hmarked (by simp [applyEdge]) (by simp [applyEdge])

theorem takeHead_canonical (s : State) (h : PeersCanonical s) : PeersCanonical (takeHead s) where
  peers := h.peers
  peersBelow := h.peersBelow
  entries := h.entries
  heard f hf := h.heard f (List.mem_of_mem_tail (by simpa [takeHead] using hf))

/-- An empty table with nothing heard. -/
theorem peersCanonical_empty {s : State} (hp : s.peers = []) (hr : s.liu.rx = []) : PeersCanonical s where
  peers := by simp [hp, risingKeys]
  peersBelow := by simp [hp]
  entries := by simp [hp]
  heard := by simp [hr]

theorem enterStandbyDeep_canonical (s : State) : PeersCanonical (enterStandbyDeep s) :=
  peersCanonical_empty (by simp [enterStandbyDeep]) (by simp [enterStandbyDeep, lineSleeps])

theorem takeEffect_canonical (r : StandbyRequest) (s : State) (h : PeersCanonical s) :
    PeersCanonical (takeEffect r s) := by
  simp only [takeEffect]
  split
  · exact h.of_same (by simp [requestTaken, runRound]) (by simp [requestTaken, runRound])
  · exact (enterStandbyDeep_canonical (clearIfAsked r s)).of_same (by simp [deepTakesEffect, requestTaken])
      (by simp [deepTakesEffect, requestTaken])

theorem roundExpires_canonical (s : State) (h : PeersCanonical s) : PeersCanonical (roundExpires s) := by
  have hrun : ∀ t, PeersCanonical t → PeersCanonical (runRound t) := fun t ht =>
    ht.of_same (by simp [runRound]) (by simp [runRound])
  simp only [roundExpires]
  split
  · split
    · exact hrun _ (h.of_same (by simp) (by simp))
    · exact hrun s h
  · split
    · exact takeEffect_canonical _ s h
    · exact hrun s h
  · split
    · exact takeEffect_canonical _ s h
    · exact hrun s h
  all_goals exact h

theorem goodFrame_sender {bytes : List Byte} {f : Frame} (h : goodFrame bytes = some f) : f.sender < 32 := by
  simp only [goodFrame] at h
  split at h
  · next hg =>
    split at h
    · split at h
      · cases h
        exact Nat.lt_succ_of_le hg.2.2.2.2
      · cases h
    · cases h
  · cases h

theorem takeFrame_canonical (f : Frame) (s : State) (hf : f.sender < 32) (h : PeersCanonical s) :
    PeersCanonical (takeFrame f s) := by
  simp only [takeFrame]
  split
  · exact h.of_same (by simp) (by simp)
  · split
    · simp only [queueFrame]
      split
      · refine { h with heard := fun g hg => ?_ }
        rcases List.mem_append.1 hg with hg | hg
        · exact h.heard g hg
        · rw [List.mem_singleton.1 hg]
          exact hf
      · exact h
    · exact h

theorem headOf_sender_lt {k : FrameKind} {f : Frame} {s : State} (h : PeersCanonical s) (hf : headOf k s = some f) :
    f.sender < 32 := h.heard f (mem_of_headOf hf)

/-- A second ages the entries and leaves their numbers and records. -/
theorem tickTimers_canonical (s : State) (h : PeersCanonical s) : PeersCanonical (tickTimers s) where
  peers := by
    rw [tickTimers_peers, aged, List.map_map]
    exact h.peers
  peersBelow x hx := by
    rw [tickTimers_peers] at hx
    obtain ⟨y, hy, rfl⟩ := List.mem_map.1 hx
    exact h.peersBelow y hy
  entries x hx := by
    rw [tickTimers_peers] at hx
    obtain ⟨y, hy, rfl⟩ := List.mem_map.1 hx
    exact h.entries y hy
  heard := by simpa using h.heard

theorem effect_peersCanonical (c : Instr) (s : State) (h : PeersCanonical s) : PeersCanonical (effect c s) := by
  have hh := takeHead_canonical s h
  have hstale : ∀ e : PeerEntry, EntryOk e → EntryOk { e with stale := true } := fun _ he => he
  cases c with
  | powerOnReset => exact peersCanonical_empty rfl rfl
  | pinReset => exact peersCanonical_empty rfl rfl
  | loadComplete strap image =>
    rw [effect_loadComplete]
    split
    · exact h.of_same (by simp) (by simp)
    · exact h
  | stateDelivered =>
    rw [effect_stateDelivered]
    split
    · exact h
    · next f hf =>
      split
      · exact takeState_canonical _ _ _ (headOf_sender_lt h hf) hh
      · exact hh
  | helloDelivered =>
    rw [effect_helloDelivered]
    split
    · exact h
    · next f hf =>
      split
      · exact removeIfPresent_canonical _ _ hh
      · exact takeHello_canonical _ _ _ (headOf_sender_lt h hf) hh
      · exact hh
  | claimDelivered =>
    rw [effect_claimDelivered]
    split
    · exact h
    · split
      · exact takeClaim_canonical _ _ _ _ hh
      · exact hh
  | leaveDelivered =>
    rw [effect_leaveDelivered]
    split
    · exact h
    · exact removeIfPresent_canonical _ _ hh
  | timeDelivered =>
    rw [effect_timeDelivered]
    split
    · exact h
    · split
      · exact hh.of_same (by simp) (by simp)
      · exact hh
  | wakeDelivered =>
    rw [effect_wakeDelivered]
    split
    · exact h
    · split
      · exact hh.of_same (by simp) (by simp)
      · exact hh
  | readDelivered =>
    rw [effect_readDelivered]
    split
    · exact h
    · split
      · exact hh.of_same (by simp) (by simp)
      · exact hh
  | recordFrameDiscarded =>
    rw [effect_recordFrameDiscarded]
    split
    · exact hh
    · exact h
  | entryGoesStale node =>
    rw [effect_entryGoesStale]
    split
    · exact h
    · next e he =>
      obtain ⟨hn, hok⟩ := entryOk_of_assocGet h he
      split
      · exact h.put hn (hstale e hok) (by simp) (by simp)
      · exact h
  | entryGoesAbsent node =>
    rw [effect_entryGoesAbsent]
    split
    · exact h
    · split
      · exact removeEntry_canonical _ _ s h
      · exact h
  | frameReceived bytes =>
    rw [effect_frameReceived]
    split
    · exact h
    · split
      · next f hf => exact takeFrame_canonical f s (goodFrame_sender hf) h
      · exact h
  | roundExpiry =>
    rw [effect_roundExpiry]
    split
    · exact roundExpires_canonical _ (h.of_same rfl rfl)
    · exact h
  | meteringSecond =>
    rw [effect_meteringSecond]
    split
    · exact h.of_same rfl rfl
    · exact (tickTimers_canonical _ (h.of_same (t := s.setDc (trimmed s.dc)) rfl rfl)).of_same (by simp) (by simp)
  | _ =>
    refine h.of_same ?_ ?_ <;>
    simp only [effect_listenOnlyHelloTimer, effect_nodeStatusTimer, effect_lineAttemptStart, effect_frameSentWhole,
      effect_collision, effect_backoffExpiry, effect_clashTimerExpiry, effect_holdMinuteCheck,
      effect_syncTimerExpiry, effect_timeTimerExpiry, effect_dwellExpiry, effect_undoDwellExpiry, effect_fuelStatus,
      effect_changeoverTimeout, effect_flareStatus, effect_flareTimeout, effect_level, effect_levelLost,
      effect_capability, effect_gasMeasure, effect_heatOut, effect_demand, effect_heatSample, effect_schedule,
      effect_exportEnergy, effect_timeSet, effect_commitEnd, effect_recordPlace, effect_fieldMessageDiscarded,
      effect_fieldLinkLost, effect_standbyRequest, effect_resume, effect_resetWarning, effect_readyTimerExpiry,
      effect_returnTimerExpiry, effect_supplyLowAsserted, effect_supplyLowReleased, fieldMessage] <;>
    (repeat' split) <;> simp

/-! ### The source sets (R75) -/

/-- Every source set in rising order. -/
def SourcesRising (s : State) : Prop := ∀ l, risingKeys (s.cu.get l).sources

theorem SourcesRising.of_same {s t : State} (h : SourcesRising s)
    (ht : ∀ l, (t.cu.get l).sources = (s.cu.get l).sources) : SourcesRising t := fun l => ht l ▸ h l

theorem sourcesRising_kept : BlockKept SourcesRising where
  drawn _ h := h
  enqueue _ _ h := h.of_same (by simp)
  ladderRise _ _ _ h := h.of_same (by simp)
  ladderFall _ _ h := h.of_same (by simp)
  setLine l x s hx h k := by
    simp only [setLine, setCu_cu, Six.get_set]
    split
    · rcases hx with hx | ⟨n, hx | hx⟩
      · exact hx ▸ h l
      · exact hx ▸ rising_setAdd (h l)
      · exact hx ▸ rising_setRemove (h l)
    · exact h k
  markPending _ h := h.of_same (by simp)
  clearLadders _ h := h.of_same (by simp)
  clearLines _ _ l := by simp [LineState.reset, risingKeys]
  takeHead _ h := h.of_same (by simp)
  lineSleeps _ h := h.of_same (by simp)
  lineLeaves _ h := h.of_same (by simp)
  setPeers _ _ h := h
  setSe _ _ h := h
  setHu _ _ h := h
  setTurbine _ _ h := h
  fraction _ h := h
  shortClose _ h := h.of_same (by simp)
  setFp _ _ h := h
  setMc _ _ _ _ _ h := h

theorem effect_sourcesRising (c : Instr) (s : State) (h : SourcesRising s) : SourcesRising (effect c s) := by
  cases hc : throughBlocks c with
  | true => exact sourcesRising_kept.command hc h
  | false =>
    cases c with
    | powerOnReset => exact fun l => (nothingHeard_powerOnReset s).sources l ▸ List.Pairwise.nil
    | pinReset => exact fun l => (nothingHeard_pinReset s).sources l ▸ List.Pairwise.nil
    | _ =>
      cases hc <;>
      refine h.of_same ?_ <;>
      simp only [effect_loadComplete, effect_lineAttemptStart, effect_frameSentWhole, effect_collision,
        effect_backoffExpiry, effect_frameReceived, effect_clashTimerExpiry, effect_timeDelivered,
        effect_readDelivered, effect_meteringSecond, effect_holdMinuteCheck, effect_syncTimerExpiry,
        effect_timeTimerExpiry, effect_dwellExpiry, effect_undoDwellExpiry, effect_fuelStatus,
        effect_changeoverTimeout, effect_flareStatus, effect_flareTimeout, effect_demand, effect_heatSample,
        effect_schedule, effect_exportEnergy, effect_timeSet, effect_commitEnd, effect_recordPlace,
        effect_supplyLowAsserted, effect_supplyLowReleased, fieldMessage] <;>
      (repeat' split) <;> simp

end Sys2Proof.Machine
end

section
/-! SUPPORT. The slots of the Record Store, the fault list, the remainders of the meter and the gap in their
canonical form (R125, R131, R140, R160, R180). -/

namespace Sys2Proof.Machine

/-! ### The slots (R160, R161, R164) -/

/-- Slot numbers strictly rising, each record in the slot of its number. -/
structure SlotsInPlace (slots : List (Nat × StoreRecord)) : Prop where
  rising : risingKeys (slots.map Prod.fst)
  place : ∀ x ∈ slots, x.1 = slotOf (recordSeq x.2)

theorem SlotsInPlace.erase {slots : List (Nat × StoreRecord)} (h : SlotsInPlace slots) (n : Nat) :
    SlotsInPlace (assocErase n slots) :=
  ⟨rising_assocErase h.rising, fun x hx => h.place x (mem_assocErase hx)⟩

theorem SlotsInPlace.put {slots : List (Nat × StoreRecord)} (h : SlotsInPlace slots) (r : StoreRecord) :
    SlotsInPlace (assocPut (slotOf (recordSeq r)) r slots) := by
  refine ⟨rising_assocPut h.rising, fun x hx => ?_⟩
  rcases mem_assocPut hx with rfl | hx
  · rfl
  · exact h.place x hx

theorem startCommit_slots (rs : RecordUnit) (h : SlotsInPlace rs.slots) : SlotsInPlace (startCommit rs).slots := by
  simp only [startCommit]
  split
  · exact h
  · exact h.erase _

theorem startIfIdle_slots (rs : RecordUnit) (h : SlotsInPlace rs.slots) : SlotsInPlace (startIfIdle rs).slots := by
  simp only [startIfIdle]
  split
  · exact h
  · exact startCommit_slots rs h

/-- The store's slots in place. -/
def SlotsLaw (s : State) : Prop := SlotsInPlace s.rs.slots

theorem SlotsLaw.of_same {s t : State} (h : SlotsLaw s) (ht : t.rs.slots = s.rs.slots) : SlotsLaw t := by
  rw [SlotsLaw, ht]
  exact h

theorem handOver_slotsLaw (r : StoreRecord) (s : State) (h : SlotsLaw s) : SlotsLaw (handOver r s) :=
  startIfIdle_slots _ h

theorem restartCommit_slotsLaw (s : State) (h : SlotsLaw s) : SlotsLaw (restartCommit s) := startIfIdle_slots _ h

theorem slotsLaw_accountKept : AccountKept (fun _ => True) SlotsLaw where
  next _ _ := trivial
  periodStart _ _ := trivial
  hourStart _ _ := trivial
  time _ _ := trivial
  period _ _ _ _ := trivial
  interval _ _ _ _ := trivial
  drawn _ h := h
  handOver := handOver_slotsLaw
  setTie _ _ _ h := h
  setMu _ _ _ h := h
  setSpan _ _ _ h := h
  setTime _ _ _ h := h
  setHold _ _ _ h := h
  stepTaken _ h := h

theorem slotsLaw_kept : BlockKept SlotsLaw where
  drawn _ h := h
  enqueue _ _ h := h.of_same (by simp)
  ladderRise _ _ _ h := h.of_same (by simp)
  ladderFall _ _ h := h.of_same (by simp)
  setLine _ _ _ _ h := h
  markPending _ h := h
  clearLadders _ h := h.of_same (by simp)
  clearLines _ h := h
  takeHead _ h := h
  lineSleeps _ h := h.of_same (by simp)
  lineLeaves _ h := h.of_same (by simp)
  setPeers _ _ h := h
  setSe _ _ h := h
  setHu _ _ h := h
  setTurbine _ _ h := h
  fraction _ h := h
  shortClose _ h := slotsLaw_accountKept.shortClose h
  setFp _ _ h := h
  setMc _ _ _ _ _ h := h

theorem commitEnds_slotsLaw (result : WriteResult) (r : StoreRecord) (rest : List StoreRecord) (s : State)
    (h : SlotsLaw s) : SlotsLaw (commitEnds result r rest s) := by
  cases result with
  | whole =>
    have ht : SlotsLaw (s.setRs (slotsLookAgain (committed r rest s.rs))) :=
      startCommit_slots _ (SlotsInPlace.put h r)
    exact ht.of_same (by simp [commitEnds])
  | error =>
    have ht : SlotsLaw (s.setRs (slotsLookAgain { s.rs with inFlight := false })) := h
    exact ht.of_same (by simp [commitEnds])

theorem load_slotsLaw (strap : Node) (image : Option RawImage) (s : State) (h : SlotsLaw s) :
    SlotsLaw (load strap image s) := by
  have ht : SlotsLaw (loadCommon strap (loadOutcomeOf strap image) image s) := h.of_same (by simp)
  rcases load_cases strap image s with hn | ⟨r, img, -, -, -, hl⟩
  · rw [hn]
    have hr := restartCommit_slotsLaw _ (ht.of_same (t := enqueue (.leave .unconfigured)
      ((loadCommon strap (loadOutcomeOf strap image) image s).setMc
        { (loadCommon strap (loadOutcomeOf strap image) image s).mc with
          mode := .listenOnly, config := .unconfigured, helloTimer := some 60 })) (by simp))
    exact hr.of_same (by simp [notLoaded, statusAtEntry])
  · rw [hl]
    refine slotsLaw_accountKept.restartAndStart (fun _ hu => hu.of_same (by simp)) restartCommit_slotsLaw _ ?_
    exact ht.of_same (by simp)

theorem effect_slotsLaw (c : Instr) (s : State) (hc : throughBlocks c = false) (h : SlotsLaw s) :
    SlotsLaw (effect c s) := by
  cases c with
  | powerOnReset => exact h
  | pinReset => exact h
  | loadComplete strap image =>
    rw [effect_loadComplete]
    split
    · exact load_slotsLaw _ _ s h
    · exact h
  | meteringSecond =>
    rw [effect_meteringSecond]
    split
    · exact h
    · have ht : SlotsLaw (tickTimers (s.setDc (trimmed s.dc))) := h
      exact slotsLaw_accountKept.clockSecond (fun _ _ => trivial) (fun _ _ => trivial)
        (fun _ _ => ⟨trivial, trivial⟩) ht
  | commitEnd result =>
    rw [effect_commitEnd]
    split
    · exact commitEnds_slotsLaw result _ _ s h
    · exact h
  | supplyLowAsserted =>
    have ht : SlotsLaw (s.setMc { s.mc with supplyLow := true }) := h
    rw [effect_supplyLowAsserted]
    split
    · exact h
    · split
      · exact ht
      · exact slotsLaw_accountKept.tellAsserted ht
  | supplyLowReleased =>
    have ht : SlotsLaw (s.setMc { s.mc with supplyLow := false }) := h
    rw [effect_supplyLowReleased]
    split
    · split
      · exact ht
      · exact slotsLaw_accountKept.tellReleased ht
    · exact h
  | _ =>
    cases hc <;>
    refine h.of_same ?_ <;>
    simp only [effect_lineAttemptStart, effect_frameSentWhole, effect_collision, effect_backoffExpiry,
      effect_frameReceived, effect_clashTimerExpiry, effect_timeDelivered, effect_readDelivered,
      effect_holdMinuteCheck, effect_syncTimerExpiry, effect_timeTimerExpiry, effect_dwellExpiry,
      effect_undoDwellExpiry, effect_fuelStatus, effect_changeoverTimeout, effect_flareStatus, effect_flareTimeout,
      effect_demand, effect_heatSample, effect_schedule, effect_exportEnergy, effect_timeSet, effect_recordPlace,
      fieldMessage] <;>
    (repeat' split) <;> simp

/-! ### The fault list (R180) -/

/-- At most one fault of a kind, at most 8 in all. -/
structure FaultsBounded (faults : List FaultEntry) : Prop where
  kinds : (faults.map FaultEntry.kind).Nodup
  count : faults.length ≤ 8

theorem faultsRaised_bounded (k : FaultKind) (now : TimePos) {faults : List FaultEntry} (h : FaultsBounded faults) :
    FaultsBounded (faultsRaised k now faults) := by
  simp only [faultsRaised]
  split
  · exact h
  · next hp =>
    split
    · next hl =>
      refine ⟨?_, by simp; omega⟩
      have hk : k ∉ faults.map FaultEntry.kind := by
        intro hk
        obtain ⟨e, he, hek⟩ := List.mem_map.1 hk
        exact hp (List.any_eq_true.2 ⟨e, he, by simp [hek]⟩)
      rw [List.map_append, List.map_singleton]
      exact List.nodup_append.2 ⟨h.kinds, by simp, by simpa using fun e he hek => hk (List.mem_map.2 ⟨e, he, hek⟩)⟩
    · exact h

theorem faultsCleared_bounded (k : FaultKind) {faults : List FaultEntry} (h : FaultsBounded faults) :
    FaultsBounded (faultsCleared k faults) :=
  ⟨h.kinds.sublist ((List.filter_sublist).map _), (List.length_filter_le _ _).trans h.count⟩

/-- The station's fault list within its bounds. -/
def FaultsLaw (s : State) : Prop := FaultsBounded s.mc.faults

theorem FaultsLaw.of_same {s t : State} (h : FaultsLaw s) (ht : t.mc.faults = s.mc.faults) : FaultsLaw t := by
  rw [FaultsLaw, ht]
  exact h

theorem raiseFault_faults (k : FaultKind) (s : State) :
    (raiseFault k s).mc.faults = faultsRaised k s.dc.time s.mc.faults := by
  simp only [raiseFault]
  split
  · simp
  · rfl

theorem raiseFault_faultsLaw (k : FaultKind) (s : State) (h : FaultsLaw s) : FaultsLaw (raiseFault k s) := by
  rw [FaultsLaw, raiseFault_faults]
  exact faultsRaised_bounded k _ h

theorem clearFault_faultsLaw (k : FaultKind) (s : State) (h : FaultsLaw s) : FaultsLaw (clearFault k s) :=
  faultsCleared_bounded k h

theorem linkRestored_faultsLaw (s : State) (h : FaultsLaw s) : FaultsLaw (linkRestored s) :=
  clearFault_faultsLaw _ _ (h.of_same (by simp))

theorem fieldMessage_faultsLaw (k : FieldKind) (take : State → State) (ht : ∀ t, FaultsLaw t → FaultsLaw (take t))
    (s : State) (h : FaultsLaw s) : FaultsLaw (fieldMessage k take s) := by
  simp only [fieldMessage]
  split
  · exact h
  · split
    · exact ht _ (linkRestored_faultsLaw s h)
    · exact linkRestored_faultsLaw s h

/-- A message that leaves the fault list. -/
theorem fieldMessage_faultsLaw_same (k : FieldKind) (take : State → State)
    (ht : ∀ t, (take t).mc.faults = t.mc.faults) (s : State) (h : FaultsLaw s) : FaultsLaw (fieldMessage k take s) :=
  fieldMessage_faultsLaw k take (fun t hf => hf.of_same (ht t)) s h

theorem raiseLoadFaults_faultsLaw (s : State) (h : FaultsLaw s) : FaultsLaw (raiseLoadFaults s) := by
  have hall : ∀ (ks : List FaultKind) (t : State), FaultsLaw t → FaultsLaw (raiseAll ks t) := by
    intro ks
    induction ks with
    | nil => exact fun _ ht => ht
    | cons k rest ih => exact fun t ht => ih _ (raiseFault_faultsLaw k t ht)
  exact hall _ _ (h.of_same (by simp))

theorem load_faultsLaw (strap : Node) (image : Option RawImage) (s : State) (h : FaultsLaw s) :
    FaultsLaw (load strap image s) := by
  rcases load_cases strap image s with hn | ⟨r, img, -, -, -, hl⟩
  · rw [hn]
    exact h.of_same (by simp)
  · rw [hl]
    have hr := raiseLoadFaults_faultsLaw ((loadCommon strap (loadOutcomeOf strap image) image s).setMc
      { (loadCommon strap (loadOutcomeOf strap image) image s).mc with
        config := configOf r img, rememberedTag := some img.computed }) (h.of_same (by simp))
    exact hr.of_same (by simp [loaded])

theorem sentWhole_faultsLaw (e : TxEntry) (s : State) (h : FaultsLaw s) : FaultsLaw (sentWhole e s) :=
  (clearFault_faultsLaw .lineTxFail (s.setLiu { s.liu with
    tx := withoutSending s.liu.tx, drops := 0, lastEdge := edgesAfter e.body s.liu.lastEdge }) h).of_same
    (by simp [sentWhole])

theorem countDrop_faultsLaw (s : State) (h : FaultsLaw s) : FaultsLaw (countDrop s) := by
  have ht : FaultsLaw (s.setLiu { s.liu with drops := Nat.min (s.liu.drops + 1) 255 }) := h
  simp only [countDrop]
  split
  · exact raiseFault_faultsLaw _ _ ht
  · exact ht

theorem collided_faultsLaw (e : TxEntry) (s : State) (h : FaultsLaw s) : FaultsLaw (collided e s) := by
  simp only [collided]
  split
  · exact h
  · exact h.of_same (by simp)
  · exact h
  · have hd := countDrop_faultsLaw (s.setLiu { s.liu with
      tx := withoutSending s.liu.tx, backoff := backoffAfter (e.collisions + 1) s }) h
    exact hd.of_same (by simp)

theorem commitEnds_faultsLaw (result : WriteResult) (r : StoreRecord) (rest : List StoreRecord) (s : State)
    (h : FaultsLaw s) : FaultsLaw (commitEnds result r rest s) := by
  cases result with
  | whole =>
    exact (clearFault_faultsLaw .storeFault (s.setRs (slotsLookAgain (committed r rest s.rs))) h).of_same
      (by simp [commitEnds])
  | error => exact raiseFault_faultsLaw _ _ h

theorem fuelReport_faultsLaw (f : Fuel) (s : State) (h : FaultsLaw s) : FaultsLaw (fuelReport f s) := by
  simp only [fuelReport]
  split
  · exact h.of_same (by simp)
  · split
    · have hc := clearFault_faultsLaw .changeoverTimeout
        (s.setFu { s.fu with flight := none, lastReported := some f, mode := settledMode f }) h
      simp only [completeChangeover]
      split
      · exact hc.of_same (by simp)
      · exact hc.of_same (by simp [startRecorded])
    · exact h

theorem changeoverExpires_faultsLaw (c : Changeover) (s : State) (h : FaultsLaw s) :
    FaultsLaw (changeoverExpires c s) := by
  have hr := raiseFault_faultsLaw .changeoverTimeout s h
  simp only [changeoverExpires]
  split
  · exact hr.of_same (by simp)
  · split
    · exact hr.of_same (by simp)
    · exact hr.of_same (by simp [startRecorded])

theorem flareReport_faultsLaw (p : Nat) (s : State) (h : FaultsLaw s) : FaultsLaw (flareReport p s) := by
  simp only [flareReport]
  split
  · split
    · exact (clearFault_faultsLaw .flareTimeout s h).of_same (by simp)
    · exact h
  · split
    · exact h.of_same (by simp)
    · exact h

theorem bandChanged_faultsLaw (s : State) (h : FaultsLaw s) : FaultsLaw (bandChanged s) := h.of_same (by simp)

theorem takeLevel_faultsLaw (st : SampleStatus) (v : Nat) (s : State) (h : FaultsLaw s) :
    FaultsLaw (takeLevel st v s) := by
  cases st with
  | bad => exact h
  | ok =>
    have ht : ∀ x, FaultsLaw (clearFault .levelLost (s.setHu x)) := fun x => clearFault_faultsLaw _ _ h
    simp only [takeLevel, levelSample]
    split
    · exact ht _
    · exact bandChanged_faultsLaw _ (ht _)

theorem adopt_faultsLaw (f : TimePos) (s : State) (h : FaultsLaw s) : FaultsLaw (adopt f s) :=
  clearFault_faultsLaw _ _ h

theorem effect_faultsLaw (c : Instr) (s : State) (h : FaultsLaw s) : FaultsLaw (effect c s) := by
  cases c with
  | powerOnReset => exact ⟨List.nodup_nil, Nat.zero_le 8⟩
  | pinReset => exact ⟨List.nodup_nil, Nat.zero_le 8⟩
  | loadComplete strap image =>
    rw [effect_loadComplete]
    split
    · exact load_faultsLaw _ _ s h
    · exact h
  | frameSentWhole =>
    rw [effect_frameSentWhole]
    split
    · exact sentWhole_faultsLaw _ s h
    · exact h
  | collision =>
    rw [effect_collision]
    split
    · exact collided_faultsLaw _ s h
    · exact h
  | frameReceived bytes =>
    rw [effect_frameReceived]
    split
    · exact h
    · split
      · simp only [takeFrame]
        split
        · exact raiseFault_faultsLaw _ _ h
        · exact h.of_same (by split <;> simp)
      · exact h
  | clashTimerExpiry =>
    rw [effect_clashTimerExpiry]
    split
    · exact clearFault_faultsLaw _ _ h
    · exact h
  | timeDelivered =>
    rw [effect_timeDelivered]
    split
    · exact h
    · split
      · simp only [takeTime]
        split
        · exact adopt_faultsLaw _ _ h
        · exact h
      · exact h
  | timeSet day sec =>
    rw [effect_timeSet]
    split
    · refine fieldMessage_faultsLaw _ _ (fun t ht => ?_) s h
      simp only [takeTimeSet]
      split
      · exact adopt_faultsLaw _ _ ht
      · exact ht
    · exact h
  | syncTimerExpiry =>
    rw [effect_syncTimerExpiry]
    split
    · split
      · exact raiseFault_faultsLaw _ _ h
      · exact h
    · exact h
  | commitEnd result =>
    rw [effect_commitEnd]
    split
    · exact commitEnds_faultsLaw result _ _ s h
    · exact h
  | levelLost =>
    rw [effect_levelLost]
    split
    · exact raiseFault_faultsLaw _ _ h
    · exact h
  | fieldLinkLost =>
    rw [effect_fieldLinkLost]
    split
    · exact raiseFault_faultsLaw _ _ h
    · exact h
  | fieldMessageDiscarded r =>
    rw [effect_fieldMessageDiscarded]
    split
    · exact h
    · split
      · exact h
      · exact linkRestored_faultsLaw s h
  | fuelStatus f => exact fieldMessage_faultsLaw _ _ (fuelReport_faultsLaw f) s h
  | changeoverTimeout =>
    rw [effect_changeoverTimeout]
    split
    · split
      · exact changeoverExpires_faultsLaw _ s h
      · exact h
    · exact h
  | flareStatus p => exact fieldMessage_faultsLaw _ _ (flareReport_faultsLaw p) s h
  | flareTimeout =>
    rw [effect_flareTimeout]
    split
    · split
      · exact (raiseFault_faultsLaw .flareTimeout s h).of_same (by simp [flareExpires])
      · exact h
    · exact h
  | level st v => exact fieldMessage_faultsLaw _ _ (takeLevel_faultsLaw st v) s h
  | capability su => exact fieldMessage_faultsLaw_same _ _ (fun t => by simp) s h
  | demand su => exact fieldMessage_faultsLaw_same _ _ (fun t => by simp) s h
  | gasMeasure su => exact fieldMessage_faultsLaw_same _ _ (fun t => by simp) s h
  | heatOut su => exact fieldMessage_faultsLaw_same _ _ (fun t => by simp) s h
  | heatSample st flow supply return_ => exact fieldMessage_faultsLaw_same _ _ (fun t => by simp) s h
  | schedule day entries =>
    rw [effect_schedule]
    split
    · exact fieldMessage_faultsLaw_same _ _ (fun t => by simp) s h
    · exact h
  | exportEnergy status kwh =>
    rw [effect_exportEnergy]
    split
    · exact fieldMessage_faultsLaw_same _ _ (fun t => by simp) s h
    · exact h
  | standbyRequest level clearWake => exact fieldMessage_faultsLaw_same _ _ (fun t => by simp) s h
  | resume => exact fieldMessage_faultsLaw_same _ _ (fun t => by simp) s h
  | resetWarning => exact fieldMessage_faultsLaw_same _ _ (fun t => by simp) s h
  | _ =>
    refine h.of_same ?_
    simp only [effect_listenOnlyHelloTimer, effect_nodeStatusTimer, effect_lineAttemptStart, effect_backoffExpiry,
      effect_stateDelivered, effect_helloDelivered, effect_claimDelivered, effect_leaveDelivered,
      effect_wakeDelivered, effect_readDelivered, effect_recordFrameDiscarded, effect_entryGoesStale,
      effect_entryGoesAbsent, effect_meteringSecond, effect_holdMinuteCheck, effect_timeTimerExpiry,
      effect_roundExpiry, effect_dwellExpiry, effect_undoDwellExpiry, effect_recordPlace, effect_readyTimerExpiry,
      effect_returnTimerExpiry, effect_supplyLowAsserted, effect_supplyLowReleased] <;>
    (repeat' split) <;> simp

end Sys2Proof.Machine
end

section
/-! SUPPORT. The remainders of the meter and the gap, and the statement that the tables stay canonical (R125,
R131, R140). -/

namespace Sys2Proof.Machine

/-! ### The metering second as a law of the accounting units sees it -/

/-- A law that the Day Clock's writes and the deliveries to the two units keep. -/
structure SecondKept (P : State → Prop) : Prop where
  setDc : ∀ x s, P s → P (s.setDc x)
  beginHold : ∀ s, P s → P (beginHold s)
  meterStep : ∀ s, P s → P (meterStep s)
  tieStep : ∀ s, P s → P (tieStep s)
  meterSecond : ∀ b s, P s → P (meterSecond b s)
  countHeld : ∀ b s, P s → P (countHeld b s)
  tieSecond : ∀ b s, P s → P (tieSecond b s)

namespace SecondKept

variable {P : State → Prop} (h : SecondKept P)
include h

theorem notifyStep {s : State} (hs : P s) : P (notifyStep s) := by
  simp only [Machine.notifyStep]
  split
  · exact h.meterStep s hs
  · exact h.tieStep s hs
  all_goals exact hs

theorem deliverSecond {s : State} (hs : P s) : P (deliverSecond s) := by
  simp only [Machine.deliverSecond]
  split
  · exact h.meterSecond _ s hs
  · exact h.tieSecond _ s hs
  all_goals exact hs

theorem deliverHeld (ends : Bool) {s : State} (hs : P s) : P (deliverHeld ends s) := by
  simp only [Machine.deliverHeld]
  split
  · exact h.countHeld _ _ (h.meterSecond _ s hs)
  · exact h.tieSecond _ s hs
  all_goals exact hs

theorem advanceTime {s : State} (hs : P s) : P (advanceTime s) := h.deliverSecond (h.setDc _ s hs)

theorem heldSecond (x : Hold) {s : State} (hs : P s) : P (heldSecond x s) := h.deliverHeld _ (h.setDc _ s hs)

theorem clampAt (point f : TimePos) {s : State} (hs : P s) : P (clampAt point f s) :=
  h.heldSecond _ (h.beginHold _ (h.notifyStep (h.setDc _ s hs)))

theorem clockSecond {s : State} (hs : P s) : P (clockSecond s) := by
  simp only [Machine.clockSecond, stepSecond, holdSecondWith]
  split
  · exact h.advanceTime hs
  · split
    · exact h.clampAt _ _ hs
    · exact h.advanceTime (h.notifyStep (h.setDc _ s hs))
  · exact h.heldSecond _ hs
  · split
    · exact h.clampAt _ _ hs
    · exact h.deliverHeld _ (h.setDc _ s hs)

end SecondKept

/-! ### The remainders (R140, R148) -/

/-- Both remainders below one kWh. -/
structure RemaindersBelow (s : State) : Prop where
  works : s.mu.worksRem < 360000000
  purchased : s.mu.purchRem < 360000000

theorem RemaindersBelow.of_same {s t : State} (h : RemaindersBelow s) (hw : t.mu.worksRem = s.mu.worksRem)
    (hp : t.mu.purchRem = s.mu.purchRem) : RemaindersBelow t := ⟨hw ▸ h.works, hp ▸ h.purchased⟩

theorem RemaindersBelow.of_zero {s : State} (hw : s.mu.worksRem = 0) (hp : s.mu.purchRem = 0) : RemaindersBelow s :=
  ⟨by rw [hw]; decide, by rw [hp]; decide⟩

/-- A second integrated leaves what is below one kWh. -/
theorem integrateSecond_remainders (s : State) (h : RemaindersBelow s) : RemaindersBelow (integrateSecond s) := by
  have hlt : ∀ a b, remLeft a b < 360000000 := fun a b => Nat.mod_lt _ (by decide)
  simp only [integrateSecond]
  split
  · exact h.of_same rfl rfl
  · exact ⟨hlt _ _, hlt _ _⟩

theorem meterSecond_remainders (b : Option TimePos) (s : State) (h : RemaindersBelow s) :
    RemaindersBelow (meterSecond b s) := by
  have ht := integrateSecond_remainders s h
  simp only [meterSecond]
  split
  · exact ht
  · split
    · exact ht.of_same (by simp) (by simp)
    · split
      · exact ht.of_same (by simp) (by simp)
      · exact ht

theorem remainders_secondKept : SecondKept RemaindersBelow where
  setDc _ _ h := h.of_same rfl rfl
  beginHold _ h := h.of_same rfl rfl
  meterStep _ h := h.of_same (by simp) (by simp)
  tieStep _ h := h.of_same (by simp) (by simp)
  meterSecond := meterSecond_remainders
  countHeld _ _ h := h.of_same (by simp) (by simp)
  tieSecond _ _ h := h.of_same (by simp) (by simp)

theorem startAndTell_remainders (k : StartKind) (s : State) (h : RemaindersBelow s) :
    RemaindersBelow (startAndTell k s) := by
  have hp : RemaindersBelow (protectedAtStart k s) := by
    cases k with
    | powerOn => exact .of_zero rfl rfl
    | changed => exact .of_zero rfl rfl
    | unchanged => exact h
  have hu : RemaindersBelow (startUnit k (protectedAtStart k s)) := by
    refine hp.of_same ?_ ?_ <;> simp only [startUnit, meterStart] <;> (repeat' split) <;> simp
  simp only [startAndTell]
  split
  · exact hu.of_same (by simp) (by simp)
  · exact hu

theorem restartAndStart_remainders (k : StartKind) (s : State) (h : RemaindersBelow s) :
    RemaindersBelow (restartAndStart k s) := by
  simp only [restartAndStart]
  split
  · exact startAndTell_remainders k s h
  · split
    · exact startAndTell_remainders k _ (h.of_same (by simp) (by simp))
    · exact (startAndTell_remainders k (drawn s) (h.of_same rfl rfl)).of_same (by simp) (by simp)

theorem load_remainders (strap : Node) (image : Option RawImage) (s : State) (h : RemaindersBelow s) :
    RemaindersBelow (load strap image s) := by
  rcases load_cases strap image s with hn | ⟨r, img, -, -, -, hl⟩
  · rw [hn]
    exact h.of_same (by simp) (by simp)
  · rw [hl]
    exact restartAndStart_remainders _ _ (h.of_same (by simp) (by simp))

theorem effect_remainders (c : Instr) (s : State) (h : RemaindersBelow s) : RemaindersBelow (effect c s) := by
  cases c with
  | powerOnReset => exact .of_zero rfl rfl
  | pinReset => exact h.of_same rfl rfl
  | loadComplete strap image =>
    rw [effect_loadComplete]
    split
    · exact load_remainders _ _ s h
    · exact h
  | meteringSecond =>
    rw [effect_meteringSecond]
    split
    · exact h.of_same rfl rfl
    · exact remainders_secondKept.clockSecond (h.of_same (by simp) (by simp))
  | _ =>
    refine h.of_same ?_ ?_ <;>
    simp only [effect_listenOnlyHelloTimer, effect_nodeStatusTimer, effect_lineAttemptStart, effect_frameSentWhole,
      effect_collision, effect_backoffExpiry, effect_frameReceived, effect_clashTimerExpiry, effect_stateDelivered,
      effect_helloDelivered, effect_claimDelivered, effect_leaveDelivered, effect_timeDelivered,
      effect_wakeDelivered, effect_readDelivered, effect_recordFrameDiscarded, effect_entryGoesStale,
      effect_entryGoesAbsent, effect_holdMinuteCheck, effect_syncTimerExpiry, effect_timeTimerExpiry,
      effect_roundExpiry, effect_dwellExpiry, effect_undoDwellExpiry, effect_fuelStatus, effect_changeoverTimeout,
      effect_flareStatus, effect_flareTimeout, effect_level, effect_levelLost, effect_capability, effect_gasMeasure,
      effect_heatOut, effect_demand, effect_heatSample, effect_schedule, effect_exportEnergy, effect_timeSet,
      effect_commitEnd, effect_recordPlace, effect_fieldMessageDiscarded, effect_fieldLinkLost,
      effect_standbyRequest, effect_resume, effect_resetWarning, effect_readyTimerExpiry, effect_returnTimerExpiry,
      effect_supplyLowAsserted, effect_supplyLowReleased, fieldMessage] <;>
    (repeat' split) <;> simp

/-! ### The gap (R125, R131) -/

/-- The gap is 0 while no period is open. -/
def GapLaw (s : State) : Prop := s.tie.openPeriod = none → s.tie.gap = 0

theorem GapLaw.of_same {s t : State} (h : GapLaw s) (ht : t.tie = s.tie) : GapLaw t := by
  rw [GapLaw, ht]
  exact h

theorem GapLaw.of_open {s : State} {p : Period} (h : s.tie.openPeriod = some p) : GapLaw s := fun hn => by
  rw [h] at hn
  cases hn

/-- The gap recomputed is 0 with no period open, whatever it was. -/
theorem gapLaw_recomputeGap (s : State) : GapLaw (recomputeGap s) := fun hn => by
  have hn : s.tie.openPeriod = none := hn
  simp [recomputeGap, hn]

theorem gapLaw_openPeriod (p : TimePos) (f : RecordFlags) (s : State) : GapLaw (openPeriod p f s) :=
  gapLaw_recomputeGap _

theorem emptySlots_gapLaw (s : State) (h : GapLaw s) : GapLaw (emptySlots s) := h

theorem tieCounts_gapLaw (s : State) (h : GapLaw s) : GapLaw (tieCounts s) := by
  simp only [tieCounts]
  split
  · exact h
  · exact GapLaw.of_open rfl

theorem tieSecond_gapLaw (b : Bool) (s : State) (h : GapLaw s) : GapLaw (tieSecond b s) := by
  simp only [tieSecond]
  split
  · simp only [tieBoundary]
    split
    · exact emptySlots_gapLaw _ (tieCounts_gapLaw s h)
    · exact gapLaw_openPeriod _ _ _
  · exact gapLaw_recomputeGap _

theorem tieStep_gapLaw (s : State) (h : GapLaw s) : GapLaw (tieStep s) := by
  simp only [tieStep]
  split
  · exact emptySlots_gapLaw s h
  · split
    · exact GapLaw.of_open rfl
    · exact gapLaw_openPeriod _ _ _

theorem tieShortClose_gapLaw (s : State) (h : GapLaw s) : GapLaw (tieShortClose s) := by
  simp only [tieShortClose]
  split
  · exact h
  · exact gapLaw_openPeriod _ _ _

theorem tiePowerFail_gapLaw (s : State) (h : GapLaw s) : GapLaw (tiePowerFail s) := by
  simp only [tiePowerFail]
  split
  · exact h
  · exact gapLaw_recomputeGap _

theorem tieSupplyBack_gapLaw (s : State) (h : GapLaw s) : GapLaw (tieSupplyBack s) := by
  simp only [tieSupplyBack]
  split
  · exact gapLaw_openPeriod _ _ _
  · exact h

theorem gapLaw_tieStart (k : StartKind) (s : State) : GapLaw (tieStart k s) := by
  simp only [tieStart, resumePeriod]
  split
  · exact gapLaw_openPeriod _ _ _
  · exact gapLaw_openPeriod _ _ _
  · split
    · split
      · exact gapLaw_recomputeGap _
      · exact gapLaw_openPeriod _ _ _
    · exact gapLaw_openPeriod _ _ _

theorem gapLaw_secondKept : SecondKept GapLaw where
  setDc _ _ h := h
  beginHold _ h := h
  meterStep _ h := h.of_same (by simp)
  tieStep := tieStep_gapLaw
  meterSecond _ _ h := h.of_same (by simp)
  countHeld _ _ h := h.of_same (by simp)
  tieSecond := tieSecond_gapLaw

theorem shortClose_gapLaw (s : State) (h : GapLaw s) : GapLaw (shortClose s) := by
  simp only [shortClose]
  split
  · exact h.of_same (by simp)
  · exact tieShortClose_gapLaw s h
  all_goals exact h

theorem tellAsserted_gapLaw (s : State) (h : GapLaw s) : GapLaw (tellAsserted s) := by
  simp only [tellAsserted]
  split
  · exact h.of_same (by simp)
  · exact tiePowerFail_gapLaw s h
  all_goals exact h

theorem tellReleased_gapLaw (s : State) (h : GapLaw s) : GapLaw (tellReleased s) := by
  simp only [tellReleased]
  split
  · exact h.of_same (by simp)
  · exact tieSupplyBack_gapLaw s h
  all_goals exact h

theorem takeResetWarning_gapLaw (s : State) (h : GapLaw s) : GapLaw (takeResetWarning s) := by
  have hc : GapLaw (shortClose (enterLeaving s)) := shortClose_gapLaw _ (h.of_same (by simp))
  have hl : GapLaw (statusAtEntry (startReady (shortClose (enterLeaving s)))) := hc.of_same (by simp)
  simp only [takeResetWarning]
  split
  · exact hl
  · exact hl
  · exact hl
  · exact hl
  · exact h.of_same (by simp)
  · exact h
  · exact h

/-- The start of the unit, from the gap of 0 that LOADING leaves. -/
theorem startAndTell_gapLaw (k : StartKind) (s : State) (h : s.tie.gap = 0) : GapLaw (startAndTell k s) := by
  have hp : GapLaw (protectedAtStart k s) := by
    intro _
    cases k with
    | powerOn => exact h
    | changed => exact h
    | unchanged => exact h
  have ht : GapLaw (startUnit k (protectedAtStart k s)) := by
    simp only [startUnit]
    split
    · exact hp.of_same (by simp)
    · exact gapLaw_tieStart k _
    · exact hp.of_same (by simp)
    all_goals exact hp
  simp only [startAndTell]
  split
  · exact tellAsserted_gapLaw _ ht
  · exact ht

theorem restartAndStart_gapLaw (k : StartKind) (s : State) (h : s.tie.gap = 0) : GapLaw (restartAndStart k s) := by
  simp only [restartAndStart]
  split
  · exact startAndTell_gapLaw k s h
  · split
    · exact startAndTell_gapLaw k _ (by simpa using h)
    · exact (startAndTell_gapLaw k (drawn s) h).of_same (by simp)

theorem load_gapLaw (strap : Node) (image : Option RawImage) (s : State) (h : s.tie.gap = 0) :
    GapLaw (load strap image s) := by
  rcases load_cases strap image s with hn | ⟨r, img, -, -, -, hl⟩
  · rw [hn]
    intro _
    simpa using h
  · rw [hl]
    exact restartAndStart_gapLaw _ _ (by simpa using h)

/-- A sample leaves the gap as it stands (R123). -/
theorem takeEnergy_gapLaw (st : SampleStatus) (kwh : Int) (s : State) (h : GapLaw s) : GapLaw (takeEnergy st kwh s) := by
  cases st with
  | bad => exact h
  | ok =>
    simp only [takeEnergy, energySample]
    split
    · exact h
    · exact GapLaw.of_open rfl

theorem takeSchedule_gapLaw (day : Nat) (entries : List Nat) (s : State) (h : GapLaw s) :
    GapLaw (takeSchedule day entries s) := by
  have hkept : (takeSchedule day entries s).tie.openPeriod = s.tie.openPeriod ∧
      (takeSchedule day entries s).tie.gap = s.tie.gap := by
    simp only [takeSchedule]
    (repeat' split) <;> simp
  rw [GapLaw, hkept.1, hkept.2]
  exact h

theorem fieldMessage_gapLaw (k : FieldKind) (take : State → State) (ht : ∀ t, GapLaw t → GapLaw (take t)) (s : State)
    (h : GapLaw s) : GapLaw (fieldMessage k take s) := by
  have hl : GapLaw (linkRestored s) := h.of_same (by simp)
  simp only [fieldMessage]
  split
  · exact h
  · split
    · exact ht _ hl
    · exact hl

theorem effect_gapLaw (c : Instr) (s : State) (hl : s.mc.mode = .loading → s.tie.gap = 0) (h : GapLaw s) :
    GapLaw (effect c s) := by
  cases c with
  | powerOnReset => exact fun _ => rfl
  | pinReset => exact fun _ => rfl
  | loadComplete strap image =>
    rw [effect_loadComplete]
    split
    · next hm => exact load_gapLaw _ _ s (hl hm)
    · exact h
  | meteringSecond =>
    rw [effect_meteringSecond]
    split
    · exact h
    · exact gapLaw_secondKept.clockSecond (h.of_same (by simp))
  | schedule day entries =>
    rw [effect_schedule]
    split
    · exact fieldMessage_gapLaw _ _ (takeSchedule_gapLaw day entries) s h
    · exact h
  | exportEnergy status kwh =>
    rw [effect_exportEnergy]
    split
    · exact fieldMessage_gapLaw _ _ (takeEnergy_gapLaw status kwh) s h
    · exact h
  | resetWarning => exact fieldMessage_gapLaw _ _ takeResetWarning_gapLaw s h
  | supplyLowAsserted =>
    rw [effect_supplyLowAsserted]
    split
    · exact h
    · split
      · exact h
      · exact tellAsserted_gapLaw _ h
  | supplyLowReleased =>
    rw [effect_supplyLowReleased]
    split
    · split
      · exact h
      · exact tellReleased_gapLaw _ h
    · exact h
  | _ =>
    refine h.of_same ?_
    simp only [effect_listenOnlyHelloTimer, effect_nodeStatusTimer, effect_lineAttemptStart, effect_frameSentWhole,
      effect_collision, effect_backoffExpiry, effect_frameReceived, effect_clashTimerExpiry, effect_stateDelivered,
      effect_helloDelivered, effect_claimDelivered, effect_leaveDelivered, effect_timeDelivered,
      effect_wakeDelivered, effect_readDelivered, effect_recordFrameDiscarded, effect_entryGoesStale,
      effect_entryGoesAbsent, effect_holdMinuteCheck, effect_syncTimerExpiry, effect_timeTimerExpiry,
      effect_roundExpiry, effect_dwellExpiry, effect_undoDwellExpiry, effect_fuelStatus, effect_changeoverTimeout,
      effect_flareStatus, effect_flareTimeout, effect_level, effect_levelLost, effect_capability, effect_gasMeasure,
      effect_heatOut, effect_demand, effect_heatSample, effect_timeSet, effect_commitEnd, effect_recordPlace,
      effect_fieldMessageDiscarded, effect_fieldLinkLost, effect_standbyRequest, effect_resume,
      effect_readyTimerExpiry, effect_returnTimerExpiry, fieldMessage] <;>
    (repeat' split) <;> simp

/-- In LOADING no command but its end touches the gap, but to clear it. -/
theorem effect_gap_loading (c : Instr) (s : State) (hm : s.mc.mode = .loading)
    (hc : ∀ strap image, c ≠ .loadComplete strap image) (h : s.tie.gap = 0) : (effect c s).tie.gap = 0 := by
  cases c with
  | loadComplete strap image => exact absurd rfl (hc strap image)
  | powerOnReset => rfl
  | pinReset => rfl
  | _ =>
    rw [← h]
    simp only [effect_listenOnlyHelloTimer, effect_nodeStatusTimer, effect_lineAttemptStart, effect_frameSentWhole,
      effect_collision, effect_backoffExpiry, effect_frameReceived, effect_clashTimerExpiry, effect_stateDelivered,
      effect_helloDelivered, effect_claimDelivered, effect_leaveDelivered, effect_timeDelivered,
      effect_wakeDelivered, effect_readDelivered, effect_recordFrameDiscarded, effect_entryGoesStale,
      effect_entryGoesAbsent, effect_holdMinuteCheck, effect_syncTimerExpiry, effect_timeTimerExpiry,
      effect_roundExpiry, effect_dwellExpiry, effect_undoDwellExpiry, effect_fuelStatus, effect_changeoverTimeout,
      effect_flareStatus, effect_flareTimeout, effect_level, effect_levelLost, effect_capability, effect_gasMeasure,
      effect_heatOut, effect_demand, effect_heatSample, effect_timeSet, effect_commitEnd, effect_recordPlace,
      effect_fieldMessageDiscarded, effect_fieldLinkLost, effect_standbyRequest, effect_resume,
      effect_readyTimerExpiry, effect_returnTimerExpiry, effect_meteringSecond, effect_schedule,
      effect_exportEnergy, effect_resetWarning, effect_supplyLowAsserted, effect_supplyLowReleased, fieldMessage,
      hm, if_true] <;>
    (repeat' split) <;> simp

theorem tablesCanonical_iff {s : State} : TablesCanonical s ↔
    PeersCanonical s ∧ SourcesRising s ∧ SlotsLaw s ∧ FaultsLaw s ∧ RemaindersBelow s ∧ GapLaw s ∧
      (s.mc.mode = .loading → s.tie.gap = 0) :=
  ⟨fun h => ⟨⟨h.peers, h.peersBelow, h.tieRecords, h.heard⟩, h.sources, ⟨h.slots, h.slotPlace⟩,
      ⟨h.faults, h.faultCount⟩, ⟨h.works, h.purchased⟩, h.gapNone, h.gapLoading⟩,
    fun ⟨hp, hs, hr, hf, hm, hg, hl⟩ => ⟨hp.peers, hp.peersBelow, hp.entries, hp.heard, hs, hr.rising, hr.place,
      hf.kinds, hf.count, hm.works, hm.purchased, hg, hl⟩⟩

theorem effect_gapLoading (c : Instr) (s : State) (h : s.mc.mode = .loading → s.tie.gap = 0)
    (ht : (effect c s).mc.mode = .loading) : (effect c s).tie.gap = 0 := by
  by_cases hm : s.mc.mode = .loading
  · by_cases hc : ∃ strap image, c = .loadComplete strap image
    · obtain ⟨strap, image, rfl⟩ := hc
      rw [effect_loadComplete, if_pos hm] at ht
      rcases load_mode strap (image.bind rawImage) s with hx | hx <;> simp [hx] at ht
    · exact effect_gap_loading c s hm (fun strap image hx => hc ⟨strap, image, hx⟩) (h hm)
  · by_cases hp : c = .powerOnReset
    · rw [hp]
      rfl
    by_cases hr : c = .pinReset
    · rw [hr]
      rfl
    exact absurd ht (effect_awake c s hp hr hm)

theorem effect_tablesCanonical (c : Instr) (s : State) (h : TablesCanonical s) : TablesCanonical (effect c s) := by
  obtain ⟨hp, hs, hr, hf, hm, hg, hl⟩ := tablesCanonical_iff.1 h
  rw [tablesCanonical_iff]
  refine ⟨effect_peersCanonical c s hp, effect_sourcesRising c s hs, ?_, effect_faultsLaw c s hf,
    effect_remainders c s hm, effect_gapLaw c s hl hg, effect_gapLoading c s hl⟩
  cases hc : throughBlocks c with
  | true => exact slotsLaw_kept.command hc hr
  | false => exact effect_slotsLaw c s hc hr

/-- Settles O60. -/
theorem tablesStayCanonical : Obligations.TablesStayCanonical :=
  step_keeps (fun _ _ h => { h with }) effect_tablesCanonical

end Sys2Proof.Machine
end

section
/-! SUPPORT. The transmit queue as the statements name it, and the statements about a request and an attempt's start
(R2, R7 to R11, R16). -/

namespace Sys2Proof.Machine

/-! ### What the queue's tests say -/

theorem isWaiting_iff {e : TxEntry} : isWaiting e = true ↔ e.sending = none := Option.isNone_iff_eq_none

theorem isWaiting_false_iff {e : TxEntry} : isWaiting e = false ↔ e.sending ≠ none := by
  rw [← not_iff_not, Bool.not_eq_false, isWaiting_iff, not_not]

theorem isState_iff {b : TxBody} : isState b = true ↔ bodyKind b = .state := by cases b <;> simp [isState, bodyKind]

theorem isHello_iff {b : TxBody} : isHello b = true ↔ bodyKind b = .hello := by cases b <;> simp [isHello, bodyKind]

theorem isRecord_iff {b : TxBody} : isRecord b = true ↔ bodyKind b = .record := by
  cases b <;> simp [isRecord, bodyKind]

theorem claimsLine_iff {l : ClaimLine} {b : TxBody} : claimsLine l b = true ↔ ∃ g, b = .claim l g := by
  cases b <;> simp [claimsLine]

theorem isCandidate_iff {e : TxEntry} : isCandidate e = true ↔ e.sending = none ∧ bodyKind e.body ≠ .record := by
  rw [isCandidate, Bool.and_eq_true, isWaiting_iff, Bool.not_eq_true', Bool.eq_false_iff, ne_eq, isRecord_iff]

theorem eq_false_of_iff {b : Bool} {p : Prop} (h : b = true ↔ p) (hp : ¬p) : b = false :=
  Bool.eq_false_iff.2 fun hb => hp (h.1 hb)

/-- The modes whose queue takes every request. -/
theorem acceptsRequest_open {m : Mode} (h : m ∈ [Mode.listenOnly, .listenIn, .active, .standbyListen]) (b : TxBody) :
    acceptsRequest m b = true := by
  cases m <;> simp [acceptsRequest] at h ⊢

theorem enqueue_refused {b : TxBody} {s : State} (h : s.mc.mode = .loading ∨
    (s.mc.mode = .standbyDeep ∧ b ≠ .leave .deepStandby) ∨
    (s.mc.mode = .leaving ∧ (bodyKind b = .hello ∨ bodyKind b = .state))) : enqueue b s = s := by
  have hn : acceptsRequest s.mc.mode b = false := by
    rcases h with h | ⟨h, hb⟩ | ⟨h, hb⟩
    · simp [acceptsRequest, h]
    · simp [acceptsRequest, h, hb]
    · rcases hb with hb | hb
      · simp [acceptsRequest, h, isHello_iff.2 hb]
      · simp [acceptsRequest, h, isState_iff.2 hb]
  simp [enqueue, hn]

/-! ### A request in a mode that takes it (R7 to R10) -/

/-- A STATE replaces the waiting STATE in its place (R8). -/
theorem placeState_replaces {b : TxBody} {pre post : List TxEntry} {e : TxEntry} (he : bodyKind e.body = .state)
    (hs : e.sending = none) (hpre : ∀ x ∈ pre, x.sending = none → bodyKind x.body ≠ .state) :
    placeState b (pre ++ e :: post) = pre ++ newEntry b :: post := by
  have hmine : (isWaiting e && isState e.body) = true := by simp [isWaiting_iff.2 hs, isState_iff.2 he]
  have hpre' : ∀ x ∈ pre, (isWaiting x && isState x.body) = false := fun x hx =>
    eq_false_of_iff Bool.and_eq_true_iff fun h => hpre x hx (isWaiting_iff.1 h.1) (isState_iff.1 h.2)
  rw [placeState, if_pos (List.any_eq_true.2 ⟨e, by simp, hmine⟩)]
  exact changeFirst_append _ _ pre post e hpre' hmine

/-- Where no waiting entry is of the request's own kind, it needs a place. -/
theorem enqueue_places {b : TxBody} {s : State} (ha : acceptsRequest s.mc.mode b = true)
    (hstate : bodyKind b = .state → ∀ x ∈ s.liu.tx, x.sending = none → bodyKind x.body ≠ .state)
    (hclaim : ∀ l g, b = .claim l g → ∀ x ∈ s.liu.tx, x.sending = none → ∀ k, x.body ≠ .claim l k) :
    enqueue b s = s.setLiu { s.liu with tx := placeEntry b s.liu.tx } := by
  cases b with
  | claim l g =>
    have hnone : s.liu.tx.find? (fun x => isWaiting x && claimsLine l x.body) = none := by
      rw [List.find?_eq_none]
      intro x hx h
      obtain ⟨hw, hc⟩ := Bool.and_eq_true_iff.1 h
      obtain ⟨k, hk⟩ := claimsLine_iff.1 hc
      exact hclaim l g rfl x hx (isWaiting_iff.1 hw) k hk
    simp only [enqueue, if_pos ha, enqueueClaim, hnone]
  | state r n rs x =>
    have hnone : ¬s.liu.tx.any (fun x => isWaiting x && isState x.body) = true := by
      intro h
      obtain ⟨y, hy, h⟩ := List.any_eq_true.1 h
      obtain ⟨hw, hc⟩ := Bool.and_eq_true_iff.1 h
      exact hstate rfl y hy (isWaiting_iff.1 hw) (isState_iff.1 hc)
    simp only [enqueue, if_pos ha, placeState, if_neg hnone]
  | hello r m p t => simp only [enqueue, if_pos ha]
  | leave r => simp only [enqueue, if_pos ha]
  | time p q => simp only [enqueue, if_pos ha]
  | wake r m => simp only [enqueue, if_pos ha]
  | record st k bs i => simp only [enqueue, if_pos ha]

/-- A candidate of the lowest precedence stands in the queue, and its precedence is the lowest. -/
theorem lowestCandidate_eq_some {tx : List TxEntry} {e : TxEntry} (he : e ∈ tx) (hc : isCandidate e = true)
    (hle : ∀ x ∈ tx, isCandidate x = true → precedence x.body ≤ precedence e.body) :
    lowestCandidate tx = some (precedence e.body) := by
  have hsome : ∀ (l : List Nat) (n : Nat), ∃ m, l.foldl largerOf (some n) = some m := by
    intro l
    induction l with
    | nil => exact fun n => ⟨n, rfl⟩
    | cons a t ih => exact fun n => ih _
  have hfound : ∃ m, lowestCandidate tx = some m := by
    rw [lowestCandidate_eq]
    have hmem : precedence e.body ∈ (tx.filter isCandidate).map fun x => precedence x.body :=
      List.mem_map.2 ⟨e, List.mem_filter.2 ⟨he, hc⟩, rfl⟩
    cases hl : (tx.filter isCandidate).map fun x => precedence x.body with
    | nil => simp [hl] at hmem
    | cons a t => exact hsome t a
  obtain ⟨m, hm⟩ := hfound
  obtain ⟨⟨x, hx, hxm⟩, hall⟩ := lowestCandidate_some hm
  obtain ⟨hxc, hxm⟩ := Bool.and_eq_true_iff.1 hxm
  have hxm : precedence x.body = m := by simpa using hxm
  have h1 := hle x hx hxc
  have h2 := hall e he hc
  rw [hm]
  exact congrArg some (by omega)

/-- The oldest waiting entry of the lowest precedence makes room (R10). -/
theorem placeEntry_makesRoom {b : TxBody} {pre post : List TxEntry} {e : TxEntry}
    (hl : (pre ++ e :: post).length = 4) (hs : e.sending = none) (hr : bodyKind e.body ≠ .record)
    (hpre : ∀ x ∈ pre, x.sending = none → bodyKind x.body ≠ .record → precedence x.body < precedence e.body)
    (hpost : ∀ x ∈ post, x.sending = none → bodyKind x.body ≠ .record → precedence x.body ≤ precedence e.body)
    (hb : precedence b ≤ precedence e.body) :
    placeEntry b (pre ++ e :: post) = pre ++ post ++ [newEntry b] := by
  have hc : isCandidate e = true := isCandidate_iff.2 ⟨hs, hr⟩
  have hlow : lowestCandidate (pre ++ e :: post) = some (precedence e.body) := by
    refine lowestCandidate_eq_some (by simp) hc fun x hx hxc => ?_
    obtain ⟨hxs, hxr⟩ := isCandidate_iff.1 hxc
    rcases List.mem_append.1 hx with hx | hx
    · exact Nat.le_of_lt (hpre x hx hxs hxr)
    · rcases List.mem_cons.1 hx with rfl | hx
      · exact le_rfl
      · exact hpost x hx hxs hxr
  have hnot : ∀ x ∈ pre, (isCandidate x && precedence x.body == precedence e.body) = false := by
    intro x hx
    refine eq_false_of_iff Bool.and_eq_true_iff fun h => ?_
    obtain ⟨hxs, hxr⟩ := isCandidate_iff.1 h.1
    have := hpre x hx hxs hxr
    have heq : precedence x.body = precedence e.body := by simpa using h.2
    omega
  have hmine : (isCandidate e && precedence e.body == precedence e.body) = true := by simp [hc]
  rw [placeEntry, if_neg (by omega), placeFull, hlow]
  show (if precedence e.body < precedence b then _ else _) = _
  rw [if_neg (by omega), removeFirst_append _ pre post e hnot hmine]

/-- A request below every waiting entry of a full queue is dropped (R10). -/
theorem placeEntry_drops {b : TxBody} {tx : List TxEntry} (hl : tx.length = 4)
    (hall : ∀ x ∈ tx, x.sending = none → bodyKind x.body ≠ .record → precedence x.body < precedence b) :
    placeEntry b tx = tx := by
  rw [placeEntry, if_neg (by omega), placeFull]
  split
  · rfl
  · next p hp =>
    obtain ⟨⟨x, hx, hxp⟩, -⟩ := lowestCandidate_some hp
    obtain ⟨hxc, hxp⟩ := Bool.and_eq_true_iff.1 hxp
    have hxp : precedence x.body = p := by simpa using hxp
    obtain ⟨hxs, hxr⟩ := isCandidate_iff.1 hxc
    have := hall x hx hxs hxr
    rw [if_pos (by omega)]

/-- A CLAIM meets a waiting CLAIM of its line (R9). -/
theorem enqueueClaim_meets {l : ClaimLine} {g h : Edge} {pre post : List TxEntry} {e : TxEntry} {s : State}
    (htx : s.liu.tx = pre ++ e :: post) (he : e.body = .claim l h) (hs : e.sending = none)
    (hpre : ∀ x ∈ pre, x.sending = none → ∀ k, x.body ≠ .claim l k) :
    (g = s.liu.lastEdge.get l → enqueueClaim l g s = s.setLiu { s.liu with tx := pre ++ post }) ∧
    (g ≠ s.liu.lastEdge.get l → enqueueClaim l g s = (survivorDrawn e.collisions s).setLiu
      { (survivorDrawn e.collisions s).liu with
        tx := pre ++ { e with
          body := .claim l g, collisions := survivorCount e.collisions (freeNumber s) } :: post }) := by
  have hmine : (isWaiting e && claimsLine l e.body) = true := by
    simp [isWaiting_iff.2 hs, claimsLine_iff.2 ⟨h, he⟩]
  have hnot : ∀ x ∈ pre, (isWaiting x && claimsLine l x.body) = false := by
    intro x hx
    refine eq_false_of_iff Bool.and_eq_true_iff fun hw => ?_
    obtain ⟨k, hk⟩ := claimsLine_iff.1 hw.2
    exact hpre x hx (isWaiting_iff.1 hw.1) k hk
  have hfind : s.liu.tx.find? (fun x => isWaiting x && claimsLine l x.body) = some e := by
    rw [htx]
    exact find_append _ pre post e hnot hmine
  have htx' : (survivorDrawn e.collisions s).liu.tx = pre ++ e :: post := by simpa using htx
  constructor
  · intro hg
    simp only [enqueueClaim, hfind, if_pos hg]
    rw [htx, removeFirst_append _ pre post e hnot hmine]
  · intro hg
    simp only [enqueueClaim, hfind, if_neg hg]
    rw [htx', changeFirst_append _ _ pre post e hnot hmine]

theorem survivorCount_eq (old free : Nat) : survivorCount old free = 0 ∨ survivorCount old free = old := by
  simp only [survivorCount]
  (repeat' split)
  · exact .inl rfl
  · exact .inl rfl
  · exact .inr rfl

theorem survivorDrawn_eq (old : Nat) (s : State) :
    survivorDrawn old s = { s with freeNext := (survivorDrawn old s).freeNext } := by
  simp only [survivorDrawn]
  split
  · rfl
  · rfl

/-- Settles O7. -/
theorem enqueueReplacesPlacesOrDrops : Obligations.EnqueueReplacesPlacesOrDrops := by
  refine ⟨fun b s h => enqueue_refused h, fun b s hm => ?_, fun s ht => ?_⟩
  · have ha := acceptsRequest_open hm b
    refine ⟨?_, ?_, ?_⟩
    · intro pre post e hb htx he hs hpre
      have hplaced : enqueue b s = s.setLiu { s.liu with tx := placeState b s.liu.tx } := by
        cases b with
        | state r n rs x => simp only [enqueue, if_pos ha]
        | _ => cases hb
      rw [hplaced, htx, placeState_replaces he hs hpre]
      rfl
    · rintro pre post e l g h rfl htx he hs hpre
      obtain ⟨hboth, hsurvives⟩ := enqueueClaim_meets (g := g) htx he hs hpre
      have hplaced : enqueue (.claim l g) s = enqueueClaim l g s := by
        simp only [enqueue, if_pos ha]
      refine ⟨fun hg => hplaced.trans (hboth hg), fun hg => ?_⟩
      refine ⟨_, survivorCount e.collisions (freeNumber s), hplaced.trans (hsurvives hg), survivorCount_eq _ _, ?_⟩
      rw [survivorDrawn_eq]
      rfl
    · intro hstate hclaim
      have hplaced := enqueue_places ha hstate hclaim
      refine ⟨fun hl => ?_, ?_, ?_⟩
      · rw [hplaced, placeEntry, if_pos hl]
        rfl
      · intro pre post e htx hl hs hr hpre hpost hb
        rw [hplaced, htx, placeEntry_makesRoom (htx ▸ hl) hs hr hpre hpost hb]
        rfl
      · intro hl hall
        rw [hplaced, placeEntry_drops hl hall]
        rfl
  · have he : effect .timeTimerExpiry s = _ := effect_timeTimerExpiry s
    rw [if_pos (by simp [expired, ht])] at he
    exact congrArg Host.Outcome.next he

/-! ### The start of an attempt (R2, R7, R11) -/

theorem sendingEntry_eq_none {tx : List TxEntry} (h : ∀ x ∈ tx, x.sending = none) : sendingEntry tx = none := by
  rw [sendingEntry, List.find?_eq_none]
  intro x hx
  simp [isWaiting_iff.2 (h x hx)]

theorem sendingEntry_isSome {tx : List TxEntry} (h : ∃ x ∈ tx, x.sending ≠ none) : (sendingEntry tx).isSome = true := by
  obtain ⟨x, hx, hs⟩ := h
  rw [sendingEntry, List.find?_isSome]
  exact ⟨x, hx, by simp [isWaiting_false_iff.2 hs]⟩

/-- The first of the highest precedence is the one selected (R7). -/
theorem selectedEntry_first {pre post : List TxEntry} {e : TxEntry} (hw : ∀ x ∈ pre ++ e :: post, x.sending = none)
    (hpre : ∀ x ∈ pre, precedence e.body < precedence x.body)
    (hpost : ∀ x ∈ post, precedence e.body ≤ precedence x.body) :
    selectedEntry (pre ++ e :: post) = some e ∧
      (∀ x ∈ pre, isSelectable (precedence e.body) x = false) ∧ isSelectable (precedence e.body) e = true := by
  have hnot : ∀ x ∈ pre, isSelectable (precedence e.body) x = false := by
    intro x hx
    refine eq_false_of_iff Bool.and_eq_true_iff fun h => ?_
    have := hpre x hx
    have heq : precedence x.body = precedence e.body := by simpa using h.2
    omega
  have hmine : isSelectable (precedence e.body) e = true := by simp [isSelectable, isWaiting_iff.2 (hw e (by simp))]
  have hhigh : highestWaiting (pre ++ e :: post) = some (precedence e.body) := by
    refine leastOf_eq (List.mem_map.2 ⟨e, List.mem_filter.2 ⟨by simp, isWaiting_iff.2 (hw e (by simp))⟩, rfl⟩) ?_
    intro p hp
    obtain ⟨x, hx, rfl⟩ := List.mem_map.1 hp
    rcases List.mem_append.1 (List.mem_filter.1 hx).1 with hx | hx
    · exact Nat.le_of_lt (hpre x hx)
    · rcases List.mem_cons.1 hx with rfl | hx
      · exact le_rfl
      · exact hpost x hx
  refine ⟨?_, hnot, hmine⟩
  rw [selectedEntry, hhigh]
  exact find_append _ pre post e hnot hmine

theorem quietGap_eq (b : TxBody) (n : Nat) :
    quietGap b n = (if bodyKind b = .claim ∨ bodyKind b = .leave then 96 else 160) + 32 * (n % 8) := by
  cases b <;> simp [quietGap, bodyKind]

/-- Settles O8. -/
theorem attemptStartsAfterQuietGap : Obligations.AttemptStartsAfterQuietGap := by
  refine ⟨fun pre post e quietUs s htx hw hb hpre hpost => ?_, fun quietUs s h => ?_⟩
  · intro gap
    have hgap : gap = quietGap e.body s.mc.node.val := (quietGap_eq _ _).symm
    obtain ⟨hsel, hnot, hmine⟩ := selectedEntry_first (htx ▸ hw) hpre hpost
    have hsend := sendingEntry_eq_none hw
    have he := effect_lineAttemptStart s quietUs
    rw [htx, hsel, ← htx, hsend, hb] at he
    dsimp only at he
    constructor
    · intro hq
      rw [if_pos (by simpa [← hgap] using hq)] at he
      refine (congrArg Host.Outcome.next he).trans ?_
      rw [startAttempt, htx, changeFirst_append _ _ pre post e hnot hmine]
      rfl
    · intro hq
      rw [if_neg (by simpa [← hgap] using hq)] at he
      exact congrArg Host.Outcome.next he
  · have he := effect_lineAttemptStart s quietUs
    refine congrArg Host.Outcome.next (he.trans ?_)
    split
    · rfl
    · next e hsel =>
      refine if_neg fun hx => ?_
      simp only [Bool.and_eq_true, Option.isNone_iff_eq_none] at hx
      obtain ⟨⟨hsend, hback⟩, -⟩ := hx
      rcases h with h | h | h
      · rw [h] at hsel
        cases hsel
      · exact h hback
      · have := sendingEntry_isSome h
        rw [hsend] at this
        cases this

end Sys2Proof.Machine
end

section
/-! SUPPORT. Attempts that end, and frames heard: the statements about them (R1, R3 to R6, R9, R12 to R16, R167). -/

namespace Sys2Proof.Machine

/-! ### The entry being sent -/

theorem sendingEntry_found {pre post : List TxEntry} {e : TxEntry} (hpre : ∀ x ∈ pre, x.sending = none)
    (he : e.sending ≠ none) : sendingEntry (pre ++ e :: post) = some e :=
  find_append _ pre post e (fun x hx => by simp [isWaiting_iff.2 (hpre x hx)]) (by simp [isWaiting_false_iff.2 he])

theorem withoutSending_found {pre post : List TxEntry} {e : TxEntry} (hpre : ∀ x ∈ pre, x.sending = none)
    (he : e.sending ≠ none) : withoutSending (pre ++ e :: post) = pre ++ post :=
  removeFirst_append _ pre post e (fun x hx => by simp [isWaiting_iff.2 (hpre x hx)]) (by simp [isWaiting_false_iff.2 he])

theorem exec_frameSentWhole_found {s : State} {pre post : List TxEntry} {e : TxEntry}
    (htx : s.liu.tx = pre ++ e :: post) (hpre : ∀ x ∈ pre, x.sending = none) (he : e.sending ≠ none) :
    exec .frameSentWhole s = .next (sentWhole e s) := by
  refine congrArg Host.Outcome.next ((effect_frameSentWhole s).trans ?_)
  rw [htx, sendingEntry_found hpre he]

theorem exec_collision_found {s : State} {pre post : List TxEntry} {e : TxEntry}
    (htx : s.liu.tx = pre ++ e :: post) (hpre : ∀ x ∈ pre, x.sending = none) (he : e.sending ≠ none) :
    exec .collision s = .next (collided e s) := by
  refine congrArg Host.Outcome.next ((effect_collision s).trans ?_)
  rw [htx, sendingEntry_found hpre he]

/-! ### A frame sent whole (R1, R5, R6, R9, R167) -/

theorem getSlot_setSlot (i : ReadSlotId) (x : Option ReadSlot) (rs : RecordUnit) :
    getSlot i (setSlot i x rs) = x ∧ getSlot (otherSlot i) (setSlot i x rs) = getSlot (otherSlot i) rs := by
  cases i <;> exact ⟨rfl, rfl⟩

/-- A slot written changes no more of the store than its two slots. -/
theorem setSlot_eq (i : ReadSlotId) (x : Option ReadSlot) (rs : RecordUnit) :
    setSlot i x rs = { rs with slotA := (setSlot i x rs).slotA, slotB := (setSlot i x rs).slotB } := by
  cases i <;> rfl

/-- A record reported touches the store's slots alone. -/
theorem reportRecord_eq (b : TxBody) (sent : Bool) (s : State) :
    reportRecord b sent s = { s with rs := (reportRecord b sent s).rs } := by
  simp only [reportRecord]
  split
  · split <;> rfl
  all_goals rfl

theorem reportRecord_other {b : TxBody} (sent : Bool) (s : State) (h : ∀ st k p i, b ≠ .record st k p (some i)) :
    reportRecord b sent s = s := by
  simp only [reportRecord]
  split
  · next st k p i => exact absurd rfl (h st k p i)
  all_goals rfl

theorem reportRecord_slots (b : TxBody) (sent : Bool) (s : State) :
    (reportRecord b sent s).rs =
      { s.rs with slotA := (reportRecord b sent s).rs.slotA, slotB := (reportRecord b sent s).rs.slotB } := by
  simp only [reportRecord]
  split
  · split
    · exact setSlot_eq _ _ _
    · exact setSlot_eq _ _ _
  all_goals rfl

/-- What becomes of the slot whose RECORD has been sent whole (R167). -/
theorem slotSent_goesOn (rs : RecordUnit) (sl : ReadSlot) :
    (sl.status = .none ∨ sl.left ≤ 1 → slotSent rs (some sl) = none) ∧
      (sl.status ≠ .none → 1 < sl.left →
        GoesOn sl.next rs { sl with left := sl.left - 1, inQueue := false } (slotSent rs (some sl))) := by
  refine ⟨fun h => by simp only [slotSent, if_pos h], fun hs hl => ?_⟩
  have hn : ¬(sl.status = .none ∨ sl.left ≤ 1) := by
    rintro (h | h)
    · exact hs h
    · omega
  simp only [slotSent, if_neg hn]
  exact nextAnswer_goesOn sl.next _ rs

/-- Settles O9. -/
theorem sentWholeLeavesTheQueue : Obligations.SentWholeLeavesTheQueue := by
  intro pre post e s htx hpre he
  have hrs : (sentWhole e s).rs = { s.rs with slotA := (sentWhole e s).rs.slotA, slotB := (sentWhole e s).rs.slotB } :=
    reportRecord_slots e.body true _
  refine ⟨sentWhole e s, exec_frameSentWhole_found htx hpre he, ?_, ?_, ?_, ?_, ?_, ?_, ?_, ?_, hrs, ?_, ?_, ?_⟩
  · rw [sentWhole, reportRecord_eq]
    exact (congrArg withoutSending htx).trans (withoutSending_found hpre he)
  · rw [sentWhole, reportRecord_eq]
    rfl
  · intro l g hb
    rw [sentWhole, reportRecord_eq]
    simp [edgesAfter, hb]
  · intro hb
    rw [sentWhole, reportRecord_eq]
    cases hx : e.body <;> simp [edgesAfter, bodyKind, hx] at hb ⊢
  · rw [sentWhole, reportRecord_eq]
    rfl
  · rw [sentWhole, reportRecord_eq]
    rfl
  · rw [sentWhole, reportRecord_eq]
    rfl
  · rw [sentWhole, reportRecord_eq]
    rfl
  · intro hb
    rw [sentWhole, reportRecord_other true _ hb]
    rfl
  · intro st k b i hb
    have hst : (sentWhole e s).rs = setSlot i (slotSent s.rs (getSlot i s.rs)) s.rs := by
      simp only [sentWhole, hb]
      rfl
    rw [hst, (getSlot_setSlot _ _ _).1, (getSlot_setSlot _ _ _).2]
    refine ⟨rfl, fun sl hsl => ?_⟩
    rw [hsl]
    exact slotSent_goesOn s.rs sl
  · rw [sentWhole, reportRecord_eq]
    exact ⟨rfl, rfl, rfl, rfl, rfl, rfl, rfl, rfl, rfl, rfl, rfl, rfl⟩

/-! ### Collisions (R3 to R6, R8, R9, R17) -/

/-- A fault of no grave kind enters no fallback. -/
theorem raiseFault_eq {k : FaultKind} (h : faultSeverity k ≠ .failed) (s : State) :
    raiseFault k s = s.setMc { s.mc with faults := faultsRaised k s.dc.time s.mc.faults } := by
  have hnot : ¬(s.mc.mode = .active ∧ severity s ≠ .failed ∧
      severity (s.setMc { s.mc with faults := faultsRaised k s.dc.time s.mc.faults }) = .failed) := by
    rintro ⟨-, hs, ht⟩
    obtain ⟨e, he, hf⟩ := (listSeverity_failed_iff _).1 ht
    refine hs ((listSeverity_failed_iff _).2 ?_)
    have hmem : e ∈ s.mc.faults ∨ e = ⟨k, s.dc.time⟩ := by
      have he : e ∈ faultsRaised k s.dc.time s.mc.faults := he
      simp only [faultsRaised] at he
      split at he
      · exact .inl he
      · split at he
        · simpa using he
        · exact .inl he
    rcases hmem with hmem | rfl
    · exact ⟨e, hmem, hf⟩
    · exact absurd hf h
  simp only [raiseFault, if_neg hnot]

theorem countDrop_eq (s : State) : countDrop s = { s with
    liu := { s.liu with drops := Nat.min (s.liu.drops + 1) 255 }
    mc := { s.mc with faults :=
      if s.liu.drops = 15 then faultsRaised .lineTxFail s.dc.time s.mc.faults else s.mc.faults } } := by
  have h16 : Nat.min (s.liu.drops + 1) 255 = 16 ↔ s.liu.drops = 15 := by
    show min (s.liu.drops + 1) 255 = 16 ↔ _
    omega
  simp only [countDrop, h16]
  split
  · rw [raiseFault_eq (by decide)]
    rfl
  · rfl

theorem backoffAfter_eq (e : TxEntry) (s : State) : backoffAfter (e.collisions + 1) s =
    if e.collisions < 7 then some ((s.mc.node.val + 1) * 64 * (e.collisions + 1)) else none := by
  simp only [backoffAfter, backoffTime]
  split
  · rw [if_pos (by omega)]
  · rw [if_neg (by omega)]

/-- An attempt's entry, with nothing newer in its stead, ends by its count (R3, R5). -/
theorem collisionEnd_alone {e : TxEntry} {k : Nat} {s : State} (hr : e.noRetry = false)
    (hstate : ∀ x ∈ s.liu.tx, x.sending = none → ¬(bodyKind x.body = .state ∧ bodyKind e.body = .state))
    (hclaim : ∀ x ∈ s.liu.tx, x.sending = none → ∀ l g h, ¬(x.body = .claim l g ∧ e.body = .claim l h)) :
    collisionEnd e k s = endByCount k := by
  rw [collisionEnd, if_neg (by simp [hr])]
  cases hb : e.body with
  | state r p rs x =>
    refine if_neg fun h => ?_
    obtain ⟨y, hy, h⟩ := List.any_eq_true.1 h
    obtain ⟨hw, hc⟩ := Bool.and_eq_true_iff.1 h
    exact hstate y hy (isWaiting_iff.1 hw) ⟨isState_iff.1 hc, by rw [hb]; rfl⟩
  | claim l g =>
    have hnone : newerClaim l s.liu.tx = none := by
      rw [newerClaim, List.find?_eq_none]
      intro y hy h
      obtain ⟨hw, hc⟩ := Bool.and_eq_true_iff.1 h
      obtain ⟨k, hk⟩ := claimsLine_iff.1 hc
      exact hclaim y hy (isWaiting_iff.1 hw) l k g ⟨hk, hb⟩
    simp only [hnone]
  | hello r m p t => rfl
  | leave r => rfl
  | time p q => rfl
  | wake r m => rfl
  | record st k bs i => rfl

/-- What an ended entry reports to its read slot. -/
theorem reportRecord_gone {b : TxBody} (s : State) :
    (∀ st k p i, b = .record st k p (some i) → (reportRecord b false s).rs = setSlot i none s.rs) ∧
      ((∀ st k p i, b ≠ .record st k p (some i)) → (reportRecord b false s).rs = s.rs) := by
  refine ⟨?_, fun h => by rw [reportRecord_other false s h]⟩
  rintro st k p i rfl
  rfl

theorem removedQueue_noRetry {e : TxEntry} {k : Nat} {s : State} (h : e.noRetry = true) :
    removedQueue e k s = withoutSending s.liu.tx ∧ removedDrawn e k s = s := by
  constructor
  · simp only [removedQueue, h, if_true]
    (repeat' split) <;> rfl
  · simp only [removedDrawn, h, Bool.true_or, if_true]
    split <;> rfl

/-- Settles O10. -/
theorem collisionBacksOffOrDrops : Obligations.CollisionBacksOffOrDrops := by
  refine ⟨fun pre post e s htx hpre he hr hstate hclaim => ?_, fun pre post e s htx hpre he hr => ?_, fun s => rfl⟩
  · have hend : ∀ k, collisionEnd e k s = endByCount k := fun k => collisionEnd_alone hr hstate hclaim
    rw [exec_collision_found htx hpre he]
    refine ⟨fun hk => ?_, fun hk => ?_⟩
    · have hw : collisionEnd e (e.collisions + 1) s = .waits := by rw [hend, endByCount, if_pos (by omega)]
      have htx' : waitsAgain (e.collisions + 1) s.liu.tx =
          pre ++ { e with sending := none, collisions := e.collisions + 1 } :: post := by
        rw [htx]
        exact changeFirst_append _ _ pre post e (fun x hx => by simp [isWaiting_iff.2 (hpre x hx)])
          (by simp [isWaiting_false_iff.2 he])
      simp only [collided, hw, htx', backoffAfter_eq, if_pos hk]
      rfl
    · have hw : collisionEnd e (e.collisions + 1) s = .dropped := by rw [hend, endByCount, if_neg (by omega)]
      refine ⟨_, rfl, ?_, ?_, ?_⟩
      · simp only [collided, hw]
        rw [reportRecord_eq, countDrop_eq, htx, withoutSending_found hpre he, backoffAfter_eq, if_neg (by omega)]
        rfl
      · intro st k b i hb
        simp only [collided, hw]
        rw [(reportRecord_gone _).1 st k b i hb, countDrop_eq]
        rfl
      · intro hb
        simp only [collided, hw]
        rw [(reportRecord_gone _).2 hb, countDrop_eq]
        rfl
  · have hw : collisionEnd e (e.collisions + 1) s = .removed := by rw [collisionEnd, if_pos hr]
    obtain ⟨hq, hd⟩ := removedQueue_noRetry (k := e.collisions + 1) (s := s) hr
    rw [exec_collision_found htx hpre he]
    refine ⟨_, rfl, ?_, ?_, ?_⟩
    · simp only [collided, hw, hq, hd]
      rw [reportRecord_eq, htx, withoutSending_found hpre he, backoffAfter_eq]
      rfl
    · intro st k b i hb
      simp only [collided, hw, hq, hd]
      rw [(reportRecord_gone _).1 st k b i hb]
      rfl
    · intro hb
      simp only [collided, hw, hq, hd]
      rw [(reportRecord_gone _).2 hb]
      rfl

/-- A STATE that collides while a newer one waits is superseded (R8). -/
theorem collided_state {pre post : List TxEntry} {e newer : TxEntry} {s : State} (htx : s.liu.tx = pre ++ e :: post)
    (hpre : ∀ x ∈ pre, x.sending = none) (he : e.sending ≠ none) (hb : bodyKind e.body = .state)
    (hmem : newer ∈ pre ++ post) (hn : newer.sending = none) (hnb : bodyKind newer.body = .state) :
    collided e s = s.setLiu { s.liu with
      tx := pre ++ post, backoff := backoffAfter (e.collisions + 1) s } := by
  have hmem : newer ∈ s.liu.tx := by
    rw [htx]
    rcases List.mem_append.1 hmem with h | h
    · exact List.mem_append_left _ h
    · exact List.mem_append_right _ (List.mem_cons_of_mem _ h)
  have hany : s.liu.tx.any (fun x => isWaiting x && isState x.body) = true :=
    List.any_eq_true.2 ⟨newer, hmem, by simp [isWaiting_iff.2 hn, isState_iff.2 hnb]⟩
  obtain ⟨r, p, rs, x, hbody⟩ : ∃ r p rs x, e.body = .state r p rs x := by
    cases hx : e.body with
    | state r p rs x => exact ⟨r, p, rs, x, rfl⟩
    | _ =>
      rw [hx] at hb
      cases hb
  have hend : collisionEnd e (e.collisions + 1) s = .removed := by
    simp only [collisionEnd, hbody, hany, if_true]
    split <;> rfl
  simp only [collided, hend, removedQueue, removedDrawn, hbody, reportRecord, htx, withoutSending_found hpre he]

/-- A CLAIM that collides while a newer one of its line waits: both go where the newer edge is the last edge sent, else
the newer takes its place (R9). -/
theorem collided_claim {pre mid post : List TxEntry} {e newer : TxEntry} {l : ClaimLine} {g h : Edge} {s : State}
    (htx : s.liu.tx = pre ++ e :: mid ++ newer :: post) (hw : ∀ x ∈ pre ++ mid, x.sending = none)
    (he : e.sending ≠ none) (hr : e.noRetry = false) (hb : e.body = .claim l g) (hn : newer.sending = none)
    (hnb : newer.body = .claim l h) (hother : ∀ x ∈ pre ++ mid, ∀ k, x.body ≠ .claim l k) :
    (h = s.liu.lastEdge.get l → collided e s = s.setLiu { s.liu with
      tx := pre ++ mid ++ post, backoff := backoffAfter (e.collisions + 1) s }) ∧
    (h ≠ s.liu.lastEdge.get l → collided e s = (survivorDrawn (e.collisions + 1) s).setLiu
      { (survivorDrawn (e.collisions + 1) s).liu with
        tx := pre ++ { newer with collisions := survivorCount (e.collisions + 1) (freeNumber s) } :: mid ++ post
        backoff := backoffAfter (e.collisions + 1) s }) := by
  have hpre : ∀ x ∈ pre, x.sending = none := fun x hx => hw x (List.mem_append_left _ hx)
  have hmine : (isWaiting newer && claimsLine l newer.body) = true := by
    simp [isWaiting_iff.2 hn, claimsLine_iff.2 ⟨h, hnb⟩]
  have hnot : ∀ x ∈ pre ++ mid, (isWaiting x && claimsLine l x.body) = false := by
    intro x hx
    refine eq_false_of_iff Bool.and_eq_true_iff fun hc => ?_
    obtain ⟨k, hk⟩ := claimsLine_iff.1 hc.2
    exact hother x hx k hk
  have hnote : ∀ x ∈ pre ++ e :: mid, (isWaiting x && claimsLine l x.body) = false := by
    intro x hx
    rcases List.mem_append.1 hx with hx | hx
    · exact hnot x (List.mem_append_left _ hx)
    · rcases List.mem_cons.1 hx with rfl | hx
      · simp [isWaiting_false_iff.2 he]
      · exact hnot x (List.mem_append_right _ hx)
  have hnewer : newerClaim l s.liu.tx = some newer := by
    rw [newerClaim, htx]
    exact find_append _ _ post newer hnote hmine
  have hsending : ∀ x ∈ pre, (!isWaiting x) = false := fun x hx => by simp [isWaiting_iff.2 (hpre x hx)]
  constructor
  · intro hh
    have hend : collisionEnd e (e.collisions + 1) s = .bothRemoved := by
      simp [collisionEnd, hr, hb, hnewer, hnb, entryEdge, hh]
    have hgone : bothGone e.body s.liu.tx = pre ++ mid ++ post := by
      have hwithout : withoutSending s.liu.tx = pre ++ mid ++ newer :: post := by
        rw [htx, List.append_assoc, List.cons_append, withoutSending_found hpre he, List.append_assoc]
      simp only [bothGone, hb]
      rw [hwithout]
      exact removeFirst_append _ _ post newer hnot hmine
    simp only [collided, hend, hgone]
  · intro hh
    have hend : collisionEnd e (e.collisions + 1) s = .removed := by
      simp [collisionEnd, hr, hb, hnewer, hnb, entryEdge, hh]
    have hplace : ∀ free, newerTakesPlace l newer (e.collisions + 1) free s.liu.tx =
        pre ++ { newer with collisions := survivorCount (e.collisions + 1) free } :: mid ++ post := by
      intro free
      rw [newerTakesPlace, htx, removeFirst_append _ _ post newer hnote hmine, List.append_assoc, List.cons_append,
        changeFirst_append _ _ pre (mid ++ post) e hsending (by simp [isWaiting_false_iff.2 he]), List.append_assoc,
        List.cons_append]
    simp only [collided, hend, removedQueue, removedDrawn, hb, hnewer, hr, hplace, reportRecord, Bool.false_or,
      Option.isNone_some, Bool.false_eq_true, if_false]

/-- Settles O11. -/
theorem supersededEntriesAreRemoved : Obligations.SupersededEntriesAreRemoved := by
  refine ⟨fun pre post e newer s htx hpre he hb hmem hn hnb => ?_,
    fun pre mid post e newer l g h s htx hw he hr hb hn hnb hother => ?_⟩
  · rw [exec_collision_found htx hpre he, collided_state htx hpre he hb hmem hn hnb, backoffAfter_eq]
    rfl
  · obtain ⟨hboth, hone⟩ := collided_claim htx hw he hr hb hn hnb hother
    have hex : exec .collision s = .next (collided e s) :=
      exec_collision_found (by rw [htx, List.append_assoc, List.cons_append])
        (fun x hx => hw x (List.mem_append_left _ hx)) he
    have hback : (collided e s).liu.backoff = backoffAfter (e.collisions + 1) s := by
      by_cases hh : h = s.liu.lastEdge.get l
      · rw [hboth hh]
        rfl
      · rw [hone hh]
        rfl
    refine ⟨collided e s, hex, hback.trans (backoffAfter_eq e s), fun hh => ?_, fun hh => ?_⟩
    · rw [hback, hboth hh]
      rfl
    · refine ⟨survivorCount (e.collisions + 1) (freeNumber s), ?_, ?_⟩
      · rcases survivorCount_eq (e.collisions + 1) (freeNumber s) with hc | hc
        · exact .inl hc
        · exact .inr ⟨hc, survivorCount_lt _ _⟩
      · rw [hback, hone hh, survivorDrawn_eq]
        rfl

/-! ### Frames heard (R12 to R16, R183) -/

theorem exec_frameReceived_taken {bytes : List Byte} {f : Frame} {s : State} (hg : goodFrame bytes = some f)
    (hm : s.mc.mode ≠ .loading) (hw : ∀ x ∈ s.liu.tx, x.sending = none) :
    exec (.frameReceived bytes) s = .next (takeFrame f s) := by
  have hsend := sendingEntry_eq_none hw
  refine congrArg Host.Outcome.next ((effect_frameReceived s bytes).trans ?_)
  rw [if_neg (by simp [hm, hsend]), hg]

/-- The head frame of a kind whose payload is read as nothing leaves the queue and changes nothing else. -/
theorem headOf_kind {f : Frame} {rest : List Frame} {s : State} {k : FrameKind} (hrx : s.liu.rx = f :: rest)
    (hk : f.kind = k) : headOf k s = some f := hk ▸ headOf_of_rx hrx

/-! ### Codes out of their ranges (R183) -/

theorem roleOfCode_none {n : Nat} (h : 7 ≤ n) : roleOfCode n = none := by
  unfold roleOfCode
  split
  case h_8 => rfl
  all_goals omega

theorem peerModeOfCode_none {n : Nat} (h : n = 0 ∨ 4 ≤ n) : peerModeOfCode n = none := by
  unfold peerModeOfCode
  split
  case h_4 => rfl
  all_goals omega

theorem severityOfCode_none {n : Nat} (h : 4 ≤ n) : severityOfCode n = none := by
  unfold severityOfCode
  split
  case h_5 => rfl
  all_goals omega

theorem causeOfCode_none {n : Nat} (h : n = 0 ∨ 4 ≤ n) : causeOfCode n = none := by
  unfold causeOfCode
  split
  case h_4 => rfl
  all_goals omega

theorem qualityOfCode_none {n : Nat} (h : 3 ≤ n) : qualityOfCode n = none := by
  unfold qualityOfCode
  split
  case h_4 => rfl
  all_goals omega

theorem lineOfCode_none {n : Nat} (h : 6 ≤ n) : lineOfCode n = none := by
  unfold lineOfCode
  split
  case h_7 => rfl
  all_goals omega

theorem readState_none {p : List Byte}
    (h : 7 ≤ at1 p 0 ∨ at1 p 2 = 0 ∨ 4 ≤ at1 p 2 ∨ 4 ≤ at1 p 3) : readState p = none := by
  rcases h with h | h | h | h
  · rw [readState, roleOfCode_none h]
  · rw [readState, peerModeOfCode_none (.inl h)]
    split <;> simp_all
  · rw [readState, peerModeOfCode_none (.inr h)]
    split <;> simp_all
  · rw [readState, severityOfCode_none h]
    split <;> simp_all

theorem readHello_discarded {p : List Byte} (h : 8 ≤ at1 p 0 ∨ at1 p 5 = 0 ∨ 4 ≤ at1 p 5) :
    readHello p = .discarded := by
  rcases h with h | h
  · rw [readHello, roleOfCode_none (by omega : 7 ≤ at1 p 0)]
    split
    · rfl
    · exact if_neg (by omega)
  · rw [readHello, causeOfCode_none h]

theorem readClaim_none {p : List Byte} (h : 6 ≤ at1 p 0 ∨ 2 ≤ at1 p 1) : readClaim p = none := by
  rcases h with h | h
  · rw [readClaim, lineOfCode_none h]
  · rw [readClaim]
    split
    · rfl
    · rw [if_neg (by omega), if_neg (by omega)]

theorem readTime_none {p : List Byte} (h : 3 ≤ at1 p 6) : readTime p = none := by
  rw [readTime, qualityOfCode_none h]

/-! ### A good frame heard -/

theorem passesFilter_awake {s : State} (f : Frame) (h : s.mc.mode ≠ .standbyDeep) : passesFilter f s = true :=
  if_neg h

theorem passesFilter_deep {s : State} (f : Frame) (h : s.mc.mode = .standbyDeep) :
    passesFilter f s = true ↔ f.kind = .wake ∧ wakeMatches f.payload s = true := by
  simp [passesFilter, h]

theorem takeFrame_queued {f : Frame} {s : State} (hn : f.sender ≠ s.mc.node.val) (hp : passesFilter f s = true) :
    takeFrame f s = queueFrame f s := by
  rw [takeFrame, if_neg hn, if_pos hp]

theorem takeFrame_filtered {f : Frame} {s : State} (hn : f.sender ≠ s.mc.node.val)
    (hp : ¬passesFilter f s = true) : takeFrame f s = s := by
  rw [takeFrame, if_neg hn, if_neg hp]

theorem takeFrame_clash {f : Frame} {s : State} (hn : f.sender = s.mc.node.val) :
    takeFrame f s = { s with
      liu := { s.liu with clash := some 64 }
      mc := { s.mc with faults := faultsRaised .numberClash s.dc.time s.mc.faults } } := by
  rw [takeFrame, if_pos hn, numberClash, raiseFault_eq (by decide)]
  rfl

theorem exec_frameReceived_ignored {bytes : List Byte} {s : State}
    (h : goodFrame bytes = none ∨ s.mc.mode = .loading ∨ ∃ x ∈ s.liu.tx, x.sending ≠ none) :
    exec (.frameReceived bytes) s = .next s := by
  refine congrArg Host.Outcome.next ((effect_frameReceived s bytes).trans ?_)
  split
  · rfl
  · next hact =>
    push Not at hact
    obtain ⟨hm, hs⟩ := hact
    rcases h with h | h | hsend
    · rw [h]
    · exact absurd h hm
    · exact absurd (sendingEntry_isSome hsend) hs

/-- Settles O12. -/
theorem framesHeardAreQueuedOrDiscarded : Obligations.FramesHeardAreQueuedOrDiscarded := by
  refine ⟨fun bytes s => ⟨fun f hg hn hm hw hd => ?_, fun f hg hn hm hw => ?_, exec_frameReceived_ignored⟩,
    fun bytes f s hg hn hm hw => ?_, fun s hc => ?_, fun f rest s hrx hk => ?_, fun f rest s hrx =>
      ⟨fun hk h => ?_, fun hk h => ?_, fun hk h => ?_, fun hk h => ?_, fun hk h => ?_⟩⟩
  · rw [exec_frameReceived_taken hg hm hw, takeFrame_queued hn]
    · rfl
    · by_cases hdeep : s.mc.mode = .standbyDeep
      · exact (passesFilter_deep f hdeep).2 (hd hdeep)
      · exact passesFilter_awake f hdeep
  · by_cases hsend : ∀ x ∈ s.liu.tx, x.sending = none
    · rw [exec_frameReceived_taken hg (by simp [hm]) hsend,
        takeFrame_filtered hn (fun hp => hw ((passesFilter_deep f hm).1 hp))]
    · push Not at hsend
      exact exec_frameReceived_ignored (.inr (.inr hsend))
  · rw [exec_frameReceived_taken hg hm hw, takeFrame_clash hn]
  · refine congrArg Host.Outcome.next ((effect_clashTimerExpiry s).trans ?_)
    rw [if_pos (by rw [hc]; rfl)]
    rfl
  · refine congrArg Host.Outcome.next ((effect_recordFrameDiscarded s).trans ?_)
    rw [headOf_kind hrx hk]
    exact takeHead_of_rx hrx
  · refine congrArg Host.Outcome.next ((effect_stateDelivered s).trans ?_)
    rw [headOf_kind hrx hk, ← takeHead_of_rx hrx]
    simp only [readState_none h]
  · refine congrArg Host.Outcome.next ((effect_helloDelivered s).trans ?_)
    rw [headOf_kind hrx hk, ← takeHead_of_rx hrx]
    simp only [readHello_discarded h]
  · refine congrArg Host.Outcome.next ((effect_claimDelivered s).trans ?_)
    rw [headOf_kind hrx hk, ← takeHead_of_rx hrx]
    simp only [readClaim_none h]
  · refine congrArg Host.Outcome.next ((effect_timeDelivered s).trans ?_)
    rw [headOf_kind hrx hk, ← takeHead_of_rx hrx]
    simp only [readTime_none h]
  · refine congrArg Host.Outcome.next ((effect_wakeDelivered s).trans ?_)
    rw [headOf_kind hrx hk, ← takeHead_of_rx hrx]
    simp [h]

end Sys2Proof.Machine
end

section
/-! SUPPORT. What no edge of a claim line touches, wherever it leads: with the frames of the Peer Table's operations it
is the frame of every event of a peer. -/

namespace Sys2Proof.Machine

/-- The last reported fuel, the reset cause and a waiting request stand. -/
def EdgeBlind (s t : State) : Prop :=
  t.fu.lastReported = s.fu.lastReported ∧ t.mc.cause = s.mc.cause ∧ t.mc.waitingRequest = s.mc.waitingRequest

@[simp] theorem askTake_lastReported (a : Action) (l : ClaimLine) (s : State) :
    (askTake a l s).fu.lastReported = s.fu.lastReported := by
  cases a <;> simp [askTake]

@[simp] theorem takeStep_lastReported (l : ClaimLine) (s : State) :
    (takeStep l s).fu.lastReported = s.fu.lastReported := by
  simp only [takeStep]
  (repeat' split) <;> simp

@[simp] theorem ladderRise_lastReported (l : ClaimLine) (s : State) :
    (ladderRise l s).fu.lastReported = s.fu.lastReported := by
  simp only [ladderRise]
  split <;> simp

theorem lineKept_edgeBlind (s : State) : LineKept (EdgeBlind s) where
  drawn _ h := h
  enqueue b t h := by simpa [EdgeBlind] using h
  ladderRise l t _ h := by simpa [EdgeBlind] using h
  ladderFall l t h := by simpa [EdgeBlind] using h
  setPending b l t h := by simpa [EdgeBlind] using h
  latch _ _ h := h
  activated t h := by simpa [EdgeBlind, activated] using h
  enterListenIn t h := by simpa [EdgeBlind, enterListenIn] using h
  setLine _ _ _ _ h := h

end Sys2Proof.Machine
end

section
/-! SUPPORT. The purchased fraction and the turbine's part as values of the Peer Table, and what a new entry that adds
nothing to them leaves (R31, R32, R133, R139). -/

namespace Sys2Proof.Machine

variable {α β : Type}

/-- A pair put under a key that was absent adds its own value to a filtered list, or nothing. -/
theorem filterMap_assocPut (g : Nat × α → Option β) (k : Nat) (v : α) {l : List (Nat × α)}
    (h : assocGet k l = none) (hg : g (k, v) = none) : (assocPut k v l).filterMap g = l.filterMap g := by
  induction l with
  | nil => simp [assocPut, hg]
  | cons y t ih =>
    rcases y with ⟨a, y⟩
    simp only [assocGet] at h
    simp only [assocPut]
    split at h
    · cases h
    · next hne =>
      split
      · simp [List.filterMap_cons, hg]
      · rw [if_neg (Ne.symm hne)]
        simp only [List.filterMap_cons, ih h]

theorem sumOf_assocPut (g : Nat × α → Nat) (k : Nat) (v : α) {l : List (Nat × α)}
    (h : assocGet k l = none) (hg : g (k, v) = 0) : sumOf ((assocPut k v l).map g) = sumOf (l.map g) := by
  induction l with
  | nil => simp [assocPut, hg, sumOf]
  | cons y t ih =>
    rcases y with ⟨a, y⟩
    simp only [assocGet] at h
    simp only [assocPut]
    split at h
    · cases h
    · next hne =>
      split
      · simp [sumOf, hg]
      · rw [if_neg (Ne.symm hne)]
        simp only [List.map_cons, sumOf, ih h]

/-! ### The values a report establishes -/

/-- The fraction and its two sums are those the table gives. -/
def FractionFits (s : State) : Prop :=
  s.mu.heatBackup = heatFromBackup s.peers ∧ s.mu.heatTotal = heatWhole s.peers ∧
    s.mu.fraction = purchasedFraction (heatFromBackup s.peers) (heatWhole s.peers)

/-- The turbine's part is the one the table gives. -/
def TurbineFits (s : State) : Prop :=
  s.turbine = turbineFrom (gapUsed s.peers) (capacitySum s.mc.config.electricCapacity s.peers)
    s.mc.config.electricCapacity s.mc.config.steamRate

theorem FractionFits.ofTable {s : State} (h : FractionFits s) : fractionOfTable s := by
  obtain ⟨hb, ht, hf⟩ := h
  rw [heatFromBackup_eq] at hb hf
  rw [heatWhole_eq] at ht hf
  exact ⟨hb, ht, hf⟩

theorem TurbineFits.gap {s : State} (h : TurbineFits s) : gapOfTable s := congrArg TurbineUnit.gapUsed h

theorem TurbineFits.ofTable {s : State} (h : TurbineFits s) : turbineOfTable s := by
  have hsum : s.turbine.capacitySum = _ := (congrArg TurbineUnit.capacitySum h).trans (capacitySum_eq s _)
  refine ⟨fun hk => ⟨fun hnone => h.gap.trans (gapUsed_none s.peers hnone), fun x hx gap hforce hextras hfresh => ?_⟩,
    hsum, ?_, ?_, ?_⟩
  · rw [h.gap, gapUsed, gapUsed_freshest s.peers hk x hx gap ⟨hforce, hextras⟩ hfresh]
  all_goals rw [h]; rfl

theorem fractionFits_recomputeFraction (s : State) : FractionFits (recomputeFraction s) := ⟨rfl, rfl, rfl⟩

theorem turbineFits_recomputeTurbine (s : State) : TurbineFits (recomputeTurbine s) := by
  rw [TurbineFits, recomputeTurbine_part]
  simp

variable {e : PeerEntry} {s : State}

theorem fractionFits_reportEntry (hrole : s.mc.config.role = some .townheat)
    (hkind : e.role = .boiler ∨ e.role = .producer) (hm : e.mains.m2 = true) : FractionFits (reportEntry e s) := by
  rw [reportEntry_townheat hrole, if_pos (reportsToMetering_iff.2 ⟨hkind, hm⟩)]
  exact fractionFits_recomputeFraction s

theorem turbineFits_reportEntry (hrole : s.mc.config.role = some .turbine)
    (hkind : e.role = .exportTie ∨ e.role = .turbine) : TurbineFits (reportEntry e s) := by
  rw [reportEntry_turbine hrole, if_pos (reportsToExport_iff.2 hkind)]
  exact turbineFits_recomputeTurbine s

/-! ### Entries that add nothing -/

/-- An entry that is not reported to the Metering Unit adds no heat, nor does one without records (R31). -/
theorem entryHeat_zero (h : reportsToMetering e = false ∨ e.records = []) : entryHeat e = (0, 0) := by
  simp only [entryHeat, reportsToMetering] at h ⊢
  split
  · next hc =>
    simp only [Bool.and_eq_true] at hc
    cases hr : e.role <;> simp_all
  · rfl

/-- An entry that is not reported to the Export Unit gives no gap and adds no capacity, nor does one without extras
(R32). -/
theorem tieGap_none (h : reportsToExport e = false ∨ e.extras = .none) : tieGap e = none := by
  simp only [tieGap, reportsToExport] at h ⊢
  split
  · simp_all
  · rfl

theorem entryCapacity_zero (h : reportsToExport e = false ∨ e.extras = .none) : entryCapacity e = 0 := by
  simp only [entryCapacity, reportsToExport] at h ⊢
  split
  · simp_all
  · rfl

theorem FractionFits.put (n : Nat) (h : FractionFits s) (habsent : assocGet n s.peers = none)
    (he : reportsToMetering e = false ∨ e.records = []) : FractionFits (s.setPeers (assocPut n e s.peers)) := by
  have hb : heatFromBackup (assocPut n e s.peers) = heatFromBackup s.peers :=
    sumOf_assocPut _ n e habsent (by simp [entryHeat_zero he])
  have ht : heatWhole (assocPut n e s.peers) = heatWhole s.peers :=
    sumOf_assocPut _ n e habsent (by simp [entryHeat_zero he])
  simpa [FractionFits, hb, ht] using h

theorem TurbineFits.put (n : Nat) (h : TurbineFits s) (habsent : assocGet n s.peers = none)
    (he : reportsToExport e = false ∨ e.extras = .none) : TurbineFits (s.setPeers (assocPut n e s.peers)) := by
  have hg : gapUsed (assocPut n e s.peers) = gapUsed s.peers := by
    rw [gapUsed, filterMap_assocPut _ n e habsent (tieGap_none he), gapUsed]
  have hc : ∀ k, capacitySum k (assocPut n e s.peers) = capacitySum k s.peers := fun k =>
    congrArg (k + ·) (sumOf_assocPut _ n e habsent (entryCapacity_zero he))
  simpa [TurbineFits, hg, hc] using h

/-! ### A removal and a written entry -/

theorem fractionFits_removeEntry (n : Nat) (hrole : s.mc.config.role = some .townheat)
    (hkind : e.role = .boiler ∨ e.role = .producer) (hm : e.mains.m2 = true) : FractionFits (removeEntry n e s) :=
  fractionFits_reportEntry (by simpa using hrole) hkind hm

theorem turbineFits_removeEntry (n : Nat) (hrole : s.mc.config.role = some .turbine)
    (hkind : e.role = .exportTie ∨ e.role = .turbine) : TurbineFits (removeEntry n e s) :=
  turbineFits_reportEntry (by simpa using hrole) hkind

theorem removeEntry_absent (n : Nat) : assocGet n (removeEntry n e s).peers = none := by simp

@[simp] theorem writeEntry_peers (n : Nat) (e : PeerEntry) (s : State) :
    (writeEntry n e s).peers = assocPut n e s.peers := by
  simp [writeEntry]

/-- A written entry's claim set is handed on whole (R79). -/
theorem mem_writeEntry_sources (n : Nat) (e : PeerEntry) (s : State) (l : ClaimLine) (m : Nat) :
    m ∈ ((writeEntry n e s).cu.get l).sources ↔
      if m = n then e.claims.get l = true else m ∈ (s.cu.get l).sources := by
  have hcu : (writeEntry n e s).cu = (applyClaims n e.claims (s.setPeers (assocPut n e s.peers))).cu := by
    simp [writeEntry]
  rw [hcu, mem_applyClaims]
  simp

theorem writeEntry_reportedFor (n : Nat) (e : PeerEntry) (s : State) : ReportedFor e s (writeEntry n e s) :=
  (reportEntry_reportedFor e _).of_same (by simp) (by simp) (by simp)

theorem turbineFits_writeEntry (n : Nat) (hrole : s.mc.config.role = some .turbine)
    (hkind : e.role = .exportTie ∨ e.role = .turbine) : TurbineFits (writeEntry n e s) :=
  turbineFits_reportEntry (by simpa using hrole) hkind

/-- A fraction that fitted a table without the number fits it with the entry written, reported or not. -/
theorem FractionFits.write (n : Nat) (h : FractionFits s) (habsent : assocGet n s.peers = none)
    (hrole : s.mc.config.role = some .townheat) : FractionFits (writeEntry n e s) := by
  rw [writeEntry, reportEntry_townheat (by simpa using hrole)]
  split
  · exact fractionFits_recomputeFraction _
  · next hno => simpa [FractionFits] using h.put n habsent (.inl (by simpa using hno))

theorem TurbineFits.write (n : Nat) (h : TurbineFits s) (habsent : assocGet n s.peers = none)
    (hrole : s.mc.config.role = some .turbine) : TurbineFits (writeEntry n e s) := by
  rw [writeEntry, reportEntry_turbine (by simpa using hrole)]
  split
  · exact turbineFits_recomputeTurbine _
  · next hno => simpa [TurbineFits] using h.put n habsent (.inl (by simpa using hno))

/-! ### The frames of the Peer Table's events -/

theorem applyClaims_blind (n : Nat) (set : Six Bool) (s : State) : EdgeBlind s (applyClaims n set s) :=
  (lineKept_edgeBlind s).applyClaims n set ⟨rfl, rfl, rfl⟩

theorem applyEdge_blind (n : Nat) (l : ClaimLine) (g : Edge) (s : State) : EdgeBlind s (applyEdge n l g s) :=
  (lineKept_edgeBlind s).applyEdge n l g ⟨rfl, rfl, rfl⟩

theorem PeerEventFrame.trans {s t u : State} (h : PeerEventFrame s t) (h' : PeerEventFrame t u) :
    PeerEventFrame s u where
  lastEdge := h'.lastEdge.trans h.lastEdge
  drops := h'.drops.trans h.drops
  clash := h'.clash.trans h.clash
  backoff := h'.backoff.trans h.backoff
  capability := h'.capability.trans h.capability
  measured := h'.measured.trans h.measured
  level := h'.level.trans h.level
  band := h'.band.trans h.band
  position := h'.position.trans h.position
  ownClaims l := (h'.ownClaims l).trans (h.ownClaims l)
  lastReported := h'.lastReported.trans h.lastReported
  tie := h'.tie.trans h.tie
  interval := h'.interval.trans h.interval
  remainders := ⟨h'.remainders.1.trans h.remainders.1, h'.remainders.2.trans h.remainders.2⟩
  demand := h'.demand.trans h.demand
  clock := h'.clock.trans h.clock
  store := h'.store.trans h.store
  link := ⟨h'.link.1.trans h.link.1, h'.link.2.trans h.link.2⟩
  node := h'.node.trans h.node
  config := h'.config.trans h.config
  faults := h'.faults.trans h.faults
  cause := h'.cause.trans h.cause
  warning := h'.warning.trans h.warning
  request := h'.request.trans h.request
  supplyLow := h'.supplyLow.trans h.supplyLow
  queue := h'.queue.trans h.queue

theorem setPeers_eventFrame (x : List (Nat × PeerEntry)) (s : State) : PeerEventFrame s (s.setPeers x) := by
  constructor <;> simp

theorem reportEntry_eventFrame (e : PeerEntry) (s : State) : PeerEventFrame s (reportEntry e s) := by
  constructor <;> simp

theorem applyClaims_eventFrame (n : Nat) (set : Six Bool) (s : State) : PeerEventFrame s (applyClaims n set s) := by
  obtain ⟨hfuel, hcause, hrequest⟩ := applyClaims_blind n set s
  constructor <;> simp [hfuel, hcause, hrequest]

theorem applyEdge_eventFrame (n : Nat) (l : ClaimLine) (g : Edge) (s : State) :
    PeerEventFrame s (applyEdge n l g s) := by
  obtain ⟨hfuel, hcause, hrequest⟩ := applyEdge_blind n l g s
  constructor <;> simp [hfuel, hcause, hrequest]

theorem writeEntry_eventFrame (n : Nat) (e : PeerEntry) (s : State) : PeerEventFrame s (writeEntry n e s) :=
  (setPeers_eventFrame _ s).trans ((applyClaims_eventFrame n _ _).trans (reportEntry_eventFrame e _))

end Sys2Proof.Machine
end

section
/-! The statements about the Peer Table: STATE (R22, R23), CLAIM (R28) and the thresholds of ageing (R29). -/

namespace Sys2Proof.Machine

variable {f : Frame} {rest : List Frame} {s t u : State}

/-! ### STATE -/

theorem recordMains_get (rs : List MainRecord) (m : Main) :
    (recordMains rs).get m = true ↔ ∃ r ∈ rs, recordMain r = m := by
  cases m <;> simp [recordMains, Three.get]

/-- What a STATE `x` from `n` writes: the entry `e`, and `u` the state before it is written, in which a PRESENT entry
of another role is removed (R23). -/
structure StateWrites (n : Nat) (x : StateRead) (s u : State) (e : PeerEntry) : Prop where
  values : e.role = x.role ∧ e.period = x.period ∧ e.mode = x.mode ∧ e.severity = x.severity ∧ e.claims = x.claims ∧
    e.records = heldRecords x ∧ e.extras = x.extras ∧ e.age = 0 ∧ e.stale = false
  same : ∀ old, assocGet n s.peers = some old → old.role = x.role →
    e.tag = old.tag ∧ e.cause = old.cause ∧ (x.carries = false → e.mains = old.mains)
  fresh : (∀ old, assocGet n s.peers = some old → old.role ≠ x.role) → e.tag = none ∧ e.cause = none
  mains : (x.carries = true ∨ ∀ old, assocGet n s.peers = some old → old.role ≠ x.role) →
    ∀ m, e.mains.get m = true ↔ ∃ r ∈ heldRecords x, recordMain r = m
  rx : u.liu.rx = s.liu.rx
  others : ∀ m, m ≠ n → assocGet m u.peers = assocGet m s.peers
  sources : ∀ l m, m ≠ n → (m ∈ (u.cu.get l).sources ↔ m ∈ (s.cu.get l).sources)
  replaced : ∀ old, assocGet n s.peers = some old → old.role ≠ x.role → u = removeEntry n old s
  meter : s.mc.config.role ≠ some .townheat → u.mu = s.mu
  turbine : s.mc.config.role ≠ some .turbine → u.turbine = s.turbine
  frame : PeerEventFrame s u

theorem takeState_writes (n : Nat) (x : StateRead) (s : State) :
    ∃ u e, takeState n x s = writeEntry n e u ∧ StateWrites n x s u e := by
  have hrefl : PeerEventFrame s s := setPeers_eventFrame s.peers s
  rw [takeState]
  rcases hold : assocGet n s.peers with _ | old
  · refine ⟨s, entryOfState x, rfl, ?_⟩
    exact
      { values := ⟨rfl, rfl, rfl, rfl, rfl, rfl, rfl, rfl, rfl⟩
        same := fun old h => by rw [hold] at h; cases h
        fresh := fun _ => ⟨rfl, rfl⟩
        mains := fun _ => recordMains_get _
        rx := rfl
        others := fun _ _ => rfl
        sources := fun _ _ _ => Iff.rfl
        replaced := fun old h => by rw [hold] at h; cases h
        meter := fun _ => rfl
        turbine := fun _ => rfl
        frame := hrefl }
  · by_cases hr : old.role = x.role
    · refine ⟨s, entryUpdated old x, if_pos hr, ?_⟩
      exact
        { values := ⟨hr, rfl, rfl, rfl, rfl, rfl, rfl, rfl, rfl⟩
          same := fun old' h _ => by
            cases hold.symm.trans h
            exact ⟨rfl, rfl, fun hc => by simp [entryUpdated, hc]⟩
          fresh := fun h => absurd hr (h old hold)
          mains := fun h m => by
            have hc : x.carries = true := h.resolve_right fun hne => hne old hold hr
            rw [← recordMains_get]
            simp [entryUpdated, hc]
          rx := rfl
          others := fun _ _ => rfl
          sources := fun _ _ _ => Iff.rfl
          replaced := fun old' h hne => by
            cases hold.symm.trans h
            exact absurd hr hne
          meter := fun _ => rfl
          turbine := fun _ => rfl
          frame := hrefl }
    · refine ⟨removeEntry n old s, entryOfState x, if_neg hr, ?_⟩
      exact
        { values := ⟨rfl, rfl, rfl, rfl, rfl, rfl, rfl, rfl, rfl⟩
          same := fun old' h hne => by
            cases hold.symm.trans h
            exact absurd hne hr
          fresh := fun _ => ⟨rfl, rfl⟩
          mains := fun _ => recordMains_get _
          rx := by simp
          others := fun m hm => by rw [removeEntry_peers, assocGet_erase_ne _ hm]
          sources := fun l m hm => by rw [mem_removeEntry_sources]; exact and_iff_right hm
          replaced := fun old' h _ => by
            cases hold.symm.trans h
            rfl
          meter := fun h => (removeEntry_reportedFor n old s).noFraction (.inl h)
          turbine := fun h => (removeEntry_reportedFor n old s).noTurbine (.inl h)
          frame := removeEntry_eventFrame n old s }

theorem exec_stateDelivered_of_head {x : StateRead} (hrx : s.liu.rx = f :: rest) (hk : f.kind = .state)
    (hx : readState f.payload = some x) : exec .stateDelivered s = .next (takeState f.sender x (takeHead s)) := by
  refine congrArg Host.Outcome.next ((effect_stateDelivered s).trans ?_)
  rw [headOf_kind hrx hk]
  simp only [hx]

/-- Settles O14. -/
theorem stateUpdatesTheEntry : Obligations.StateUpdatesTheEntry := by
  intro f rest x s hrx hk hread records
  obtain ⟨u, e, htake, hw⟩ := takeState_writes f.sender x (takeHead s)
  have hrole : e.role = x.role := hw.values.1
  have hclaims : e.claims = x.claims := hw.values.2.2.2.2.1
  have hconfig : u.mc.config = s.mc.config := hw.frame.config
  have hreport := writeEntry_reportedFor f.sender e u
  refine ⟨writeEntry f.sender e u, e, by rw [exec_stateDelivered_of_head hrx hk hread, htake], ?rx, ?entry, hw.values,
    hw.same, hw.fresh, hw.mains, ?others, ?claims, ?sources, ?fraction, ?turbine, ?replaced, ?meter, ?part, ?frame⟩
  case rx =>
    rw [(writeEntry_frame u f.sender e).1, hw.rx, takeHead_of_rx hrx]
  case entry => simp
  case others =>
    intro n hn
    rw [writeEntry_peers, assocGet_put_ne _ _ hn, hw.others n hn]
    rfl
  case claims => intro l; rw [mem_writeEntry_sources, if_pos rfl, hclaims]
  case sources => intro l n hn; rw [mem_writeEntry_sources, if_neg hn, hw.sources l n hn]; rfl
  case fraction =>
    intro htown hkind hm
    exact hreport.fraction (by rw [hconfig, htown]) (by rwa [hrole]) hm
  case turbine =>
    intro hturb hkind
    have hfits : TurbineFits (writeEntry f.sender e u) :=
      turbineFits_writeEntry _ (by rw [hconfig, hturb]) (by rwa [hrole])
    exact ⟨hfits.ofTable, hfits.gap⟩
  case replaced =>
    intro old hold hne
    have hu := hw.replaced old hold hne
    have habsent : assocGet f.sender u.peers = none := by rw [hu]; exact removeEntry_absent _
    refine ⟨fun htown hkind hm => ?_, fun hturb hkind => ?_⟩
    · have hfits : FractionFits u := by rw [hu]; exact fractionFits_removeEntry _ htown hkind hm
      exact (hfits.write _ habsent (by rw [hconfig, htown])).ofTable
    · have hfits : TurbineFits u := by rw [hu]; exact turbineFits_removeEntry _ hturb hkind
      have hafter := hfits.write (e := e) _ habsent (by rw [hconfig, hturb])
      exact ⟨hafter.ofTable, hafter.gap⟩
  case meter => intro h; exact (hreport.noFraction (.inl (by rwa [hconfig]))).trans (hw.meter h)
  case part => intro h; exact (hreport.noTurbine (.inl (by rwa [hconfig]))).trans (hw.turbine h)
  case frame => exact (hw.frame.trans (writeEntry_eventFrame _ e u)).of_takeHead

/-! ### HELLO -/

theorem removeEntry_rx (n : Nat) (e : PeerEntry) (s : State) : (removeEntry n e s).liu.rx = s.liu.rx := by simp

/-- The case in which a HELLO replaces a PRESENT entry whole (R26). -/
theorem helloReplaces_iff {e : PeerEntry} {h : HelloRead} :
    helloReplaces e h = true ↔ e.role ≠ h.role ∨ ∃ g, e.tag = some g ∧ g ≠ h.tag := by
  cases ht : e.tag <;> simp [helloReplaces, ht]

/-- The case in which it updates it in place. -/
theorem not_helloReplaces_iff {e : PeerEntry} {h : HelloRead} :
    ¬helloReplaces e h = true ↔ e.role = h.role ∧ (e.tag = none ∨ e.tag = some h.tag) := by
  cases ht : e.tag <;> simp [helloReplaces, ht]

theorem announcesRestart_iff {e : PeerEntry} {h : HelloRead} :
    announcesRestart e h = true ↔ ∃ c, e.cause = some c ∧ c ≠ h.cause := by
  cases hc : e.cause <;> simp [announcesRestart, hc]

theorem takeHello_created {n : Nat} {h : HelloRead} (habsent : assocGet n s.peers = none) :
    takeHello n h s = createFromHello n h s := by
  rw [takeHello, habsent]

theorem takeHello_replaced {n : Nat} {h : HelloRead} {e : PeerEntry} (he : assocGet n s.peers = some e)
    (hr : helloReplaces e h = true) : takeHello n h s = createFromHello n h (removeEntry n e s) := by
  rw [takeHello, he]
  exact if_pos hr

/-- A restart announcement empties the sender's claim set as an authoritative one (R26, R79). -/
def greeted (n : Nat) (e : PeerEntry) (h : HelloRead) (s : State) : State :=
  if announcesRestart e h then applyClaims n noClaims (s.setPeers (assocPut n (entryGreeted e h) s.peers))
  else s.setPeers (assocPut n (entryGreeted e h) s.peers)

theorem takeHello_greeted {n : Nat} {h : HelloRead} {e : PeerEntry} (he : assocGet n s.peers = some e)
    (hr : ¬helloReplaces e h = true) : takeHello n h s = greeted n e h s := by
  rw [takeHello, he]
  exact if_neg hr

@[simp] theorem greeted_peers (n : Nat) (e : PeerEntry) (h : HelloRead) (s : State) :
    (greeted n e h s).peers = assocPut n (entryGreeted e h) s.peers := by
  simp only [greeted]
  split <;> simp

theorem greeted_eventFrame (n : Nat) (e : PeerEntry) (h : HelloRead) (s : State) :
    PeerEventFrame s (greeted n e h s) := by
  simp only [greeted]
  split
  · exact (setPeers_eventFrame _ s).trans (applyClaims_eventFrame n _ _)
  · exact setPeers_eventFrame _ s

theorem greeted_parts (n : Nat) (e : PeerEntry) (h : HelloRead) (s : State) :
    (greeted n e h s).liu.rx = s.liu.rx ∧ (greeted n e h s).mu = s.mu ∧ (greeted n e h s).turbine = s.turbine := by
  simp only [greeted]
  split <;> simp

/-- A HELLO taken in place clears the sender's bits at a restart and changes no source set otherwise. -/
theorem mem_greeted_sources (n : Nat) (e : PeerEntry) (h : HelloRead) (s : State) (l : ClaimLine) (m : Nat) :
    m ∈ ((greeted n e h s).cu.get l).sources ↔
      ¬(m = n ∧ announcesRestart e h = true) ∧ m ∈ (s.cu.get l).sources := by
  simp only [greeted]
  split
  · next hc =>
    rw [mem_applyClaims]
    by_cases hm : m = n <;> simp [hm, hc, noClaims]
  · next hc => simp [hc]

theorem entryGreeted_kept {e : PeerEntry} {h : HelloRead} (hc : ¬announcesRestart e h = true) :
    (entryGreeted e h).claims = e.claims ∧ (entryGreeted e h).mode = e.mode := by
  simp [entryGreeted, hc]

theorem entryGreeted_restarted {e : PeerEntry} {h : HelloRead} (hc : announcesRestart e h = true) :
    (entryGreeted e h).claims = noClaims ∧ (entryGreeted e h).mode = .listenIn := by
  simp [entryGreeted, hc]

/-- What a greeting sets and what it keeps, at a restart or not. -/
theorem entryGreeted_values (e : PeerEntry) (h : HelloRead) :
    (entryGreeted e h).role = e.role ∧ (entryGreeted e h).mains = h.mains ∧ (entryGreeted e h).period = h.period ∧
      (entryGreeted e h).tag = some h.tag ∧ (entryGreeted e h).cause = some h.cause ∧
      (entryGreeted e h).records = e.records ∧ (entryGreeted e h).extras = e.extras ∧
      (entryGreeted e h).age = e.age ∧ (entryGreeted e h).stale = e.stale ∧
      (entryGreeted e h).severity = e.severity := by
  simp only [entryGreeted]
  split <;> simp

/-- A removal is reported, and an entry that a HELLO then makes adds nothing to what was reported (R24, R32). -/
theorem replacedByHello_reported (n : Nat) (e : PeerEntry) (h : HelloRead) (s : State) :
    ReportedFor e s (createFromHello n h (removeEntry n e s)) where
  fraction hrole hkind hm :=
    ((fractionFits_removeEntry n hrole hkind hm).put n (removeEntry_absent n) (.inr rfl)).ofTable
  turbine hrole hkind := ((turbineFits_removeEntry n hrole hkind).put n (removeEntry_absent n) (.inr rfl)).ofTable
  noFraction := (removeEntry_reportedFor n e s).noFraction
  noTurbine := (removeEntry_reportedFor n e s).noTurbine

theorem replacedByHello_gap (n : Nat) {e : PeerEntry} (h : HelloRead) {s : State}
    (hrole : s.mc.config.role = some .turbine) (hkind : e.role = .exportTie ∨ e.role = .turbine) :
    gapOfTable (createFromHello n h (removeEntry n e s)) :=
  ((turbineFits_removeEntry n hrole hkind).put n (removeEntry_absent n) (.inr rfl)).gap

theorem exec_helloDelivered_of_head {h : HelloRead} (hrx : s.liu.rx = f :: rest) (hk : f.kind = .hello)
    (hx : readHello f.payload = .configured h) :
    exec .helloDelivered s = .next (takeHello f.sender h (takeHead s)) := by
  refine congrArg Host.Outcome.next ((effect_helloDelivered s).trans ?_)
  rw [headOf_kind hrx hk]
  simp only [hx]

theorem readHello_unconfigured {p : List Byte} (h : at1 p 0 = 7) (hlo : 1 ≤ at1 p 5) (hhi : at1 p 5 ≤ 3) :
    readHello p = .unconfigured := by
  obtain ⟨c, hc⟩ : ∃ c, causeOfCode (at1 p 5) = some c := by
    have hcases : at1 p 5 = 1 ∨ at1 p 5 = 2 ∨ at1 p 5 = 3 := by omega
    rcases hcases with hc | hc | hc <;> exact ⟨_, by rw [hc]; rfl⟩
  rw [readHello, hc]
  exact if_pos h

/-- Settles O15. -/
theorem helloUpdatesOrRemovesTheEntry : Obligations.HelloUpdatesOrRemovesTheEntry := by
  refine ⟨fun f rest h s hrx hk hread => ?_, fun f rest s hrx hk hrole hlo hhi => ?_⟩
  · have hpeers : (takeHead s).peers = s.peers := rfl
    have hhead : (takeHead s).liu.rx = rest := by rw [takeHead_of_rx hrx]
    rw [exec_helloDelivered_of_head hrx hk hread]
    rcases hold : assocGet f.sender s.peers with _ | old
    · rw [takeHello_created (hpeers ▸ hold)]
      refine ⟨_, entryOfHello h, rfl, hhead, by simp [createFromHello], ⟨rfl, rfl, rfl, rfl, rfl⟩,
        fun _ hx => absurd hx.symm (Option.some_ne_none _),
        fun _ => ⟨rfl, rfl, rfl, rfl, rfl, rfl, fun l => Six.get_all false l, fun hne => absurd rfl hne⟩,
        fun _ hx => absurd hx.symm (Option.some_ne_none _),
        fun _ => ⟨rfl, rfl⟩, fun n hn => by simp [createFromHello, assocGet_put_ne _ _ hn], fun _ _ _ => Iff.rfl,
        (setPeers_eventFrame _ _).of_takeHead⟩
    · by_cases hr : helloReplaces old h = true
      · rw [takeHello_replaced (hpeers ▸ hold) hr]
        have hcase := helloReplaces_iff.1 hr
        have hrem := mem_removeEntry_sources f.sender old (takeHead s)
        refine ⟨_, entryOfHello h, rfl, by simp [hhead], by simp [createFromHello], ⟨rfl, rfl, rfl, rfl, rfl⟩, ?_,
          fun _ => ⟨rfl, rfl, rfl, rfl, rfl, rfl, fun l => Six.get_all false l, fun _ l hmem =>
            ((hrem l _).1 hmem).1 rfl⟩, ?_, ?_, ?_, fun l n hn => ?_, ?_⟩
        · rintro _ ⟨⟩ hrole htag
          exact absurd hr (not_helloReplaces_iff.2 ⟨hrole, htag⟩)
        · rintro _ ⟨⟩ -
          exact ⟨(replacedByHello_reported _ old h (takeHead s)).of_same rfl rfl rfl,
            fun hturb hkind => replacedByHello_gap _ h hturb hkind⟩
        · intro hsame
          exact absurd hr (not_helloReplaces_iff.2 (hsame old rfl))
        · intro n hn
          simp [createFromHello, assocGet_put_ne _ _ hn, assocGet_erase_ne _ hn]
        · exact (hrem l n).trans (and_iff_right hn)
        · exact ((removeEntry_eventFrame _ old _).trans (setPeers_eventFrame _ _)).of_takeHead
      · rw [takeHello_greeted (hpeers ▸ hold) hr]
        obtain ⟨hrole, htag⟩ := not_helloReplaces_iff.1 hr
        obtain ⟨hrx', hmu, hturbine⟩ := greeted_parts f.sender old h (takeHead s)
        obtain ⟨erole, emains, eperiod, etag, ecause, erecords, eextras, eage, estale, eseverity⟩ :=
          entryGreeted_values old h
        have hmem := mem_greeted_sources f.sender old h (takeHead s)
        refine ⟨_, entryGreeted old h, rfl, hrx'.trans hhead, by simp, ⟨erole.trans hrole, emains, eperiod, etag,
          ecause⟩,
          ?_, ?_, ?_, fun _ => ⟨hmu, hturbine⟩, fun n hn => by simp [assocGet_put_ne _ _ hn], fun l n hn => ?_,
          (greeted_eventFrame _ old h _).of_takeHead⟩
        · rintro _ ⟨⟩ - -
          refine ⟨erecords, eextras, eage, estale, eseverity, fun hc => ?_, fun c hc hne => ?_⟩
          · have hno : ¬announcesRestart old h = true := by
              rw [announcesRestart_iff]
              rintro ⟨c, hc', hne⟩
              rcases hc with hc | hc
              · rw [hc] at hc'
                cases hc'
              · exact hne (Option.some.inj (hc'.symm.trans hc))
            obtain ⟨hclaims, hmode⟩ := entryGreeted_kept hno
            exact ⟨hclaims, hmode, fun l => (hmem l _).trans (and_iff_right fun hx => hno hx.2)⟩
          · have hyes : announcesRestart old h = true := announcesRestart_iff.2 ⟨c, hc, hne⟩
            obtain ⟨hclaims, hmode⟩ := entryGreeted_restarted hyes
            exact ⟨hmode, fun l => ⟨by rw [hclaims]; exact Six.get_all false l, fun hx =>
              ((hmem l _).1 hx).1 ⟨rfl, hyes⟩⟩⟩
        · rintro (hnone | ⟨_, ⟨⟩, hcase⟩)
          · cases hnone
          · exact absurd (helloReplaces_iff.2 hcase) hr
        · rintro _ ⟨⟩ hcase
          exact absurd (helloReplaces_iff.2 hcase) hr
        · exact (hmem l n).trans (and_iff_right fun hx => hn hx.1)
  · have hpeers : (takeHead s).peers = s.peers := rfl
    have hhead : (takeHead s).liu.rx = rest := by rw [takeHead_of_rx hrx]
    have hex : exec .helloDelivered s = .next (removeIfPresent f.sender (takeHead s)) := by
      refine congrArg Host.Outcome.next ((effect_helloDelivered s).trans ?_)
      rw [headOf_kind hrx hk]
      simp only [readHello_unconfigured hrole hlo hhi]
    rw [hex]
    rcases hold : assocGet f.sender s.peers with _ | old
    · rw [removeIfPresent_absent (hpeers ▸ hold)]
      exact ⟨_, rfl, hhead, hold, fun hne => absurd rfl hne, fun _ hx => absurd hx.symm (Option.some_ne_none _),
        fun _ => ⟨rfl, rfl⟩, fun _ _ => rfl,
        fun _ _ _ => Iff.rfl, (setPeers_eventFrame s.peers _).of_takeHead⟩
    · rw [removeIfPresent_present (hpeers ▸ hold)]
      have hrem := mem_removeEntry_sources f.sender old (takeHead s)
      refine ⟨_, rfl, by simp [hhead], by simp, fun _ l hx => ((hrem l _).1 hx).1 rfl, ?_,
        fun hx => absurd hx (Option.some_ne_none _),
        fun n hn => by simp [assocGet_erase_ne _ hn], fun l n hn => (hrem l n).trans (and_iff_right hn),
        (removeEntry_eventFrame _ old _).of_takeHead⟩
      rintro _ ⟨⟩
      exact ⟨(removeEntry_reportedFor f.sender old (takeHead s)).of_same rfl rfl rfl, fun hturb hkind =>
        (turbineFits_removeEntry (s := takeHead s) f.sender hturb hkind).gap⟩

/-! ### CLAIM -/

/-- Settles O16. -/
theorem claimSetsTheSendersBit : Obligations.ClaimSetsTheSendersBit := by
  intro f rest l g s hrx hk hread
  have hex : exec .claimDelivered s = .next (takeClaim f.sender l g (takeHead s)) := by
    refine congrArg Host.Outcome.next ((effect_claimDelivered s).trans ?_)
    rw [headOf_kind hrx hk]
    simp only [hread]
  have hpeers : (takeHead s).peers = s.peers := rfl
  rw [hex]
  constructor
  · intro habsent
    rw [takeClaim, hpeers, habsent, takeHead_of_rx hrx]
  · intro e hpresent
    have hmark : edgeClaims g = (g == .assert) := by cases g <;> rfl
    rw [takeClaim, hpeers, hpresent]
    refine ⟨_, rfl, ?rx, ?entry, ?others, ?claim, ?sources, ?frame⟩
    case rx => simp [takeHead_of_rx hrx]
    case entry => simp [hmark]
    case others => intro n hn; simp [assocGet_put_ne _ _ hn]
    case claim => cases g <;> simp [applyEdge, mem_setBit, mem_clearBit]
    case sources =>
      intro k n hn
      have hcu : (takeHead s).cu = s.cu := rfl
      have hother : ¬(k = l ∧ n = f.sender) := by tauto
      cases g with
      | assert =>
        simp only [applyEdge, mem_setBit, setPeers_cu, hcu]
        exact or_iff_right hother
      | release =>
        simp only [applyEdge, mem_clearBit, setPeers_cu, hcu]
        exact and_iff_right hother
    case frame => exact ((setPeers_eventFrame _ _).trans (applyEdge_eventFrame _ l g _)).of_takeHead

/-! ### Ageing -/

/-- Settles O18. -/
theorem ageingThresholds : Obligations.AgeingThresholds := by
  intro node e s he
  have hstale : ∀ t, effect (.entryGoesStale node) s = t → exec (.entryGoesStale node) s = .next t :=
    fun t h => congrArg Host.Outcome.next h
  have habsent : ∀ t, effect (.entryGoesAbsent node) s = t → exec (.entryGoesAbsent node) s = .next t :=
    fun t h => congrArg Host.Outcome.next h
  rw [effect_entryGoesStale, he] at hstale
  rw [effect_entryGoesAbsent, he] at habsent
  refine ⟨fun hf hage => ?_, fun hage => ?_, fun hage => ?_, fun hage => ?_⟩
  · refine ⟨_, hstale _ (if_pos (by simp [hf, hage])), by simp, fun n hn => by simp [assocGet_put_ne _ _ hn],
      by simp, by simp, by simp, ?_, fun hturb hkind => ?_, ?_⟩
    · exact (reportEntry_reportedFor e _).of_same (by simp) (by simp) (by simp)
    · exact (turbineFits_reportEntry (by simpa using hturb) hkind).gap
    · exact (setPeers_eventFrame _ s).trans (reportEntry_eventFrame e _)
  · exact hstale _ (if_neg (by simp; omega))
  · refine ⟨_, habsent _ (if_pos hage), by simp, fun l => by simp [mem_removeEntry_sources],
      fun n hn => by simp [assocGet_erase_ne _ hn], fun l n hn => ?_, by simp, removeEntry_reportedFor _ e s,
      fun hturb hkind => (turbineFits_removeEntry _ hturb hkind).gap, removeEntry_eventFrame _ e s⟩
    rw [mem_removeEntry_sources]
    exact and_iff_right hn
  · exact habsent _ (if_neg (by omega))

end Sys2Proof.Machine
end

section
/-! The statements about the Field Port's link, the timers, the Day Clock's adoption and the tie's messages (R120, R121,
R123, R141, R153 to R155, R157, R170, R171). -/

namespace Sys2Proof.Machine

variable {s : State}

/-! ### Messages -/

theorem linkRestored_eq (s : State) : linkRestored s = { s with
    fp := { s.fp with link := .up, linkTimer := some 10 }
    mc := { s.mc with faults := s.mc.faults.filter fun x => x.kind != .fieldLinkLost } } := rfl

/-- A message of a kind the role uses is taken by its owner (R170). -/
theorem fieldMessage_taken {k : FieldKind} {take : State → State} (hm : s.mc.mode ≠ .loading)
    (hu : roleUses s.mc.config k = true) : fieldMessage k take s = take (linkRestored s) := by
  rw [fieldMessage, if_neg hm, if_pos hu]

/-- A command of the tie's own that names what it may name is taken by its owner. -/
theorem exec_field_taken {c : Instr} {k : FieldKind} {take : State → State} (hw : c.wellFormed = true)
    (heff : effect c s = if c.wellFormed then fieldMessage k take s else s) (hm : s.mc.mode ≠ .loading)
    (hu : roleUses s.mc.config k = true) : exec c s = .next (take (linkRestored s)) := by
  rw [exec_of_wellFormed hw, heff, if_pos hw, fieldMessage_taken hm hu]

theorem exec_timeSet {day sec : Nat} (hd : day < 65536) (hm : s.mc.mode ≠ .loading)
    (hr : s.mc.config.role = some .exportTie) :
    exec (.timeSet day sec) s = .next (takeTimeSet ⟨day, sec⟩ (linkRestored s)) :=
  exec_field_taken (by simpa [Instr.wellFormed, dayOk] using hd) (effect_timeSet s day sec) hm (by simp [roleUses, hr])

theorem exec_schedule {day : Nat} {entries : List Nat} (hd : day < 65536) (hl : entries.length = 48)
    (hm : s.mc.mode ≠ .loading) (hr : s.mc.config.role = some .exportTie) :
    exec (.schedule day entries) s = .next (takeSchedule day entries (linkRestored s)) :=
  exec_field_taken (by simp [Instr.wellFormed, dayOk, scheduleOk, hd, hl]) (effect_schedule s day entries) hm
    (by simp [roleUses, hr])

theorem exec_exportEnergy {st : SampleStatus} {kwh : Int} (hlo : -32768 ≤ kwh) (hhi : kwh ≤ 32767)
    (hm : s.mc.mode ≠ .loading) (hr : s.mc.config.role = some .exportTie) :
    exec (.exportEnergy st kwh) s = .next (takeEnergy st kwh (linkRestored s)) :=
  exec_field_taken (by simp [Instr.wellFormed, energyOk, hlo, hhi]) (effect_exportEnergy s st kwh) hm
    (by simp [roleUses, hr])

/-! ### Adoption (R153 to R155, R157) -/

theorem pendingFor_eq (f now : TimePos) : pendingFor f now =
    if posNumber f ≤ posNumber now + 1 ∧ posNumber now ≤ posNumber f + 1 then none else some f := by
  rw [pendingFor]
  exact if_congr (by omega) rfl rfl

theorem adopt_free {f : TimePos} (hh : s.dc.hold = none) : adopt f s = { s with
    dc := { s.dc with
      quality := .synced, syncTimer := some 600
      pendingStep :=
        if posNumber f ≤ posNumber s.dc.time + 1 ∧ posNumber s.dc.time ≤ posNumber f + 1 then none else some f }
    mc := { s.mc with faults := s.mc.faults.filter fun x => x.kind != .timeFree } } := by
  simp only [adopt, adopted, hh, pendingFor_eq]
  rfl

theorem adopt_held {f : TimePos} {h : Hold} (hh : s.dc.hold = some h) : adopt f s = { s with
    dc := { s.dc with
      quality := .synced, syncTimer := some 600, pendingStep := some f
      hold := if posNumber f ≤ posNumber h.point + 1 then some h else none }
    mc := { s.mc with faults := s.mc.faults.filter fun x => x.kind != .timeFree } } := by
  simp only [adopt, adopted, adoptedInHold, hh]
  split <;> rfl

theorem takeTimeSet_adopts {f : TimePos} (h : f.sec ≤ 86399) : takeTimeSet f s = adopt f s :=
  if_pos (by simpa [timeOk] using h)

theorem takeTimeSet_ignored {f : TimePos} (h : 86399 < f.sec) : takeTimeSet f s = s :=
  if_neg (by simpa [timeOk] using h)

theorem exec_timeDelivered_of_head {f : Frame} {rest : List Frame} {p : TimePos} {q : Quality}
    (hrx : s.liu.rx = f :: rest) (hk : f.kind = .time) (hread : readTime f.payload = some (p, q)) :
    exec .timeDelivered s = .next (takeTime p q (takeHead s)) := by
  refine congrArg Host.Outcome.next ((effect_timeDelivered s).trans ?_)
  rw [headOf_kind hrx hk]
  simp only [hread]

theorem takeTime_adopts {p : TimePos} (hr : s.mc.config.role ≠ some .exportTie) (hp : p.sec ≤ 86399) :
    takeTime p .synced s = adopt p s :=
  if_pos ⟨hr, rfl, by simpa [timeOk] using hp⟩

theorem takeTime_discarded {p : TimePos} {q : Quality}
    (h : s.mc.config.role = some .exportTie ∨ q ≠ .synced ∨ 86399 < p.sec) : takeTime p q s = s := by
  refine if_neg ?_
  rintro ⟨hr, hq, hp⟩
  have hsec : p.sec ≤ 86399 := by simpa [timeOk] using hp
  rcases h with h | h | h
  · exact hr h
  · exact h hq
  · omega

/-- Settles O21. -/
theorem adoptionSyncsTheClock : Obligations.AdoptionSyncsTheClock := by
  refine ⟨⟨fun day sec s hd hsec hr hm hh => ?_, fun f rest p s hrx hk hread hsec hr hh => ?_⟩,
    ⟨fun day sec s hd hsec hr hm => ?_, fun f rest p q s hrx hk hread hno => ?_⟩,
    fun day sec h s hd hsec hr hm hh => ?_, fun f rest p h s hrx hk hread hsec hr hh => ?_⟩
  · rw [exec_timeSet hd hm hr, takeTimeSet_adopts hsec, adopt_free (s := linkRestored s) hh, linkRestored_eq]
    simp [List.filter_filter, Bool.and_comm]
  · rw [exec_timeDelivered_of_head hrx hk hread, takeTime_adopts (s := takeHead s) hr hsec,
      adopt_free (s := takeHead s) hh,
      takeHead_of_rx hrx]
  · rw [exec_timeSet hd hm hr, takeTimeSet_ignored hsec, linkRestored_eq]
  · rw [exec_timeDelivered_of_head hrx hk hread, takeTime_discarded (s := takeHead s) hno, takeHead_of_rx hrx]
  · rw [exec_timeSet hd hm hr, takeTimeSet_adopts hsec, adopt_held (s := linkRestored s) hh, linkRestored_eq]
    simp [List.filter_filter, Bool.and_comm]
  · rw [exec_timeDelivered_of_head hrx hk hread, takeTime_adopts (s := takeHead s) hr hsec,
      adopt_held (s := takeHead s) hh,
      takeHead_of_rx hrx]

/-! ### The schedule slots (R120, R121) -/

/-- What a written slot leaves of the others, and what it holds. -/
theorem slotOfDay_writeSlot (d : DaySchedule) (t : TieUnit)
    (hroom : slotOfDay d.day t ≠ none ∨ t.slotA = none ∨ t.slotB = none) (day : Nat) :
    slotOfDay day (writeSlot d t) = if day = d.day then some d else slotOfDay day t := by
  rcases ha : t.slotA with _ | a <;> rcases hb : t.slotB with _ | b <;>
    simp only [slotOfDay, writeSlot, ha, hb] at hroom ⊢ <;> grind [Option.filter]

theorem takeSchedule_wrongDay {day : Nat} {entries : List Nat} (h : day ≠ s.dc.time.day)
    (h' : day ≠ nextDay s.dc.time.day) :
    takeSchedule day entries s = s.setTie { s.tie with lastSchedule := .refusedWrongDay } := by
  simp only [takeSchedule]
  rw [if_neg h, if_neg h']

theorem takeSchedule_tomorrow {day : Nat} {entries : List Nat} (h : day ≠ s.dc.time.day)
    (h' : day = nextDay s.dc.time.day) : takeSchedule day entries s = s.setTie
      { writeSlot ⟨day, entries.map fun e => some (holdPower e)⟩ s.tie with lastSchedule := .accepted } := by
  simp only [takeSchedule]
  rw [if_neg h, if_pos h']

/-- Today's schedule as it is written. -/
def todaysSchedule (day : Nat) (entries : List Nat) (s : State) : DaySchedule :=
  ⟨day, revisedEntries (periodOf s.dc.time) (slotOfDay day s.tie) entries⟩

theorem takeSchedule_today {day : Nat} {entries : List Nat} (h : day = s.dc.time.day) :
    takeSchedule day entries s = s.setTie
      { writeSlot (todaysSchedule day entries s) s.tie with lastSchedule := .partly (s.dc.time.sec / 1800 + 1) } := by
  simp only [takeSchedule, todaysSchedule]
  rw [if_pos h, h]
  rfl

/-- A written slot changes the two slots alone. -/
theorem writeSlot_eq (d : DaySchedule) (t : TieUnit) :
    writeSlot d t = { t with slotA := (writeSlot d t).slotA, slotB := (writeSlot d t).slotB } := by
  simp only [writeSlot]
  (repeat' split) <;> rfl

theorem revisedEntries_length (k : Nat) (old : Option DaySchedule) (new : List Nat) :
    (revisedEntries k old new).length = 48 := by
  simp [revisedEntries]

theorem revisedEntries_kept {k i : Nat} (old : Option DaySchedule) (new : List Nat) (hi : i < 48) (hk : i ≤ k) :
    (revisedEntries k old new)[i]? = some (old.bind fun x => (x.entries[i]?).join) := by
  cases old <;> simp [revisedEntries, hi, hk, slotEntry]

theorem revisedEntries_new {k i e : Nat} (old : Option DaySchedule) {new : List Nat} (hl : new.length = 48)
    (hk : k < i) (he : new[i]? = some e) : (revisedEntries k old new)[i]? = some (some (Nat.min e 20000)) := by
  have hi : i < 48 := hl ▸ (List.getElem?_eq_some_iff.1 he).1
  simp [revisedEntries, hi, Nat.not_le.2 hk, he, holdPower]

/-- Settles O42. -/
theorem scheduleAndEnergyAreTaken : Obligations.ScheduleAndEnergyAreTaken := by
  refine ⟨fun day entries s hd hl hr hm hroom => ?_, fun kwh p s hlo hhi hr hm hp hmin hmax => ?_,
    fun st kwh s hlo hhi hr hm hno => ?_⟩
  · intro old k
    have hslot := fun (d : DaySchedule) (hday : d.day = day) =>
      slotOfDay_writeSlot d s.tie (by rw [hday]; exact hroom)
    rw [exec_schedule hd hl hm hr]
    by_cases htoday : day = s.dc.time.day
    · rw [takeSchedule_today (s := linkRestored s) htoday]
      refine ⟨_, rfl, ?_, fun d hne => ?_, fun h => absurd htoday h, fun h => absurd htoday h, fun _ => ⟨rfl,
        todaysSchedule day entries s, ?_, rfl, revisedEntries_length _ _ _,
        fun i hi hk => revisedEntries_kept _ _ hi hk, fun i e hk he =>
          revisedEntries_new _ hl hk he⟩⟩
      · rw [writeSlot_eq]
        rfl
      · exact (hslot (todaysSchedule day entries s) rfl d).trans (if_neg hne)
      · exact (hslot (todaysSchedule day entries s) rfl day).trans (if_pos rfl)
    · by_cases htomorrow : day = (s.dc.time.day + 1) % 65536
      · rw [takeSchedule_tomorrow (s := linkRestored s) htoday htomorrow]
        refine ⟨_, rfl, ?_, fun d hne => ?_, fun _ h => absurd htomorrow h, fun _ _ => ⟨rfl, ?_⟩,
          fun h => absurd h htoday⟩
        · rw [writeSlot_eq]
          rfl
        · exact (hslot ⟨day, entries.map fun e => some (holdPower e)⟩ rfl d).trans (if_neg hne)
        · exact (hslot ⟨day, entries.map fun e => some (holdPower e)⟩ rfl day).trans (if_pos rfl)
      · rw [takeSchedule_wrongDay (s := linkRestored s) htoday htomorrow]
        exact ⟨_, rfl, rfl, fun _ _ => rfl, fun _ _ => ⟨rfl, rfl, rfl⟩, fun _ h => absurd h htomorrow,
          fun h => absurd h htoday⟩
  · rw [exec_exportEnergy hlo hhi hm hr]
    have hin : -2147483648 ≤ p.energyE + kwh ∧ p.energyE + kwh ≤ 2147483647 := ⟨hmin, hmax⟩
    have htie : (linkRestored s).tie.openPeriod = some p := hp
    simp only [takeEnergy, energySample, htie, energyDrawn, energySum, if_pos hin]
    rfl
  · rw [exec_exportEnergy hlo hhi hm hr]
    rcases hno with rfl | hnone
    · rfl
    · have htie : (linkRestored s).tie.openPeriod = none := hnone
      cases st with
      | bad => rfl
      | ok =>
        simp only [takeEnergy, energySample, htie]
        rfl

end Sys2Proof.Machine
end

section
/-! The statement about the link and the timers (R52, R141, R153, R154, R170, R171, R174). -/

namespace Sys2Proof.Machine

variable {s : State}

theorem expired_iff {t : Timer} : expired t = true ↔ t = some 0 := by
  simp [expired]

/-- A fault is on the list after it is raised, room there or not needed (R180). -/
theorem mem_faultsRaised (k : FaultKind) (now : TimePos) {faults : List FaultEntry} (h : faults.length < 8) :
    ∃ e ∈ faultsRaised k now faults, e.kind = k := by
  by_cases hp : faultPresent k faults = true
  · obtain ⟨e, he, hk⟩ := List.any_eq_true.1 hp
    exact ⟨e, by rwa [faultsRaised, if_pos hp], by simpa using hk⟩
  · exact ⟨⟨k, now⟩, by simp [faultsRaised, hp, h], rfl⟩

theorem enterFallback_wants {m : Main} (h : wantMain s.mc.config = some m) : enterFallback s = { s with
    se := { s.se with fallback := true, setpoint := s.mc.config.fallbackSetpoint }
    fp := { s.fp with out := s.fp.out ++ [.setpoint m s.mc.config.fallbackSetpoint] } } := by
  rw [enterFallback, h]
  rfl

theorem enterFallback_wantsNothing (h : wantMain s.mc.config = none) :
    enterFallback s = { s with se := { s.se with fallback := true } } := by
  rw [enterFallback, h]
  rfl

/-- The station with a fault on its list, before FAILED enters fallback (R180). -/
def faultListed (k : FaultKind) (s : State) : State :=
  { s with mc := { s.mc with faults := faultsRaised k s.dc.time s.mc.faults } }

/-- A fault that brings no FAILED about, or in no mode that minds, is listed and that is all. -/
theorem raiseFault_listed {k : FaultKind} (h : s.mc.mode ≠ .active ∨ severity s = .failed) :
    raiseFault k s = faultListed k s := by
  simp only [raiseFault]
  exact if_neg fun hc => h.elim (fun hm => hm hc.1) fun hs => hc.2.1 hs

/-- A fault that makes the severity FAILED in ACTIVE enters fallback (R52). -/
theorem raiseFault_falls {k : FaultKind} (hm : s.mc.mode = .active) (hs : severity s ≠ .failed)
    (ht : severity (faultListed k s) = .failed) : raiseFault k s = enterFallback (faultListed k s) := by
  simp only [raiseFault]
  exact if_pos ⟨hm, hs, ht⟩

/-! ### FIELD LINK LOST -/

theorem faultListed_linkLost_failed (h : s.mc.faults.length < 8) :
    severity (faultListed .fieldLinkLost s) = .failed := by
  obtain ⟨e, he, hk⟩ := mem_faultsRaised .fieldLinkLost s.dc.time h
  exact (listSeverity_failed_iff _).2 ⟨e, he, by rw [hk]; rfl⟩

/-- The link as it is LOST, before the fault is raised (R171). -/
def linkLost (s : State) : State := { s with fp := { s.fp with link := .lost } }

theorem exec_fieldLinkLost (ht : s.fp.linkTimer = some 0) (hl : s.fp.link = .up) :
    exec .fieldLinkLost s = .next (raiseFault .fieldLinkLost (linkLost s)) := by
  refine congrArg Host.Outcome.next ((effect_fieldLinkLost s).trans ?_)
  exact if_pos (by rw [ht, hl]; rfl)

/-! ### Timers -/

theorem exec_syncTimerExpiry (ht : s.dc.syncTimer = some 0) :
    exec .syncTimerExpiry s = .next { s with
      dc := { s.dc with quality := .free, syncTimer := none }
      mc := { s.mc with faults :=
        if s.mc.config.role ∈ [some Role.townheat, some Role.exportTie]
        then faultsRaised .timeFree s.dc.time s.mc.faults else s.mc.faults } } := by
  have hkeeps : keepsTimeFree s.mc.config = true ↔
      s.mc.config.role ∈ [some Role.townheat, some Role.exportTie] := by
    simp [keepsTimeFree]
  refine congrArg Host.Outcome.next ((effect_syncTimerExpiry s).trans ?_)
  rw [if_pos (expired_iff.2 ht)]
  by_cases hk : s.mc.config.role ∈ [some Role.townheat, some Role.exportTie]
  · rw [if_pos hk]
    exact (if_pos (hkeeps.2 hk)).trans (raiseFault_eq (by decide) _)
  · rw [if_neg hk]
    exact if_neg fun h => hk (hkeeps.1 h)

/-- A request with room, in a mode that takes it, is placed last (R7). -/
theorem enqueue_last {b : TxBody} (hk : bodyKind b ≠ .state ∧ bodyKind b ≠ .claim)
    (ha : acceptsRequest s.mc.mode b = true) (hl : s.liu.tx.length < 4) :
    enqueue b s = { s with liu := { s.liu with tx := s.liu.tx ++ [⟨b, 0, none, false⟩] } } := by
  rw [enqueue_places ha (fun h => absurd h hk.1)
    (fun l g h => absurd (show bodyKind b = .claim by rw [h]; rfl) hk.2), placeEntry, if_pos hl]
  rfl

/-- Settles O46. -/
theorem linkAndTimersAct : Obligations.LinkAndTimersAct := by
  refine ⟨fun s => rfl, fun k s hm => ?_, fun s ht hl hroom => ?_, fun s ht => ?_, fun s ht hm hroom => ?_,
    fun s ht => exec_syncTimerExpiry ht, fun s ht hload hdeep hroom => ?_, fun s hd => ?_⟩
  · refine congrArg Host.Outcome.next ((effect_fieldMessageDiscarded s (.unused k)).trans ?_)
    exact (if_neg hm).trans (linkRestored_eq s)
  · refine ⟨_, exec_fieldLinkLost ht hl, ?_⟩
    have hfailed := faultListed_linkLost_failed (s := linkLost s) hroom
    by_cases hf : s.mc.mode = .active ∧ severity s ≠ .failed
    · obtain ⟨hm, hs⟩ := hf
      rw [raiseFault_falls (s := linkLost s) hm hs hfailed]
      rcases hw : wantMain s.mc.config with _ | m
      · rw [enterFallback_wantsNothing (s := faultListed .fieldLinkLost (linkLost s)) hw]
        exact ⟨hfailed, rfl, rfl, ht, fun h => absurd h (by simp [hm, hs]), fun _ _ => ⟨nofun, fun _ => ⟨rfl, rfl⟩⟩,
          rfl⟩
      · rw [enterFallback_wants (s := faultListed .fieldLinkLost (linkLost s)) hw]
        refine ⟨hfailed, rfl, rfl, ht, fun h => absurd h (by simp [hm, hs]), fun _ _ => ⟨fun m' h => ?_, nofun⟩, rfl⟩
        cases h
        exact ⟨rfl, rfl⟩
    · have hno : s.mc.mode ≠ .active ∨ severity s = .failed := by tauto
      rw [raiseFault_listed (s := linkLost s) hno]
      exact ⟨hfailed, rfl, rfl, ht, fun _ => ⟨rfl, rfl⟩, fun hm hs => absurd ⟨hm, hs⟩ hf, rfl⟩
  · refine congrArg Host.Outcome.next ((effect_nodeStatusTimer s).trans ?_)
    exact if_pos (expired_iff.2 ht)
  · refine ⟨freeNumber s % 8, freeNumber s / 8 % 256, freeNumber s / 2048 % 65536,
      congrArg Host.Outcome.next ((effect_listenOnlyHelloTimer s).trans ?_)⟩
    rw [if_pos (expired_iff.2 ht)]
    have haccepts : ∀ b, acceptsRequest s.mc.mode b = true := fun b => acceptsRequest_open (by simp [hm]) b
    exact enqueue_last ⟨by simp [unconfiguredHello, bodyKind], by simp [unconfiguredHello, bodyKind]⟩
      (haccepts _) hroom
  · refine congrArg Host.Outcome.next ((effect_timeTimerExpiry s).trans ?_)
    rw [if_pos (expired_iff.2 ht)]
    have haccepts : acceptsRequest s.mc.mode (.time (broadcastTime s.dc) s.dc.quality) = true := by
      cases hm : s.mc.mode <;> simp_all [acceptsRequest, isHello, isState]
    exact enqueue_last ⟨nofun, nofun⟩ haccepts hroom
  · refine congrArg Host.Outcome.next ((effect_holdMinuteCheck s).trans ?_)
    rw [if_pos hd]
    rfl

end Sys2Proof.Machine
end

section
/-! The statements about the Record Store (R160 to R167): hand-over, the end of a commit, the read service. -/

namespace Sys2Proof.Machine

variable {s : State}

/-! ### Hand-over (R160, R162, R163) -/

@[simp] theorem isPowerFail_withSeq (n : Nat) (r : StoreRecord) : isPowerFail (withSeq n r) = isPowerFail r := by
  cases r <;> rfl

@[simp] theorem isPowerFail_withGap (r : StoreRecord) : isPowerFail (withGap r) = isPowerFail r := by
  cases r <;> rfl

@[simp] theorem isPowerFail_handedRecord (r : StoreRecord) (rs : RecordUnit) :
    isPowerFail (handedRecord r rs) = isPowerFail r := by
  simp only [handedRecord]
  split <;> simp

theorem holdFull_iff {rs : RecordUnit} : holdFull rs = true ↔ 4 ≤ rs.holdQueue.length := by
  simp [holdFull]

theorem lostBefore_iff {n : Nat} {rs : RecordUnit} :
    lostBefore n rs = true ↔ ∃ k ∈ [1, 2, 3, 4], k < n ∧ n - k ∉ retainedNumbers rs := by
  simp [lostBefore]

/-- A record is flagged GAP where it is (R162, R163). -/
theorem handedRecord_gap {r : StoreRecord} {rs : RecordUnit} (h : 4 ≤ rs.holdQueue.length ∨
    rs.firstHandOver = true ∧ ∃ k ∈ [1, 2, 3, 4], k < rs.nextSeq ∧ rs.nextSeq - k ∉ retainedNumbers rs) :
    handedRecord r rs = withGap (withSeq rs.nextSeq r) := by
  rw [← holdFull_iff, ← lostBefore_iff, ← Bool.and_eq_true_iff, ← Bool.or_eq_true_iff] at h
  exact if_pos h

theorem handedRecord_plain {r : StoreRecord} {rs : RecordUnit} (hfull : ¬4 ≤ rs.holdQueue.length)
    (hlost : ¬(rs.firstHandOver = true ∧
      ∃ k ∈ [1, 2, 3, 4], k < rs.nextSeq ∧ rs.nextSeq - k ∉ retainedNumbers rs)) :
    handedRecord r rs = withSeq rs.nextSeq r := by
  rw [← holdFull_iff] at hfull
  rw [← lostBefore_iff, ← Bool.and_eq_true_iff] at hlost
  exact if_neg fun h => (Bool.or_eq_true_iff.1 h).elim hfull hlost

theorem placeWaiting_tail {r : StoreRecord} (h : isPowerFail r = false) (w : List StoreRecord) :
    placeWaiting r w = w ++ [r] := by
  simp [placeWaiting, h]

/-- A POWER FAIL record stands behind the POWER FAIL records that lead the waiting ones, ahead of the others (R162). -/
theorem placeWaiting_ahead {r : StoreRecord} (h : isPowerFail r = true) {a b : List StoreRecord}
    (ha : ∀ y ∈ a, isPowerFail y = true) (hb : ∀ y, b.head? = some y → isPowerFail y = false) :
    placeWaiting r (a ++ b) = a ++ r :: b := by
  have hstop : b.takeWhile isPowerFail = [] ∧ b.dropWhile isPowerFail = b := by
    cases b with
    | nil => exact ⟨rfl, rfl⟩
    | cons y t => simp [hb y rfl]
  rw [placeWaiting, if_pos h, List.takeWhile_append_of_pos ha, List.dropWhile_append_of_pos ha, hstop.1, hstop.2,
    List.append_nil]

/-- The waiting record of least number is dropped where its numbers tell which it is (R163). -/
theorem dropOldestWaiting_append {pre post : List StoreRecord} {old : StoreRecord}
    (hpre : ∀ y ∈ pre, recordSeq old < recordSeq y) (hpost : ∀ y ∈ post, recordSeq old ≤ recordSeq y) :
    dropOldestWaiting (pre ++ old :: post) = pre ++ post := by
  have hleast : leastOf ((pre ++ old :: post).map recordSeq) = some (recordSeq old) := by
    refine leastOf_eq (List.mem_map.2 ⟨old, by simp, rfl⟩) fun n hn => ?_
    obtain ⟨y, hy, rfl⟩ := List.mem_map.1 hn
    rcases List.mem_append.1 hy with hy | hy
    · exact Nat.le_of_lt (hpre y hy)
    · rcases List.mem_cons.1 hy with rfl | hy
      · exact Nat.le_refl _
      · exact hpost y hy
  rw [dropOldestWaiting, hleast]
  refine removeFirst_append _ pre post old (fun y hy => ?_) (by simp)
  simpa using (hpre y hy).ne'

/-- The hold queue cut where the commit in flight ends and the waiting records begin. -/
theorem hold_parts {rs : RecordUnit} {inFlight waiting : List StoreRecord} (hq : rs.holdQueue = inFlight ++ waiting)
    (hl : inFlight.length = if rs.inFlight then 1 else 0) : flightPart rs = inFlight ∧ waitingPart rs = waiting := by
  simp only [flightPart, waitingPart, hq]
  cases hf : rs.inFlight
  · have hnil : inFlight = [] := List.length_eq_zero_iff.1 (by simpa [hf] using hl)
    simp [hnil]
  · have hone : inFlight.length = 1 := by simpa [hf] using hl
    simp [← hone]

/-- The store with a record numbered and placed, before a commit is started. -/
def queued (r : StoreRecord) (rs : RecordUnit) : RecordUnit :=
  { rs with holdQueue := queueAfter r rs, nextSeq := rs.nextSeq + 1, firstHandOver := false }

/-- With numbers left a hand-over draws nothing. -/
theorem handOver_eq {r : StoreRecord} (h : s.rs.nextSeq + 1 < 2 ^ 32) :
    handOver r s = s.setRs (startIfIdle (queued r s.rs)) := by
  simp only [handOver, if_pos h]
  rfl

theorem startIfIdle_busy {rs : RecordUnit} (h : rs.inFlight = true) : startIfIdle rs = rs := if_pos h

theorem startIfIdle_starts {rs : RecordUnit} {y : StoreRecord} (h : rs.inFlight = false)
    (hq : rs.holdQueue.head? = some y) : startIfIdle rs =
      { rs with inFlight := true, slots := assocErase ((recordSeq y + 1023) % 1024) rs.slots } := by
  obtain ⟨t, ht⟩ := List.head?_eq_some_iff.1 hq
  rw [startIfIdle, if_neg (by simp [h]), startCommit, ht]
  simp [slotOf]

/-- What starting a commit where none is in flight leaves of the store. -/
theorem startIfIdle_parts (rs : RecordUnit) : (startIfIdle rs).nextSeq = rs.nextSeq ∧
    (startIfIdle rs).firstHandOver = rs.firstHandOver ∧ (startIfIdle rs).newest = rs.newest ∧
    (startIfIdle rs).slotA = rs.slotA ∧ (startIfIdle rs).slotB = rs.slotB := by
  simp only [startIfIdle, startCommit]
  (repeat' split) <;> exact ⟨rfl, rfl, rfl, rfl, rfl⟩

theorem startIfIdle_inFlight {rs : RecordUnit} (h : rs.holdQueue ≠ []) : (startIfIdle rs).inFlight = true := by
  cases hf : rs.inFlight
  · obtain ⟨y, t, hy⟩ := List.exists_cons_of_ne_nil h
    rw [startIfIdle_starts hf (by rw [hy]; rfl)]
  · rwa [startIfIdle_busy hf]

theorem queueAfter_ne_nil (r : StoreRecord) (rs : RecordUnit) : queueAfter r rs ≠ [] := by
  intro h
  have hplace := (List.append_eq_nil_iff.1 h).2
  have hlen := length_placeWaiting (handedRecord r rs)
    (if holdFull rs then dropOldestWaiting (waitingPart rs) else waitingPart rs)
  rw [hplace] at hlen
  simp at hlen

/-- The queue after a hand-over, its waiting records as the drop of a full queue leaves them. -/
theorem queueAfter_eq {r : StoreRecord} {rs : RecordUnit} {inFlight waiting kept : List StoreRecord}
    (hq : rs.holdQueue = inFlight ++ waiting) (hl : inFlight.length = if rs.inFlight then 1 else 0)
    (hroom : ¬4 ≤ rs.holdQueue.length → kept = waiting)
    (hfull : 4 ≤ rs.holdQueue.length → ∃ pre old post, waiting = pre ++ old :: post ∧ kept = pre ++ post ∧
      (∀ y ∈ pre, recordSeq old < recordSeq y) ∧ ∀ y ∈ post, recordSeq old ≤ recordSeq y) :
    queueAfter r rs = inFlight ++ placeWaiting (handedRecord r rs) kept := by
  obtain ⟨hflight, hwaiting⟩ := hold_parts hq hl
  have hkept : (if holdFull rs then dropOldestWaiting (waitingPart rs) else waitingPart rs) = kept := by
    split
    · next h =>
      obtain ⟨pre, old, post, hw, hk, hpre, hpost⟩ := hfull (holdFull_iff.1 h)
      rw [hwaiting, hw, hk, dropOldestWaiting_append hpre hpost]
    · next h => rw [hwaiting, hroom fun hc => h (holdFull_iff.2 hc)]
  simp only [queueAfter, hflight, hkept]

/-- Settles O43. -/
theorem handOversQueueAndDrop : Obligations.HandOversQueueAndDrop := by
  refine ⟨fun r s hnext => ?_, fun p s hm hlow hr hp => ?_⟩
  · intro n full lost
    have hh := handOver_eq (r := r) hnext
    obtain ⟨hseq, hfirst, hnewest, ha, hb⟩ := startIfIdle_parts (queued r s.rs)
    refine ⟨handedRecord r s.rs, _, rfl, ?_, ?_, ?_, ?_, ?_, ?_, ?_, handedRecord_gap, handedRecord_plain, fun hf => ?_,
      fun hf y hy => ?_, fun inFlight waiting kept hq hl hroom hfull => ⟨fun hpf => ?_,
      fun a b hpf hk hafail hbfail => ?_⟩⟩
    · rw [hh]
      rfl
    · rw [hh]
      exact hseq
    · rw [hh]
      exact hfirst
    · rw [hh]
      exact startIfIdle_inFlight (queueAfter_ne_nil r s.rs)
    · rw [hh]
      exact hnewest
    · rw [hh]
      exact ha
    · rw [hh]
      exact hb
    · rw [hh, startIfIdle_busy (rs := queued r s.rs) hf]
      rfl
    · rw [handOver_holdQueue] at hy
      rw [hh, startIfIdle_starts (rs := queued r s.rs) hf hy]
      rfl
    · rw [handOver_holdQueue, queueAfter_eq hq hl hroom hfull,
        placeWaiting_tail ((isPowerFail_handedRecord r s.rs).trans hpf),
        List.append_assoc]
    · rw [handOver_holdQueue, queueAfter_eq hq hl hroom hfull, hk,
        placeWaiting_ahead ((isPowerFail_handedRecord r s.rs).trans hpf) hafail hbfail, List.append_assoc]
  · refine ⟨_, settleRecord (lowerPeriod { p with flags := { p.flags with powerFail := true } } s)
      (spanLength 1800 p.start s.dc.time) s.mc.config.tolerance,
      congrArg Host.Outcome.next (effect_supplyLowAsserted s), rfl, ?_⟩
    rw [if_neg (by simp [hlow])]
    have htell : (tellAsserted (s.setMc { s.mc with supplyLow := true })).rs =
        (tiePowerFail (s.setMc { s.mc with supplyLow := true })).rs := by
      simp [tellAsserted, hr]
    refine Eq.trans (congrArg State.rs (if_neg hm)) (htell.trans ?_)
    simp only [tiePowerFail, setMc_tie, hp]
    rfl

/-! ### The end of a commit (R164 to R167, R178) -/

/-- What the slots look at is the slots before the commit's end and the store after it. -/
theorem LookedAgain.of_slots {rs rs' after : RecordUnit} (h : LookedAgain rs after)
    (hs : ∀ i, getSlot i rs' = getSlot i rs) : LookedAgain rs' after where
  free i hi := h.free i (hs i ▸ hi)
  others i sl hi := h.others i sl (hs i ▸ hi)
  first i sl hi := h.first i sl (hs i ▸ hi)
  onward i sl m hi := h.onward i sl m (hs i ▸ hi)

theorem getSlot_slotsLookAgain (i : ReadSlotId) (rs : RecordUnit) :
    getSlot i (slotsLookAgain rs) = lookAgain rs (getSlot i rs) := by
  cases i <;> rfl

/-- With no commit in flight no answer waits. -/
theorem firstAnswer_settles {kept : Bool} {q : Nat} {sl : ReadSlot} {rs : RecordUnit} (h : rs.inFlight = false) :
    (firstAnswer kept q sl rs).waiting = false := by
  simp only [firstAnswer, h, Bool.false_and]
  (repeat' split) <;> simp_all

theorem nextAnswer_settles {m : Nat} {sl y : ReadSlot} {rs : RecordUnit} (h : rs.inFlight = false)
    (hy : nextAnswer m sl rs = some y) : y.waiting = false := by
  cases hl : leastServable (m + 1) rs with
  | none => simp [nextAnswer, hl] at hy
  | some n =>
    simp only [nextAnswer, hl, h, Bool.and_false, Bool.false_and, Bool.false_eq_true, if_false] at hy
    cases hy
    rfl

theorem slotsLookAgain_settled {rs : RecordUnit} (h : rs.inFlight = false) {i : ReadSlotId} {sl : ReadSlot}
    (hi : getSlot i (slotsLookAgain rs) = some sl) : sl.waiting = false := by
  rw [getSlot_slotsLookAgain] at hi
  unfold lookAgain at hi
  split at hi
  · cases hi
  · split at hi
    · split at hi
      · cases hi
        exact firstAnswer_settles h
      · exact nextAnswer_settles h hi
    · next hw =>
      cases hi
      simpa using hw

/-- The store once its head is written whole: the next head's commit starts (R164). -/
theorem slotsLookAgain_committed (r : StoreRecord) (rest : List StoreRecord) (rs : RecordUnit) :
    slotsLookAgain (committed r rest rs) = { rs with
      slots := (match rest with
        | [] => assocPut (slotOf (recordSeq r)) r rs.slots
        | n :: _ => assocErase (slotOf (recordSeq n)) (assocPut (slotOf (recordSeq r)) r rs.slots))
      newest := Nat.max rs.newest (recordSeq r), holdQueue := rest, inFlight := !rest.isEmpty
      slotA := (slotsLookAgain (committed r rest rs)).slotA
      slotB := (slotsLookAgain (committed r rest rs)).slotB } := by
  cases rest <;> rfl

theorem getSlot_committed (i : ReadSlotId) (r : StoreRecord) (rest : List StoreRecord) (rs : RecordUnit) :
    getSlot i rs = getSlot i (committed r rest rs) := by
  cases i <;> cases rest <;> rfl

theorem exec_commitEnd {result : WriteResult} {r : StoreRecord} {rest : List StoreRecord}
    (hf : s.rs.inFlight = true) (hq : s.rs.holdQueue = r :: rest) :
    exec (.commitEnd result) s = .next (commitEnds result r rest s) := by
  refine congrArg Host.Outcome.next ((effect_commitEnd s result).trans ?_)
  rw [hf, hq]

/-- The store with its head written whole, the slots having looked again and STORE FAULT cleared, before the hold
queue reports itself empty. -/
def wholeWritten (r : StoreRecord) (rest : List StoreRecord) (s : State) : State :=
  { s with
    rs := slotsLookAgain (committed r rest s.rs)
    mc := { s.mc with faults := s.mc.faults.filter fun x => x.kind != .storeFault } }

theorem commitEnds_whole (r : StoreRecord) (rest : List StoreRecord) (s : State) :
    commitEnds .whole r rest s = reportEmpty (wholeWritten r rest s) := rfl

/-- An emptied queue answers a RESET WARNING that waits, and else nothing is sent (R164, R178). -/
theorem reportEmpty_eq (s : State) : reportEmpty s =
    if s.rs.holdQueue = [] ∧ s.mc.mode = .leaving ∧ s.mc.readyTimer ≠ none then { s with
      fp := { s.fp with out := s.fp.out ++ [.resetReady] }
      mc := { s.mc with readyTimer := none, returnTimer := some 10 } }
    else s := by
  simp only [reportEmpty]
  exact if_congr (by simp [Option.isSome_iff_ne_none, and_assoc]) rfl rfl

/-- Settles O44. -/
theorem commitEndKeepsOrRetries : Obligations.CommitEndKeepsOrRetries := by
  intro r rest s hf hq ready
  have hstore := slotsLookAgain_committed r rest s.rs
  have hlooked : LookedAgain s.rs (slotsLookAgain (committed r rest s.rs)) :=
    (slotsLookAgain_looked _).of_slots fun i => getSlot_committed i r rest s.rs
  have hsettled : rest = [] → ∀ i sl, getSlot i (slotsLookAgain (committed r rest s.rs)) = some sl →
      sl.waiting = false := by
    rintro rfl i sl
    exact slotsLookAgain_settled rfl
  have hqueue : (wholeWritten r rest s).rs.holdQueue = rest := committed_holdQueue r rest s.rs
  refine ⟨⟨_, exec_commitEnd hf hq, ?_⟩, _, exec_commitEnd hf hq, ?_⟩
  · rw [commitEnds_whole, reportEmpty_eq]
    by_cases hready : rest = [] ∧ s.mc.mode = .leaving ∧ s.mc.readyTimer ≠ none
    · rw [if_pos (by rw [hqueue]; exact hready)]
      exact ⟨hstore, fun _ => ⟨rfl, rfl⟩, fun h => absurd hready h, hlooked, hsettled, rfl⟩
    · rw [if_neg (by rw [hqueue]; exact hready)]
      exact ⟨hstore, fun h => absurd h hready, fun _ => ⟨rfl, rfl⟩, hlooked, hsettled, rfl⟩
  · have hraise : commitEnds .error r rest s = { s with
        rs := slotsLookAgain { s.rs with inFlight := false }
        mc := { s.mc with faults := faultsRaised .storeFault s.dc.time s.mc.faults } } :=
      raiseFault_eq (by decide) _
    rw [hraise]
    exact ⟨rfl, (slotsLookAgain_looked _).of_slots fun i => by cases i <;> rfl,
      fun i sl => slotsLookAgain_settled rfl, rfl⟩

end Sys2Proof.Machine
end

section
/-! The statement about the read service (R166, R167, R169). -/

namespace Sys2Proof.Machine

variable {s : State}

/-! ### Room for a RECORD -/

theorem isRecord_eq (b : TxBody) : isRecord b = (bodyKind b == .record) := by
  rw [Bool.eq_iff_iff, isRecord_iff, beq_iff_eq]

theorem acceptsRequest_record {m : Mode} {st : RecordStatus} {k : Nat} {body : List Byte} {i : Option ReadSlotId} :
    acceptsRequest m (.record st k body i) = true ↔ m ≠ .loading ∧ m ≠ .standbyDeep := by
  cases m <;> simp [acceptsRequest, isHello, isState]

theorem recordRoom_iff : recordRoom s = true ↔ s.liu.tx.length < 4 ∧
    (s.liu.tx.filter fun e => bodyKind e.body == .record).length < 2 ∧ s.mc.mode ≠ .loading ∧
      s.mc.mode ≠ .standbyDeep := by
  simp [recordRoom, acceptsRequest_record, isRecord_eq, and_assoc]

/-- Where three places and no RECORD are there is room for two RECORDs. -/
theorem roomForOne_false (hl : s.liu.tx.length < 3) (hr : ∀ e ∈ s.liu.tx, bodyKind e.body ≠ .record) :
    roomForOne s = false := by
  have hnone : (s.liu.tx.filter fun e => isRecord e.body) = [] := by
    rw [List.filter_eq_nil_iff]
    exact fun e he => by simpa [isRecord_eq] using hr e he
  simp [roomForOne, hnone, hl.ne]

theorem recordRoom_open (hl : s.liu.tx.length < 3) (hr : ∀ e ∈ s.liu.tx, bodyKind e.body ≠ .record)
    (hload : s.mc.mode ≠ .loading) (hdeep : s.mc.mode ≠ .standbyDeep) : recordRoom s = true := by
  have hnone : (s.liu.tx.filter fun e => bodyKind e.body == .record) = [] := by
    rw [List.filter_eq_nil_iff]
    exact fun e he => by simpa using hr e he
  exact recordRoom_iff.2 ⟨by omega, by simp [hnone], hload, hdeep⟩

/-- A RECORD with room is placed last. -/
theorem enqueue_record {st : RecordStatus} {k : Nat} {body : List Byte} {i : Option ReadSlotId}
    (hload : s.mc.mode ≠ .loading) (hdeep : s.mc.mode ≠ .standbyDeep) (hl : s.liu.tx.length < 4) :
    enqueue (.record st k body i) s =
      { s with liu := { s.liu with tx := s.liu.tx ++ [⟨.record st k body i, 0, none, false⟩] } } :=
  enqueue_last ⟨nofun, nofun⟩ (acceptsRequest_record.2 ⟨hload, hdeep⟩) hl

/-! ### A READ taken -/

/-- The station keeps records of a kind code (R166). -/
def keepsKind (c : StationConfig) (kind : Nat) : Bool :=
  match keptKind c, recordKindOfCode kind with
  | some k, some k' => k == k'
  | _, _ => false

theorem recordKindOfCode_iff {n : Nat} {k : RecordKind} : recordKindOfCode n = some k ↔ recordKindCode k = n := by
  constructor
  · intro h
    unfold recordKindOfCode at h
    split at h <;> cases h <;> rfl
  · rintro rfl
    cases k <;> rfl

theorem keepsKind_iff {c : StationConfig} {kind : Nat} :
    keepsKind c kind = true ↔ ∃ k, keptKind c = some k ∧ recordKindCode k = kind := by
  simp only [← recordKindOfCode_iff]
  cases hk : keptKind c with
  | none => simp [keepsKind, hk]
  | some k =>
    cases hc : recordKindOfCode kind with
    | none => simp [keepsKind, hk, hc]
    | some k' => simp [keepsKind, hk, hc, Eq.comm (a := k)]

/-- The slot a READ asks for before its first answer. -/
def freshSlot (q count : Nat) (s : State) : ReadSlot := ⟨q, readCount count, .ok, false, false, none, s.rs.reads⟩

theorem takeRead_a (kind q count : Nat) (h : s.rs.slotA = none) : takeRead kind q count s =
    { s with
      rs := setSlot .a (some (firstAnswer (keepsKind s.mc.config kind) q (freshSlot q count s) s.rs))
        { s.rs with reads := s.rs.reads + 1 } } := by
  simp only [takeRead, h, Option.isNone_none, if_true]
  rfl

theorem takeRead_b (kind q count : Nat) (ha : s.rs.slotA ≠ none) (h : s.rs.slotB = none) : takeRead kind q count s =
    { s with
      rs := setSlot .b (some (firstAnswer (keepsKind s.mc.config kind) q (freshSlot q count s) s.rs))
        { s.rs with reads := s.rs.reads + 1 } } := by
  simp only [takeRead]
  rw [if_neg (by simpa using ha), if_pos (by rw [h]; rfl)]
  rfl

theorem takeRead_busy (kind q count : Nat) (ha : s.rs.slotA ≠ none) (hb : s.rs.slotB ≠ none) :
    takeRead kind q count s = if recordRoom s then enqueue (.record .busy 0 [] none) s else s := by
  simp only [takeRead]
  rw [if_neg (by simpa using ha), if_neg (by simpa using hb)]

/-- What a first answer settles it settles of the number, the count, the status and the wait. -/
theorem firstAnswer_keeps (kept : Bool) (q : Nat) (sl : ReadSlot) (rs : RecordUnit) :
    (firstAnswer kept q sl rs).inQueue = sl.inQueue ∧ (firstAnswer kept q sl rs).lastSent = sl.lastSent ∧
      (firstAnswer kept q sl rs).taken = sl.taken := by
  simp only [firstAnswer]
  (repeat' split) <;> exact ⟨rfl, rfl, rfl⟩

theorem exec_readDelivered_taken {f : Frame} {rest : List Frame} (hrx : s.liu.rx = f :: rest) (hk : f.kind = .read)
    (hn : at1 f.payload 0 = s.mc.node.val) (hm : s.mc.mode ≠ .listenOnly) : exec .readDelivered s =
      .next (takeRead (at1 f.payload 1) (at4 f.payload 2) (at1 f.payload 6) (takeHead s)) := by
  refine congrArg Host.Outcome.next ((effect_readDelivered s).trans ?_)
  rw [headOf_kind hrx hk]
  exact if_pos ⟨hn, hm⟩

theorem exec_readDelivered_discarded {f : Frame} {rest : List Frame} (hrx : s.liu.rx = f :: rest)
    (hk : f.kind = .read) (h : at1 f.payload 0 ≠ s.mc.node.val ∨ s.mc.mode = .listenOnly) :
    exec .readDelivered s = .next (takeHead s) := by
  refine congrArg Host.Outcome.next ((effect_readDelivered s).trans ?_)
  rw [headOf_kind hrx hk]
  exact if_neg fun hc => h.elim (fun hn => hn hc.1) hc.2

/-! ### A RECORD placed -/

theorem slotReady_iff {sl : ReadSlot} : slotReady (some sl) = true ↔ sl.waiting = false ∧ sl.inQueue = false := by
  simp [slotReady]

theorem exec_recordPlace_nothing {i : ReadSlotId} {sl : ReadSlot} (hsl : getSlot i s.rs = some sl)
    (h : sl.waiting = true ∨ sl.inQueue = true ∨ 4 ≤ s.liu.tx.length ∨
      2 ≤ (s.liu.tx.filter fun e => bodyKind e.body == .record).length) : exec (.recordPlace i) s = .next s := by
  refine congrArg Host.Outcome.next ((effect_recordPlace s i).trans (if_neg fun hc => ?_))
  simp only [hsl, Bool.and_eq_true, slotReady_iff, recordRoom_iff] at hc
  obtain ⟨⟨⟨hw, hq⟩, hl, hr, -⟩, -⟩ := hc
  rcases h with h | h | h | h
  · simp [hw] at h
  · simp [hq] at h
  · omega
  · omega

/-- Where nothing stands against it a ready slot places its RECORD. -/
theorem exec_recordPlace_open {i : ReadSlotId} {sl : ReadSlot} (hsl : getSlot i s.rs = some sl)
    (hw : sl.waiting = false) (hq : sl.inQueue = false) (hroom : recordRoom s = true)
    (hone : roomForOne s = false) : exec (.recordPlace i) s = .next (placeRecord i s) := by
  refine congrArg Host.Outcome.next ((effect_recordPlace s i).trans (if_pos ?_))
  simp [hsl, slotReady_iff.2 ⟨hw, hq⟩, hroom, hone]

/-- A slot whose number is there, or that answers NONE, is served as it stands (R167). -/
theorem settledSlot_stands {sl : ReadSlot} {rs : RecordUnit}
    (h : sl.status = .none ∨ sl.next ∈ retainedNumbers rs ++ heldNumbers rs) : settledSlot sl rs = some sl :=
  if_pos (by simpa using h)

/-- A placed RECORD, what it draws apart. -/
theorem placeRecord_eq {i : ReadSlotId} {sl : ReadSlot} {st : RecordStatus} {k : Nat} {body : List Byte}
    (hsl : getSlot i s.rs = some sl)
    (hs : sl.status = .none ∨ sl.next ∈ retainedNumbers s.rs ++ heldNumbers s.rs)
    (hdrawn : servedDrawn sl s = s) (hbody : slotRecord i sl s = .record st k body (some i))
    (hload : s.mc.mode ≠ .loading) (hdeep : s.mc.mode ≠ .standbyDeep) (hl : s.liu.tx.length < 4) :
    placeRecord i s = { s with
      liu := { s.liu with tx := s.liu.tx ++ [⟨.record st k body (some i), 0, none, false⟩] }
      rs := setSlot i (some { sl with inQueue := true }) s.rs } := by
  simp only [placeRecord, hsl, settledSlot_stands hs, hdrawn, hbody, enqueue_record hload hdeep hl]
  rfl

theorem servedDrawn_none {sl : ReadSlot} (h : sl.status = .none) : servedDrawn sl s = s := by
  unfold servedDrawn
  split <;> simp [h]

theorem slotRecord_none {i : ReadSlotId} {sl : ReadSlot} (h : sl.status = .none) :
    slotRecord i sl s = .record .none 0 [] (some i) := by
  unfold slotRecord
  split <;> simp [h]

/-- A body of the own kind has the kind's length (13). -/
theorem length_bodyBytes {r : StoreRecord} {kind : RecordKind}
    (h : (∃ b, r = .bill b ∧ kind = .bill) ∨ ∃ b, r = .settle b ∧ kind = .settle) :
    (bodyBytes r).length = bodyLength kind := by
  rcases h with ⟨b, rfl, rfl⟩ | ⟨b, rfl, rfl⟩
  · simp [bodyBytes, billBytes, bodyLength, byte1, byte2, byte4]
  · simp [bodyBytes, settleBytes, bodyLength, byte1, byte2, byte4, byte4s]

theorem servedDrawn_own {sl : ReadSlot} {r : StoreRecord} {kind : RecordKind}
    (hkind : keptKind s.mc.config = some kind) (hserved : servedRecord sl.next s.rs = some r)
    (hlen : (bodyBytes r).length = bodyLength kind) : servedDrawn sl s = s := by
  rw [servedDrawn, hkind, hserved]
  exact if_neg fun h => by omega

theorem slotRecord_own {i : ReadSlotId} {sl : ReadSlot} {r : StoreRecord} {kind : RecordKind} (hs : sl.status ≠ .none)
    (hkind : keptKind s.mc.config = some kind) (hserved : servedRecord sl.next s.rs = some r)
    (hlen : (bodyBytes r).length = bodyLength kind) :
    slotRecord i sl s = .record sl.status (recordKindCode kind) (bodyBytes r) (some i) := by
  have hbody : servedBody kind r (freeNumber s) = bodyBytes r := by
    simp [servedBody, ← hlen]
  simp only [slotRecord, hkind, hserved]
  rw [if_neg hs, hbody]

/-- Settles O45. -/
theorem readsAreTakenAndServed : Obligations.ReadsAreTakenAndServed := by
  refine ⟨fun f rest s hrx hk => ?_, fun i sl s hsl => ⟨exec_recordPlace_nothing hsl,
    fun hw hq hl hr hload hdeep => ?_⟩⟩
  · intro kept
    have hkeeps : keepsKind s.mc.config (at1 f.payload 1) = true ↔ kept := keepsKind_iff
    refine ⟨fun h => ?_, fun i hn hm hfree => ?_, fun hn hm ha hb => ?_⟩
    · rw [exec_readDelivered_discarded hrx hk h, takeHead_of_rx hrx]
    · have hex := exec_readDelivered_taken hrx hk hn hm
      have hread : takeRead (at1 f.payload 1) (at4 f.payload 2) (at1 f.payload 6) (takeHead s) = { takeHead s with
          rs := setSlot i (some (firstAnswer (keepsKind s.mc.config (at1 f.payload 1)) (at4 f.payload 2)
            (freshSlot (at4 f.payload 2) (at1 f.payload 6) s) s.rs)) { s.rs with reads := s.rs.reads + 1 } } := by
        rcases hfree with ⟨rfl, ha⟩ | ⟨rfl, ha, hb⟩
        · exact takeRead_a (s := takeHead s) _ _ _ ha
        · exact takeRead_b (s := takeHead s) _ _ _ ha hb
      obtain ⟨hqueue, hlast, htaken⟩ := firstAnswer_keeps (keepsKind s.mc.config (at1 f.payload 1))
        (at4 f.payload 2) (freshSlot (at4 f.payload 2) (at1 f.payload 6) s) s.rs
      refine ⟨_, hex.trans ?_, hqueue, hlast, htaken, fun hno => ?_, fun hyes => ?_⟩
      · rw [hread, takeHead_of_rx hrx]
      · rw [eq_false_of_iff hkeeps hno]
        exact ⟨rfl, rfl, rfl⟩
      · rw [hkeeps.2 hyes]
        exact ⟨_, rfl, firstAnswer_answers _ _ _⟩
    · rw [exec_readDelivered_taken hrx hk hn hm, takeRead_busy (s := takeHead s) _ _ _ ha hb]
      have hiff : recordRoom (takeHead s) = true ↔ s.liu.tx.length < 4 ∧
          (s.liu.tx.filter fun e => bodyKind e.body == .record).length < 2 ∧ s.mc.mode ≠ .loading ∧
            s.mc.mode ≠ .standbyDeep := recordRoom_iff
      by_cases hroom : recordRoom (takeHead s) = true
      · obtain ⟨hl, hr, hload, hdeep⟩ := hiff.1 hroom
        rw [if_pos hroom, enqueue_record (s := takeHead s) hload hdeep hl, takeHead_of_rx hrx, if_pos (hiff.1 hroom)]
      · rw [if_neg hroom, takeHead_of_rx hrx, if_neg fun h => hroom (hiff.2 h), List.append_nil]
  · have hroom := recordRoom_open hl hr hload hdeep
    have hone := roomForOne_false hl hr
    rw [exec_recordPlace_open hsl hw hq hroom hone]
    refine ⟨fun hs => ?_, fun r kind hs hnext hkind hserved hown => ?_⟩
    · rw [placeRecord_eq hsl (.inl hs) (servedDrawn_none hs) (slotRecord_none hs) hload hdeep (by omega)]
    · have hlen := length_bodyBytes hown
      rw [placeRecord_eq hsl (.inr hnext) (servedDrawn_own hkind hserved hlen) (slotRecord_own hs hkind hserved hlen)
        hload hdeep (by omega)]

end Sys2Proof.Machine
end

section
/-! The statements about the measures, the want and the offer (R45 to R50, R94, R106, R115, R116, R136, R137). -/

namespace Sys2Proof.Machine

variable {s t u : State}

/-! ### A rebuild after a message -/

theorem LoweredToWant.of_same (h : LoweredToWant u t) (hc : u.mc.config = s.mc.config) (hse : u.se = s.se) :
    LoweredToWant s t := by
  simpa only [LoweredToWant, hc, hse] using h

theorem setpointSent_congr (hc : u.mc.config = s.mc.config) (hp : u.se.setpoint = s.se.setpoint) :
    setpointSent u t = setpointSent s t := by
  simp only [setpointSent, hc, hp]

/-- A rebuild in a state of the same configuration and setpoint output, what it sends told from that state. -/
theorem rebuildWant_eq (hc : u.mc.config = s.mc.config) (hp : u.se.setpoint = s.se.setpoint) :
    rebuildWant u = { u with
      se := (rebuildWant u).se, fp := { u.fp with out := u.fp.out ++ setpointSent s (rebuildWant u) } } := by
  have h := (rebuildWant_lowers u).2
  rwa [setpointSent_congr hc hp] at h

theorem sampleOf_eq (flow supply return_ : Nat) : sampleOf flow supply return_ =
    ⟨Nat.min flow 50000, Nat.min supply 20000, Nat.min return_ 20000,
      decide (50000 < flow ∨ 20000 < supply ∨ 20000 < return_)⟩ := by
  simp [sampleOf, Bool.or_assoc]

theorem baseWant_townheat (h : s.mc.config.role = some .townheat) : baseWant s = townWant s := by
  rw [baseWant, h]

/-- Settles O27. -/
theorem measuresAreHeldWithinRange : Obligations.MeasuresAreHeldWithinRange := by
  refine ⟨fun flow supply return_ s hm hr => ⟨?_, ?_⟩, fun su s hm hr => ?_, fun su s hm hr => ?_,
    fun su s hm hr => ⟨fun hmain => ?_, fun hmain => ?_⟩, fun su s hm hr => ?_⟩
  · refine congrArg Host.Outcome.next ((fieldMessage_taken hm (by simp [roleUses, hr])).trans ?_)
    rw [← sampleOf_eq]
    rfl
  · exact congrArg Host.Outcome.next (fieldMessage_taken hm (by simp [roleUses, hr]))
  · let u := (linkRestored s).setMu { s.mu with demand := some (holdPower su) }
    have hlow := rebuildWant_lowers u
    refine ⟨rebuildWant u, congrArg Host.Outcome.next (fieldMessage_taken hm (by simp [roleUses, hr])), ?_,
      hlow.1.of_same rfl rfl, rebuildWant_eq (s := s) (u := u) rfl rfl⟩
    have hrole : (rebuildWant u).mc.config.role = some .townheat := by simpa [u] using hr
    have hdemand : (rebuildWant u).mu.demand = some (holdPower su) := by simp [u]
    have hconfig : (rebuildWant u).mc.config = s.mc.config := by simp [u]
    rw [baseWant_townheat hrole, townWant, hdemand, hconfig]
    rfl
  · let u := (linkRestored s).setSe { s.se with capability := some (holdPower su) }
    have hlow := rebuildWant_lowers u
    have hu : roleUses s.mc.config .capability = true := by rcases hr with hr | hr <;> simp [roleUses, hr]
    exact ⟨rebuildWant u, congrArg Host.Outcome.next (fieldMessage_taken hm hu), hlow.1.of_same rfl rfl,
      rebuildWant_eq (s := s) (u := u) rfl rfl⟩
  · exact congrArg Host.Outcome.next (fieldMessage_taken hm (by simp [roleUses, hr, hmain]))
  · exact congrArg Host.Outcome.next (fieldMessage_taken hm (by simp [roleUses, hr, hmain]))
  · exact congrArg Host.Outcome.next (fieldMessage_taken hm (by simp [roleUses, hr]))

/-! ### The want (R45, R47, R94) -/

theorem inStandby_iff {m : Mode} : inStandby m = true ↔ m = .standbyListen ∨ m = .standbyDeep := by
  simp [inStandby]

/-- Outside the standbys the want is the base want raised or shed and held within the capacity. -/
theorem effectiveWant_awake {m : Main} (hw : wantMain s.mc.config = some m)
    (h : ¬(s.mc.mode = .standbyListen ∨ s.mc.mode = .standbyDeep)) : effectiveWant s =
      let top := Nat.min (raisedMax (holdPower (baseWant s).1) (holdPower (baseWant s).2) (shedTaken m s) (raiseSum m s))
        s.mc.config.capacity
      (Nat.min (holdPower (baseWant s).1) top, top) := by
  simp only [effectiveWant, hw]
  exact if_neg fun hc => h (inStandby_iff.1 hc)

theorem shedTaken_iff {m : Main} : shedTaken m s = true ↔ ∃ x ∈ stepsOnMain m s, x.action = .shed := by
  simp [shedTaken]

theorem raiseAmount_eq (a : Action) : raiseAmount a = match a with | .raise n => n | _ => 0 := by
  cases a <;> rfl

theorem any_shed_false {m : Main} (h : ∀ x ∈ stepsOnMain m s, x.action ≠ .shed) : shedTaken m s = false :=
  eq_false_of_iff shedTaken_iff fun ⟨x, hx, hs⟩ => h x hx hs

theorem raiseSum_eq (m : Main) (s : State) : raiseSum m s =
    sumOf ((stepsOnMain m s).map fun x => match x.action with | .raise n => n | _ => 0) := by
  simp only [raiseSum, raiseAmount_eq]

theorem gasMax_eq (s : State) : gasMax s =
    match s.se.capability with | some v => Nat.min s.mc.config.max v | none => s.mc.config.max := rfl

/-! ### The offer (R49, R116) -/

theorem currentOffer_standby (h : ¬(s.mc.mode ≠ .standbyListen ∧ s.mc.mode ≠ .standbyDeep)) : currentOffer s = 0 :=
  if_pos (inStandby_iff.2 (by tauto))

theorem currentOffer_boiler (hr : s.mc.config.role = some .boiler)
    (h : s.mc.mode ≠ .standbyListen ∧ s.mc.mode ≠ .standbyDeep) : currentOffer s = boilerOffer s := by
  rw [currentOffer, if_neg (by rw [inStandby_iff]; tauto), hr]

theorem currentOffer_producer (hr : s.mc.config.role = some .producer) : currentOffer s =
    if s.mc.mode ≠ .standbyListen ∧ s.mc.mode ≠ .standbyDeep then s.se.measured.getD 0 else 0 := by
  split
  · next h => rw [currentOffer, if_neg (by rw [inStandby_iff]; tauto), hr]
  · next h => exact currentOffer_standby h

/-- The two records of a BOILER. -/
theorem ownRecords_boiler (hr : s.mc.config.role = some .boiler) : ownRecords s =
    [.want s.mc.config.main (effectiveWant s).1 (effectiveWant s).2 s.mc.config.minClass s.mc.config.headClass,
      .offer .m2 (currentOffer s) (s.se.measured.getD 0) (broadcastFuel s.fu.mode)] := by
  simp only [ownRecords, wantClasses, hr]
  rfl

theorem baseWant_boiler (hr : s.mc.config.role = some .boiler) : baseWant s = boilerWant s := by
  rw [baseWant, hr]

/-- Settles O28. -/
theorem wantAndOfferFollowTheirRules : Obligations.WantAndOfferFollowTheirRules := by
  refine ⟨fun m s hw => ?_, fun s => ?_⟩
  · intro c lo hi standing raised
    have hraised : raiseSum m s = raised := raiseSum_eq m s
    refine ⟨fun h => effectiveWant_standby (inStandby_iff.2 h), fun hl hd => ?_⟩
    have hawake := effectiveWant_awake hw (s := s) (by tauto)
    refine ⟨fun x hx hs => ?_, fun hno hz => ?_, fun hno hpos => ?_⟩
    · have hshed : shedTaken m s = true := shedTaken_iff.2 ⟨x, hx, hs⟩
      rw [hawake, hshed]
      refine Prod.ext ?_ rfl
      exact Nat.min_eq_right (Nat.min_le_left _ _)
    · rw [hawake, any_shed_false hno]
      have hzero : holdPower (baseWant s).2 = 0 := hz
      simp [raisedMax, hzero]
    · rw [hawake, any_shed_false hno, hraised]
      have hne : ¬holdPower (baseWant s).2 = 0 := Nat.pos_iff_ne_zero.1 hpos
      simp only [raisedMax, if_neg hne]
      exact ⟨rfl, rfl⟩
  · intro c gas offered
    refine ⟨fun hr => ?_, fun hr => ?_, fun hr => ?_, fun hr => ?_, fun hr => ?_, fun hr => ?_, fun hr => ?_,
      fun hr => ?_, fun htie hturb => ?_⟩
    · simp only [baseWant, ownRecords, wantClasses, show s.mc.config.role = some .consumer from hr]
      exact ⟨rfl, rfl⟩
    · refine ⟨_, _, ownRecords_boiler hr, currentOffer_standby, fun hf => ?_, fun hf => ?_, fun hf => ?_, fun hf => ?_⟩
      · rw [baseWant_boiler hr, boilerWant, hf]
        exact ⟨rfl, rfl, fun ho => by rw [currentOffer_boiler hr ho, boilerOffer, hf]⟩
      · rw [baseWant_boiler hr, boilerWant]
        rcases hf with hf | hf
        all_goals
          rw [hf]
          exact ⟨rfl, rfl, fun ho => by rw [currentOffer_boiler hr ho, boilerOffer, hf]⟩
      · rw [baseWant_boiler hr, boilerWant, hf]
        exact ⟨rfl, rfl, fun ho => by rw [currentOffer_boiler hr ho, boilerOffer, hf]⟩
      · rw [baseWant_boiler hr, boilerWant, hf]
        refine ⟨rfl, rfl, ?_⟩
        by_cases ho : offered
        · rw [currentOffer_boiler hr ho, boilerOffer, hf]
        · exact currentOffer_standby ho
    · simp only [ownRecords, show s.mc.config.role = some .producer from hr, currentOffer_producer hr]
      rfl
    · simp only [baseWant, ownRecords, wantClasses, show s.mc.config.role = some .turbine from hr]
      exact ⟨trivial, trivial⟩
    · refine ⟨fun hd => ?_, ?_⟩
      · rw [baseWant_townheat hr, townWant, hd]
      · simp only [ownRecords, wantClasses, show s.mc.config.role = some .townheat from hr]
    · simp only [ownRecords, show s.mc.config.role = some .holder from hr]
      rfl
    · simp only [ownRecords, ownExtras, tieCommitment, show s.mc.config.role = some .exportTie from hr]
      exact ⟨trivial, fun p hp => by rw [hp], fun hp hg => by rw [hp, hg]⟩
    · simp only [ownExtras, show s.mc.config.role = some .turbine from hr]
      rfl
    · unfold ownExtras
      split
      · next h => exact absurd h htie
      · next h => exact absurd h hturb
      all_goals rfl

end Sys2Proof.Machine
end

section
/-! The statements about the ladders' steps (R67, R81, R93 to R101, R108, R109). -/

namespace Sys2Proof.Machine

variable {c : Instr} {l : ClaimLine} {st : Step} {asked done : Ladder} {s t u : State}

/-! ### A step asked and done -/

/-- What a step is asked with and what it is done with: in STEPPING with the taken count raised and then in DWELL, or
in UNDO IN FLIGHT with the taken count lowered and then in UNDO DWELL, the step's dwell running (R93, R99, R101). -/
def AskedAndDone (l : ClaimLine) (st : Step) (asked done : Ladder) (s : State) : Prop :=
  ∃ k o, (ladderSteps l s)[k]? = some st ∧
    (asked = ⟨.stepping, k + 1, none, o⟩ ∧ done = ⟨.dwell, k + 1, some st.dwell, some .completed⟩ ∨
      asked = ⟨.undoInFlight, k, none, o⟩ ∧ done = ⟨.undoDwell, k, some st.dwell, some .completed⟩)

theorem askedAndDone_taken {k : Nat} (o : Option ActionOutcome) (h : (ladderSteps l s)[k]? = some st) :
    AskedAndDone l st ⟨.stepping, k + 1, none, o⟩ ⟨.dwell, k + 1, some st.dwell, some .completed⟩ s :=
  ⟨k, o, h, .inl ⟨rfl, rfl⟩⟩

theorem askedAndDone_undone {k : Nat} (o : Option ActionOutcome) (h : (ladderSteps l s)[k]? = some st) :
    AskedAndDone l st ⟨.undoInFlight, k, none, o⟩ ⟨.undoDwell, k, some st.dwell, some .completed⟩ s :=
  ⟨k, o, h, .inr ⟨rfl, rfl⟩⟩

theorem AskedAndDone.of_config (h : AskedAndDone l st asked done s) (hc : u.mc.config = s.mc.config) :
    AskedAndDone l st asked done u := by
  simpa only [AskedAndDone, ladderSteps, hc] using h

theorem AskedAndDone.taken (h : AskedAndDone l st asked done s) : done.taken = asked.taken := by
  obtain ⟨k, o, -, ⟨rfl, rfl⟩ | ⟨rfl, rfl⟩⟩ := h <;> rfl

theorem stepDwell_of_step {k : Nat} (h : (ladderSteps l s)[k]? = some st) : stepDwell l k s = st.dwell := by
  rw [stepDwell, h]

/-- A step asked of a block that has nothing to wait for is done. -/
theorem completeAction_asked (h : AskedAndDone l st asked done u) (r : Six Ladder) :
    completeAction l .completed { u with rl := r.set l asked } = { u with rl := r.set l done } := by
  obtain ⟨k, o, hst, ⟨rfl, rfl⟩ | ⟨rfl, rfl⟩⟩ := h
  all_goals
    have hdwell : ∀ x, stepDwell l k { u with rl := x } = st.dwell := fun x => stepDwell_of_step hst
    simp only [completeAction, Six.get_set_self, setLadder, State.setRl, Six.set_set, Nat.add_sub_cancel, hdwell]

/-- Where a ladder stands is nothing to the want but for its taken count (R47, R94). -/
theorem effectiveWant_setRl {r : Six Ladder} (h : ∀ k, (r.get k).taken = (u.rl.get k).taken) :
    effectiveWant { u with rl := r } = effectiveWant u :=
  effectiveWant_congr ⟨rfl, rfl, rfl, rfl, rfl, rfl, h⟩

theorem LoweredToWant.setRl {r : Six Ladder} (h : LoweredToWant s u) (hr : ∀ k, (r.get k).taken = (u.rl.get k).taken) :
    LoweredToWant s { u with rl := r } := by
  simpa only [LoweredToWant, effectiveWant_setRl hr] using h

theorem taken_set_done (h : AskedAndDone l st asked done s) (r : Six Ladder) (k : ClaimLine) :
    ((r.set l done).get k).taken = ((r.set l asked).get k).taken := by
  simp only [Six.get_set]
  split
  · exact h.taken
  · rfl

/-- A SHED or a RAISE asked stands in the want, and is done (R47, R48, R94). -/
theorem rebuilt_done (h : AskedAndDone l st asked done u) (r : Six Ladder) :
    ∃ t, completeAction l .completed (rebuildWant { u with rl := r.set l asked }) = t ∧ LoweredToWant u t ∧
      t = { u with rl := r.set l done, se := t.se, fp := { u.fp with out := u.fp.out ++ setpointSent u t } } := by
  let v : State := { u with rl := r.set l asked }
  let w : State := { u with
    se := (rebuildWant v).se, fp := { u.fp with out := u.fp.out ++ setpointSent u (rebuildWant v) } }
  have hw : rebuildWant v = { w with rl := r.set l asked } := rebuildWant_eq (s := u) (u := v) rfl rfl
  have hlow : LoweredToWant u (rebuildWant v) := (rebuildWant_lowers v).1.of_same rfl rfl
  have hdone : completeAction l .completed (rebuildWant v) = { w with rl := r.set l done } :=
    (congrArg (completeAction l .completed) hw).trans (completeAction_asked (u := w) (h.of_config rfl) r)
  refine ⟨{ w with rl := r.set l done }, hdone, ?_, rfl⟩
  rw [hw] at hlow
  exact hlow.setRl (r := r.set l done) (taken_set_done h r)

/-! ### Dwells and edges (R98 to R101) -/

theorem ladderSteps_of_config (h : u.mc.config = s.mc.config) (l : ClaimLine) : ladderSteps l u = ladderSteps l s := by
  simp only [ladderSteps, h]

theorem RisesAt.rl (h : RisesAt c l s u) : u.rl = s.rl := by
  obtain ⟨-, -, -, -, f, rest, e, -, -, -, -, rfl⟩ := h
  rfl

theorem FallsAt.rl (h : FallsAt c l s u) : u.rl = s.rl := by
  obtain ⟨n, e, -, -, ⟨-, f, rest, -, -, -, -, rfl⟩ |
    ⟨-, -, -, ⟨-, f, rest, -, -, -, rfl⟩ | ⟨node, -, -, -, rfl⟩⟩⟩ := h <;> rfl

theorem ladderRise_busy (h : (u.rl.get l).state ≠ .idle) : ladderRise l u = u := by
  rw [ladderRise]
  split
  · next hi => exact absurd hi h
  all_goals rfl

theorem ladderFall_busy (h : (u.rl.get l).state ≠ .top) : ladderFall l u = u := by
  rw [ladderFall]
  split
  · next hi => exact absurd hi h
  all_goals rfl

theorem orAsserted_iff : orAsserted l s = true ↔ (s.cu.get l).sources ≠ [] := by
  simp [orAsserted]

theorem askedAndDone_of_takesFrom (h : TakesFrom c l s u) (hst : (ladderSteps l s)[(s.rl.get l).taken]? = some st) :
    AskedAndDone l st ⟨.stepping, (s.rl.get l).taken + 1, none, (s.rl.get l).outcome⟩
      ⟨.dwell, (s.rl.get l).taken + 1, some st.dwell, some .completed⟩ u := by
  obtain ⟨-, -, -, -, -, -, hc, -⟩ := h.same
  exact (askedAndDone_taken _ hst).of_config hc

theorem askedAndDone_of_undoesFrom {k : Nat} (h : UndoesFrom c l s u) (hst : (ladderSteps l s)[k]? = some st) :
    AskedAndDone l st ⟨.undoInFlight, k, none, (s.rl.get l).outcome⟩
      ⟨.undoDwell, k, some st.dwell, some .completed⟩ u := by
  obtain ⟨-, -, -, -, -, -, hm⟩ := h.same
  exact (askedAndDone_undone _ hst).of_config (by rw [hm])

/-- Settles O33. -/
theorem dwellExpiriesMoveTheLadder : Obligations.DwellExpiriesMoveTheLadder := by
  refine ⟨fun c l s u => ⟨fun st h hst ha => ?_, fun st k h ht hst ha => ?_, fun h hi => ?_, fun h ht => ?_⟩,
    fun l s hd => ⟨fun hx ho hlen => ?_, fun hx ho ht => ?_⟩⟩
  · rw [exec_of_takesFrom_ask h hst, ha]
    exact congrArg Host.Outcome.next (completeAction_asked (askedAndDone_of_takesFrom h hst) s.rl)
  · rw [exec_of_undoesFrom_ask h ht hst, ha]
    exact congrArg Host.Outcome.next (completeAction_asked (askedAndDone_of_undoesFrom h hst) s.rl)
  · rw [exec_of_risesAt h, ladderRise_busy (by rwa [h.rl])]
  · rw [exec_of_fallsAt h, ladderFall_busy (by rwa [h.rl])]
  · refine congrArg Host.Outcome.next ((effect_dwellExpiry s l).trans ?_)
    rw [if_pos ⟨hx, expired_iff.2 hd⟩, resampleDwell, if_pos (orAsserted_iff.2 ho)]
    exact if_neg (by omega)
  · refine congrArg Host.Outcome.next ((effect_undoDwellExpiry s l).trans ?_)
    rw [if_pos ⟨hx, expired_iff.2 hd⟩, resampleUndoDwell, if_neg fun h => orAsserted_iff.1 h ho]
    exact if_pos ht

/-! ### Flare requests (R67) -/

theorem flareRequest_waits {r : FlareRequest} (h : s.hu.move ≠ none) :
    flareRequest r s = { s with hu := { s.hu with waiting := s.hu.waiting ++ [r] } } := by
  rw [flareRequest, if_neg (by simp [h])]
  rfl

theorem flareRequest_moves {r : FlareRequest} (hm : s.hu.move = none) (hw : s.hu.waiting = [])
    (ht : flareTarget r s ≠ flarePosition s) : flareRequest r s = { s with
      hu := { s.hu with move := some ⟨flareTarget r s, some r, 60⟩ }
      fp := { s.fp with out := s.fp.out ++ [.flareCommand (flareTarget r s)] } } := by
  rw [flareRequest, if_pos (by simp [hm, hw]), startFlare, if_neg ht]
  rfl

theorem flareRequest_there {r : FlareRequest} (hm : s.hu.move = none) (hw : s.hu.waiting = [])
    (ht : flareTarget r s = flarePosition s) : flareRequest r s = completeAction r.line .completed s := by
  rw [flareRequest, if_pos (by simp [hm, hw]), startFlare, if_pos ht]

theorem flareTarget_up {p : Nat} (l : ClaimLine) (hp : s.hu.position.getD 0 = p) :
    flareTarget ⟨l, false⟩ s = Nat.min (p + 1) 4 := by
  simp [flareTarget, flarePosition, hp]

theorem flareTarget_down {p : Nat} (l : ClaimLine) (hp : s.hu.position.getD 0 = p) :
    flareTarget ⟨l, true⟩ s = Nat.max (p - 1) (if s.hu.band = .flare then 1 else 0) := by
  simp [flareTarget, flarePosition, flareFloor, hp]

/-- A SHED, a RAISE or a FLARE STEP taken is asked of its block as one undone is. -/
theorem askTake_wants {a : Action} (ha : a = .shed ∨ ∃ k, a = .raise k) :
    askTake a l u = completeAction l .completed (rebuildWant u) := by
  rcases ha with rfl | ⟨k, rfl⟩ <;> rfl

theorem askUndo_wants {a : Action} (ha : a = .shed ∨ ∃ k, a = .raise k) :
    askUndo a l u = completeAction l .completed (rebuildWant u) := by
  rcases ha with rfl | ⟨k, rfl⟩ <;> rfl

/-- Settles O34. -/
theorem stepsActOnTheirBlocks : Obligations.StepsActOnTheirBlocks := by
  refine ⟨fun c l st s u h hst => ?_, fun c l st k s u h ht hst => ?_⟩
  · intro n done waits
    obtain ⟨-, hhu, -, -, -, htx, hc, hmode⟩ := h.same
    have hask := askedAndDone_of_takesFrom h hst
    have hex := exec_of_takesFrom_ask h hst
    refine ⟨fun ha => ?_, fun r ha hload hdeep hroom => ?_, fun ha => ?_⟩
    · obtain ⟨t, heq, hlow, ht⟩ := rebuilt_done hask s.rl
      exact ⟨t, by rw [hex, askTake_wants ha, heq], hlow, ht⟩
    · have haccepts : acceptsRequest s.mc.mode (.wake r l.main) = true := by
        cases hm : s.mc.mode <;> simp_all [acceptsRequest, isHello, isState]
      have hplaced := enqueue_last (s := { u with rl := waits }) (b := .wake r l.main) ⟨nofun, nofun⟩
        (by rw [← haccepts, ← hmode]) (by rw [← htx] at hroom; exact hroom)
      rw [hex, ha]
      exact congrArg Host.Outcome.next ((congrArg (completeAction l .completed) hplaced).trans
        (completeAction_asked (u := { u with
          liu := { u.liu with tx := u.liu.tx ++ [⟨.wake r l.main, 0, none, false⟩] } }) (hask.of_config rfl) s.rl))
    · rw [hex, ha, ← hhu]
      refine ⟨fun p hp hm hw hlt => ?_, fun hp hm hw => ?_, fun hm => ?_⟩
      · have htarget : flareTarget ⟨l, false⟩ { u with rl := waits } = p + 1 :=
          (flareTarget_up l hp).trans (Nat.min_eq_left (by omega))
        have hpos : flarePosition { u with rl := waits } = p := hp
        have hmoves := flareRequest_moves (s := { u with rl := waits }) (r := ⟨l, false⟩) hm hw
          (by rw [htarget, hpos]; omega)
        rw [htarget] at hmoves
        exact congrArg Host.Outcome.next hmoves
      · have htarget : flareTarget ⟨l, false⟩ { u with rl := waits } = 4 := flareTarget_up l (by rw [hp])
        exact congrArg Host.Outcome.next ((flareRequest_there (s := { u with rl := waits }) hm hw
          (by rw [htarget, flarePosition, hp]; rfl)).trans (completeAction_asked hask s.rl))
      · exact congrArg Host.Outcome.next (flareRequest_waits (s := { u with rl := waits }) hm)
  · intro done waits
    obtain ⟨-, hhu, -, -, -, -, -⟩ := h.same
    have hask := askedAndDone_of_undoesFrom h hst
    have hex := exec_of_undoesFrom_ask h ht hst
    refine ⟨fun ha => ?_, fun r ha => ?_, fun ha => ?_⟩
    · obtain ⟨t, heq, hlow, ht⟩ := rebuilt_done hask s.rl
      exact ⟨t, by rw [hex, askUndo_wants ha, heq], hlow, ht⟩
    · rw [hex, ha]
      exact congrArg Host.Outcome.next (completeAction_asked hask s.rl)
    · rw [hex, ha, ← hhu]
      intro floor
      refine ⟨fun p hp hm hw hlt => ?_, fun hp hm hw => ?_, fun hm => ?_⟩
      · have hget : u.hu.position.getD 0 = p := by rw [hp]; rfl
        have htarget : flareTarget ⟨l, true⟩ { u with rl := waits } = p - 1 :=
          (flareTarget_down l hget).trans (Nat.max_eq_left (show floor ≤ p - 1 by omega))
        have hpos : flarePosition { u with rl := waits } = p := hget
        have hmoves := flareRequest_moves (s := { u with rl := waits }) (r := ⟨l, true⟩) hm hw
          (by rw [htarget, hpos]; omega)
        rw [htarget] at hmoves
        exact congrArg Host.Outcome.next hmoves
      · have htarget : flareTarget ⟨l, true⟩ { u with rl := waits } = floor :=
          (flareTarget_down l hp).trans (Nat.max_eq_right (show floor - 1 ≤ floor by omega))
        exact congrArg Host.Outcome.next ((flareRequest_there (s := { u with rl := waits }) hm hw
          (by rw [htarget, flarePosition]; exact hp.symm)).trans (completeAction_asked hask s.rl))
      · exact congrArg Host.Outcome.next (flareRequest_waits (s := { u with rl := waits }) hm)

end Sys2Proof.Machine
end

section
/-! The statements about the Fuel Unit (R95, R107 to R112). -/

namespace Sys2Proof.Machine

variable {l : ClaimLine} {s t u : State}

/-! ### Completions in closed form (R99, R101, R109) -/

/-- A ladder with its action in flight completed: it dwells with the step's dwell and the outcome. -/
def finished (l : ClaimLine) (o : ActionOutcome) (s : State) : Ladder :=
  match (s.rl.get l).state with
  | .stepping => { s.rl.get l with
      state := .dwell, dwell := some (stepDwell l ((s.rl.get l).taken - 1) s), outcome := some o }
  | .undoInFlight => { s.rl.get l with
      state := .undoDwell, dwell := some (stepDwell l (s.rl.get l).taken s), outcome := some o }
  | .idle | .dwell | .top | .undoDwell => s.rl.get l

theorem completeAction_eq (l : ClaimLine) (o : ActionOutcome) (s : State) :
    completeAction l o s = { s with rl := s.rl.set l (finished l o s) } := by
  cases hx : (s.rl.get l).state
  case stepping | undoInFlight =>
    simp only [completeAction, finished, hx]
    rfl
  all_goals simp only [completeAction, finished, hx, Six.set_get]

/-- A ladder finished has no action in flight any more, and finishing another leaves it. -/
theorem finished_completeAction (l k : ClaimLine) (o : ActionOutcome) (s : State) :
    finished k o (completeAction l o s) = finished k o s := by
  rw [completeAction_eq]
  simp only [finished, stepDwell, ladderSteps, Six.get_set]
  by_cases h : k = l
  · subst h
    cases hx : (s.rl.get k).state <;> simp [hx]
  · simp only [if_neg h]

/-- Every ladder of a list has its action in flight completed, and no other ladder moves. -/
theorem completeAll_eq (ls : List ClaimLine) (o : ActionOutcome) (s : State) : completeAll ls o s =
    { s with rl := Six.build fun k => if k ∈ ls then finished k o s else s.rl.get k } := by
  induction ls generalizing s with
  | nil =>
    have hrl : (Six.build fun k => s.rl.get k) = s.rl := Six.ext_get fun k => Six.get_build _ k
    simp [completeAll, hrl]
  | cons a rest ih =>
    rw [completeAll, ih]
    have hrl : (Six.build fun k => if k ∈ rest then finished k o (completeAction a o s)
        else (completeAction a o s).rl.get k) =
        Six.build fun k => if k ∈ a :: rest then finished k o s else s.rl.get k := by
      refine Six.ext_get fun k => ?_
      simp only [Six.get_build, finished_completeAction]
      simp only [completeAction_eq, Six.get_set, List.mem_cons]
      by_cases hr : k ∈ rest
      · simp [hr]
      · by_cases ha : k = a
        · simp [ha]
        · simp [hr, ha]
    rw [hrl, completeAction_eq]

theorem completeAll_mem {ls : List ClaimLine} {k : ClaimLine} (o : ActionOutcome) (s : State) (h : k ∈ ls) :
    (completeAll ls o s).rl.get k = finished k o s := by
  simp [completeAll_eq, h]

theorem completeAll_not_mem {ls : List ClaimLine} {k : ClaimLine} (o : ActionOutcome) (s : State) (h : k ∉ ls) :
    (completeAll ls o s).rl.get k = s.rl.get k := by
  simp [completeAll_eq, h]

theorem finished_stepping {o : ActionOutcome} (h : (s.rl.get l).state = .stepping) :
    (finished l o s).state = .dwell ∧ (finished l o s).outcome = some o := by
  simp [finished, h]

theorem finished_undoInFlight {o : ActionOutcome} (h : (s.rl.get l).state = .undoInFlight) :
    (finished l o s).state = .undoDwell ∧ (finished l o s).outcome = some o := by
  simp [finished, h]

theorem finished_taken (l : ClaimLine) (o : ActionOutcome) (s : State) :
    (finished l o s).taken = (s.rl.get l).taken := by
  simp only [finished]
  split <;> rfl

theorem completeAll_taken (ls : List ClaimLine) (o : ActionOutcome) (s : State) (k : ClaimLine) :
    ((completeAll ls o s).rl.get k).taken = (s.rl.get k).taken := by
  by_cases h : k ∈ ls
  · rw [completeAll_mem o s h, finished_taken]
  · rw [completeAll_not_mem o s h]

/-! ### A ladder's request (R108, R109) -/

/-- A changeover started: the command, the TO mode and the changeover, and then what the want lowers (R48, R108). -/
theorem startChangeover_eq (f : Fuel) (joined : List ClaimLine) (s : State) : startChangeover f joined s =
    rebuildWant { s with
      fu := { s.fu with mode := toMode f, flight := some ⟨f, s.mc.config.changeoverLimit, joined⟩ }
      fp := { s.fp with out := s.fp.out ++ [.fuelCommand f] } } := rfl

theorem fuelRequest_there {f : Fuel} (hf : s.fu.flight = none) (hm : s.fu.mode = settledMode f) :
    fuelRequest f l s = completeAction l .completed s := by
  rw [fuelRequest, hf]
  exact if_pos hm

theorem fuelRequest_starts {f : Fuel} (hf : s.fu.flight = none) (hm : s.fu.mode ≠ settledMode f) :
    fuelRequest f l s = startChangeover f [l] s := by
  rw [fuelRequest, hf]
  exact if_neg hm

theorem fuelRequest_joins {f : Fuel} {c : Changeover} (hf : s.fu.flight = some c) (ht : c.target = f) :
    fuelRequest f l s = joinFlight c l s := by
  rw [fuelRequest, hf]
  exact if_pos ht

theorem fuelRequest_records {f : Fuel} {c : Changeover} (hf : s.fu.flight = some c) (ht : c.target ≠ f) :
    fuelRequest f l s = recordTarget f c l s := by
  rw [fuelRequest, hf]
  exact if_neg ht

/-- What completing other ladders' actions says of one that was asked and of those it superseded. -/
theorem superseded_parts {asked : Ladder} {r : Six Ladder} {ls : List ClaimLine} (hu : u.rl = r.set l asked) :
    (l ∉ ls → (completeAll ls .superseded u).rl.get l = asked) ∧
    (∀ k, k ≠ l → k ∈ ls → (r.get k).state = .stepping →
      ((completeAll ls .superseded u).rl.get k).state = .dwell ∧
        ((completeAll ls .superseded u).rl.get k).outcome = some .superseded) ∧
    (∀ k, k ≠ l → k ∈ ls → (r.get k).state = .undoInFlight →
      ((completeAll ls .superseded u).rl.get k).state = .undoDwell ∧
        ((completeAll ls .superseded u).rl.get k).outcome = some .superseded) ∧
    (∀ k, k ≠ l → k ∉ ls → (completeAll ls .superseded u).rl.get k = r.get k) := by
  have hother : ∀ k, k ≠ l → u.rl.get k = r.get k := fun k hk => by rw [hu, Six.get_set, if_neg hk]
  refine ⟨fun h => ?_, fun k hk h hs => ?_, fun k hk h hs => ?_, fun k hk h => ?_⟩
  · rw [completeAll_not_mem _ _ h, hu, Six.get_set_self]
  · rw [completeAll_mem _ _ h]
    exact finished_stepping (by rw [hother k hk, hs])
  · rw [completeAll_mem _ _ h]
    exact finished_undoInFlight (by rw [hother k hk, hs])
  · rw [completeAll_not_mem _ _ h, hother k hk]

/-- A step of a fuel, taken or undone, is a request for a fuel from the ladder as it is asked (R95). -/
theorem exec_of_fuelStep {cmd : Instr} {st : Step} {f : Fuel} {asked done : Ladder}
    (h : TakesFrom cmd l s u ∧ (ladderSteps l s)[(s.rl.get l).taken]? = some st ∧
        (st.action = .fuelBackup ∧ f = .backup ∨ st.action = .fuelGas ∧ f = .gas) ∧
        asked = ⟨.stepping, (s.rl.get l).taken + 1, none, (s.rl.get l).outcome⟩ ∧
        done = ⟨.dwell, (s.rl.get l).taken + 1, some st.dwell, some .completed⟩ ∨
      UndoesFrom cmd l s u ∧ ∃ k, (s.rl.get l).taken = k + 1 ∧ (ladderSteps l s)[k]? = some st ∧
        (st.action = .fuelBackup ∧ f = .gas ∨ st.action = .fuelGas ∧ f = .backup) ∧
        asked = ⟨.undoInFlight, k, none, (s.rl.get l).outcome⟩ ∧
        done = ⟨.undoDwell, k, some st.dwell, some .completed⟩) :
    exec cmd s = .next (fuelRequest f l { u with rl := s.rl.set l asked }) ∧ AskedAndDone l st asked done u ∧
      u.fu = s.fu ∧ u.mc.config = s.mc.config := by
  rcases h with ⟨h, hst, hf, rfl, rfl⟩ | ⟨h, k, ht, hst, hf, rfl, rfl⟩
  · obtain ⟨-, -, hfu, -, -, -, hc, -⟩ := h.same
    refine ⟨?_, askedAndDone_of_takesFrom h hst, hfu, hc⟩
    rw [exec_of_takesFrom_ask h hst]
    rcases hf with ⟨ha, rfl⟩ | ⟨ha, rfl⟩
    all_goals
      rw [ha]
      rfl
  · obtain ⟨-, -, hfu, -, -, -, hm⟩ := h.same
    refine ⟨?_, askedAndDone_of_undoesFrom h hst, hfu, by rw [hm]⟩
    rw [exec_of_undoesFrom_ask h ht hst]
    rcases hf with ⟨ha, rfl⟩ | ⟨ha, rfl⟩
    all_goals
      rw [ha]
      rfl

/-- Settles O35. -/
theorem fuelStepsAskTheFuelUnit : Obligations.FuelStepsAskTheFuelUnit := by
  intro cmd l st f asked done s u h
  obtain ⟨hex, hask, hfu, hc⟩ := exec_of_fuelStep h
  let v : State := { u with rl := s.rl.set l asked }
  rw [← hfu, hex, ← hc]
  refine ⟨fun hf hm => ?_, fun hf hm => ?_, fun c hf ht hr => ?_, fun c r hf ht hr => ?_, fun c hf ht hr => ?_,
    fun c r hf ht hr => ?_⟩
  · exact congrArg Host.Outcome.next ((fuelRequest_there (s := v) hf hm).trans (completeAction_asked hask s.rl))
  · let w : State := { v with
      fu := { u.fu with mode := toMode f, flight := some ⟨f, u.mc.config.changeoverLimit, [l]⟩ }
      fp := { u.fp with out := u.fp.out ++ [.fuelCommand f] } }
    refine ⟨rebuildWant w, congrArg Host.Outcome.next (fuelRequest_starts (s := v) hf hm),
      (rebuildWant_lowers w).1.of_same rfl rfl, (rebuildWant_eq (s := u) (u := w) rfl rfl).trans ?_⟩
    simp [w, v]
  · refine congrArg Host.Outcome.next ((fuelRequest_joins (s := v) hf ht).trans ?_)
    simp only [joinFlight, v, hr]
    rfl
  · let w : State := { v with
      fu := { u.fu with flight := some { c with joined := c.joined ++ [l] }, recorded := none } }
    have heq : fuelRequest f l v = completeAll r.waiting .superseded w := by
      rw [fuelRequest_joins (s := v) hf ht]
      simp only [joinFlight, v, hr]
      rfl
    refine ⟨_, congrArg Host.Outcome.next heq, ?_, superseded_parts (u := w) rfl⟩
    rw [completeAll_eq]
  · let w : State := { v with fu := { u.fu with flight := some { c with joined := [] }, recorded := some ⟨f, [l]⟩ } }
    have heq : fuelRequest f l v = completeAll c.joined .superseded w := by
      rw [fuelRequest_records (s := v) hf ht]
      simp only [recordTarget, v, hr]
      rfl
    refine ⟨_, congrArg Host.Outcome.next heq, ?_, superseded_parts (u := w) rfl⟩
    rw [completeAll_eq]
  · refine congrArg Host.Outcome.next ((fuelRequest_records (s := v) hf ht).trans ?_)
    simp only [recordTarget, v, hr]
    rfl

/-! ### Reports and the timeout (R110 to R112) -/

/-- The station as a report settles the fuel, before the joined ladders are told (R110). -/
def fuelSettled (f : Fuel) (s : State) : State := { s with
  fu := { s.fu with flight := none, lastReported := some f, mode := settledMode f }
  mc := { s.mc with faults := s.mc.faults.filter fun x => x.kind != .changeoverTimeout } }

theorem completeChangeover_eq (f : Fuel) (c : Changeover) (s : State) : completeChangeover f c s =
    match s.fu.recorded with
    | none => rebuildWant (completeAll c.joined .completed (fuelSettled f s))
    | some r => startRecorded r (completeAll c.joined .completed (fuelSettled f s)) := rfl

theorem fuelReport_free {f : Fuel} (h : s.fu.flight = none) : fuelReport f s =
    rebuildWant { s with fu := { s.fu with mode := settledMode f, lastReported := some f } } := by
  unfold fuelReport
  split
  · rfl
  · next hc => exact absurd (hc.symm.trans h) (Option.some_ne_none _)

theorem fuelReport_otherFuel {f : Fuel} {c : Changeover} (h : s.fu.flight = some c) (ht : c.target ≠ f) :
    fuelReport f s = { s with fu := { s.fu with lastReported := some f } } := by
  unfold fuelReport
  split
  · next hc => exact absurd (h.symm.trans hc) (Option.some_ne_none _)
  · next hc =>
    cases h.symm.trans hc
    exact if_neg ht

theorem fuelReport_completes {c : Changeover} (h : s.fu.flight = some c) :
    fuelReport c.target s = completeChangeover c.target c s := by
  unfold fuelReport
  split
  · next hc => exact absurd (h.symm.trans hc) (Option.some_ne_none _)
  · next hc =>
    cases h.symm.trans hc
    exact if_pos rfl

/-- A recorded target started: nothing is recorded any more (R110, R112). -/
theorem startRecorded_eq (r : RecordedTarget) (s : State) : startRecorded r s = rebuildWant { s with
    fu := { s.fu with
      mode := toMode r.target, flight := some ⟨r.target, s.mc.config.changeoverLimit, r.waiting⟩, recorded := none }
    fp := { s.fp with out := s.fp.out ++ [.fuelCommand r.target] } } := rfl

/-- The Fuel Unit once a recorded target, if there is one, is started (R110, R112). -/
def nextStarted (limit : Nat) (fu : FuelUnit) : Option RecordedTarget → FuelUnit
  | none => fu
  | some r => { fu with mode := toMode r.target, flight := some ⟨r.target, limit, r.waiting⟩, recorded := none }

/-- The FUEL COMMAND of a recorded target that is started. -/
def nextCommand : Option RecordedTarget → List FieldOut
  | none => []
  | some r => [.fuelCommand r.target]

/-- The station as a completed changeover leaves it, before the want is rebuilt: the joined ladders told and the
recorded target, if there is one, started (R110). -/
def changedOver (f : Fuel) (c : Changeover) (recorded : Option RecordedTarget) (s : State) : State :=
  { fuelSettled f s with
    rl := (completeAll c.joined .completed (fuelSettled f s)).rl
    fu := nextStarted s.mc.config.changeoverLimit (fuelSettled f s).fu recorded
    fp := { s.fp with out := s.fp.out ++ nextCommand recorded } }

theorem completeChangeover_rebuilds {f : Fuel} {c : Changeover} {recorded : Option RecordedTarget}
    (h : s.fu.recorded = recorded) : completeChangeover f c s = rebuildWant (changedOver f c recorded s) := by
  rw [completeChangeover_eq, h, completeAll_eq]
  unfold changedOver
  rw [completeAll_eq]
  cases recorded with
  | none => simp only [nextCommand, List.append_nil, nextStarted]; rfl
  | some r => exact startRecorded_eq _ _

theorem linkRestored_settled_faults (f : Fuel) (s : State) : (fuelSettled f (linkRestored s)).mc.faults =
    s.mc.faults.filter fun x => x.kind != .fieldLinkLost && x.kind != .changeoverTimeout := by
  simp [fuelSettled, linkRestored_eq, List.filter_filter, Bool.and_comm]

/-- The ladders after a completed changeover: the joined ones dwell, no other moved. -/
theorem joined_told {r : Six Ladder} {ls : List ClaimLine} {o : ActionOutcome} (hr : u.rl = r) :
    (∀ l, l ∈ ls → (r.get l).state = .stepping → ((completeAll ls o u).rl.get l).state = .dwell ∧
      ((completeAll ls o u).rl.get l).outcome = some o) ∧
    (∀ l, l ∈ ls → (r.get l).state = .undoInFlight → ((completeAll ls o u).rl.get l).state = .undoDwell ∧
      ((completeAll ls o u).rl.get l).outcome = some o) ∧
    (∀ l, l ∉ ls → (completeAll ls o u).rl.get l = r.get l) := by
  subst hr
  refine ⟨fun l h hs => ?_, fun l h hs => ?_, fun l h => completeAll_not_mem o u h⟩
  · rw [completeAll_mem o u h]
    exact finished_stepping hs
  · rw [completeAll_mem o u h]
    exact finished_undoInFlight hs

/-- Settles O36. -/
theorem fuelStatusReportsTheFuel : Obligations.FuelStatusReportsTheFuel := by
  have htaken : ∀ (f : Fuel) (s : State), s.mc.mode ≠ .loading → s.mc.config.role = some .boiler →
      exec (.fuelStatus f) s = .next (fuelReport f (linkRestored s)) := fun f s hm hr =>
    congrArg Host.Outcome.next (fieldMessage_taken hm (by simp [roleUses, hr]))
  refine ⟨fun f s hm hr => ⟨fun hf => ?_, fun c hf ht => ?_⟩, fun c s hm hr hf => ?_⟩
  · let w : State := { linkRestored s with fu := { s.fu with mode := settledMode f, lastReported := some f } }
    refine ⟨rebuildWant w, (htaken f s hm hr).trans (congrArg _ (fuelReport_free (s := linkRestored s) hf)),
      (rebuildWant_lowers w).1.of_same rfl rfl, (rebuildWant_eq (s := s) (u := w) rfl rfl).trans ?_⟩
    cases f <;> rfl
  · rw [htaken f s hm hr, fuelReport_otherFuel (s := linkRestored s) hf ht]
    rfl
  · let w := changedOver c.target c s.fu.recorded (linkRestored s)
    have hex : exec (.fuelStatus c.target) s = .next (rebuildWant w) := by
      rw [htaken c.target s hm hr, fuelReport_completes (s := linkRestored s) hf]
      exact congrArg _ (completeChangeover_rebuilds (s := linkRestored s) rfl)
    obtain ⟨htook, hundid, hothers⟩ :=
      joined_told (u := fuelSettled c.target (linkRestored s)) (ls := c.joined) (o := .completed) (r := s.rl) rfl
    have hcounts : ∀ l, (w.rl.get l).taken = (s.rl.get l).taken :=
      completeAll_taken c.joined .completed (fuelSettled c.target (linkRestored s))
    have hmc : w.mc = { s.mc with faults := s.mc.faults.filter fun x =>
        x.kind != .fieldLinkLost && x.kind != .changeoverTimeout } := by
      rw [← linkRestored_settled_faults c.target s]
      rfl
    have hfu : (rebuildWant w).fu = w.fu := by simp
    have hrl : (rebuildWant w).rl = w.rl := by simp
    have hwfu : w.fu = nextStarted s.mc.config.changeoverLimit (fuelSettled c.target (linkRestored s)).fu
      s.fu.recorded := rfl
    have hfp : (rebuildWant w).fp = { w.fp with out := w.fp.out ++ setpointSent s (rebuildWant w) } :=
      congrArg State.fp (rebuildWant_eq (s := s) (u := w) rfl rfl)
    refine ⟨rebuildWant w, hex, ?_, (rebuildWant_lowers w).1.of_same rfl rfl, hfp.trans ?_, by simpa using hmc,
      fun hrec => ?_, fun r hrec => ?_, ?_, fun l hl hs => ?_, fun l hl hs => ?_, fun l hl => ?_, by simp; rfl,
      by simp; rfl, by simp; rfl, by simp; rfl, by simp; rfl, by simp; rfl, by simp; rfl, by simp; rfl, by simp; rfl⟩
    · rw [hfu, hwfu]
      cases s.fu.recorded <;> rfl
    · cases hrec : s.fu.recorded with
      | none => simp only [w, hrec]; rfl
      | some r => simp only [w, hrec]; rfl
    · rw [hfu, hwfu, hrec]
      exact ⟨rfl, rfl⟩
    · rw [hfu, hwfu, hrec]
      exact ⟨rfl, rfl⟩
    · rw [hfu, hwfu]
      cases hrec : s.fu.recorded with
      | none => exact hrec
      | some r => rfl
    · rw [hrl]
      exact ⟨(htook l hl hs).1, (htook l hl hs).2, hcounts l⟩
    · rw [hrl]
      exact hundid l hl hs
    · rw [hrl]
      exact hothers l hl

theorem LoweredToWant.of_alike (h : LoweredToWant s u) (hse : t.se = u.se) (ha : WantAlike u t) :
    LoweredToWant s t := by
  simpa only [LoweredToWant, hse, effectiveWant_congr ha] using h

theorem finished_congr (hrl : u.rl = s.rl) (hc : u.mc.config = s.mc.config) (l : ClaimLine) (o : ActionOutcome) :
    finished l o u = finished l o s := by
  simp only [finished, stepDwell, ladderSteps, hrl, hc]

/-- The station as the changeover timer's end leaves it, before the want is rebuilt (R112). -/
def timedOut (s : State) : State := { s with
  fu := { s.fu with flight := none, mode := modeAfterTimeout s }
  mc := { s.mc with faults := faultsRaised .changeoverTimeout s.dc.time s.mc.faults } }

theorem changeoverExpires_eq (c : Changeover) (s : State) : changeoverExpires c s =
    let v := completeAll c.joined .timedOut (rebuildWant (timedOut s))
    match s.fu.recorded with
    | none => v
    | some r =>
      if modeAfterTimeout s = settledMode r.target then
        completeAll r.waiting .completed { v with fu := { v.fu with recorded := none } }
      else startRecorded r v := by
  have hraise := raiseFault_eq (k := .changeoverTimeout) (by decide) s
  simp only [changeoverExpires, hraise]
  rfl

/-- The joined ladders told that the changeover timed out, the want rebuilt (R112). -/
def timeoutTold (c : Changeover) (s : State) : State :=
  { rebuildWant (timedOut s) with rl := (completeAll c.joined .timedOut s).rl }

theorem completeAll_rebuilt (c : Changeover) (s : State) :
    completeAll c.joined .timedOut (rebuildWant (timedOut s)) = timeoutTold c s := by
  have hrl : (rebuildWant (timedOut s)).rl = s.rl := by simp [timedOut]
  have hfin : ∀ k, finished k .timedOut (rebuildWant (timedOut s)) = finished k .timedOut s := fun k =>
    finished_congr hrl (by simp [timedOut]) k _
  rw [timeoutTold, completeAll_eq, completeAll_eq]
  simp only [hfin, hrl]

theorem modeAfterTimeout_eq (s : State) : modeAfterTimeout s =
    match s.fu.lastReported with
    | some .gas => FuelMode.gas
    | some .backup => .backup
    | none => .unknown := by
  unfold modeAfterTimeout
  rcases s.fu.lastReported with _ | f
  · rfl
  · cases f <;> rfl

theorem exec_changeoverTimeout {c : Changeover} (hf : s.fu.flight = some c) (ht : c.timer = 0) :
    exec .changeoverTimeout s = .next (changeoverExpires c s) := by
  refine congrArg Host.Outcome.next ((effect_changeoverTimeout s).trans ?_)
  rw [hf]
  exact if_pos ht

/-- What the timed-out state holds of the station it came from. -/
theorem timeoutTold_parts (c : Changeover) (s : State) :
    (timeoutTold c s).fu = (timedOut s).fu ∧ (timeoutTold c s).mc = (timedOut s).mc ∧
    (timeoutTold c s).liu = s.liu ∧ (timeoutTold c s).peers = s.peers ∧ (timeoutTold c s).hu = s.hu ∧
    (timeoutTold c s).cu = s.cu ∧ (timeoutTold c s).tie = s.tie ∧ (timeoutTold c s).mu = s.mu ∧
    (timeoutTold c s).dc = s.dc ∧ (timeoutTold c s).rs = s.rs ∧ (timeoutTold c s).pending = s.pending := by
  simp [timeoutTold, timedOut]

theorem timeoutTold_fp (c : Changeover) (s : State) :
    (timeoutTold c s).fp = { s.fp with out := s.fp.out ++ setpointSent s (timeoutTold c s) } :=
  congrArg State.fp (rebuildWant_eq (s := s) (u := timedOut s) rfl rfl)

theorem timeoutTold_lowered (c : Changeover) (s : State) : LoweredToWant s (timeoutTold c s) := by
  have hlow : LoweredToWant s (rebuildWant (timedOut s)) := (rebuildWant_lowers (timedOut s)).1.of_same rfl rfl
  refine hlow.setRl fun k => ?_
  rw [completeAll_taken]
  simp [timedOut]

/-- Settles O37. -/
theorem changeoverTimesOut : Obligations.ChangeoverTimesOut := by
  intro c s hf ht m
  have hm : modeAfterTimeout s = m := modeAfterTimeout_eq s
  have hex := exec_changeoverTimeout hf ht
  rw [changeoverExpires_eq, completeAll_rebuilt] at hex
  obtain ⟨hfu, hmc, hliu, hpeers, hhu, hcu, htie, hmu, hdc, hrs, hpending⟩ := timeoutTold_parts c s
  obtain ⟨htook, hundid, hothers⟩ := joined_told (u := s) (ls := c.joined) (o := .timedOut) rfl
  have hrl : (timeoutTold c s).rl = (completeAll c.joined .timedOut s).rl := rfl
  have hfaults : (timeoutTold c s).mc =
      { s.mc with faults := faultsRaised .changeoverTimeout s.dc.time s.mc.faults } := hmc
  rcases hrec : s.fu.recorded with _ | r
  · rw [hrec] at hex
    refine ⟨_, hex, by rw [hfu]; rfl, hmc, by rw [hfu]; exact hrec, fun _ => ⟨by rw [hfu]; exact hm, by rw [hfu]; rfl,
      timeoutTold_lowered c s, timeoutTold_fp c s⟩, fun r h => absurd h.symm (Option.some_ne_none _),
      fun l hl _ hs => by rw [hrl]; exact htook l hl hs, fun l hl _ hs => by rw [hrl]; exact hundid l hl hs,
      fun r l h => absurd h.symm (Option.some_ne_none _), fun l hl _ => by rw [hrl]; exact hothers l hl,
      hliu, hpeers, hhu, hcu, htie, hmu, hdc, hrs, hpending⟩
  · rw [hrec] at hex
    have honly : ∀ r', some r = some r' → r' = r := fun r' h => (Option.some.inj h).symm
    by_cases hsettled : modeAfterTimeout s = settledMode r.target
    · let x : State := { timeoutTold c s with fu := { (timeoutTold c s).fu with recorded := none } }
      have hx : x.rl = (completeAll c.joined .timedOut s).rl := rfl
      have hxfu : x.fu = { (timedOut s).fu with recorded := none } := by rw [← hfu]
      obtain ⟨htook', hundid', hothers'⟩ := joined_told (u := x) (ls := r.waiting) (o := .completed) hx
      have hex' : exec .changeoverTimeout s = .next (completeAll r.waiting .completed x) :=
        hex.trans (congrArg _ (if_pos hsettled))
      have hsame : completeAll r.waiting .completed x =
          { x with rl := (completeAll r.waiting .completed x).rl } := by rw [completeAll_eq]
      have hlow : LoweredToWant s (completeAll r.waiting .completed x) :=
        (timeoutTold_lowered c s).of_alike (by simp [x]) (by simp [WantAlike, x])
      have hfp : (completeAll r.waiting .completed x).fp =
          { s.fp with out := s.fp.out ++ setpointSent s (completeAll r.waiting .completed x) } := by
        have hsent : setpointSent s (completeAll r.waiting .completed x) = setpointSent s (timeoutTold c s) := by
          simp [setpointSent, x]
        rw [hsent, ← timeoutTold_fp]
        simp [x]
      refine ⟨_, hex', by simp [hxfu, timedOut], by simpa [x] using hfaults, by simp [hxfu], fun _ =>
        ⟨by simpa [hxfu, timedOut] using hm, by simp [hxfu, timedOut], hlow, hfp⟩, fun r' h hne => ?_,
        fun l hl hw hs => ?_,
        fun l hl hw hs => ?_, fun r' l h hw hl => ⟨fun _ => ⟨fun hs => ?_, fun hs => ?_⟩, fun hne => ?_⟩,
        fun l hl hw => ?_, by simpa [x] using hliu, by simpa [x] using hpeers, by simpa [x] using hhu,
        by simpa [x] using hcu, by simpa [x] using htie, by simpa [x] using hmu, by simpa [x] using hdc,
        by simpa [x] using hrs, by simpa [x] using hpending⟩
      · cases honly r' h
        exact absurd (hm.symm.trans hsettled) hne
      · rw [hothers' l (hw r rfl)]
        exact htook l hl hs
      · rw [hothers' l (hw r rfl)]
        exact hundid l hl hs
      · cases honly r' h
        exact htook' l hw (by rw [hothers l hl, hs])
      · cases honly r' h
        exact hundid' l hw (by rw [hothers l hl, hs])
      · cases honly r' h
        exact absurd (hm.symm.trans hsettled) hne
      · rw [hothers' l (hw r rfl), hothers l hl]
    · have hex' : exec .changeoverTimeout s = .next (startRecorded r (timeoutTold c s)) :=
        hex.trans (congrArg _ (if_neg hsettled))
      have hstart : (startRecorded r (timeoutTold c s)).rl = (completeAll c.joined .timedOut s).rl := by
        simp [startRecorded_eq, hrl]
      have hstartfu : (startRecorded r (timeoutTold c s)).fu = { (timedOut s).fu with
          mode := toMode r.target, flight := some ⟨r.target, s.mc.config.changeoverLimit, r.waiting⟩
          recorded := none } := by
        simp [startRecorded_eq, hfu, hmc, timedOut]
      refine ⟨_, hex', by rw [hstartfu]; rfl, by simpa [startRecorded_eq] using hfaults, by rw [hstartfu], fun h => ?_,
        fun r' h _ => ?_, fun l hl _ hs => ?_, fun l hl _ hs => ?_, fun r' l h hw hl => ⟨fun he => ?_, fun _ => ?_⟩,
        fun l hl _ => ?_, by simpa [startRecorded_eq] using hliu, by simpa [startRecorded_eq] using hpeers,
        by simpa [startRecorded_eq] using hhu, by simpa [startRecorded_eq] using hcu,
        by simpa [startRecorded_eq] using htie, by simpa [startRecorded_eq] using hmu,
        by simpa [startRecorded_eq] using hdc, by simpa [startRecorded_eq] using hrs,
        by simpa [startRecorded_eq] using hpending⟩
      · rcases h with h | ⟨r', h, he⟩
        · exact absurd h (Option.some_ne_none _)
        · cases honly r' h
          exact absurd (hm.trans he) hsettled
      · cases honly r' h
        rw [hstartfu]
        exact ⟨rfl, rfl⟩
      · rw [hstart]
        exact htook l hl hs
      · rw [hstart]
        exact hundid l hl hs
      · cases honly r' h
        exact absurd (hm.trans he) hsettled
      · rw [hstart, hothers l hl]
      · rw [hstart, hothers l hl]

end Sys2Proof.Machine
end

section
/-! The statement about a level sample (R61 to R65): the band it gives, the claims a change of band brings, and what a
BAD sample and the loss of the level do. -/

namespace Sys2Proof.Machine

variable {s u : State}

/-! ### The band a level gives (R61, R62) -/

theorem bandAfter_first (c : StationConfig) (level : Nat) : bandAfter c .none level = firstBand c level := rfl

theorem bandAfter_later {b : Band} (h : b ≠ .none) (c : StationConfig) (level : Nat) :
    bandAfter c b level = (risenBand c b level).getD (fallenBand c b level) := by
  cases b
  case none => exact absurd rfl h
  all_goals
    simp only [bandAfter]
    split <;> simp [*]

theorem mem_bandsAbove {b x : Band} (h : b ≠ .none) : x ∈ bandsAbove b ↔ bandCode b < bandCode x := by
  cases b
  case none => exact absurd rfl h
  all_goals cases x <;> decide

/-- The bands above a band stand the highest first. -/
theorem bandsAbove_descending (b : Band) : (bandsAbove b).Pairwise fun x y => bandCode y ≤ bandCode x := by
  cases b <;> decide

/-- The first of a descending list that a test picks is the highest it would pick. -/
theorem find_highest {p : Band → Bool} {l : List Band} (hd : l.Pairwise fun x y => bandCode y ≤ bandCode x) {x y : Band}
    (hf : l.find? p = some x) (hy : y ∈ l) (hp : p y = true) : bandCode y ≤ bandCode x := by
  induction l with
  | nil => cases hy
  | cons z rest ih =>
    obtain ⟨hz, hrest⟩ := List.pairwise_cons.1 hd
    by_cases hpz : p z = true
    · obtain rfl : z = x := by simpa [List.find?_cons, hpz] using hf
      rcases List.mem_cons.1 hy with rfl | hy
      · exact le_rfl
      · exact hz y hy
    · rcases List.mem_cons.1 hy with rfl | hy
      · exact absurd hp hpz
      · exact ih hrest (by simpa [List.find?_cons, hpz] using hf) hy

theorem risenBand_some {c : StationConfig} {b x : Band} {level : Nat} (hb : b ≠ .none)
    (h : risenBand c b level = some x) :
    bandCode b < bandCode x ∧ lowerBoundary c x + 20 ≤ level ∧
      ∀ y, bandCode b < bandCode y → lowerBoundary c y + 20 ≤ level → bandCode y ≤ bandCode x := by
  refine ⟨(mem_bandsAbove hb).1 (List.mem_of_find?_eq_some h), by simpa using List.find?_some h, fun y hy hl => ?_⟩
  exact find_highest (bandsAbove_descending b) h ((mem_bandsAbove hb).2 hy) (by simpa using hl)

theorem risenBand_none {c : StationConfig} {b : Band} {level : Nat} (hb : b ≠ .none) :
    risenBand c b level = none ↔ ∀ y, bandCode b < bandCode y → level < lowerBoundary c y + 20 := by
  simp [risenBand, List.find?_eq_none, mem_bandsAbove hb]

/-- A falling level has brought a band down to another: every boundary crossed lies more than 20 above the level, the
one above which it stops does not (R62). -/
structure FallsTo (c : StationConfig) (level : Nat) (b x : Band) : Prop where
  below : bandCode x ≤ bandCode b
  known : x ≠ .none
  crossed : ∀ y, bandCode x < bandCode y → bandCode y ≤ bandCode b → level + 20 < lowerBoundary c y
  stops : x ≠ .emptyGuard → lowerBoundary c x ≤ level + 20

theorem fallsTo_self {c : StationConfig} {level : Nat} {b : Band} (hb : b ≠ .none)
    (hl : lowerBoundary c b ≤ level + 20) : FallsTo c level b b :=
  ⟨le_rfl, hb, fun _ h h' => absurd h (by omega), fun _ => hl⟩

theorem eq_of_bandCode {x y : Band} (h : bandCode x = bandCode y) : x = y := by
  revert h
  cases x <;> cases y <;> decide

/-- One step of the fall: the band stands, or it goes on from the band below. -/
theorem fallsTo_step {c : StationConfig} {level : Nat} {b b' x : Band} (hb : bandCode b = bandCode b' + 1)
    (hne : b ≠ .none) (h : FallsTo c level b' x) :
    FallsTo c level b (if fallsBelow (lowerBoundary c b) level then x else b) := by
  by_cases hl : level + 20 < lowerBoundary c b
  · rw [if_pos (by simpa [fallsBelow] using hl)]
    refine ⟨by have := h.below; omega, h.known, fun y hx hy => ?_, h.stops⟩
    by_cases he : bandCode y ≤ bandCode b'
    · exact h.crossed y hx he
    · obtain rfl : y = b := eq_of_bandCode (by omega)
      exact hl
  · rw [if_neg (by simpa [fallsBelow] using hl)]
    exact fallsTo_self hne (by omega)

theorem fallenBand_falls {c : StationConfig} {b : Band} {level : Nat} (hb : b ≠ .none) :
    FallsTo c level b (fallenBand c b level) := by
  have empty : FallsTo c level .emptyGuard .emptyGuard := fallsTo_self (by decide) (Nat.zero_le _)
  have low : FallsTo c level .low (fallenBand c .low level) := fallsTo_step rfl (by decide) empty
  have normal : FallsTo c level .normal (fallenBand c .normal level) := fallsTo_step rfl (by decide) low
  have high : FallsTo c level .high (fallenBand c .high level) := fallsTo_step rfl (by decide) normal
  have flare : FallsTo c level .flare (fallenBand c .flare level) := fallsTo_step rfl (by decide) high
  cases b
  case none => exact absurd rfl hb
  case emptyGuard => exact empty
  case low => exact low
  case normal => exact normal
  case high => exact high
  case flare => exact flare

/-! ### The claims that follow the band (R64) -/

/-- An own claim asserted is own, every other own claim standing (R76). -/
theorem assertOwn_own (l k : ClaimLine) (s : State) :
    ((assertOwn l s).cu.get k).own = if k = l then true else (s.cu.get k).own := by
  by_cases ho : (s.cu.get l).own = true
  · rw [assertOwn, assertOwnWith, if_pos ho]
    split
    · next h => rw [h, ho]
    · rfl
  · rw [assertOwn, assertOwnWith, if_neg ho]
    have hset : ∀ t : State, ((setBitWith (rise l) t.mc.node.val l t).cu.get k).own = (t.cu.get k).own := fun t =>
      (setBit_frame t t.mc.node.val l).2.2.2.2.2.2.2.2.2.2.2.1 k
    simp only [enqueue_frame]
    rw [show s.mc.node = (setLine l { s.cu.get l with own := true } s).mc.node from rfl, hset]
    simp only [setLine, setCu_cu, Six.get_set]
    split <;> simp_all

/-- An own claim released is not own, every other own claim standing (R76). -/
theorem releaseOwn_own (l k : ClaimLine) (s : State) :
    ((releaseOwn l s).cu.get k).own = if k = l then false else (s.cu.get k).own := by
  rw [releaseOwn_line]
  by_cases hk : k = l
  · subst hk
    by_cases ho : (s.cu.get k).own = true
    · simp [ho]
    · simp [ho]
  · simp [hk]

theorem bandClaims_own (b : Band) (s : State) :
    (((bandClaims b s).cu.get ⟨s.mc.config.main, .shortfall⟩).own = true ↔ b = .emptyGuard ∨ b = .low) ∧
      (((bandClaims b s).cu.get ⟨s.mc.config.main, .surplus⟩).own = true ↔ b = .high ∨ b = .flare) := by
  cases b <;> simp [bandClaims, assertOwn_own, releaseOwn_own]

theorem bandChanged_own (hm : s.mc.mode = .listenIn ∨ s.mc.mode = .active) :
    (bandChanged s).cu = (bandClaims s.hu.band s).cu := by
  have hf : claimsFollowBand s.mc.mode = true := by
    rcases hm with h | h <;> rw [h] <;> rfl
  simp only [bandChanged, hf, if_true]
  split <;> simp

/-! ### The level's timer stands through what a change of band brings -/

@[simp] theorem startFlare_levelTimer (r : FlareRequest) (s : State) :
    (startFlare r s).hu.levelTimer = s.hu.levelTimer := by
  simp only [startFlare]
  split <;> simp [commandFlare]

@[simp] theorem flareRequest_levelTimer (r : FlareRequest) (s : State) :
    (flareRequest r s).hu.levelTimer = s.hu.levelTimer := by
  simp only [flareRequest]
  split <;> simp

@[simp] theorem takeStep_levelTimer (l : ClaimLine) (s : State) : (takeStep l s).hu.levelTimer = s.hu.levelTimer := by
  simp only [takeStep]
  split
  · rfl
  · simp only [askTake]
    split <;> simp

@[simp] theorem undoStep_levelTimer (l : ClaimLine) (s : State) : (undoStep l s).hu.levelTimer = s.hu.levelTimer := by
  simp only [undoStep]
  split
  · rfl
  · split
    · rfl
    · simp only [askUndo]
      split <;> simp

@[simp] theorem ladderRise_levelTimer (l : ClaimLine) (s : State) :
    (ladderRise l s).hu.levelTimer = s.hu.levelTimer := by
  simp only [ladderRise]
  split <;> simp

@[simp] theorem ladderFall_levelTimer (l : ClaimLine) (s : State) :
    (ladderFall l s).hu.levelTimer = s.hu.levelTimer := by
  simp only [ladderFall]
  split <;> simp

theorem levelTimer_kept (x : Option Nat) : LineKept fun s => s.hu.levelTimer = x where
  drawn s hs := hs
  enqueue b s hs := by simpa using hs
  ladderRise l s _ hs := by simpa using hs
  ladderFall l s hs := by simpa using hs
  setPending b l s hs := by simpa using hs
  latch _ s hs := hs
  activated s hs := by simpa [activated] using hs
  enterListenIn s hs := by simpa using hs
  setLine _ _ s _ hs := hs

@[simp] theorem floorEntry_levelTimer (s : State) : (floorEntry s).hu.levelTimer = s.hu.levelTimer := by
  simp only [floorEntry]
  (repeat' split) <;> simp [commandFlare]

@[simp] theorem bandChanged_levelTimer (s : State) : (bandChanged s).hu.levelTimer = s.hu.levelTimer := by
  have h := (levelTimer_kept s.hu.levelTimer).bandClaims s.hu.band rfl
  simp only [bandChanged]
  (repeat' split) <;> simp [h]

/-! ### A sample -/

/-- A holder with a valid sample taken, before a change of band brings anything (R61, R65). -/
def sampled (v : Nat) (s : State) : State :=
  { s with
    hu := { s.hu with level := Nat.min v 1000, levelTimer := some 30
                      band := bandAfter s.mc.config s.hu.band (Nat.min v 1000) }
    mc := { s.mc with faults := faultsCleared .levelLost s.mc.faults } }

theorem levelSample_eq (v : Nat) (s : State) : levelSample v s =
    if bandAfter s.mc.config s.hu.band (Nat.min v 1000) = s.hu.band then sampled v s
    else bandChanged (sampled v s) := rfl

theorem exec_level {v : Nat} (st : SampleStatus) (hm : s.mc.mode ≠ .loading) (hr : s.mc.config.role = some .holder) :
    exec (.level st v) s = .next (takeLevel st v (linkRestored s)) :=
  congrArg Host.Outcome.next ((effect_level s st v).trans (fieldMessage_taken hm (by simp [roleUses, hr])))

theorem faultPresent_cleared (k : FaultKind) (faults : List FaultEntry) :
    faultPresent k (faultsCleared k faults) = false := by
  simp [faultPresent, faultsCleared]

/-- A sample moves the level, its timer and the band, and only a change of band brings more. -/
theorem levelSample_parts (v : Nat) (s : State) :
    (levelSample v s).hu.level = Nat.min v 1000 ∧
      (levelSample v s).hu.levelTimer = some 30 ∧ (levelSample v s).hu.position = s.hu.position ∧
      (levelSample v s).hu.band = bandAfter s.mc.config s.hu.band (Nat.min v 1000) ∧
      (levelSample v s).mc.faults = faultsCleared .levelLost s.mc.faults ∧
      (levelSample v s).fp.link = s.fp.link ∧ (levelSample v s).fp.linkTimer = s.fp.linkTimer ∧
      (levelSample v s).peers = s.peers ∧ (levelSample v s).tie = s.tie ∧ (levelSample v s).mu = s.mu ∧
      (levelSample v s).dc = s.dc ∧ (levelSample v s).rs = s.rs ∧ (levelSample v s).pending = s.pending := by
  rw [levelSample_eq]
  split <;> simp [sampled]

/-- Settles O39. -/
theorem levelSampleBandsTheHolder : Obligations.LevelSampleBandsTheHolder := by
  refine ⟨fun v s hm hr => ?_, fun v s hm hr => exec_level .bad hm hr, fun s ht hl => ?_⟩
  · intro c level
    have hex : exec (.level .ok v) s = .next (levelSample v (linkRestored s)) := exec_level .ok hm hr
    obtain ⟨hlevel, htimer, hpos, hband, hfaults, hlink, hlinkTimer, hothers⟩ := levelSample_parts v (linkRestored s)
    replace hband : (levelSample v (linkRestored s)).hu.band = bandAfter c s.hu.band level := by simpa using hband
    rw [hex]
    refine ⟨_, rfl, hlevel, htimer, by rw [hfaults]; exact faultPresent_cleared _ _, hlink, hlinkTimer, fun hb => ?_,
      fun hb => ?_, fun hmode hne => ?_, fun he => ?_, hpos, hothers⟩
    · rw [hband, hb]
      rfl
    · rw [hband, bandAfter_later hb]
      cases hrisen : risenBand c s.hu.band level with
      | some x =>
        obtain ⟨hx, hxl, htop⟩ := risenBand_some hb hrisen
        refine ⟨htop, fun _ => hxl, fun h => ?_⟩
        have := h x hx
        omega
      | none =>
        obtain ⟨hbelow, hknown, hcrossed, hstops⟩ := fallenBand_falls (c := c) (level := level) hb
        have hnone := (risenBand_none hb).1 hrisen
        refine ⟨fun b h h' => ?_, fun h => ?_, fun _ => ⟨hbelow, hknown, hcrossed, hstops⟩⟩
        · have := hnone b h
          omega
        · simp only [Option.getD_none] at h
          omega
    · have hb : bandAfter c s.hu.band level ≠ s.hu.band := by rwa [hband] at hne
      have heq : levelSample v (linkRestored s) = bandChanged (sampled v (linkRestored s)) :=
        (levelSample_eq v _).trans (if_neg hb)
      rw [heq, bandChanged_own (by simpa [sampled] using hmode)]
      simpa [sampled] using bandClaims_own (sampled v (linkRestored s)).hu.band (sampled v (linkRestored s))
    · have hb : bandAfter c s.hu.band level = s.hu.band := by rwa [hband] at he
      have heq : levelSample v (linkRestored s) = sampled v (linkRestored s) :=
        (levelSample_eq v _).trans (if_pos hb)
      rw [heq]
      exact ⟨rfl, rfl, rfl, rfl, rfl, rfl⟩
  · have hraise := raiseFault_eq (k := .levelLost) (by decide) s
    have hthere : faultPresent .levelLost (faultsRaised .levelLost s.dc.time s.mc.faults) = true := by
      by_cases hp : faultPresent .levelLost s.mc.faults = true
      · rw [faultsRaised, if_pos hp, hp]
      · rw [faultsRaised, if_neg hp, if_pos hl]
        simp [faultPresent]
    refine ⟨_, congrArg Host.Outcome.next ((effect_levelLost s).trans (by rw [ht]; exact hraise)), rfl, ?_, ?_⟩
    · exact if_pos hthere
    · exact if_pos hthere

end Sys2Proof.Machine
end

section
/-! The statement about the ends of a flare move (R66 to R71): a report, the timer's end, and the move that follows. -/

namespace Sys2Proof.Machine

variable {s u : State}

/-! ### The end of a move (R68, R69) -/

/-- The ladders once the request of a flare move, where it has one, has been told of its end. -/
def flareTold (m : FlareMove) (o : ActionOutcome) (s : State) : Six Ladder :=
  match m.requester with
  | some r => s.rl.set r.line (finished r.line o s)
  | none => s.rl

theorem reportFlare_eq (m : FlareMove) (o : ActionOutcome) (s : State) :
    reportFlare m o s = { s with rl := flareTold m o s } := by
  rw [reportFlare, flareTold]
  cases m.requester with
  | none => rfl
  | some r => exact completeAction_eq r.line o s

theorem flareTold_told {m : FlareMove} {o : ActionOutcome} (h : u.rl = flareTold m o s) : LadderToldOf m o s u := by
  have hreq {r : FlareRequest} (hr : m.requester = some r) : u.rl.get r.line = finished r.line o s := by
    rw [h, flareTold, hr]
    exact Six.get_set_self _ _ _
  refine ⟨fun r hr hst => ?_, fun r hr hst => ?_, fun l hl => ?_⟩
  · rw [hreq hr]
    exact finished_stepping hst
  · rw [hreq hr]
    exact finished_undoInFlight hst
  · rw [h, flareTold]
    cases hr : m.requester with
    | none => rfl
    | some r => simp only [Six.get_set, if_neg fun h : l = r.line => hl r hr h.symm]

/-- A holder with its flare move ended at its target, before what follows. -/
def moveEnded (m : FlareMove) (o : ActionOutcome) (s : State) : State := { s with
  rl := flareTold m o s
  hu := { s.hu with position := some m.target, move := none } }

theorem flareTold_congr (hrl : u.rl = s.rl) (hc : u.mc.config = s.mc.config) (m : FlareMove) (o : ActionOutcome) :
    flareTold m o u = flareTold m o s := by
  simp only [flareTold, finished_congr hrl hc, hrl]

theorem completeFlare_eq (m : FlareMove) (o : ActionOutcome) (s : State) :
    completeFlare m o s = afterFlareMove (moveEnded m o s) := by
  let v : State := s.setHu { s.hu with position := some m.target, move := none }
  have htold : flareTold m o v = flareTold m o s := flareTold_congr rfl rfl m o
  rw [completeFlare, reportFlare_eq, htold]
  rfl

theorem belowFloor_iff : belowFloor s = true ↔ s.hu.band = .flare ∧ s.hu.position.getD 0 = 0 := by
  simp [belowFloor, flarePosition]

/-- A move ended with nothing below the floor and nothing waiting is followed by none. -/
theorem completeFlare_rests {m : FlareMove} {o : ActionOutcome} (hw : s.hu.waiting = [])
    (hb : s.hu.band = .flare → m.target ≠ 0) : completeFlare m o s = moveEnded m o s := by
  have hfloor : ¬belowFloor (moveEnded m o s) = true := by
    rw [belowFloor_iff]
    rintro ⟨hband, hzero⟩
    exact hb hband hzero
  have hwait : (moveEnded m o s).hu.waiting = [] := hw
  rw [completeFlare_eq, afterFlareMove, if_neg hfloor, hwait, startWaiting, State.setHu]
  simp only [moveEnded, hw]

/-- A move ended at 0 in band FLARE is followed by the floor move, ahead of what waits (R70). -/
theorem completeFlare_floor {m : FlareMove} {o : ActionOutcome} (hb : s.hu.band = .flare) (ht : m.target = 0) :
    completeFlare m o s = { moveEnded m o s with
      hu := { s.hu with position := some m.target, move := some ⟨1, none, 60⟩ }
      fp := { s.fp with out := s.fp.out ++ [.flareCommand 1] } } := by
  rw [completeFlare_eq, afterFlareMove, if_pos ((belowFloor_iff (s := moveEnded m o s)).2 ⟨hb, ht⟩)]
  rfl

/-! ### Reports (R66, R68, R71) -/

/-- A holder's station with the end of a move reported, before the move ends. -/
def reportTaken (s : State) : State := clearFault .flareTimeout (linkRestored s)

theorem reportTaken_eq (s : State) : reportTaken s = { s with
    fp := { s.fp with link := .up, linkTimer := some 10 }
    mc := { s.mc with
      faults := s.mc.faults.filter fun x => x.kind != .fieldLinkLost && x.kind != .flareTimeout } } := by
  simp only [reportTaken, clearFault, linkRestored_eq, State.setMc, faultsCleared, List.filter_filter, Bool.and_comm]

theorem exec_flareStatus (p : Nat) (hm : s.mc.mode ≠ .loading) (hr : s.mc.config.role = some .holder)
    (hmain : s.mc.config.main ≠ .m2) : exec (.flareStatus p) s = .next (flareReport p (linkRestored s)) :=
  congrArg Host.Outcome.next
    ((effect_flareStatus s p).trans (fieldMessage_taken hm (by simp [roleUses, hasFlare, hr, hmain])))

theorem flareReport_target {p : Nat} {m : FlareMove} (hm : s.hu.move = some m) (hp : Nat.min p 4 = m.target) :
    flareReport p (linkRestored s) = completeFlare m .completed (reportTaken s) := by
  have hmove : (linkRestored s).hu.move = some m := hm
  simp only [flareReport, hmove, if_pos hp]
  rfl

theorem flareReport_adopted {p : Nat} (hm : ∀ m, s.hu.move = some m → Nat.min p 4 ≠ m.target)
    (hf : s.hu.move = none → floorRefuses (Nat.min p 4) s = false) :
    flareReport p s = s.setHu { s.hu with position := some (adoptedPosition (Nat.min p 4) s) } := by
  cases hmove : s.hu.move with
  | some m => simp only [flareReport, hmove, if_neg (hm m hmove)]
  | none => simp [flareReport, hmove, hf hmove]

theorem floorRefuses_iff (p : Nat) : floorRefuses p s = true ↔
    s.hu.band = .flare ∧ 1 ≤ s.hu.position.getD 0 ∧ p = 0 := by
  simp only [floorRefuses, flarePosition, Bool.and_eq_true, beq_iff_eq, and_assoc]
  exact and_congr_right' (and_congr_left' decide_eq_true_iff)

theorem adoptedPosition_eq (p : Nat) (s : State) :
    adoptedPosition p s = if floorRefuses p s = true then 1 else p := by
  simp only [floorRefuses_iff]
  rfl

theorem flareReported_of {m : FlareMove} {move : Option FlareMove} {sent : List FieldOut}
    (h : u = { moveEnded m .completed (reportTaken s) with
      hu := { s.hu with position := some m.target, move := move }
      fp := { (reportTaken s).fp with out := s.fp.out ++ sent } }) : FlareReported m move sent s u := by
  subst h
  exact ⟨⟨rfl, rfl, rfl, rfl, rfl, rfl, rfl, rfl, rfl, rfl, rfl⟩, flareTold_told (flareTold_congr rfl rfl m _), rfl,
    congrArg State.mc (reportTaken_eq s)⟩

/-! ### The timer's end (R69) -/

/-- A holder's station with FLARE TIMEOUT raised, before the move ends. -/
def flareLate (s : State) : State :=
  { s with mc := { s.mc with faults := faultsRaised .flareTimeout s.dc.time s.mc.faults } }

theorem flareExpires_eq (m : FlareMove) (s : State) :
    flareExpires m s = completeFlare m .timedOut (flareLate s) := by
  rw [flareExpires, raiseFault_eq (by decide)]
  rfl

theorem exec_flareTimeout {m : FlareMove} (hm : s.hu.move = some m) (ht : m.timer = 0) :
    exec .flareTimeout s = .next (completeFlare m .timedOut (flareLate s)) := by
  refine congrArg Host.Outcome.next ((effect_flareTimeout s).trans ?_)
  simp only [hm, if_pos ht, flareExpires_eq]

theorem flareTimedOut_of {m : FlareMove} {move : Option FlareMove} {sent : List FieldOut}
    (h : u = { moveEnded m .timedOut (flareLate s) with
      hu := { s.hu with position := some m.target, move := move }
      fp := { s.fp with out := s.fp.out ++ sent } }) : FlareTimedOut m move sent s u := by
  subst h
  exact ⟨⟨rfl, rfl, rfl, rfl, rfl, rfl, rfl, rfl, rfl, rfl, rfl⟩, flareTold_told (flareTold_congr rfl rfl m _), rfl,
    rfl⟩

/-- Settles O40. -/
theorem flareMovesEnd : Obligations.FlareMovesEnd := by
  refine ⟨fun p m s hm hr hmain hmove hp => ⟨fun hw hb => ?_, fun hb ht => ?_⟩, fun p s hm hr hmain hb hmove => ?_,
    fun m s hmove ht => ⟨fun hw hb => ?_, fun hb hz => ?_⟩, fun k s hm hr hmain hb hpos hmove => ?_,
    fun p s hm hr hmain hb hmove => ?_⟩
  · refine ⟨_, (exec_flareStatus p hm hr hmain).trans (congrArg Host.Outcome.next (flareReport_target hmove hp)),
      flareReported_of ?_⟩
    rw [completeFlare_rests (s := reportTaken s) hw hb, List.append_nil]
    rfl
  · refine ⟨_, (exec_flareStatus p hm hr hmain).trans (congrArg Host.Outcome.next (flareReport_target hmove hp)),
      flareReported_of ?_⟩
    exact completeFlare_floor (s := reportTaken s) hb ht
  · have hf : floorRefuses (Nat.min p 4) (linkRestored s) = false :=
      Bool.eq_false_iff.2 fun h => hb ((floorRefuses_iff _).1 h).1
    refine (exec_flareStatus p hm hr hmain).trans (congrArg Host.Outcome.next ?_)
    rw [flareReport_adopted (s := linkRestored s) hmove fun _ => hf, adoptedPosition_eq, hf]
    rfl
  · refine ⟨_, exec_flareTimeout hmove ht, flareTimedOut_of ?_⟩
    rw [completeFlare_rests (s := flareLate s) hw hb, List.append_nil]
    rfl
  · exact ⟨_, exec_flareTimeout hmove ht, flareTimedOut_of (completeFlare_floor (s := flareLate s) hb hz)⟩
  · have hf : floorRefuses (Nat.min 0 4) (linkRestored s) = true :=
      (floorRefuses_iff _).2 ⟨hb, by simp [hpos], rfl⟩
    refine (exec_flareStatus 0 hm hr hmain).trans (congrArg Host.Outcome.next ?_)
    have hnone : (linkRestored s).hu.move = none := hmove
    simp only [flareReport, hnone, hf, if_true, adoptedPosition_eq]
    rfl
  · intro holding
    have hadopts (hf : s.hu.move = none → floorRefuses (Nat.min p 4) (linkRestored s) = false) :
        exec (.flareStatus p) s = .next (holding (adoptedPosition (Nat.min p 4) (linkRestored s))) :=
      (exec_flareStatus p hm hr hmain).trans
        (congrArg Host.Outcome.next (flareReport_adopted (s := linkRestored s) hmove hf))
    refine ⟨fun hp => ?_, fun hp hpos => ?_, fun hp hpos hmove => ?_⟩
    · have hf : floorRefuses (Nat.min p 4) (linkRestored s) = false := by
        refine Bool.eq_false_iff.2 fun h => ?_
        obtain ⟨-, -, hz⟩ := (floorRefuses_iff _).1 h
        have hz : min p 4 = 0 := hz
        omega
      rw [hadopts fun _ => hf, adoptedPosition_eq, hf]
      rfl
    · have hf : floorRefuses (Nat.min p 4) (linkRestored s) = false := by
        refine Bool.eq_false_iff.2 fun h => ?_
        obtain ⟨-, hone, -⟩ := (floorRefuses_iff _).1 h
        have hone : 1 ≤ s.hu.position.getD 0 := hone
        omega
      rw [hadopts fun _ => hf, adoptedPosition_eq, hf, hp]
      rfl
    · have hf : floorRefuses (Nat.min p 4) (linkRestored s) = true :=
        (floorRefuses_iff _).2 ⟨hb, hpos, by rw [hp]; rfl⟩
      rw [hadopts fun h => absurd h hmove, adoptedPosition_eq, hf]
      rfl

end Sys2Proof.Machine
end

section
/-! The statement about the flare floor and the waiting requests (R61, R67, R68, R70, R72). -/

namespace Sys2Proof.Machine

variable {s t u : State}

/-! ### The FLARE COMMANDs sent -/

theorem flareCommands_append (x y : List FieldOut) : flareCommands (x ++ y) = flareCommands x ++ flareCommands y :=
  List.filterMap_append

theorem flareCommands_none {x : List FieldOut} (h : ∀ p, FieldOut.flareCommand p ∉ x) : flareCommands x = [] := by
  refine List.filterMap_eq_nil_iff.2 fun m hm => ?_
  cases m
  case flareCommand p => exact absurd hm (h p)
  all_goals rfl

/-! ### What moves no flare -/

/-- A state in which the holder and its flare stand as in another, no FLARE COMMAND being sent between. -/
structure FlareStands (s t : State) : Prop where
  holder : t.hu = s.hu
  sent : flareCommands t.fp.out = flareCommands s.fp.out
  config : t.mc.config = s.mc.config
  mode : t.mc.mode = s.mc.mode

theorem FlareStands.of_same (hhu : t.hu = s.hu) (hfp : t.fp.out = s.fp.out) (hc : t.mc.config = s.mc.config)
    (hm : t.mc.mode = s.mc.mode) : FlareStands s t := ⟨hhu, congrArg flareCommands hfp, hc, hm⟩

theorem FlareStands.refl (s : State) : FlareStands s s := .of_same rfl rfl rfl rfl

theorem FlareStands.trans (h : FlareStands s t) (h' : FlareStands t u) : FlareStands s u :=
  ⟨h'.holder.trans h.holder, h'.sent.trans h.sent, h'.config.trans h.config, h'.mode.trans h.mode⟩

/-- The same, the later part first. -/
theorem FlareStands.after (h' : FlareStands t u) (h : FlareStands s t) : FlareStands s u := h.trans h'

theorem flareStands_setLine (l : ClaimLine) (x : LineState) (s : State) : FlareStands s (setLine l x s) :=
  .of_same rfl rfl rfl rfl

theorem flareStands_enqueue (b : TxBody) (s : State) : FlareStands s (enqueue b s) :=
  .of_same (by simp) (by simp) (by simp) (by simp)

theorem flareStands_completeAction (l : ClaimLine) (o : ActionOutcome) (s : State) :
    FlareStands s (completeAction l o s) := .of_same (by simp) (by simp) (by simp) (by simp)

theorem flareStands_rebuildWant (s : State) : FlareStands s (rebuildWant s) := by
  refine ⟨by simp, ?_, by simp, by simp⟩
  rw [rebuildWant_eq (s := s) rfl rfl, flareCommands_append, flareCommands_none (x := setpointSent s _), List.append_nil]
  intro p hp
  simp only [setpointSent] at hp
  split at hp <;> simp_all

theorem flareStands_completeAll (ls : List ClaimLine) (o : ActionOutcome) (s : State) :
    FlareStands s (completeAll ls o s) := by
  rw [completeAll_eq]
  exact .of_same rfl rfl rfl rfl

theorem flareStands_fuelRequest (f : Fuel) (l : ClaimLine) (s : State) : FlareStands s (fuelRequest f l s) := by
  have starts : FlareStands s (startChangeover f [l] s) := by
    refine (flareStands_rebuildWant _).after ⟨rfl, ?_, rfl, rfl⟩
    exact (flareCommands_append _ _).trans (List.append_nil _)
  rw [fuelRequest]
  split
  · split
    · exact flareStands_completeAction l .completed s
    · exact starts
  · split
    · simp only [joinFlight]
      split
      · exact .of_same rfl rfl rfl rfl
      · exact (flareStands_completeAll _ _ _).after (.of_same rfl rfl rfl rfl)
    · simp only [recordTarget]
      split
      · exact .of_same rfl rfl rfl rfl
      · exact (flareStands_completeAll _ _ _).after (.of_same rfl rfl rfl rfl)

theorem flareStands_askTake {a : Action} (ha : a ≠ .flareStep) (l : ClaimLine) (s : State) :
    FlareStands s (askTake a l s) := by
  cases a with
  | none => exact flareStands_completeAction l .completed s
  | shed => exact (flareStands_rebuildWant s).trans (flareStands_completeAction l .completed _)
  | raise k => exact (flareStands_rebuildWant s).trans (flareStands_completeAction l .completed _)
  | fuelBackup => exact flareStands_fuelRequest .backup l s
  | fuelGas => exact flareStands_fuelRequest .gas l s
  | flareStep => exact absurd rfl ha
  | wake r => exact (flareStands_enqueue _ s).trans (flareStands_completeAction l .completed _)

theorem flareStands_askUndo {a : Action} (ha : a ≠ .flareStep) (l : ClaimLine) (s : State) :
    FlareStands s (askUndo a l s) := by
  cases a with
  | none => exact flareStands_completeAction l .completed s
  | shed => exact (flareStands_rebuildWant s).trans (flareStands_completeAction l .completed _)
  | raise k => exact (flareStands_rebuildWant s).trans (flareStands_completeAction l .completed _)
  | fuelBackup => exact flareStands_fuelRequest .gas l s
  | fuelGas => exact flareStands_fuelRequest .backup l s
  | flareStep => exact absurd rfl ha
  | wake r => exact flareStands_completeAction l .completed s

/-- A line's ladder has no FLARE STEP. -/
def NoFlareStep (l : ClaimLine) (c : StationConfig) : Prop := ∀ st ∈ (c.lines.get l).steps, st.action ≠ .flareStep

theorem flareStands_ladderRise {l : ClaimLine} (h : NoFlareStep l s.mc.config) : FlareStands s (ladderRise l s) := by
  rw [ladderRise]
  split
  · rw [takeStep]
    split
    · exact .refl s
    · next st hst =>
      exact (flareStands_askTake (h st (List.mem_of_getElem? hst)) l _).after (.of_same rfl rfl rfl rfl)
  all_goals exact .refl s

theorem flareStands_ladderFall {l : ClaimLine} (h : NoFlareStep l s.mc.config) : FlareStands s (ladderFall l s) := by
  rw [ladderFall]
  split
  · simp only [undoStep]
    split
    · exact .refl s
    · split
      · exact .refl s
      · next st hst =>
        exact (flareStands_askUndo (h st (List.mem_of_getElem? hst)) l _).after (.of_same rfl rfl rfl rfl)
  all_goals exact .refl s

/-! ### A holder's claims, awake (R64, R76, R81) -/

/-- A line's rise noted outside standby: its pending flag and the latch at most. -/
theorem noteRise_awake (l : ClaimLine) (h : s.mc.mode = .listenIn ∨ s.mc.mode = .active) :
    FlareStands s (noteRise l s) := by
  have hwake : s.mc.mode = .listenIn ∨ s.mc.mode = .active ∨ s.mc.mode = .leaving := by tauto
  have hpending : FlareStands s (if heldBack l s then setPending true l s else s) := by
    split
    · exact flareStands_setLine l _ s
    · exact .refl s
  simp only [noteRise]
  split
  · rw [latchCause_awake (.claimRise l) (by rw [hpending.mode]; exact hwake)]
    exact hpending.trans (.of_same rfl rfl rfl rfl)
  · exact hpending

theorem flareStands_rise {l : ClaimLine} (h : NoFlareStep l s.mc.config)
    (hm : s.mc.mode = .listenIn ∨ s.mc.mode = .active) : FlareStands s (rise l s) := by
  have hnote := noteRise_awake l hm
  rw [rise]
  split
  · exact hnote
  · exact hnote.trans (flareStands_ladderRise (by rwa [hnote.config]))

theorem flareStands_fall {l : ClaimLine} (h : NoFlareStep l s.mc.config) : FlareStands s (fall l s) :=
  (flareStands_setLine l _ s).trans (flareStands_ladderFall h)

theorem flareStands_setBit {l : ClaimLine} (h : NoFlareStep l s.mc.config)
    (hm : s.mc.mode = .listenIn ∨ s.mc.mode = .active) (n : Nat) : FlareStands s (setBit n l s) := by
  simp only [setBit, setBitWith]
  split
  · exact .refl s
  · split
    · exact (flareStands_rise (s := setLine l _ s) h hm).after (flareStands_setLine l _ s)
    · exact flareStands_setLine l _ s

theorem flareStands_clearBit {l : ClaimLine} (h : NoFlareStep l s.mc.config) (n : Nat) :
    FlareStands s (clearBit n l s) := by
  simp only [clearBit, clearBitWith]
  split
  · split
    · exact (flareStands_fall (s := setLine l _ s) h).after (flareStands_setLine l _ s)
    · exact flareStands_setLine l _ s
  · exact .refl s

theorem flareStands_assertOwn {l : ClaimLine} (h : NoFlareStep l s.mc.config)
    (hm : s.mc.mode = .listenIn ∨ s.mc.mode = .active) : FlareStands s (assertOwn l s) := by
  rw [assertOwn, assertOwnWith]
  split
  · exact .refl s
  · exact (flareStands_enqueue _ _).after
      ((flareStands_setBit (s := setLine l { s.cu.get l with own := true } s) h hm _).after (flareStands_setLine l _ s))

theorem flareStands_releaseOwn {l : ClaimLine} (h : NoFlareStep l s.mc.config) : FlareStands s (releaseOwn l s) := by
  rw [releaseOwn, releaseOwnWith]
  split
  · exact (flareStands_enqueue _ _).after
      ((flareStands_clearBit (s := setLine l { s.cu.get l with own := false } s) h _).after (flareStands_setLine l _ s))
  · exact .refl s

theorem assertOwn_held {l : ClaimLine} (h : (s.cu.get l).own = true) : assertOwn l s = s := if_pos h

theorem releaseOwn_free {l : ClaimLine} (h : (s.cu.get l).own = false) : releaseOwn l s = s :=
  if_neg (by rw [h]; decide)

/-! ### The entry to band FLARE (R61, R62, R70) -/

theorem EntersFlare.band {v : Nat} (h : EntersFlare v s) :
    bandAfter s.mc.config s.hu.band v = .flare ∧ s.hu.band ≠ .flare := by
  obtain ⟨hb, h1, h2, h3, h4⟩ | ⟨hn, hf, h4⟩ := h
  · rw [hb, bandAfter_first, firstBand, if_neg (by omega), if_neg (by omega), if_neg (by omega), if_neg (by omega)]
    exact ⟨rfl, nofun⟩
  · refine ⟨?_, hf⟩
    have habove : bandCode s.hu.band < bandCode .flare := by
      revert hf
      cases s.hu.band <;> decide
    rw [bandAfter_later hn]
    cases hrisen : risenBand s.mc.config s.hu.band v with
    | none =>
      have := (risenBand_none hn).1 hrisen .flare habove
      simp only [lowerBoundary] at this
      omega
    | some x =>
      obtain ⟨-, -, htop⟩ := risenBand_some hn hrisen
      have hx := htop .flare habove h4
      have hflare : x = .flare := by
        revert hx
        cases x <;> decide
      rw [hflare, Option.getD_some]

/-- The holder's station as a sample that takes it into band FLARE leaves it, before its claims and the floor. -/
def flareEntered (v : Nat) (s : State) : State := { s with
  hu := { s.hu with level := Nat.min v 1000, levelTimer := some 30, band := .flare }
  fp := { s.fp with link := .up, linkTimer := some 10 }
  mc := { s.mc with faults := s.mc.faults.filter fun x => x.kind != .fieldLinkLost && x.kind != .levelLost } }

theorem sampled_flareEntered {v : Nat} (h : EntersFlare (Nat.min v 1000) s) :
    sampled v (linkRestored s) = flareEntered v s := by
  have hb : bandAfter (linkRestored s).mc.config (linkRestored s).hu.band (Nat.min v 1000) = .flare := h.band.1
  simp only [sampled, hb]
  simp only [linkRestored_eq, faultsCleared, List.filter_filter, Bool.and_comm, flareEntered]

/-- The claims that a holder's entry to band FLARE brings (R64). -/
def flareClaims (s : State) : State :=
  if claimsFollowBand s.mc.mode then
    assertOwn ⟨s.mc.config.main, .surplus⟩ (releaseOwn ⟨s.mc.config.main, .shortfall⟩ s)
  else s

theorem exec_level_flare {v : Nat} (hm : s.mc.mode ≠ .loading) (hr : s.mc.config.role = some .holder)
    (hmain : s.mc.config.main ≠ .m2) (h : EntersFlare (Nat.min v 1000) s) :
    exec (.level .ok v) s = .next (floorEntry (flareClaims (flareEntered v s))) := by
  have hne : ¬bandAfter (linkRestored s).mc.config (linkRestored s).hu.band (Nat.min v 1000) =
      (linkRestored s).hu.band := by
    have hb := h.band
    exact fun he => hb.2 ((show (linkRestored s).hu.band = s.hu.band from rfl) ▸ he ▸ hb.1)
  have hflare : (hasFlare (flareEntered v s).mc.config && (flareEntered v s).hu.band == .flare) = true := by
    simp [flareEntered, hasFlare, hr, hmain]
  refine (exec_level .ok hm hr).trans (congrArg Host.Outcome.next ?_)
  rw [takeLevel, levelSample_eq, if_neg hne, sampled_flareEntered h]
  simp only [bandChanged, hflare, if_true]
  rfl

theorem claimsFollowBand_iff {m : Mode} : claimsFollowBand m = true ↔ m = .listenIn ∨ m = .active := by
  cases m <;> decide

theorem floorEntry_starts (hm : s.hu.move = none) (hp : s.hu.position.getD 0 = 0) : floorEntry s = { s with
    hu := { s.hu with move := some ⟨1, none, 60⟩ }
    fp := { s.fp with out := s.fp.out ++ [.flareCommand 1] } } := by
  have hpos : flarePosition s = 0 := hp
  simp only [floorEntry, hm, if_pos hpos]
  rfl

theorem floorEntry_open (hm : s.hu.move = none) (hp : s.hu.position.getD 0 ≠ 0) : floorEntry s = s := by
  have hpos : ¬flarePosition s = 0 := hp
  simp only [floorEntry, hm, if_neg hpos]

theorem floorEntry_retargets {m : FlareMove} (hm : s.hu.move = some m) (ht : m.target = 0) : floorEntry s = { s with
    hu := { s.hu with move := some ⟨1, m.requester, 60⟩ }
    fp := { s.fp with out := s.fp.out ++ [.flareCommand 1] } } := by
  simp only [floorEntry, hm, if_pos ht]
  rfl

theorem floorEntry_moving {m : FlareMove} (hm : s.hu.move = some m) (ht : m.target ≠ 0) : floorEntry s = s := by
  simp only [floorEntry, hm, if_neg ht]

/-- The floor's check touches nothing of the holder but its move. -/
theorem floorEntry_hu (s : State) : (floorEntry s).hu = { s.hu with move := (floorEntry s).hu.move } := by
  simp only [floorEntry]
  (repeat' split) <;> rfl

/-- The claims of the entry move nothing where SURPLUS is asserted and SHORTFALL is not (R76). -/
theorem flareClaims_held (h : s.mc.mode = .listenIn ∨ s.mc.mode = .active →
    (s.cu.get ⟨s.mc.config.main, .surplus⟩).own = true ∧ (s.cu.get ⟨s.mc.config.main, .shortfall⟩).own = false) :
    flareClaims s = s := by
  rw [flareClaims]
  split
  · next hf =>
    obtain ⟨hsurplus, hshort⟩ := h (claimsFollowBand_iff.1 hf)
    rw [releaseOwn_free hshort, assertOwn_held hsurplus]
  · rfl

theorem flareClaims_stands (hshort : NoFlareStep ⟨s.mc.config.main, .shortfall⟩ s.mc.config)
    (hsurplus : NoFlareStep ⟨s.mc.config.main, .surplus⟩ s.mc.config) : FlareStands s (flareClaims s) := by
  rw [flareClaims]
  split
  · next hf =>
    have hr := flareStands_releaseOwn hshort
    exact hr.trans (flareStands_assertOwn (by rwa [hr.config]) (by rw [hr.mode]; exact claimsFollowBand_iff.1 hf))
  · exact .refl s

/-! ### A rise that takes a FLARE STEP (R67, R81, R97) -/

/-- An open line's rise outside standby is its ladder's, the latch at most written before it. -/
theorem rise_open {l : ClaimLine} (hm : s.mc.mode = .active) (hmask : (s.mc.config.lines.get l).masked = false) :
    ∃ x, rise l s = ladderRise l { s with mc := { s.mc with latch := x } } := by
  have hheld : heldBack l s = false := by simp [heldBack, masked, hmask, hm, modeMasks]
  rw [rise, hheld, noteRise, hheld]
  simp only [Bool.false_eq_true, if_false]
  split
  · exact ⟨_, congrArg (ladderRise l) (latchCause_awake _ (.inr (.inl hm)))⟩
  · exact ⟨s.mc.latch, rfl⟩

/-- An idle ladder's rise where its next step is a FLARE STEP, with no move in flight and room above. -/
theorem ladderRise_flareStep {l : ClaimLine} {st : Step} (hi : (s.rl.get l).state = .idle)
    (hst : (ladderSteps l s)[(s.rl.get l).taken]? = some st) (ha : st.action = .flareStep) (hmove : s.hu.move = none)
    (hw : s.hu.waiting = []) (hp : s.hu.position.getD 0 < 4) : ladderRise l s = { s with
      rl := s.rl.set l { s.rl.get l with state := .stepping, taken := (s.rl.get l).taken + 1, dwell := none }
      hu := { s.hu with move := some ⟨s.hu.position.getD 0 + 1, some ⟨l, false⟩, 60⟩ }
      fp := { s.fp with out := s.fp.out ++ [.flareCommand (s.hu.position.getD 0 + 1)] } } := by
  let w : State :=
    setLadder l { s.rl.get l with state := .stepping, taken := (s.rl.get l).taken + 1, dwell := none } s
  have htarget : flareTarget ⟨l, false⟩ w = s.hu.position.getD 0 + 1 :=
    (flareTarget_up (p := s.hu.position.getD 0) l rfl).trans (Nat.min_eq_left (by omega))
  have hne : flareTarget ⟨l, false⟩ w ≠ flarePosition w := by
    rw [htarget]
    exact Nat.succ_ne_self _
  have htake : ladderRise l s = flareRequest ⟨l, false⟩ w := by
    simp only [ladderRise, hi, takeStep, hst, ha]
    rfl
  rw [htake, flareRequest_moves (s := w) hmove hw hne, htarget]
  rfl

/-- The claims of an entry to band FLARE, where SURPLUS rises and its ladder takes a FLARE STEP. -/
theorem flareClaims_flareStep {l : ClaimLine} {st : Step} (hl : l = ⟨s.mc.config.main, .surplus⟩)
    (hm : s.mc.mode = .active) (hshort : (s.cu.get ⟨s.mc.config.main, .shortfall⟩).own = false)
    (hown : (s.cu.get l).own = false) (hsources : (s.cu.get l).sources = [])
    (hmask : (s.mc.config.lines.get l).masked = false) (hi : (s.rl.get l).state = .idle)
    (hst : (ladderSteps l s)[(s.rl.get l).taken]? = some st) (ha : st.action = .flareStep) (hmove : s.hu.move = none)
    (hw : s.hu.waiting = []) (hp : s.hu.position.getD 0 < 4) :
    (flareClaims s).hu = { s.hu with move := some ⟨s.hu.position.getD 0 + 1, some ⟨l, false⟩, 60⟩ } ∧
      (flareClaims s).fp.out = s.fp.out ++ [.flareCommand (s.hu.position.getD 0 + 1)] ∧
      ((flareClaims s).rl.get l).state = .stepping ∧
      ((flareClaims s).rl.get l).taken = (s.rl.get l).taken + 1 := by
  let x : State := setLine l { s.cu.get l with own := true } s
  let y : State := setLine l { x.cu.get l with sources := setAdd s.mc.node.val (x.cu.get l).sources } x
  have hx : (x.cu.get l).sources = [] := by simp [x, setLine, hsources]
  have hbit : setBitWith (rise l) x.mc.node.val l x = rise l y := by
    simp only [setBitWith]
    rw [if_neg (by simp [hx]), if_pos (by simp [hx])]
    rfl
  have hclaims : flareClaims s = enqueue (.claim l .assert) (rise l y) := by
    rw [flareClaims, if_pos (claimsFollowBand_iff.2 (.inr hm)), releaseOwn_free hshort, ← hl, assertOwn, assertOwnWith,
      if_neg (by simp [hown])]
    exact congrArg (enqueue (.claim l .assert)) hbit
  obtain ⟨latch, hrise⟩ := rise_open (s := y) (l := l) hm hmask
  rw [hclaims, hrise, ladderRise_flareStep (s := { y with mc := { y.mc with latch := latch } }) hi hst ha hmove hw hp]
  simp [x, y, setLine]

/-! ### The waiting requests (R67, R68) -/

/-- The holder's station with its move ended and the first waiting request taken off the list. -/
def waitingTaken (m : FlareMove) (rest : List FlareRequest) (s : State) : State :=
  let e := moveEnded m .completed (reportTaken s)
  e.setHu { e.hu with waiting := rest }

/-- A report of the target that leaves nothing below the floor starts the first waiting request. -/
theorem exec_flareStatus_waiting {m : FlareMove} {r : FlareRequest} {rest : List FlareRequest}
    (hm : s.mc.mode ≠ .loading) (hr : s.mc.config.role = some .holder) (hmain : s.mc.config.main ≠ .m2)
    (hmove : s.hu.move = some m) (hle : m.target ≤ 4) (hw : s.hu.waiting = r :: rest)
    (hf : flareFloor s ≤ m.target) : exec (.flareStatus m.target) s = .next
      (if (startFlare r (waitingTaken m rest s)).hu.move.isSome then startFlare r (waitingTaken m rest s)
      else startWaiting rest (startFlare r (waitingTaken m rest s))) := by
  have hfloor : ¬belowFloor (moveEnded m .completed (reportTaken s)) = true := by
    rw [belowFloor_iff]
    rintro ⟨hband, hzero⟩
    have hband : s.hu.band = .flare := hband
    have hzero : m.target = 0 := hzero
    rw [flareFloor, if_pos hband] at hf
    omega
  have hwait : (moveEnded m .completed (reportTaken s)).hu.waiting = r :: rest := hw
  refine (exec_flareStatus _ hm hr hmain).trans (congrArg Host.Outcome.next ?_)
  rw [flareReport_target hmove (Nat.min_eq_left hle), completeFlare_eq, afterFlareMove, if_neg hfloor, hwait,
    startWaiting]
  rfl

/-- The first waiting request, where the position is not its target, is the move in flight. -/
theorem exec_flareStatus_starts {m : FlareMove} {r : FlareRequest} {rest : List FlareRequest}
    (hm : s.mc.mode ≠ .loading) (hr : s.mc.config.role = some .holder) (hmain : s.mc.config.main ≠ .m2)
    (hmove : s.hu.move = some m) (hle : m.target ≤ 4) (hw : s.hu.waiting = r :: rest)
    (hf : flareFloor s ≤ m.target) {k : Nat} (hk : flareTarget r (waitingTaken m rest s) = k) (hne : k ≠ m.target) :
    ∃ t, exec (.flareStatus m.target) s = .next t ∧
      t.hu = { s.hu with position := some m.target, move := some ⟨k, some r, 60⟩, waiting := rest } ∧
      t.fp.out = s.fp.out ++ [.flareCommand k] := by
  have hstart : startFlare r (waitingTaken m rest s) = commandFlare k (some r) (waitingTaken m rest s) := by
    rw [startFlare, hk]
    exact if_neg hne
  refine ⟨_, exec_flareStatus_waiting hm hr hmain hmove hle hw hf, ?_⟩
  rw [hstart]
  exact ⟨rfl, rfl⟩

theorem waitingTaken_up {m : FlareMove} {r : FlareRequest} (rest : List FlareRequest) (hu : r.undo = false) :
    flareTarget r (waitingTaken m rest s) = Nat.min (m.target + 1) 4 := by
  rw [flareTarget, hu]
  rfl

theorem waitingTaken_down {m : FlareMove} {r : FlareRequest} (rest : List FlareRequest) (hu : r.undo = true) :
    flareTarget r (waitingTaken m rest s) = Nat.max (m.target - 1) (flareFloor s) := by
  rw [flareTarget, hu]
  rfl

theorem finished_done {l : ClaimLine} {o : ActionOutcome} {r : Six Ladder}
    (h : ((s.rl.get l).state = .stepping → (r.get l).state = .stepping ∨
        (r.get l).state = .dwell ∧ (r.get l).outcome = some o) ∧
      ((s.rl.get l).state = .undoInFlight → (r.get l).state = .undoInFlight ∨
        (r.get l).state = .undoDwell ∧ (r.get l).outcome = some o)) (hu : u.rl = r) :
    ((s.rl.get l).state = .stepping → (finished l o u).state = .dwell ∧ (finished l o u).outcome = some o) ∧
      ((s.rl.get l).state = .undoInFlight →
        (finished l o u).state = .undoDwell ∧ (finished l o u).outcome = some o) := by
  subst hu
  refine ⟨fun hs => ?_, fun hs => ?_⟩
  · obtain hst | ⟨hst, ho⟩ := h.1 hs
    · exact finished_stepping hst
    · simp [finished, hst, ho]
  · obtain hst | ⟨hst, ho⟩ := h.2 hs
    · exact finished_undoInFlight hst
    · simp [finished, hst, ho]

/-- Settles O41. -/
theorem flareFloorAndWaitingRequests : Obligations.FlareFloorAndWaitingRequests := by
  refine ⟨fun v s hm hr hmain h hheld => ?_, fun v s hm hr hmain h hsteps => ?_,
    fun v st s hm hr hmain h => ?_, fun m s hm hr hmain hmove hle => ?_⟩
  · intro entered moving
    have hex := exec_level_flare hm hr hmain h
    rw [flareClaims_held (s := flareEntered v s) hheld] at hex
    refine ⟨fun hmove hp => ?_, fun hmove hp => ?_, fun m hmove ht => ?_, fun m hmove ht => ?_⟩
    · exact hex.trans (congrArg Host.Outcome.next (floorEntry_starts (s := flareEntered v s) hmove hp))
    · have hstands := floorEntry_open (s := flareEntered v s) hmove hp
      exact hex.trans (congrArg Host.Outcome.next hstands)
    · exact hex.trans (congrArg Host.Outcome.next (floorEntry_retargets (s := flareEntered v s) hmove ht))
    · have hstands := floorEntry_moving (s := flareEntered v s) hmove ht
      exact hex.trans (congrArg Host.Outcome.next hstands)
  · have hstands := flareClaims_stands (s := flareEntered v s)
      (fun st hst => hsteps st (List.mem_append_left _ hst)) (fun st hst => hsteps st (List.mem_append_right _ hst))
    have hhu : (flareClaims (flareEntered v s)).hu = (flareEntered v s).hu := hstands.holder
    have hout : flareCommands (flareClaims (flareEntered v s)).fp.out = flareCommands s.fp.out := hstands.sent
    have hmove : (flareClaims (flareEntered v s)).hu.move = s.hu.move := (congrArg HolderUnit.move hhu).trans rfl
    have hpos : (flareClaims (flareEntered v s)).hu.position = s.hu.position :=
      (congrArg HolderUnit.position hhu).trans rfl
    refine ⟨_, exec_level_flare hm hr hmain h, ?_, fun hn hp => ?_, fun hn hp => ?_, fun m hs ht => ?_,
      fun m hs ht => ?_⟩
    · rw [floorEntry_hu, hhu]
      rfl
    · rw [floorEntry_starts (hmove.trans hn) (by rwa [hpos])]
      exact ⟨rfl, by rw [flareCommands_append, hout]; rfl⟩
    · rw [floorEntry_open (hmove.trans hn) (by rwa [hpos])]
      exact ⟨hmove.trans hn, hout⟩
    · rw [floorEntry_retargets (hmove.trans hs) ht]
      exact ⟨rfl, by rw [flareCommands_append, hout]; rfl⟩
    · rw [floorEntry_moving (hmove.trans hs) ht]
      exact ⟨hmove.trans hs, hout⟩
  · intro l hmove hw hp hshort hown hsources hmask hi hst ha
    obtain ⟨hhu, hout, hstate, htaken⟩ := flareClaims_flareStep (s := flareEntered v s) (l := l) rfl hm hshort hown
      hsources hmask hi hst ha hmove hw hp
    have hfloor : floorEntry (flareClaims (flareEntered v s)) = flareClaims (flareEntered v s) :=
      floorEntry_moving (congrArg HolderUnit.move hhu) (Nat.succ_ne_zero _)
    refine ⟨_, exec_level_flare (by rw [hm]; decide) hr hmain h, ?_⟩
    rw [hfloor]
    exact ⟨hhu, by rw [hout, flareCommands_append]; rfl, hstate, htaken⟩
  · intro floor
    refine fun r rest hw hf => ⟨fun hu hlt => ?_, fun hu hlt => ?_, fun hat hrest => ?_⟩
    · exact exec_flareStatus_starts hm hr hmain hmove hle hw hf
        ((waitingTaken_up rest hu).trans (Nat.min_eq_left (by omega))) (by omega)
    · have hfloor : flareFloor s ≤ m.target - 1 := Nat.le_sub_one_of_lt hlt
      exact exec_flareStatus_starts hm hr hmain hmove hle hw hf
        ((waitingTaken_down rest hu).trans (Nat.max_eq_left hfloor)) (by omega)
    · have htarget : flareTarget r (waitingTaken m rest s) = m.target := by
        rcases hat with ⟨hu, ht⟩ | ⟨hu, ht⟩
        · rw [waitingTaken_up rest hu, ht]
          rfl
        · rw [waitingTaken_down rest hu, ht]
          exact Nat.max_eq_right (Nat.sub_le _ _)
      have hstart : startFlare r (waitingTaken m rest s) = completeAction r.line .completed (waitingTaken m rest s) :=
        if_pos htarget
      have hnone : ¬(completeAction r.line .completed (waitingTaken m rest s)).hu.move.isSome = true := by
        rw [completeAction_eq]
        exact Bool.false_ne_true
      have hex := exec_flareStatus_waiting hm hr hmain hmove hle hw hf
      rw [hstart, if_neg hnone, hrest, startWaiting, completeAction_eq] at hex
      obtain ⟨htook, hundid, hothers⟩ :=
        flareTold_told (m := m) (o := .completed) (s := s) (u := moveEnded m .completed s) rfl
      have hrl : (waitingTaken m [] s).rl = (moveEnded m .completed s).rl := flareTold_congr rfl rfl m .completed
      have hdone := finished_done (s := s) (u := waitingTaken m [] s) (l := r.line) (o := .completed) (r := _) ?_ hrl
      · refine ⟨_, hex, rfl, rfl, ?_⟩
        simpa [State.setHu] using hdone
      · by_cases hreq : ∃ q, m.requester = some q ∧ q.line = r.line
        · obtain ⟨q, hq, hline⟩ := hreq
          rw [← hline]
          exact ⟨fun h => .inr (htook q hq h), fun h => .inr (hundid q hq h)⟩
        · have hstands := hothers r.line fun q hq hline => hreq ⟨q, hq, hline⟩
          rw [hstands]
          exact ⟨.inl, .inl⟩

end Sys2Proof.Machine
end

section
/-! The statement about the walk of a main (R30, R39 to R43): what it grants, what it leaves, and what it counts. -/

namespace Sys2Proof.Machine

variable {s : State} {ws : List WantMember} {sup : Nat} {w : WantMember}

/-! ### The ends of the walk (R41) -/

/-- The first tier that the demands up to it outrun, where the demands of some tiers do. -/
theorem exists_shortTier {k : Nat} (h : sup < servedTo ws k) :
    ∃ j < k, servedTo ws j ≤ sup ∧ sup < servedTo ws (j + 1) := by
  induction k with
  | zero => exact absurd h (Nat.not_lt_zero _)
  | succ k ih =>
    by_cases hk : servedTo ws k ≤ sup
    · exact ⟨k, Nat.lt_succ_self k, hk, h⟩
    · obtain ⟨j, hj, hserved⟩ := ih (Nat.lt_of_not_le hk)
      exact ⟨j, Nat.lt_succ_of_lt hj, hserved⟩

/-- The walk serves every tier, or ends short with nothing left. -/
theorem walkThrough_ends (ws : List WantMember) (sup : Nat) :
    servedTo ws 8 ≤ sup ∧ walkThrough ws sup 8 = ⟨sup - servedTo ws 8, none⟩ ∨
      ∃ k, walkThrough ws sup 8 = ⟨0, some (k + 1)⟩ := by
  by_cases h : servedTo ws 8 ≤ sup
  · exact .inl ⟨h, walkThrough_served ws sup 8 h⟩
  · obtain ⟨k, hk, hle, hlt⟩ := exists_shortTier (Nat.lt_of_not_le h)
    exact .inr ⟨k, walkThrough_short ws sup k 8 hle hlt hk⟩

theorem served_of_not_short (h : (walkThrough ws sup 8).short = none) : servedTo ws 8 ≤ sup := by
  rcases walkThrough_ends ws sup with ⟨hle, -⟩ | ⟨k, hk⟩
  · exact hle
  · rw [hk] at h
    exact absurd h (Option.some_ne_none _)

/-! ### The grants together (R41, R42) -/

theorem tierGrant_zero (x : Walk) (demand : Nat) : tierGrant x demand 0 = 0 := by
  simp [tierGrant]

/-- Parts of a rest in floored proportion are together within it. -/
theorem sumOf_floors_le {α : Type} (f : α → Nat) (l : List α) (rest demand : Nat) :
    sumOf (l.map fun x => rest * f x / demand) * demand ≤ rest * sumOf (l.map f) := by
  induction l with
  | nil => simp
  | cons x t ih =>
    simp only [List.map_cons, sumOf_cons, Nat.add_mul, Nat.mul_add]
    exact Nat.add_le_add (Nat.div_mul_le_self _ _) ih

/-- What a tier grants, with what the walk then has left, is within what it had. -/
theorem tierGrants_le (t : Nat) (ws : List WantMember) (x : Walk) :
    sumOf (ws.map fun w => tierGrant x (tierDemand t ws) (tierAmount t w)) + (walkTier t (tierDemand t ws) x).rest ≤
      x.rest := by
  by_cases hskip : x.short.isSome = true ∨ tierDemand t ws = 0
  · have hnone : sumOf (ws.map fun w => tierGrant x (tierDemand t ws) (tierAmount t w)) = 0 :=
      sumOf_zero _ _ fun w _ => if_pos hskip
    rw [hnone, walkTier, if_pos hskip, Nat.zero_add]
  · by_cases hfull : tierDemand t ws ≤ x.rest
    · have hgrant : (fun w => tierGrant x (tierDemand t ws) (tierAmount t w)) = tierAmount t := by
        funext w
        rw [tierGrant, if_neg hskip, if_pos hfull]
      rw [hgrant, walkTier, if_neg hskip, if_pos hfull]
      exact Nat.le_of_eq (Nat.add_sub_cancel' hfull)
    · have hgrant : (fun w => tierGrant x (tierDemand t ws) (tierAmount t w)) =
          fun w => x.rest * tierAmount t w / tierDemand t ws := by
        funext w
        rw [tierGrant, if_neg hskip, if_neg hfull]
      have hpos : 0 < tierDemand t ws := Nat.pos_of_ne_zero fun h => hskip (.inr h)
      rw [hgrant, walkTier, if_neg hskip, if_neg hfull, Nat.add_zero]
      exact Nat.le_of_mul_le_mul_right (sumOf_floors_le (tierAmount t) ws x.rest (tierDemand t ws)) hpos

theorem sumOf_swap {α β : Type} (f : α → β → Nat) (l : List α) (r : List β) :
    sumOf (l.map fun x => sumOf (r.map (f x))) = sumOf (r.map fun y => sumOf (l.map fun x => f x y)) := by
  induction l with
  | nil => exact (sumOf_zero _ r fun _ _ => rfl).symm
  | cons x t ih =>
    simp only [List.map_cons, sumOf_cons, ih]
    exact (sumOf_add (f x) (fun y => sumOf (t.map fun z => f z y)) r).symm

/-- What the tiers up to one grant, with what is left after them, is within the supply. -/
theorem grantsThrough_le (ws : List WantMember) (sup k : Nat) :
    sumOf ((List.range k).map fun t => sumOf (ws.map fun w => grantIn ws sup w t)) + (walkThrough ws sup k).rest ≤
      sup := by
  induction k with
  | zero => simp [walkThrough]
  | succ k ih =>
    have htier := tierGrants_le (k + 1) ws (walkThrough ws sup k)
    simp only [List.range_succ, List.map_append, sumOf_append, List.map_cons, List.map_nil, sumOf_cons, sumOf_nil,
      walkThrough, grantIn] at ih htier ⊢
    omega

theorem sumOf_single (g : Nat → Nat) (j n : Nat) :
    sumOf ((List.range n).map fun t => if t = j then g t else 0) = if j < n then g j else 0 := by
  induction n with
  | zero => simp
  | succ n ih =>
    rw [List.range_succ, List.map_append, sumOf_append, ih]
    by_cases hj : n = j
    · subst hj
      simp
    · by_cases hlt : j < n
      · simp [hlt, hj, Nat.lt_succ_of_lt hlt]
      · have hn : ¬j < n + 1 := by omega
        simp [hlt, hj, hn]

/-- A member's grant is the sum of what it is granted in every tier: in the tiers not its own that is nothing (R40). -/
theorem grantOf_eq (sup : Nat) (hc : w.minClass ≤ 3) (hh : w.headClass ≤ 3) :
    grantOf ws sup w = sumOf ((List.range 8).map (grantIn ws sup w)) := by
  have hparts : (List.range 8).map (grantIn ws sup w) = (List.range 8).map fun t =>
      (if t = w.minClass then grantIn ws sup w t else 0) + if t = w.headClass + 4 then grantIn ws sup w t else 0 := by
    refine List.map_congr_left fun t _ => ?_
    by_cases hmin : t = w.minClass
    · rw [if_pos hmin, if_neg (by omega), Nat.add_zero]
    · by_cases hhead : t = w.headClass + 4
      · rw [if_neg hmin, if_pos hhead, Nat.zero_add]
      · have hamount : tierAmount (t + 1) w = 0 := by
          rw [tierAmount]
          split
          · exact if_neg (by omega)
          · exact if_neg (by omega)
        rw [if_neg hmin, if_neg hhead, grantIn, hamount, tierGrant_zero]
  rw [hparts, sumOf_add, sumOf_single, sumOf_single, if_pos (by omega), if_pos (by omega)]
  rfl

theorem grants_le (sup : Nat) (h : ∀ w ∈ ws, w.minClass ≤ 3 ∧ w.headClass ≤ 3) :
    sumOf (ws.map (grantOf ws sup)) + (walkThrough ws sup 8).rest ≤ sup := by
  have heq : ws.map (grantOf ws sup) = ws.map fun w => sumOf ((List.range 8).map (grantIn ws sup w)) :=
    List.map_congr_left fun w hw => grantOf_eq sup (h w hw).1 (h w hw).2
  rw [heq, sumOf_swap]
  exact grantsThrough_le ws sup 8

/-! ### A member's two grants (R42) -/

/-- What a tier, numbered from 0, grants of an amount by the demands up to it. -/
def grantedIn (ws : List WantMember) (sup k amount : Nat) : Nat :=
  if servedTo ws (k + 1) ≤ sup then amount
  else if servedTo ws k ≤ sup then (sup - servedTo ws k) * amount / tierDemand (k + 1) ws
  else 0

theorem minGrantOf_eq (sup : Nat) (hw : w ∈ ws) (hc : w.minClass ≤ 3) :
    minGrantOf ws sup w = grantedIn ws sup w.minClass w.minimum := by
  have hamount : tierAmount (w.minClass + 1) w = w.minimum := by
    rw [tierAmount, if_pos (by omega), if_pos rfl]
  rw [minGrantOf, grantIn_eq ws sup w _ (tierAmount_le ws w _ hw), hamount]
  rfl

theorem headGrant_eq (sup : Nat) (hw : w ∈ ws) :
    grantIn ws sup w (w.headClass + 4) = grantedIn ws sup (w.headClass + 4) w.headroom := by
  have hamount : tierAmount (w.headClass + 4 + 1) w = w.headroom := by
    rw [tierAmount, if_neg (by omega), if_pos rfl]
  rw [grantIn_eq ws sup w _ (tierAmount_le ws w _ hw), hamount]
  rfl

theorem grantedIn_whole {k : Nat} (h : servedTo ws 8 ≤ sup) (hk : k < 8) (amount : Nat) :
    grantedIn ws sup k amount = amount := if_pos ((servedTo_mono ws hk).trans h)

/-- A tier's amount of a member, the tiers numbered from 0 (R40). -/
theorem tierAmount_succ (k : Nat) (w : WantMember) : tierAmount (k + 1) w =
    if k < 4 then (if w.minClass = k then w.minimum else 0) else if w.headClass + 4 = k then w.headroom else 0 := by
  simp only [tierAmount, Nat.add_right_cancel_iff, Nat.succ_le_iff, show w.headClass + 5 = w.headClass + 4 + 1 from rfl]

/-! ### What a snapshot counts (R30) -/

theorem wantMembers_snapshot (m : Main) (hm : s.mc.mode ≠ .loading) : wantMembers m (snapshot s) =
    (ownRecords s).filterMap (fun r => countedWant m (decide (severity s ≠ .failed)) (keptRecord r)) ++
      s.peers.flatMap fun x => x.2.records.filterMap (countedWant m (counted x.2)) := by
  simp only [wantMembers, snapshot, ownEntry, if_neg hm, List.flatMap_cons, List.flatMap_map, entryMembers, ownSnap,
    peerSnap, List.filterMap_map]
  have hfull : ((!false) && severity s != .failed) = decide (severity s ≠ .failed) := by
    cases severity s <;> rfl
  rw [hfull]
  rfl

theorem mainResult_eq (m : Main) (es : List SnapEntry) :
    (mainResult m es).supply = offerSum m es + drawSum m es ∧
      (mainResult m es).shortTier = (walkThrough (wantMembers m es) (mainResult m es).supply 8).short ∧
      (mainResult m es).unallocated = (walkThrough (wantMembers m es) (mainResult m es).supply 8).rest ∧
      (mainResult m es).excess = (mainResult m es).unallocated - (drawSum m es + absorbSum m es) := by
  simp only [mainResult, supply, and_self]

/-- Settles O29. -/
theorem grantsAndExcessStayWithinSupply : Obligations.GrantsAndExcessStayWithinSupply := by
  refine ⟨fun ws sup h => grants_le sup h, fun ws sup w hw hc hh => ⟨minGrantOf_le ws sup w hc,
    grantOf_le ws sup w hc, fun hshort => ?_⟩, fun ws sup => ?_, fun m s hm => ?_, fun m es => ?_⟩
  · have hserved := served_of_not_short hshort
    have hmin : minGrantOf ws sup w = w.minimum :=
      (minGrantOf_eq sup hw hc).trans (grantedIn_whole hserved (by omega) _)
    have hhead := (headGrant_eq sup hw).trans (grantedIn_whole hserved (by omega) w.headroom)
    exact ⟨hmin, congrArg₂ (· + ·) hmin hhead⟩
  · intro demand served granted
    have hdemand : ∀ k, demand k = tierDemand (k + 1) ws := fun k =>
      congrArg sumOf (List.map_congr_left fun w _ => (tierAmount_succ k w).symm)
    have hserved : ∀ k, served k = servedTo ws k := fun k =>
      congrArg sumOf (List.map_congr_left fun t _ => hdemand t)
    have hgranted : granted = grantedIn ws sup := by
      funext k amount
      simp only [granted, grantedIn, hserved, hdemand]
    refine ⟨fun h => ?_, fun k hk hle hlt => ?_, fun w hw hc hh => ?_⟩
    · rw [hserved] at h ⊢
      exact walkThrough_served ws sup 8 h
    · rw [hserved] at hle hlt
      exact walkThrough_short ws sup k 8 hle hlt hk
    · rw [hgranted]
      have hmin := minGrantOf_eq sup hw hc
      exact ⟨hmin, congrArg₂ (· + ·) hmin (headGrant_eq sup hw)⟩
  · intro es ownSum peerSum
    have sums (f : Bool → MainRecord → Nat) (own : StateRecord → Nat) (peer : MainRecord → Nat)
        (hown : (fun r => f true (keptRecord r)) = own) (hpeer : f true = peer) (hfalse : ∀ r, f false r = 0) :
        sumRecords f es = ownSum own + peerSum peer := by
      rw [sumRecords_snapshot f hfalse s hm, hown, hpeer]
    refine ⟨sums (countedOffer m) _ _ (funext fun r => ?_) (funext fun r => ?_) fun r => ?_,
      sums (countedDraw m) _ _ (funext fun r => ?_) (funext fun r => ?_) fun r => ?_,
      sums (countedAbsorb m) _ _ (funext fun r => ?_) (funext fun r => ?_) fun r => ?_,
      (wantMembers_snapshot m hm).trans (congrArg₂ (· ++ ·) (List.filterMap_congr fun r _ => ?_) ?_)⟩
    · cases r <;> simp [keptRecord, countedOffer]
    · cases r <;> simp [countedOffer]
    · cases r <;> simp [countedOffer]
    · cases r <;> simp [keptRecord, countedDraw]
    · cases r <;> simp [countedDraw]
    · cases r <;> simp [countedDraw]
    · cases r <;> simp [keptRecord, countedAbsorb]
    · cases r <;> simp [countedAbsorb]
    · cases r <;> simp [countedAbsorb]
    · cases r <;> simp [keptRecord, countedWant]
    · refine List.flatMap_congr fun x _ => List.filterMap_congr fun r _ => ?_
      cases r <;> simp [countedWant, counted_iff]
  · intro r
    obtain ⟨hsupply, hshort, hrest, hexcess⟩ := mainResult_eq m es
    refine ⟨hsupply, hshort, hrest, fun h => ?_, fun h => ?_, fun h => ?_, fun h => ?_⟩
    · rcases walkThrough_ends (wantMembers m es) r.supply with ⟨-, hwalk⟩ | ⟨k, hwalk⟩
      · rw [hwalk] at hshort
        exact absurd hshort h
      · exact hrest.trans (congrArg Walk.rest hwalk)
    · rcases walkThrough_ends (wantMembers m es) r.supply with ⟨hle, hwalk⟩ | ⟨k, hwalk⟩
      · rw [hwalk] at hrest
        rw [hrest]
        exact Nat.sub_add_cancel hle
      · rw [hwalk] at hshort
        exact absurd (h.symm.trans hshort) nofun
    · rw [hexcess]
      exact Nat.sub_eq_zero_of_le h
    · have hle : drawSum m es + absorbSum m es ≤ r.unallocated := Nat.le_of_lt h
      rw [hexcess, Nat.add_assoc]
      exact Nat.sub_add_cancel hle

end Sys2Proof.Machine
end

section
/-! SUPPORT. A round in its parts, said once (R37, R38, R42, R50, R51, R53): what it computes, the setpoint output it
settles, and the requests that close it. -/

namespace Sys2Proof.Machine

variable {s t : State}

/-! ### What a round computes (R37, R38, R42) -/

/-- The station's own want as a round counts it: while FAILED the min alone (R30, R45). -/
def ownWant (s : State) : WantMember :=
  ⟨(effectiveWant s).1, if severity s = .failed then 0 else (effectiveWant s).2 - (effectiveWant s).1,
    (wantClasses s.mc.config).1, (wantClasses s.mc.config).2⟩

theorem ownMember_wants {m : Main} (hm : s.mc.mode ≠ .loading) (hw : wantMain s.mc.config = some m) :
    ownMember m s = some (ownWant s) := by
  cases hr : s.mc.config.role with
  | none => simp [wantMain, hr] at hw
  | some r =>
    cases r <;> simp [wantMain, hr] at hw <;> subst hw <;>
      simp [ownMember, ownEntry, hm, ownSnap, ownRecords, hr, entryMembers, keptRecord, countedWant, ownWant]

/-- What the share of a main grants the station (R42). -/
def ownGrant (m : Main) (s : State) : Nat := grantOf (wantMembers m (snapshot s)) (supply m (snapshot s)) (ownWant s)

/-- What it grants of the station's minimum (R42). -/
def ownMinGrant (m : Main) (s : State) : Nat :=
  minGrantOf (wantMembers m (snapshot s)) (supply m (snapshot s)) (ownWant s)

/-- The share with a round counted and computed. -/
def computedSe (s : State) : ShareEngine := { s.se with
  roundCount := (s.se.roundCount + 1) % 2 ^ 32
  results := resultsOn (snapshot s) (computedMains s.mc.config) s.se.results
  grant := match wantMain s.mc.config with
    | some m => ownGrant m s
    | none => s.se.grant
  minGrant := match wantMain s.mc.config with
    | some m => ownMinGrant m s
    | none => s.se.minGrant }

/-- What a round reads does not lie in the round count. -/
theorem snapshot_countRound (s : State) : snapshot (countRound s) = snapshot s := rfl

theorem computeShare_countRound (hm : s.mc.mode ≠ .loading) :
    computeShare (countRound s) = { s with se := computedSe s } := by
  have hmode : (countRound s).mc.mode ≠ .loading := hm
  cases hw : wantMain s.mc.config with
  | none =>
    have hw' : wantMain (countRound s).mc.config = none := hw
    simp only [computeShare, hw', computedSe, hw]
    rfl
  | some m =>
    have hw' : wantMain (countRound s).mc.config = some m := hw
    simp only [computeShare, hw', ownMember_wants hmode hw', grantsFrom, computedSe, hw]
    rfl

/-! ### The output it settles (R51, R53) -/

/-- The share with a round's output settled: in ACTIVE without FAILED it moves and fallback is left, else the fallback
value stands. -/
def settledSe (s : State) : ShareEngine :=
  if s.mc.mode = .active ∧ severity s ≠ .failed then
    { computedSe s with
      fallback := false
      setpoint := match wantMain s.mc.config with
        | some m => ramped s.se.setpoint (ownGrant m s) s.mc.config.rampStep
        | none => s.se.setpoint }
  else
    { computedSe s with
      fallback := true
      setpoint := if wantMain s.mc.config = none then s.se.setpoint else s.mc.config.fallbackSetpoint }

/-- The SETPOINT of a round. -/
def settledSent (s : State) : List FieldOut :=
  match wantMain s.mc.config with
  | some m => [.setpoint m (settledSe s).setpoint]
  | none => []

/-- The station with a round's share computed and its output settled. -/
def settled (s : State) : State :=
  { s with se := settledSe s, fp := { s.fp with out := s.fp.out ++ settledSent s } }

theorem settleSetpoints_wants {m : Main} (h : s.mc.mode = .active ∧ severity s ≠ .failed)
    (hw : wantMain s.mc.config = some m) : settleSetpoints s = { s with
      se := { s.se with setpoint := ramped s.se.setpoint s.se.grant s.mc.config.rampStep, fallback := false }
      fp := { s.fp with
        out := s.fp.out ++ [.setpoint m (ramped s.se.setpoint s.se.grant s.mc.config.rampStep)] } } := by
  rw [settleSetpoints, if_pos h, hw]
  rfl

theorem settleSetpoints_wantsNothing (h : s.mc.mode = .active ∧ severity s ≠ .failed)
    (hw : wantMain s.mc.config = none) : settleSetpoints s = { s with se := { s.se with fallback := false } } := by
  rw [settleSetpoints, if_pos h, hw]
  rfl

theorem settleSetpoints_eq (hm : s.mc.mode ≠ .loading) :
    settleSetpoints (computeShare (countRound s)) = settled s := by
  let c : State := { s with se := computedSe s }
  rw [computeShare_countRound hm, show ({ s with se := computedSe s } : State) = c from rfl]
  by_cases hsound : s.mc.mode = .active ∧ severity s ≠ .failed
  · cases hw : wantMain s.mc.config with
    | none =>
      rw [settleSetpoints_wantsNothing (s := c) hsound hw]
      simp only [settled, settledSent, settledSe, if_pos hsound, hw, List.append_nil]
      rfl
    | some m =>
      rw [settleSetpoints_wants (s := c) hsound hw]
      simp only [settled, settledSent, settledSe, if_pos hsound, hw, c, computedSe]
  · have hfall : settleSetpoints c = enterFallback c := if_neg hsound
    rw [hfall, enterFallback_eq]
    cases hw : wantMain s.mc.config with
    | none =>
      simp only [settled, settledSent, settledSe, if_neg hsound, hw, c, fallbackSent, if_true]
      rfl
    | some m =>
      simp only [settled, settledSent, settledSe, if_neg hsound, hw, c, fallbackSent, reduceCtorEq, if_false]

/-! ### The requests that close it (R37, R50, R170) -/

/-- The STATE, HELLO and NODE STATUS of a round. -/
def closing (s : State) : State := sendNodeStatus (requestHello (requestState s))

theorem roundWork_eq (hm : s.mc.mode ≠ .loading) :
    roundWork s = closing (evaluateClaims (effectiveWant s).1 (settled s)) := by
  rw [← settleSetpoints_eq hm]
  rfl

/-- The STATE or the HELLO asked for changes the transmit queue alone. -/
theorem enqueue_tx {b : TxBody} (h : bodyKind b ≠ .claim) (s : State) :
    enqueue b s = { s with liu := { s.liu with tx := (enqueue b s).liu.tx } } := by
  simp only [enqueue]
  cases b with
  | claim l g => exact absurd rfl h
  | _ => split <;> rfl

theorem requestState_tx (s : State) :
    requestState s = { s with liu := { s.liu with tx := (requestState s).liu.tx } } := by
  simp only [requestState, builtState]
  cases s.mc.config.role with
  | none => rfl
  | some r =>
    simp only [Option.map_some]
    split
    · exact enqueue_tx (by simp [bodyKind]) s
    · rfl

theorem requestHello_tx (s : State) :
    requestHello s = { s with liu := { s.liu with tx := (requestHello s).liu.tx } } := by
  simp only [requestHello]
  split
  · exact enqueue_tx (by simp [configuredHello, bodyKind]) s
  · rfl

theorem closing_eq (s : State) : closing s = { s with
    liu := { s.liu with tx := (closing s).liu.tx }
    fp := { s.fp with out := s.fp.out ++ [.nodeStatus (nodeStatus s)] } } := by
  obtain ⟨tx, htx⟩ : ∃ tx, requestState s = { s with liu := { s.liu with tx := tx } } := ⟨_, requestState_tx s⟩
  obtain ⟨tx', htx'⟩ : ∃ tx', requestHello (requestState s) = { s with liu := { s.liu with tx := tx' } } := by
    rw [htx]
    exact ⟨_, requestHello_tx _⟩
  rw [closing, htx']
  rfl

/-- NODE STATUS does not tell what waits for the line or the port. -/
theorem nodeStatus_congr {tx : List TxEntry} {out : List FieldOut} (s : State) :
    nodeStatus { s with liu := { s.liu with tx := tx }, fp := { s.fp with out := out } } = nodeStatus s := rfl

/-- The STATE of a round. -/
def stateBody (r : Role) (s : State) : TxBody := .state r s.mc.config.period (ownRecords s) (ownExtras s)

/-- What a round asks of the line: its STATE, and in ACTIVE at each 64th round a HELLO. -/
def roundAsked (r : Role) (s : State) : List TxEntry :=
  (if stateDue s.mc.mode s.se.roundCount then [newEntry (stateBody r s)] else []) ++
    if helloDue s.mc.mode s.se.roundCount then [newEntry (configuredHello s.mc.config)] else []

/-- The modes that have rounds. -/
def HasRounds (m : Mode) : Prop := m = .listenIn ∨ m = .active ∨ m = .standbyListen

theorem enqueue_appends {b : TxBody} (hm : HasRounds s.mc.mode) (hb : bodyKind b ≠ .claim)
    (hs : bodyKind b = .state → ∀ x ∈ s.liu.tx, bodyKind x.body ≠ .state) (hl : s.liu.tx.length < 4) :
    (enqueue b s).liu.tx = s.liu.tx ++ [newEntry b] := by
  have ha : acceptsRequest s.mc.mode b = true := by
    rcases hm with h | h | h <;> rw [h] <;> rfl
  rw [enqueue_places ha (fun hk x hx _ => hs hk x hx) fun l g h => absurd (by rw [h]; rfl) hb, placeEntry, if_pos hl]
  rfl

/-- With no STATE waiting and room for both, the STATE and the HELLO are placed last (R7, R8). -/
theorem closing_line {r : Role} (hm : HasRounds s.mc.mode) (hr : s.mc.config.role = some r)
    (hs : ∀ x ∈ s.liu.tx, bodyKind x.body ≠ .state) (hl : s.liu.tx.length < 3) :
    (closing s).liu.tx = s.liu.tx ++ roundAsked r s := by
  have hstate : (requestState s).liu.tx =
      s.liu.tx ++ if stateDue s.mc.mode s.se.roundCount then [newEntry (stateBody r s)] else [] := by
    simp only [requestState, builtState, hr, Option.map_some]
    split
    · exact enqueue_appends hm (by simp [bodyKind]) (fun _ => hs) (by omega)
    · exact (List.append_nil _).symm
  have hlen : (requestState s).liu.tx.length < 4 := by
    rw [hstate, List.length_append]
    split <;> simp <;> omega
  have hhello : (requestHello (requestState s)).liu.tx = (requestState s).liu.tx ++
      if helloDue s.mc.mode s.se.roundCount then [newEntry (configuredHello s.mc.config)] else [] := by
    rw [requestState_tx s] at hlen ⊢
    simp only [requestHello]
    split
    · exact enqueue_appends hm (by simp [configuredHello, bodyKind])
        (fun h => absurd (show FrameKind.hello = .state from h) (by decide)) hlen
    · exact (List.append_nil _).symm
  calc (closing s).liu.tx = (requestHello (requestState s)).liu.tx := rfl
    _ = s.liu.tx ++ roundAsked r s := by rw [hhello, hstate, List.append_assoc, roundAsked]

theorem handEdges_same {before : State} (ls : List ClaimLine) (h : ∀ l, orAsserted l before = orAsserted l s) :
    handEdges before ls s = s := by
  induction ls with
  | nil => rfl
  | cons l rest ih => rw [handEdges, handEdge_same s before l (h l), ih]

/-- A round whose claims stand is its share, its output and its requests: no ladder is told. -/
theorem runRound_quiet {x : ShareEngine} (hm : s.mc.mode ≠ .loading)
    (h : evaluateClaims (effectiveWant s).1 (settled s) = { settled s with se := x }) :
    runRound s = closing { settled s with se := x } := by
  have hwork : roundWork s = closing { settled s with se := x } := (roundWork_eq hm).trans (congrArg closing h)
  have hcu : (roundWork s).cu = s.cu := by
    rw [hwork, closing_eq]
    rfl
  rw [runRound, handEdges_same _ fun l => by rw [orAsserted, orAsserted, hcu], hwork]

theorem exec_roundExpiry (h : s.se.roundTimer = some 0) : exec .roundExpiry s =
    .next (roundExpires { s with se := { s.se with roundTimer := some s.mc.config.period } }) := by
  refine congrArg Host.Outcome.next ((effect_roundExpiry s).trans ?_)
  rw [h]
  rfl

end Sys2Proof.Machine
end

section
/-! The statement about a round of ACTIVE at a sound station that wants (R37, R38, R42, R50, R51, R53, R55). -/

namespace Sys2Proof.Machine

variable {s t : State} {m : Main}

/-! ### What a round has settled -/

theorem settledSe_sound (h : s.mc.mode = .active ∧ severity s ≠ .failed) : settledSe s = { computedSe s with
    fallback := false
    setpoint := match wantMain s.mc.config with
      | some m => ramped s.se.setpoint (ownGrant m s) s.mc.config.rampStep
      | none => s.se.setpoint } := if_pos h

theorem settledSe_fallback (h : ¬(s.mc.mode = .active ∧ severity s ≠ .failed)) : settledSe s = { computedSe s with
    fallback := true
    setpoint := if wantMain s.mc.config = none then s.se.setpoint else s.mc.config.fallbackSetpoint } := if_neg h

/-- Settling the output leaves what the round has computed. -/
theorem settledSe_computed (s : State) : settledSe s = { computedSe s with
    fallback := (settledSe s).fallback, setpoint := (settledSe s).setpoint } := by
  rw [settledSe]
  split <;> rfl

theorem computedSe_wants (hw : wantMain s.mc.config = some m) : computedSe s = { s.se with
    roundCount := (s.se.roundCount + 1) % 2 ^ 32
    results := resultsOn (snapshot s) (computedMains s.mc.config) s.se.results
    grant := ownGrant m s, minGrant := ownMinGrant m s } := by
  simp only [computedSe, hw]

theorem computedSe_wantsNothing (hw : wantMain s.mc.config = none) : computedSe s = { s.se with
    roundCount := (s.se.roundCount + 1) % 2 ^ 32
    results := resultsOn (snapshot s) (computedMains s.mc.config) s.se.results } := by
  simp only [computedSe, hw]

theorem settledSe_minGrant (hw : wantMain s.mc.config = some m) : (settledSe s).minGrant = ownMinGrant m s := by
  rw [settledSe_computed, computedSe_wants hw]

theorem settledSe_results (hm : m ∈ computedMains s.mc.config) :
    (settledSe s).results.get m = mainResult m (snapshot s) := by
  rw [settledSe_computed]
  exact resultsOn_get _ _ _ hm _

theorem wantMain_computed (hw : wantMain s.mc.config = some m) : m ∈ computedMains s.mc.config := by
  cases hr : s.mc.config.role with
  | none => simp [wantMain, hr] at hw
  | some r => cases r <;> simp [wantMain, hr] at hw <;> simp [computedMains, hr, hw]

/-! ### The claim a round weighs (R55, R56) -/

theorem evaluateClaims_wants (lo : Nat) (hm : s.mc.mode = .active) (hw : wantMain s.mc.config = some m) :
    evaluateClaims lo s = evaluateShortfall lo m s := by
  rw [evaluateClaims, if_pos hm, hw]

theorem evaluateClaims_producer (lo : Nat) (hm : s.mc.mode = .active) (hr : s.mc.config.role = some .producer) :
    evaluateClaims lo s = evaluateSurplus s := by
  have hw : wantMain s.mc.config = none := by rw [wantMain, hr]
  rw [evaluateClaims, if_pos hm, hw]
  exact if_pos hr

/-- A minimum granted, with SHORTFALL not claimed, is counted and no more. -/
theorem evaluateShortfall_met {lo : Nat} (hg : lo ≤ s.se.minGrant) (ho : (s.cu.get ⟨m, .shortfall⟩).own = false) :
    evaluateShortfall lo m s = { s with se := { s.se with shortfallCount := 0 } } := by
  simp only [evaluateShortfall]
  rw [if_neg (Nat.not_lt.2 hg), if_neg (by rw [ho]; decide)]
  rfl

/-! ### A round that tells no ladder -/

/-- A round's effect where no claim changes and the queue was empty. -/
theorem runRound_whole {x : ShareEngine} {r : Role} (hm : HasRounds s.mc.mode) (hr : s.mc.config.role = some r)
    (htx : s.liu.tx = []) (h : evaluateClaims (effectiveWant s).1 (settled s) = { settled s with se := x }) :
    runRound s = { s with
      se := x
      liu := { s.liu with tx := roundAsked r { settled s with se := x } }
      fp := { s.fp with
        out := s.fp.out ++ settledSent s ++ [.nodeStatus (nodeStatus { settled s with se := x })] } } := by
  have hload : s.mc.mode ≠ .loading := by
    rcases hm with h | h | h <;> rw [h] <;> decide
  have htx' : ({ settled s with se := x } : State).liu.tx = [] := htx
  have hline := closing_line (s := { settled s with se := x }) hm hr (by rw [htx']; exact nofun) (by rw [htx']; simp)
  rw [htx', List.nil_append] at hline
  rw [runRound_quiet hload h, closing_eq, hline]
  rfl

theorem roundAsked_active (r : Role) (hm : s.mc.mode = .active) : roundAsked r s =
    newEntry (stateBody r s) ::
      if s.se.roundCount % 64 = 0 then [newEntry (configuredHello s.mc.config)] else [] := by
  simp [roundAsked, stateDue, helloDue, hm]

/-- The HELLO of a round. -/
def helloBody (r : Role) (c : StationConfig) : TxBody := .hello (some r) (mainsByte (stationMains c)) c.period c.tag

theorem configuredHello_eq {c : StationConfig} {r : Role} (hr : c.role = some r) :
    configuredHello c = helloBody r c := by
  rw [configuredHello, hr]
  rfl

/-- A round of a sound station that wants, its SHORTFALL not claimed and its minimum granted. -/
structure SoundRound (m : Main) (r : Role) (s t : State) : Prop where
  share : t.se = { s.se with
    roundCount := (s.se.roundCount + 1) % 2 ^ 32, results := t.se.results
    grant := ownGrant m s, minGrant := ownMinGrant m s
    setpoint := ramped s.se.setpoint (ownGrant m s) s.mc.config.rampStep
    fallback := false, shortfallCount := 0 }
  result : t.se.results.get m = mainResult m (snapshot s)
  line : t.liu = { s.liu with
    tx := newEntry (.state r s.mc.config.period (ownRecords t) (ownExtras t)) ::
      if (s.se.roundCount + 1) % 2 ^ 32 % 64 = 0 then [newEntry (helloBody r s.mc.config)] else [] }
  port : t.fp = { s.fp with out := s.fp.out ++ [.setpoint m t.se.setpoint, .nodeStatus (nodeStatus t)] }
  others : t = { s with se := t.se, liu := t.liu, fp := t.fp }

theorem runRound_sound {r : Role} (h : s.mc.mode = .active ∧ severity s ≠ .failed) (hr : s.mc.config.role = some r)
    (hw : wantMain s.mc.config = some m) (htx : s.liu.tx = []) (ho : (s.cu.get ⟨m, .shortfall⟩).own = false)
    (hg : (effectiveWant s).1 ≤ ownMinGrant m s) : SoundRound m r s (runRound s) := by
  let x : ShareEngine := { settledSe s with shortfallCount := 0 }
  have hclaims : evaluateClaims (effectiveWant s).1 (settled s) = { settled s with se := x } := by
    rw [evaluateClaims_wants (s := settled s) _ h.1 hw]
    exact evaluateShortfall_met (s := settled s) (le_of_le_of_eq hg (settledSe_minGrant hw).symm) ho
  have hx : x = { s.se with
      roundCount := (s.se.roundCount + 1) % 2 ^ 32, results := x.results
      grant := ownGrant m s, minGrant := ownMinGrant m s
      setpoint := ramped s.se.setpoint (ownGrant m s) s.mc.config.rampStep
      fallback := false, shortfallCount := 0 } := by
    simp only [x, settledSe_sound h, computedSe_wants hw, hw]
  have hsent : settledSent s = [.setpoint m x.setpoint] := by
    rw [settledSent, hw]
  have hasked := roundAsked_active (s := { settled s with se := x }) r h.1
  have hhello : configuredHello (settled s).mc.config = helloBody r s.mc.config := configuredHello_eq hr
  have hcount : x.roundCount = (s.se.roundCount + 1) % 2 ^ 32 := by rw [hx]
  rw [runRound_whole (.inr (.inl h.1)) hr htx hclaims, hasked, hsent, List.append_assoc]
  exact ⟨hx, settledSe_results (wantMain_computed hw), by simp only [hcount, hhello]; rfl, rfl, rfl⟩

theorem ownWant_sound (h : severity s ≠ .failed) : ownWant s =
    ⟨(effectiveWant s).1, (effectiveWant s).2 - (effectiveWant s).1, (wantClasses s.mc.config).1,
      (wantClasses s.mc.config).2⟩ := by
  rw [ownWant, if_neg h]

/-- Settles O30. -/
theorem activeRoundMovesTheSetpoint : Obligations.ActiveRoundMovesTheSetpoint := by
  intro m w r s htimer hm hsev hwait hr hw htx ho hwant es g mg hg
  subst hwant
  let v : State := { s with se := { s.se with roundTimer := some s.mc.config.period } }
  have hex : exec .roundExpiry s = .next (runRound v) := by
    rw [exec_roundExpiry htimer, roundExpires]
    simp only [hm, hwait]
    rfl
  have hgrant : ownGrant m v = g := by
    rw [ownGrant, ownWant_sound (s := v) hsev]
    rfl
  have hmin : ownMinGrant m v = mg := by
    rw [ownMinGrant, ownWant_sound (s := v) hsev]
    rfl
  obtain ⟨hshare, hresult, hline, hport, hothers⟩ :=
    runRound_sound (s := v) ⟨hm, hsev⟩ hr hw htx ho (by rw [hmin]; exact hg)
  rw [hgrant, hmin] at hshare
  refine ⟨_, hex, hshare, hresult, hline, hport, ?_⟩
  rw [hothers]
  exact ⟨rfl, rfl, rfl, rfl, rfl, rfl, rfl, rfl, rfl, rfl, rfl, rfl⟩

end Sys2Proof.Machine
end

section
/-! SUPPORT. A round whose own claim changes (R55 to R58, R76): what the claim writes, and what its ladder, told after
the round, may do. -/

namespace Sys2Proof.Machine

variable {s t u : State} {l : ClaimLine}

/-! ### What a ladder that is told sends and asks -/

theorem rebuildWant_sent (s : State) : s.fp.out <+: (rebuildWant s).fp.out := by
  rw [rebuildWant_eq (s := s) rfl rfl]
  exact List.prefix_append _ _

theorem fuelRequest_sent (f : Fuel) (l : ClaimLine) (s : State) : s.fp.out <+: (fuelRequest f l s).fp.out := by
  rw [fuelRequest]
  split
  · split
    · simp
    · rw [startChangeover_eq]
      refine List.IsPrefix.trans ?_ (rebuildWant_sent _)
      exact List.prefix_append s.fp.out [.fuelCommand f]
  · split
    · simp only [joinFlight]
      split <;> simp
    · simp only [recordTarget]
      split <;> simp

theorem flareRequest_sent (r : FlareRequest) (s : State) : s.fp.out <+: (flareRequest r s).fp.out := by
  rw [flareRequest]
  split
  · rw [startFlare]
    split
    · simp
    · exact List.prefix_append _ _
  · exact List.prefix_rfl

theorem askTake_sent (a : Action) (l : ClaimLine) (s : State) : s.fp.out <+: (askTake a l s).fp.out := by
  cases a with
  | fuelBackup => exact fuelRequest_sent .backup l s
  | fuelGas => exact fuelRequest_sent .gas l s
  | flareStep => exact flareRequest_sent ⟨l, false⟩ s
  | shed => simpa [askTake] using rebuildWant_sent s
  | raise n => simpa [askTake] using rebuildWant_sent s
  | none => simp [askTake]
  | wake r => simp [askTake]

theorem askUndo_sent (a : Action) (l : ClaimLine) (s : State) : s.fp.out <+: (askUndo a l s).fp.out := by
  cases a with
  | fuelBackup => exact fuelRequest_sent .gas l s
  | fuelGas => exact fuelRequest_sent .backup l s
  | flareStep => exact flareRequest_sent ⟨l, true⟩ s
  | shed => simpa [askUndo] using rebuildWant_sent s
  | raise n => simpa [askUndo] using rebuildWant_sent s
  | none => simp [askUndo]
  | wake r => simp [askUndo]

theorem askUndo_keeps (a : Action) (l : ClaimLine) (s : State) : RisesKeep False False False s (askUndo a l s) := by
  have done : ∀ t : State, RisesKeep False False False t (completeAction l .completed t) := fun t =>
    .of_eq (by simp) (by simp) (by simp) (by simp) (by simp)
  cases a with
  | none => exact done s
  | wake r => exact done s
  | fuelBackup => exact fuelRequest_keeps .gas l s id
  | fuelGas => exact fuelRequest_keeps .backup l s id
  | flareStep => exact flareRequest_keeps ⟨l, true⟩ s id
  | shed => exact (rebuildWant_keeps s).trans (done _)
  | raise n => exact (rebuildWant_keeps s).trans (done _)

/-- A request that is no STATE and no CLAIM leaves the entries of a queue with room where they stand. -/
theorem enqueue_keeps {b : TxBody} (hb : bodyKind b ≠ .state ∧ bodyKind b ≠ .claim) (hl : s.liu.tx.length < 4) :
    s.liu.tx <+: (enqueue b s).liu.tx := by
  by_cases ha : acceptsRequest s.mc.mode b = true
  · rw [enqueue_last hb ha hl]
    exact List.prefix_append _ _
  · simp [enqueue, ha]

theorem askTake_queued (a : Action) (l : ClaimLine) (hl : s.liu.tx.length < 4) :
    s.liu.tx <+: (askTake a l s).liu.tx := by
  cases a with
  | wake r => simpa [askTake] using enqueue_keeps (b := .wake r l.main) (by simp [bodyKind]) hl
  | fuelBackup => simp [askTake]
  | fuelGas => simp [askTake]
  | flareStep => simp [askTake]
  | shed => simp [askTake]
  | raise n => simp [askTake]
  | none => simp [askTake]

/-- What a ladder that is told its line's edge may change of the share, the port and the queue. -/
structure LadderTold (s t : State) : Prop where
  share : t.se = { s.se with grant := t.se.grant, minGrant := t.se.minGrant, setpoint := t.se.setpoint }
  output : s.se.fallback = true → t.se.setpoint = s.se.setpoint
  sent : s.fp.out <+: t.fp.out
  queued : s.liu.tx.length < 4 → s.liu.tx <+: t.liu.tx

theorem LadderTold.refl (s : State) : LadderTold s s :=
  ⟨rfl, fun _ => rfl, List.prefix_rfl, fun _ => List.prefix_rfl⟩

theorem ladderRise_told (l : ClaimLine) (s : State) : LadderTold s (ladderRise l s) := by
  by_cases h : ∃ st, (s.rl.get l).state = .idle ∧ (ladderSteps l s)[(s.rl.get l).taken]? = some st
  · obtain ⟨st, hi, hst⟩ := h
    rw [ladderRise_asks hi hst]
    let w := setLadder l ⟨.stepping, (s.rl.get l).taken + 1, none, (s.rl.get l).outcome⟩ s
    obtain ⟨hshare, hlow, -, -, -, -⟩ := askTake_keeps (noFuel := False) (noFlare := False) (noWake := False)
      st.action l w nofun nofun nofun
    exact ⟨hshare, hlow.2.2.2, askTake_sent st.action l w, askTake_queued (s := w) st.action l⟩
  · rw [ladderRise_none fun st hst => h ⟨st, hst⟩]
    exact .refl s

theorem ladderFall_told (l : ClaimLine) (s : State) : LadderTold s (ladderFall l s) := by
  have asked (a : Action) (w : State) (hse : w.se = s.se) (hfp : w.fp = s.fp) (hliu : w.liu = s.liu) :
      LadderTold s (askUndo a l w) := by
    obtain ⟨hshare, hlow, -, -, -, -⟩ := askUndo_keeps a l w
    rw [hse] at hshare hlow
    exact ⟨hshare, hlow.2.2.2, hfp ▸ askUndo_sent a l w, fun _ => by simp [hliu]⟩
  rw [ladderFall]
  split
  · simp only [undoStep]
    split
    · exact .refl s
    · split
      · exact .refl s
      · exact asked _ _ rfl rfl rfl
  all_goals exact .refl s

theorem handEdge_told (before : State) (l : ClaimLine) (s : State) : LadderTold s (handEdge before l s) := by
  rw [handEdge]
  split
  · exact .refl s
  · split
    · split
      · exact .refl s
      · exact ladderRise_told l s
    · exact ladderFall_told l s

/-! ### An own claim within a round (R58, R76) -/

/-- An own claim written within a round of ACTIVE: its line, the latch where the line wakes, and the CLAIM asked for. -/
structure ClaimWritten (l : ClaimLine) (own : Bool) (s t : State) : Prop where
  line : ∃ x, t.cu = s.cu.set l x ∧ x.own = own ∧ (s.mc.node.val ∈ x.sources ↔ own = true) ∧
    (x.pending = true → (s.cu.get l).pending = true ∨ (s.mc.config.lines.get l).masked = true)
  queued : s.liu.tx = [] → t.liu.tx = [newEntry (.claim l (if own then .assert else .release))]
  others : t = { s with
    cu := t.cu, mc := { s.mc with latch := t.mc.latch }, liu := { s.liu with tx := t.liu.tx }, freeNext := t.freeNext }

/-- A CLAIM asked for changes the queue alone, and the draws of the free numbers. -/
theorem enqueueClaim_changes (l : ClaimLine) (g : Edge) (s : State) : enqueue (.claim l g) s = { s with
    liu := { s.liu with tx := (enqueue (.claim l g) s).liu.tx }, freeNext := (enqueue (.claim l g) s).freeNext } := by
  simp only [enqueue]
  split
  · simp only [enqueueClaim]
    split
    · rfl
    · split
      · rfl
      · simp only [survivorDrawn]
        split <;> rfl
  · rfl

theorem enqueueClaim_first (l : ClaimLine) (g : Edge) (hm : s.mc.mode = .active) (htx : s.liu.tx = []) :
    (enqueue (.claim l g) s).liu.tx = [newEntry (.claim l g)] := by
  rw [enqueue_places (by rw [hm]; rfl) (fun h => absurd h (by simp [bodyKind])) fun _ _ _ x hx => by simp [htx] at hx,
    placeEntry, htx]
  rfl

/-- A claim's line written, and its CLAIM asked for. -/
theorem claimWritten_of {own : Bool} {x : LineState} {latch : WakeLatch} (hm : s.mc.mode = .active)
    (hown : x.own = own) (hnode : s.mc.node.val ∈ x.sources ↔ own = true)
    (hpending : x.pending = true → (s.cu.get l).pending = true ∨ (s.mc.config.lines.get l).masked = true)
    (ht : t = enqueue (.claim l (if own then .assert else .release))
      { s with cu := s.cu.set l x, mc := { s.mc with latch := latch } }) : ClaimWritten l own s t := by
  subst ht
  have hchanges := enqueueClaim_changes l (if own then .assert else .release)
    { s with cu := s.cu.set l x, mc := { s.mc with latch := latch } }
  refine ⟨⟨x, by rw [hchanges], hown, hnode, hpending⟩, fun htx => enqueueClaim_first l _ hm htx, ?_⟩
  rw [hchanges]

theorem setPending_setLine (b : Bool) (l : ClaimLine) (y : LineState) (s : State) :
    setPending b l (setLine l y s) = setLine l { y with pending := b } s := by
  have hget : (setLine l y s).cu.get l = y := by simp [setLine]
  rw [setPending, hget, setLine_setLine]

/-- A rise noted in ACTIVE: a masked line with its ladder IDLE is pending, and a wake line latched (R81, R83, R177). -/
theorem noteRise_setLine_active (y : LineState) (hm : s.mc.mode = .active) : ∃ z latch,
    noteRise l (setLine l y s) = { s with cu := s.cu.set l z, mc := { s.mc with latch := latch } } ∧
      z.own = y.own ∧ z.sources = y.sources ∧
      (z.pending = true → y.pending = true ∨ (s.mc.config.lines.get l).masked = true) := by
  have hawake (u : State) (hu : u.mc = s.mc) : ∃ latch,
      (if u.mc.config.wakeSet.get l then latchCause (.claimRise l) u else u) =
        { u with mc := { s.mc with latch := latch } } := by
    split
    · rw [latchCause_awake _ (.inr (.inl (by rw [hu]; exact hm))), hu]
      exact ⟨_, rfl⟩
    · exact ⟨s.mc.latch, by rw [← hu]⟩
  by_cases hheld : heldBack l (setLine l y s) = true
  · obtain ⟨latch, hlatch⟩ := hawake (setLine l { y with pending := true } s) rfl
    have hmasked : (s.mc.config.lines.get l).masked = true := by
      simp only [heldBack, masked, Bool.and_eq_true, Bool.or_eq_true] at hheld
      exact hheld.1.resolve_right fun h => by simp [setLine, hm, modeMasks] at h
    refine ⟨{ y with pending := true }, latch, ?_, rfl, rfl, fun _ => .inr hmasked⟩
    rw [noteRise, if_pos hheld, setPending_setLine]
    exact hlatch
  · obtain ⟨latch, hlatch⟩ := hawake (setLine l y s) rfl
    refine ⟨y, latch, ?_, rfl, rfl, .inl⟩
    rw [noteRise, if_neg hheld]
    exact hlatch

theorem assertInRound_held (ho : (s.cu.get l).own = true) : assertInRound l s = s := if_pos ho

theorem releaseInRound_free (ho : (s.cu.get l).own = false) : releaseInRound l s = s := if_neg (by rw [ho]; decide)

/-- An own claim asserted within a round of ACTIVE: the rise is noted, the ladder not told. -/
theorem assertInRound_written (hm : s.mc.mode = .active) (ho : (s.cu.get l).own = false) :
    ClaimWritten l true s (assertInRound l s) := by
  let x : LineState := { s.cu.get l with own := true }
  let y : LineState := { x with sources := setAdd s.mc.node.val x.sources }
  have hget : (setLine l x s).cu.get l = x := by simp [setLine]
  have hset (z : LineState) : setLine l z (setLine l x s) = setLine l z s := setLine_setLine l x z s
  have hassert : assertInRound l s =
      enqueue (.claim l .assert) (setBitWith (noteRise l) s.mc.node.val l (setLine l x s)) :=
    if_neg (by rw [ho]; decide)
  have pending {z : LineState} (hz : z.pending = x.pending) (h : z.pending = true) :
      (s.cu.get l).pending = true ∨ (s.mc.config.lines.get l).masked = true := .inl (hz ▸ h)
  rw [hassert]
  simp only [setBitWith, hget, hset]
  split
  · next hin =>
    exact claimWritten_of (x := x) (latch := s.mc.latch) hm rfl (by simpa using hin) (pending rfl) rfl
  · split
    · obtain ⟨z, latch, hnote, hown, hsources, hpending⟩ := noteRise_setLine_active (l := l) y hm
      exact claimWritten_of (x := z) (latch := latch) hm hown (by rw [hsources]; simp [y])
        hpending (by rw [hnote]; rfl)
    · exact claimWritten_of (x := y) (latch := s.mc.latch) hm rfl (by simp [y]) (pending rfl) rfl

/-- An own claim released within a round of ACTIVE: its line's fall, where it falls, is not told. -/
theorem releaseInRound_written (hm : s.mc.mode = .active) (ho : (s.cu.get l).own = true) :
    ClaimWritten l false s (releaseInRound l s) := by
  let x : LineState := { s.cu.get l with own := false }
  let y : LineState := { x with sources := setRemove s.mc.node.val x.sources }
  have hget : (setLine l x s).cu.get l = x := by simp [setLine]
  have hset (z : LineState) : setLine l z (setLine l x s) = setLine l z s := setLine_setLine l x z s
  have hrelease : releaseInRound l s =
      enqueue (.claim l .release) (clearBitWith (setPending false l) s.mc.node.val l (setLine l x s)) := if_pos ho
  have hnot : s.mc.node.val ∉ y.sources := by simp [y]
  rw [hrelease]
  simp only [clearBitWith, hget, hset]
  split
  · split
    · exact claimWritten_of (x := { y with pending := false }) (latch := s.mc.latch) hm rfl (by simpa using hnot)
        nofun (by rw [setPending_setLine]; rfl)
    · exact claimWritten_of (x := y) (latch := s.mc.latch) hm rfl (by simpa using hnot) (fun h => .inl h) rfl
  · next hin =>
    exact claimWritten_of (x := x) (latch := s.mc.latch) hm rfl (by simpa using hin) (fun h => .inl h) rfl

end Sys2Proof.Machine
end

section
/-! The statement about the own claims of a round (R55, R56, R58, R76). -/

namespace Sys2Proof.Machine

variable {s t q : State} {l : ClaimLine} {m : Main} {own : Bool} {a b : Nat}

/-! ### What a station's own records are made of (R50) -/

theorem ownRecords_congr (hw : WantAlike s t) (hsp : t.se.setpoint = s.se.setpoint)
    (hm : t.se.measured = s.se.measured) (hu : t.hu = s.hu) (hf : t.mc.faults = s.mc.faults) :
    ownRecords t = ownRecords s := by
  have hwant := effectiveWant_congr hw
  obtain ⟨hmode, hc, -, hfuel, -, -, -⟩ := hw
  simp only [ownRecords, hwant, currentOffer, boilerOffer, measuredOut, drawLimit, absorbLimit, hmode, hc, hfuel, hsp,
    hm, hu, hf]

/-! ### A round with its claim weighed -/

/-- The share a round leaves, its counters written. -/
def countedSe (a b : Nat) (s : State) : ShareEngine :=
  { settledSe s with shortfallCount := a, excessCount := b }

/-- The station as its claim is weighed. -/
def weighing (a b : Nat) (s : State) : State := { settled s with se := countedSe a b s }

/-- The claim of a line weighed in a round: it is as it shall be, or it is written. -/
def Weighed (l : ClaimLine) (own : Bool) (a b : Nat) (s q : State) : Prop :=
  if (s.cu.get l).own = own then q = weighing a b s else ClaimWritten l own (weighing a b s) q

/-- What a weighed claim leaves of the station. -/
structure WeighedParts (l : ClaimLine) (own : Bool) (a b : Nat) (s q : State) : Prop where
  claim : (q.cu.get l).own = own
  changed : (s.cu.get l).own ≠ own → (s.mc.node.val ∈ (q.cu.get l).sources ↔ own = true) ∧
    (s.liu.tx = [] → q.liu.tx = [newEntry (.claim l (if own then .assert else .release))])
  lines : ∀ k, k ≠ l → q.cu.get k = s.cu.get k
  pending : (q.cu.get l).pending = true → (s.cu.get l).pending = true ∨ (s.mc.config.lines.get l).masked = true
  queue : s.liu.tx = [] → q.liu.tx.length ≤ 1 ∧ ∀ x ∈ q.liu.tx, bodyKind x.body ≠ .state
  others : q = { weighing a b s with
    cu := q.cu, mc := { s.mc with latch := q.mc.latch }, liu := { s.liu with tx := q.liu.tx }, freeNext := q.freeNext }

theorem Weighed.parts (h : Weighed l own a b s q) : WeighedParts l own a b s q := by
  rw [Weighed] at h
  split at h
  · next ho =>
    subst h
    refine ⟨ho, fun hne => absurd ho hne, fun _ _ => rfl, .inl, fun htx => ?_, rfl⟩
    have htx' : (weighing a b s).liu.tx = [] := htx
    rw [htx']
    exact ⟨by decide, nofun⟩
  · next ho =>
    obtain ⟨⟨x, hcu, hown, hnode, hpending⟩, hqueued, hothers⟩ := h
    have hget : q.cu.get l = x := by rw [hcu]; exact Six.get_set_self _ _ _
    refine ⟨by rw [hget, hown], fun _ => ⟨by rw [hget]; exact hnode, hqueued⟩, fun k hk => ?_, ?_, fun htx => ?_,
      hothers⟩
    · rw [hcu]
      exact Six.get_set_of_ne _ _ hk
    · rw [hget]
      exact hpending
    · rw [hqueued htx]
      simp [newEntry, bodyKind]

/-- A round of ACTIVE, its own claim on a line weighed. -/
structure RoundClaims (l : ClaimLine) (own : Bool) (a b : Nat) (s t : State) : Prop where
  claim : (t.cu.get l).own = own
  counts : t.se.shortfallCount = a ∧ t.se.excessCount = b
  changed : (s.cu.get l).own ≠ own → (s.mc.node.val ∈ (t.cu.get l).sources ↔ own = true) ∧
    (s.liu.tx = [] → newEntry (.claim l (if own then .assert else .release)) ∈ t.liu.tx)
  asked : ∀ r, s.mc.config.role = some r → s.liu.tx = [] →
    newEntry (.state r s.mc.config.period (ownRecords { s with se := { s.se with setpoint := (settledSe s).setpoint } })
      (ownExtras s)) ∈ t.liu.tx
  lines : ∀ k, k ≠ l → t.cu.get k = s.cu.get k
  pending : (t.cu.get l).pending = true → (s.cu.get l).pending = true ∨ (s.mc.config.lines.get l).masked = true
  modes : t.mc = { s.mc with latch := t.mc.latch }
  share : t.se = { countedSe a b s with grant := t.se.grant, minGrant := t.se.minGrant, setpoint := t.se.setpoint }
  output : (settledSe s).fallback = true → t.se.setpoint = (settledSe s).setpoint
  sent : s.fp.out ++ settledSent s <+: t.fp.out

theorem engineLines_role {c : StationConfig} (h : engineLines c = [l]) : ∃ r, c.role = some r := by
  cases hr : c.role with
  | none => simp [engineLines, wantMain, hr] at h
  | some r => exact ⟨r, rfl⟩

theorem settledSe_reads (s : State) :
    (settledSe s).capability = s.se.capability ∧ (settledSe s).measured = s.se.measured := by
  rw [settledSe_computed]
  exact ⟨rfl, rfl⟩

theorem length_roundAsked (r : Role) (s : State) : (roundAsked r s).length ≤ 2 := by
  rw [roundAsked, List.length_append]
  (repeat' split) <;> simp

@[simp] theorem closing_frame : (closing s).se = s.se ∧ (closing s).cu = s.cu ∧ (closing s).mc = s.mc ∧
    (closing s).fp.out = s.fp.out ++ [.nodeStatus (nodeStatus s)] := by
  rw [closing_eq]
  exact ⟨rfl, rfl, rfl, rfl⟩

theorem runRound_claims (hm : s.mc.mode = .active) (hl : engineLines s.mc.config = [l])
    (hw : Weighed l own a b s (evaluateClaims (effectiveWant s).1 (settled s))) :
    RoundClaims l own a b s (runRound s) := by
  obtain ⟨q, hq⟩ : ∃ q, q = evaluateClaims (effectiveWant s).1 (settled s) := ⟨_, rfl⟩
  rw [← hq] at hw
  obtain ⟨hclaim, hchanged, hlines, hpending, hqueue, hothers⟩ := hw.parts
  have hrun : runRound s = handEdge s l (closing q) := by
    rw [runRound, hl, roundWork_eq (by rw [hm]; decide), ← hq]
    rfl
  obtain ⟨hshare, houtput, hsent, hqueued⟩ := handEdge_told s l (closing q)
  have hcu : (runRound s).cu = q.cu := by simp [hrun]
  have hmc : (runRound s).mc = { s.mc with latch := (runRound s).mc.latch } := by
    simp only [hrun, handEdge_frame, closing_frame]
    rw [hothers]
  have hse : q.se = countedSe a b s := by
    rw [hothers]
    rfl
  have hfp : q.fp = (settled s).fp := by
    rw [hothers]
    rfl
  have hline {r : Role} (hr : s.mc.config.role = some r) (htx : s.liu.tx = []) :
      q.liu.tx ++ roundAsked r q <+: (runRound s).liu.tx := by
    obtain ⟨hlen, hstate⟩ := hqueue htx
    have hmode : q.mc.mode = .active := by rw [hothers]; exact hm
    have hrole : q.mc.config.role = some r := by rw [hothers]; exact hr
    have hclose := closing_line (.inr (.inl hmode)) hrole hstate (by omega)
    have hroom : (closing q).liu.tx.length < 4 := by
      have hasked := length_roundAsked r q
      rw [hclose, List.length_append]
      omega
    rw [hrun, ← hclose]
    exact hqueued hroom
  rw [← hrun, closing_frame.1] at hshare houtput
  rw [← hrun, closing_frame.2.2.2] at hsent
  refine ⟨by rw [hcu]; exact hclaim, by rw [hshare, hse]; exact ⟨rfl, rfl⟩, fun hne => ?_, fun r hr htx => ?_,
    fun k hk => by rw [hcu]; exact hlines k hk, by rw [hcu]; exact hpending, hmc, by rw [hshare, hse], fun hf => ?_, ?_⟩
  · obtain ⟨hnode, hqueue'⟩ := hchanged hne
    rw [hcu]
    obtain ⟨r, hr⟩ := engineLines_role hl
    refine ⟨hnode, fun htx => (hline hr htx).subset ?_⟩
    rw [hqueue' htx]
    simp
  · have hmode : q.mc.mode = .active := by rw [hothers]; exact hm
    have hbody : stateBody r q = .state r s.mc.config.period
        (ownRecords { s with se := { s.se with setpoint := (settledSe s).setpoint } }) (ownExtras s) := by
      rw [stateBody, hothers]
      obtain ⟨hcap, hmeas⟩ := settledSe_reads s
      have hrecords : ownRecords (weighing a b s) =
          ownRecords { s with se := { s.se with setpoint := (settledSe s).setpoint } } :=
        ownRecords_congr ⟨rfl, rfl, hcap, rfl, rfl, rfl, fun _ => rfl⟩ rfl hmeas rfl rfl
      exact congrArg₂ (TxBody.state r s.mc.config.period) hrecords rfl
    refine (hline hr htx).subset (List.mem_append_right _ ?_)
    rw [roundAsked_active r hmode, hbody]
    exact List.mem_cons_self
  · rw [houtput (by rw [hse]; exact hf), hse]
    rfl
  · refine List.IsPrefix.trans ?_ hsent
    rw [hfp]
    exact List.prefix_append _ _

/-! ### The two claims weighed (R55, R56) -/

theorem settledSe_counts (s : State) : (settledSe s).shortfallCount = s.se.shortfallCount ∧
    (settledSe s).excessCount = s.se.excessCount := by
  rw [settledSe_computed]
  exact ⟨rfl, rfl⟩

theorem engineLines_wants (hw : wantMain s.mc.config = some m) : engineLines s.mc.config = [⟨m, .shortfall⟩] := by
  rw [engineLines, hw]

theorem engineLines_producer (hr : s.mc.config.role = some .producer) :
    engineLines s.mc.config = [⟨s.mc.config.main, .surplus⟩] := by
  have hw : wantMain s.mc.config = none := by rw [wantMain, hr]
  rw [engineLines, hw]
  exact if_pos hr

theorem weighed_stands (h : (s.cu.get l).own = own) : Weighed l own a b s (weighing a b s) := by
  rw [Weighed, if_pos h]

theorem weighed_asserts (hm : s.mc.mode = .active) : Weighed l true a b s (assertInRound l (weighing a b s)) := by
  rw [Weighed]
  split
  · next h => exact assertInRound_held (s := weighing a b s) h
  · next h => exact assertInRound_written (s := weighing a b s) hm (Bool.eq_false_iff.2 h)

theorem weighed_releases (hm : s.mc.mode = .active) : Weighed l false a b s (releaseInRound l (weighing a b s)) := by
  rw [Weighed]
  split
  · next h => exact releaseInRound_free (s := weighing a b s) h
  · next h => exact releaseInRound_written (s := weighing a b s) hm (Bool.not_eq_false _ ▸ h)

theorem evaluateShortfall_short {lo : Nat} (hg : s.se.minGrant < lo) : evaluateShortfall lo m s =
    assertInRound ⟨m, .shortfall⟩ { s with se := { s.se with shortfallCount := 0 } } := if_pos hg

theorem evaluateShortfall_once {lo : Nat} (hg : lo ≤ s.se.minGrant) (ho : (s.cu.get ⟨m, .shortfall⟩).own = true)
    (hc : s.se.shortfallCount = 0) :
    evaluateShortfall lo m s = { s with se := { s.se with shortfallCount := 1 } } := by
  simp only [evaluateShortfall]
  rw [if_neg (Nat.not_lt.2 hg), if_pos ho, if_neg (by omega), hc]
  rfl

theorem evaluateShortfall_again {lo : Nat} (hg : lo ≤ s.se.minGrant) (ho : (s.cu.get ⟨m, .shortfall⟩).own = true)
    (hc : 1 ≤ s.se.shortfallCount) : evaluateShortfall lo m s =
      releaseInRound ⟨m, .shortfall⟩ { s with se := { s.se with shortfallCount := 0 } } := by
  simp only [evaluateShortfall]
  rw [if_neg (Nat.not_lt.2 hg), if_pos ho, if_pos (by omega)]
  rfl

/-- The excess a producer's round has found. -/
def excessFound (s : State) : Nat := (s.se.results.get s.mc.config.main).excess

theorem evaluateSurplus_agrees (h : decide (0 < excessFound s) = (s.cu.get ⟨s.mc.config.main, .surplus⟩).own) :
    evaluateSurplus s = { s with se := { s.se with excessCount := 0 } } := if_pos h

theorem evaluateSurplus_once (h : decide (0 < excessFound s) ≠ (s.cu.get ⟨s.mc.config.main, .surplus⟩).own)
    (hc : s.se.excessCount = 0) : evaluateSurplus s = { s with se := { s.se with excessCount := 1 } } := by
  rw [excessFound] at h
  simp only [evaluateSurplus]
  rw [if_neg h, if_neg (by omega), hc]
  rfl

theorem evaluateSurplus_again (h : decide (0 < excessFound s) ≠ (s.cu.get ⟨s.mc.config.main, .surplus⟩).own)
    (hc : 1 ≤ s.se.excessCount) : evaluateSurplus s =
      if (s.cu.get ⟨s.mc.config.main, .surplus⟩).own = true then
        releaseInRound ⟨s.mc.config.main, .surplus⟩ { s with se := { s.se with excessCount := 0 } }
      else assertInRound ⟨s.mc.config.main, .surplus⟩ { s with se := { s.se with excessCount := 0 } } := by
  rw [excessFound] at h
  simp only [evaluateSurplus]
  rw [if_neg h, if_pos (by omega)]
  rfl

/-- A station that wants nothing keeps its output. -/
theorem settledSe_setpoint (hw : wantMain s.mc.config = none) : (settledSe s).setpoint = s.se.setpoint := by
  simp only [settledSe, hw, if_true]
  split <;> rfl

/-- A round's weighing of SHORTFALL: the own claim and the counter it leaves (R55). -/
theorem shortfall_weighed (hm : s.mc.mode = .active) (hw : wantMain s.mc.config = some m) :
    let l : ClaimLine := ⟨m, .shortfall⟩
    let lo := (effectiveWant s).1
    let q := evaluateClaims lo (settled s)
    let b := (settledSe s).excessCount
    (ownMinGrant m s < lo → Weighed l true 0 b s q) ∧
      (lo ≤ ownMinGrant m s → (s.cu.get l).own = false → Weighed l false 0 b s q) ∧
      (lo ≤ ownMinGrant m s → (s.cu.get l).own = true → s.se.shortfallCount = 0 → Weighed l true 1 b s q) ∧
      (lo ≤ ownMinGrant m s → (s.cu.get l).own = true → 1 ≤ s.se.shortfallCount → Weighed l false 0 b s q) := by
  intro l lo q b
  have hmin : (settled s).se.minGrant = ownMinGrant m s := settledSe_minGrant hw
  have hcount : (settled s).se.shortfallCount = s.se.shortfallCount := (settledSe_counts s).1
  have hq : q = evaluateShortfall lo m (settled s) := evaluateClaims_wants (s := settled s) _ hm hw
  rw [hq, ← hmin, ← hcount]
  refine ⟨fun hg => ?_, fun hg ho => ?_, fun hg ho hc => ?_, fun hg ho hc => ?_⟩
  · rw [evaluateShortfall_short hg]
    exact weighed_asserts hm
  · rw [evaluateShortfall_met hg ho]
    exact weighed_stands ho
  · rw [evaluateShortfall_once hg ho hc]
    exact weighed_stands ho
  · rw [evaluateShortfall_again hg ho hc]
    exact weighed_releases hm

/-- A producer's weighing of SURPLUS, `x` the excess on its main: the own claim and the counter it leaves (R56). -/
theorem surplus_weighed (hm : s.mc.mode = .active) (hr : s.mc.config.role = some .producer) :
    let l : ClaimLine := ⟨s.mc.config.main, .surplus⟩
    let own := (s.cu.get l).own
    let x := (mainResult s.mc.config.main (snapshot s)).excess
    let q := evaluateClaims (effectiveWant s).1 (settled s)
    let a := (settledSe s).shortfallCount
    ((0 < x ↔ own = true) → Weighed l own a 0 s q) ∧
      (¬(0 < x ↔ own = true) → s.se.excessCount = 0 → Weighed l own a 1 s q) ∧
      (¬(0 < x ↔ own = true) → 1 ≤ s.se.excessCount → Weighed l (!own) a 0 s q) := by
  intro l own x q a
  have hfound : excessFound (settled s) = x := congrArg MainResult.excess
    (settledSe_results (m := s.mc.config.main) (by rw [computedMains, hr]; exact List.mem_singleton.2 rfl))
  have hcount : (settled s).se.excessCount = s.se.excessCount := (settledSe_counts s).2
  have hq : q = evaluateSurplus (settled s) := evaluateClaims_producer (s := settled s) _ hm hr
  have hiff : (decide (0 < x) = own) ↔ (0 < x ↔ own = true) := by
    cases own <;> simp
  rw [hq, ← hcount, ← hiff, ← hfound]
  refine ⟨fun h => ?_, fun h hc => ?_, fun h hc => ?_⟩
  · rw [evaluateSurplus_agrees h]
    exact weighed_stands rfl
  · rw [evaluateSurplus_once h hc]
    exact weighed_stands rfl
  · rw [evaluateSurplus_again h hc]
    cases ho : own with
    | true =>
      have ho : ((settled s).cu.get ⟨(settled s).mc.config.main, .surplus⟩).own = true := ho
      rw [if_pos ho]
      exact weighed_releases hm
    | false =>
      have ho : ((settled s).cu.get ⟨(settled s).mc.config.main, .surplus⟩).own = false := ho
      rw [if_neg (by rw [ho]; decide)]
      exact weighed_asserts hm

/-- Every round of ACTIVE weighs the claim of the line its engine claims on. -/
theorem exists_weighed (hm : s.mc.mode = .active) (hl : engineLines s.mc.config = [l]) :
    ∃ own a b, Weighed l own a b s (evaluateClaims (effectiveWant s).1 (settled s)) := by
  cases hw : wantMain s.mc.config with
  | some m =>
    obtain rfl : ⟨m, .shortfall⟩ = l := List.singleton_inj.1 ((engineLines_wants hw).symm.trans hl)
    obtain ⟨hshort, hfree, honce, hagain⟩ := shortfall_weighed hm hw
    by_cases hg : ownMinGrant m s < (effectiveWant s).1
    · exact ⟨_, _, _, hshort hg⟩
    · have hg : (effectiveWant s).1 ≤ ownMinGrant m s := Nat.le_of_not_lt hg
      cases ho : (s.cu.get ⟨m, .shortfall⟩).own with
      | false => exact ⟨_, _, _, hfree hg ho⟩
      | true =>
        by_cases hc : s.se.shortfallCount = 0
        · exact ⟨_, _, _, honce hg ho hc⟩
        · exact ⟨_, _, _, hagain hg ho (Nat.one_le_iff_ne_zero.2 hc)⟩
  | none =>
    have hr : s.mc.config.role = some .producer := by
      by_contra hr
      rw [engineLines, hw] at hl
      simp [hr] at hl
    obtain rfl : ⟨s.mc.config.main, .surplus⟩ = l := List.singleton_inj.1 ((engineLines_producer hr).symm.trans hl)
    obtain ⟨hagrees, honce, hagain⟩ := surplus_weighed hm hr
    by_cases hx : 0 < (mainResult s.mc.config.main (snapshot s)).excess ↔
        (s.cu.get ⟨s.mc.config.main, .surplus⟩).own = true
    · exact ⟨_, _, _, hagrees hx⟩
    · by_cases hc : s.se.excessCount = 0
      · exact ⟨_, _, _, honce hx hc⟩
      · exact ⟨_, _, _, hagain hx (Nat.one_le_iff_ne_zero.2 hc)⟩

/-- Settles O32. -/
theorem ownClaimsAtARound : Obligations.OwnClaimsAtARound := by
  have expires {s : State} (htimer : s.se.roundTimer = some 0) (hm : s.mc.mode = .active)
      (hwait : s.mc.waitingRequest = none) : exec .roundExpiry s =
        .next (runRound { s with se := { s.se with roundTimer := some s.mc.config.period } }) := by
    rw [exec_roundExpiry htimer, roundExpires]
    simp only [hm, hwait]
  refine ⟨fun m s htimer hm hwait hw htx => ?_, fun s htimer hm hwait hr htx => ?_⟩
  · intro l lo own w mg g output
    let v : State := { s with se := { s.se with roundTimer := some s.mc.config.period } }
    obtain ⟨hshort, hfree, honce, hagain⟩ := shortfall_weighed (s := v) hm hw
    have claims {own : Bool} {a b : Nat} (h : Weighed l own a b v _) : RoundClaims l own a b v (runRound v) :=
      runRound_claims (s := v) hm (engineLines_wants hw) h
    have hmin : ownMinGrant m v = mg := rfl
    have hlo : (effectiveWant v).1 = lo := rfl
    have houtput : (settledSe v).setpoint = output := by
      by_cases hsev : severity s = .failed
      · have hnot : ¬(v.mc.mode = .active ∧ severity v ≠ .failed) := fun h => h.2 hsev
        have hne : wantMain v.mc.config ≠ none := by rw [show wantMain v.mc.config = some m from hw]; nofun
        rw [settledSe_fallback hnot]
        simp only [output, if_pos hsev, if_neg hne]
        rfl
      · rw [settledSe_sound (s := v) ⟨hm, hsev⟩]
        simp only [output, if_neg hsev, show wantMain v.mc.config = some m from hw]
        rfl
    rw [hmin, hlo] at hshort hfree honce hagain
    obtain ⟨own', a, b, hsome⟩ := exists_weighed (s := v) hm (engineLines_wants hw)
    have hweighed := claims hsome
    refine ⟨runRound v, expires htimer hm hwait, fun hg => ?_, fun hg ho => ?_, fun hg ho hc => ?_, fun hg ho hc => ?_,
      fun r hr => ?_, hweighed.lines, ?_⟩
    · have h := claims (hshort hg)
      refine ⟨h.claim, h.counts.1, fun ho => ?_⟩
      obtain ⟨hnode, hqueued⟩ := h.changed (by rw [show (v.cu.get l).own = false from ho]; decide)
      exact ⟨hnode.2 rfl, hqueued htx⟩
    · have h := claims (hfree hg ho)
      exact ⟨h.claim, h.counts.1⟩
    · have h := claims (honce hg ho hc)
      exact ⟨h.claim, h.counts.1⟩
    · have h := claims (hagain hg ho hc)
      obtain ⟨hnode, hqueued⟩ := h.changed (by rw [show (v.cu.get l).own = true from ho]; decide)
      exact ⟨h.claim, h.counts.1, fun hin => absurd (hnode.1 hin) (by decide), hqueued htx⟩
    · have hasked := hweighed.asked r hr htx
      rw [houtput] at hasked
      exact hasked
    · simp [v]
  · intro l own x
    let v : State := { s with se := { s.se with roundTimer := some s.mc.config.period } }
    have hw : wantMain s.mc.config = none := by rw [wantMain, hr]
    obtain ⟨hagrees, honce, hagain⟩ := surplus_weighed (s := v) hm hr
    have claims {own : Bool} {a b : Nat} (h : Weighed l own a b v _) : RoundClaims l own a b v (runRound v) :=
      runRound_claims (s := v) hm (engineLines_producer hr) h
    have hfound : (mainResult v.mc.config.main (snapshot v)).excess = x := rfl
    have hown : (v.cu.get ⟨v.mc.config.main, .surplus⟩).own = own := rfl
    rw [hfound, hown] at hagrees honce hagain
    obtain ⟨own', a, b, hsome⟩ := exists_weighed (s := v) hm (engineLines_producer hr)
    have hweighed := claims hsome
    refine ⟨runRound v, expires htimer hm hwait, fun hx => ?_, fun hx hc => ?_, fun hx ho hc => ?_, fun hx ho hc => ?_,
      fun r hr' => ?_, hweighed.lines, ?_⟩
    · have h := claims (hagrees hx)
      exact ⟨h.claim, h.counts.2⟩
    · have h := claims (honce hx hc)
      exact ⟨h.claim, h.counts.2⟩
    · have h := claims (hagain (by simp [hx, ho]) hc)
      rw [ho] at h
      obtain ⟨hnode, hqueued⟩ := h.changed (by rw [show (v.cu.get l).own = false from ho]; decide)
      exact ⟨h.claim, h.counts.2, hnode.2 rfl, hqueued htx⟩
    · have h := claims (hagain (by simp [hx, ho]) hc)
      rw [ho] at h
      obtain ⟨hnode, hqueued⟩ := h.changed (by rw [show (v.cu.get l).own = true from ho]; decide)
      exact ⟨h.claim, h.counts.2, fun hin => absurd (hnode.1 hin) (by decide), hqueued htx⟩
    · have hasked := hweighed.asked r hr' htx
      have hoffer : ownRecords { v with se := { v.se with setpoint := (settledSe v).setpoint } } = ownRecords s := by
        have hsp : (settledSe v).setpoint = s.se.setpoint := settledSe_setpoint hw
        rw [hsp]
        rfl
      rw [hoffer] at hasked
      exact hasked
    · simp [v]

end Sys2Proof.Machine
end

section
/-! The statement about rounds by mode and role (R37, R38, R42, R49 to R54, R56, R85, R98, R174, R177). -/

namespace Sys2Proof.Machine

variable {s t u : State} {m : Main}

/-! ### Rounds that weigh no claim -/

theorem evaluateClaims_asleep (lo : Nat) (hm : s.mc.mode ≠ .active) : evaluateClaims lo s = s := if_neg hm

theorem evaluateClaims_wantless (lo : Nat) (hw : wantMain s.mc.config = none)
    (hr : s.mc.config.role ≠ some .producer) : evaluateClaims lo s = s := by
  simp only [evaluateClaims, hw, if_neg hr, ite_self]

theorem runRound_unclaimed (hm : s.mc.mode ≠ .loading)
    (h : evaluateClaims (effectiveWant s).1 (settled s) = settled s) : runRound s = closing (settled s) :=
  runRound_quiet (x := settledSe s) hm h

/-- A round run in fallback. -/
theorem settledSent_fallback (h : ¬(s.mc.mode = .active ∧ severity s ≠ .failed)) :
    settledSent s = fallbackSent s.mc.config := by
  cases hw : wantMain s.mc.config with
  | none => simp only [settledSent, fallbackSent, hw]
  | some m => simp only [settledSent, fallbackSent, hw, settledSe_fallback h, reduceCtorEq, if_false]

theorem roundAsked_asleep (r : Role) (hm : HasRounds s.mc.mode) (hasleep : s.mc.mode ≠ .active) : roundAsked r s =
    if s.mc.mode = .listenIn ∨ s.se.roundCount % 4 = 1 then [newEntry (stateBody r s)] else [] := by
  rcases hm with h | h | h
  · simp [roundAsked, stateDue, helloDue, h]
  · exact absurd h hasleep
  · simp [roundAsked, stateDue, helloDue, h]

/-! ### What every round of ACTIVE leaves -/

/-- A round of ACTIVE: mode, timer and count, whether it is in fallback, its messages first, and its pending lines. -/
structure ActiveRound (s t : State) : Prop where
  modes : t.mc = { s.mc with latch := t.mc.latch }
  timer : t.se.roundTimer = s.se.roundTimer
  count : t.se.roundCount = (s.se.roundCount + 1) % 2 ^ 32
  fallback : t.se.fallback = (settledSe s).fallback
  results : ∀ m, m ∈ computedMains s.mc.config → t.se.results.get m = mainResult m (snapshot s)
  output : (settledSe s).fallback = true → t.se.setpoint = (settledSe s).setpoint
  sent : s.fp.out ++ settledSent s <+: t.fp.out
  pending : ∀ k, (t.cu.get k).pending = true → (s.cu.get k).pending = true ∨ (s.mc.config.lines.get k).masked = true

theorem runRound_active (hm : s.mc.mode = .active) : ActiveRound s (runRound s) := by
  have counted : (settledSe s).roundTimer = s.se.roundTimer ∧
      (settledSe s).roundCount = (s.se.roundCount + 1) % 2 ^ 32 := by
    rw [settledSe_computed]
    exact ⟨rfl, rfl⟩
  rcases engineLines_cases s.mc.config with hl | ⟨l, hl⟩
  · have hw : wantMain s.mc.config = none := by
      cases hw : wantMain s.mc.config with
      | none => rfl
      | some m => simp [engineLines, hw] at hl
    have hr : s.mc.config.role ≠ some .producer := fun hr => by simp [engineLines, hw, hr] at hl
    have hrun := runRound_unclaimed (by rw [hm]; decide) (evaluateClaims_wantless (s := settled s) _ hw hr)
    rw [hrun, closing_eq]
    exact ⟨rfl, counted.1, counted.2, rfl, fun m h => settledSe_results h, fun _ => rfl, List.prefix_append _ _,
      fun _ => .inl⟩
  · obtain ⟨own, a, b, hweighed⟩ := exists_weighed hm hl
    obtain ⟨-, -, -, -, hlines, hpending, hmodes, hshare, houtput, hsent⟩ := runRound_claims hm hl hweighed
    refine ⟨hmodes, by rw [hshare]; exact counted.1, by rw [hshare]; exact counted.2, by rw [hshare]; rfl,
      fun m h => by rw [hshare]; exact settledSe_results h, houtput, hsent, fun k hk => ?_⟩
    by_cases he : k = l
    · subst he
      exact hpending hk
    · rw [hlines k he] at hk
      exact .inl hk

/-! ### The round that enters ACTIVE (R174) -/

theorem effectiveWant_woken {x : WakeLatch} (h : inStandby s.mc.mode = false) :
    effectiveWant { s with mc := { s.mc with mode := .active, latch := x } } = effectiveWant s := by
  simp only [effectiveWant, h]
  rfl

theorem ownRecords_woken {x : WakeLatch} (h : inStandby s.mc.mode = false) :
    ownRecords { s with mc := { s.mc with mode := .active, latch := x } } = ownRecords s := by
  simp only [ownRecords, effectiveWant_woken h, currentOffer, h]
  rfl

theorem snapshot_congr (hs : s.mc.mode ≠ .loading) (ht : t.mc.mode ≠ .loading) (hr : ownRecords t = ownRecords s)
    (hf : t.mc.faults = s.mc.faults) (hp : t.peers = s.peers) : snapshot t = snapshot s := by
  simp only [snapshot, ownEntry, if_neg hs, if_neg ht, ownSnap, hr, severity_congr hf, hp]

/-- An entry to ACTIVE from LISTEN-IN that starts no ladder, in fallback: mode, latch, pending flags, the count and the
grants alone. -/
theorem EntersActive.quiet (h : EntersActive s u) (hn : ∀ l st, ¬StartsAtEntry l st s) (hf : s.se.fallback = true) :
    u = { s with
      mc := { s.mc with mode := .active, latch := ⟨false, false, Six.all false⟩ }
      cu := u.cu
      se := { s.se with roundCount := 0, grant := u.se.grant, minGrant := u.se.minGrant }
      freeNext := u.freeNext } := by
  have none (kind : Action → Bool) : NoneStarts kind s := fun l st hst => absurd hst (hn l st)
  obtain ⟨hpeers, htie, hturbine, hmu, hdc, hrs, hpending⟩ := h.others
  have hrl : u.rl = s.rl := Six.ext_get fun l => h.notStarted l (hn l) (.inr (none _))
  have hse := h.share
  rw [h.lowered.2.2.2 hf] at hse
  have hmc := h.modes
  have hfu := h.fuel.2 (none _)
  have hhu := h.holder.2 (none _)
  have hliu := h.line.2 (none _)
  have hfp := h.port.2 (none _) (none _) hf
  cases u
  simp only at hpeers htie hturbine hmu hdc hrs hpending hrl hse hmc hfu hhu hliu hfp ⊢
  subst hpeers htie hturbine hmu hdc hrs hpending hrl hmc hfu hhu hliu hfp
  rw [← hse]

theorem expires_active (htimer : s.se.roundTimer = some 0) (hm : s.mc.mode = .active)
    (hwait : s.mc.waitingRequest = none) : exec .roundExpiry s =
      .next (runRound { s with se := { s.se with roundTimer := some s.mc.config.period } }) := by
  rw [exec_roundExpiry htimer, roundExpires]
  simp only [hm, hwait]

theorem expires_asleep (htimer : s.se.roundTimer = some 0)
    (h : s.mc.mode = .listenIn ∧ s.se.roundCount < 2 ∨ s.mc.mode = .standbyListen ∧ s.mc.waitingRequest = none) :
    exec .roundExpiry s =
      .next (runRound { s with se := { s.se with roundTimer := some s.mc.config.period } }) := by
  rw [exec_roundExpiry htimer, roundExpires]
  rcases h with ⟨hm, hc⟩ | ⟨hm, hwait⟩
  · simp only [hm, if_neg (Nat.not_le.2 hc)]
  · simp only [hm, hwait]

theorem expires_entering (htimer : s.se.roundTimer = some 0) (hm : s.mc.mode = .listenIn) (hc : s.se.roundCount = 2) :
    exec .roundExpiry s =
      .next (runRound (enterActive { s with se := { s.se with roundTimer := some s.mc.config.period } })) := by
  rw [exec_roundExpiry htimer, roundExpires]
  simp only [hm, hc, le_refl, if_true]

/-- Settles O31. -/
theorem roundsByModeAndRole : Obligations.RoundsByModeAndRole := by
  refine ⟨fun s htimer hquiet => ?_, fun s htimer hm hc => ?_,
    fun m w r s htimer hm hc hsev hr hw htx hf ho hn hwant => ?_, fun s htimer => ?_, fun s htimer hm hsev hwait => ?_,
    fun r s htimer hm hsev hwait hr hrole htx hexcess => ?_⟩
  · let v : State := { s with se := { s.se with roundTimer := some s.mc.config.period } }
    have hrounds : HasRounds s.mc.mode := hquiet.elim (fun h => .inl h.1) fun h => .inr (.inr h.1)
    have hasleep : s.mc.mode ≠ .active := by
      rcases hquiet with ⟨h, -⟩ | ⟨h, -⟩ <;> rw [h] <;> decide
    have hload : s.mc.mode ≠ .loading := by
      rcases hquiet with ⟨h, -⟩ | ⟨h, -⟩ <;> rw [h] <;> decide
    have hrun : runRound v = closing (settled v) :=
      runRound_unclaimed hload (evaluateClaims_asleep (s := settled v) _ hasleep)
    have hnot : ¬(v.mc.mode = .active ∧ severity v ≠ .failed) := fun h => hasleep h.1
    have hse := settledSe_fallback hnot
    have hclosing := closing_eq (settled v)
    have hsettled : settled v = { v with
        se := settledSe v, fp := { s.fp with out := s.fp.out ++ fallbackSent s.mc.config } } := by
      rw [settled, settledSent_fallback hnot]
    refine ⟨closing (settled v), hrun ▸ expires_asleep htimer hquiet, ?_⟩
    obtain ⟨hcse, hccu, hcmc, hcout⟩ := closing_frame (s := settled v)
    replace hcse : (closing (settled v)).se = settledSe v := hcse
    refine ⟨hcmc, by rw [hcse, hse]; rfl, by rw [hcse, hse]; rfl, by rw [hcse, hse], fun hw => ?_, fun m hm => ?_, ?_,
      fun r hr htx => ?_, ?_⟩
    · rw [hcse, hse]
      exact if_neg hw
    · rw [hcse]
      exact settledSe_results (s := v) hm
    · rw [hclosing]
      simp only [settled, settledSent_fallback hnot]
      rfl
    · have hline := closing_line (s := settled v) hrounds hr (by rw [show (settled v).liu.tx = [] from htx]; nofun)
        (by rw [show (settled v).liu.tx = [] from htx]; decide)
      have hempty : (settled v).liu.tx = [] := htx
      have hasked := roundAsked_asleep (s := settled v) r hrounds hasleep
      have hbody : stateBody r (settled v) = .state r s.mc.config.period (ownRecords (closing (settled v)))
          (ownExtras (closing (settled v))) := by
        rw [hclosing]
        rfl
      have hline : (closing (settled v)).liu.tx = _ := (closing_line (s := settled v) hrounds hr
        (by rw [hempty]; exact nofun) (by rw [hempty]; decide)).trans ((congrArg₂ _ hempty hasked).trans rfl)
      have hliu : (closing (settled v)).liu = { s.liu with tx := (closing (settled v)).liu.tx } :=
        (congrArg State.liu hclosing).trans rfl
      rw [hliu, hline, hbody, hcse]
      rfl
    · rw [hclosing]
      exact ⟨rfl, rfl, rfl, rfl, rfl, rfl, rfl, rfl, rfl, rfl, rfl⟩
  · let v : State := { s with se := { s.se with roundTimer := some s.mc.config.period } }
    have henters : EntersActive v (enterActive v) := enterActive_enters v
    have hshare := henters.share
    have hmc := henters.modes
    have hactive : (enterActive v).mc.mode = .active := by rw [hmc]
    have hround := runRound_active hactive
    have hwait : (enterActive v).mc.waitingRequest = s.mc.waitingRequest := by rw [hmc]
    have hperiod : (enterActive v).mc.config.period = s.mc.config.period := by rw [hmc]
    have htimer' : (enterActive v).se.roundTimer = some s.mc.config.period := by rw [hshare]
    refine ⟨enterActive v, runRound (enterActive v), henters, expires_entering htimer hm hc, fun hw => ?_, ?_, ?_, ?_,
      fun hsev => ?_, fun l hl => ?_, ?_⟩
    · have hexp := expires_active (s := { enterActive v with se := { (enterActive v).se with roundTimer := some 0 } })
        rfl hactive (hwait.trans hw)
      have hsame : ({ enterActive v with se := { (enterActive v).se with
          roundTimer := some (enterActive v).mc.config.period } } : State) = enterActive v := by
        rw [hperiod, ← htimer']
      exact hexp.trans (congrArg (fun x => Host.Outcome.next (runRound x)) hsame)
    · rw [hround.modes]
      exact hactive
    · rw [hround.count, hshare]
      rfl
    · rw [hround.timer, htimer']
    · have hsound : (enterActive v).mc.mode = .active ∧ severity (enterActive v) ≠ .failed :=
        ⟨hactive, by rw [severity_congr (s := s) (by rw [hmc])]; exact hsev⟩
      rw [hround.fallback, settledSe_sound hsound]
    · have hlines := henters.lines l
      rcases hround.pending l hl with hp | hp
      · rw [hlines] at hp
        simp only [Bool.and_eq_true] at hp
        exact hp.2
      · rwa [hmc] at hp
    · simp [v]
  · intro es g mg hg
    subst hwant
    let v : State := { s with se := { s.se with roundTimer := some s.mc.config.period } }
    have henters : EntersActive v (enterActive v) := enterActive_enters v
    obtain ⟨u, hu⟩ : ∃ u, u = enterActive v := ⟨_, rfl⟩
    have hex := expires_entering htimer hm hc
    rw [← hu] at henters
    rw [show enterActive { s with se := { s.se with roundTimer := some s.mc.config.period } } = u from hu.symm] at hex
    have hquiet := henters.quiet hn hf
    have hmode : inStandby s.mc.mode = false := by rw [hm]; rfl
    have hrecords : ownRecords u = ownRecords s := by
      rw [hquiet]
      exact ownRecords_woken (s := v) hmode
    have hwant : effectiveWant u = effectiveWant s := by
      rw [hquiet]
      exact effectiveWant_woken (s := v) hmode
    have hconf : u.mc.config = s.mc.config := by rw [hquiet]
    have hfaults : u.mc.faults = s.mc.faults := by rw [hquiet]
    have hactive : u.mc.mode = .active := by rw [hquiet]
    have hsound : severity u ≠ .failed := by rwa [severity_congr hfaults]
    have hsnap : snapshot u = es :=
      snapshot_congr (by rw [hm]; decide) (by rw [hactive]; decide) hrecords hfaults (by rw [hquiet])
    have hwants : wantMain u.mc.config = some m := by rw [hconf]; exact hw
    have hgrant : ownGrant m u = g := by
      rw [ownGrant, ownWant_sound hsound, hsnap, hwant, hconf]
    have hmin : ownMinGrant m u = mg := by
      rw [ownMinGrant, ownWant_sound hsound, hsnap, hwant, hconf]
    obtain ⟨hshare, hresult, hline, hport, hothers⟩ := runRound_sound ⟨hactive, hsound⟩ (by rw [hconf]; exact hr) hwants
      (by rw [hquiet]; exact htx) (by rw [henters.lines]; exact ho) (by rw [hmin, hwant]; exact hg)
    rw [hgrant, hmin] at hshare
    obtain ⟨t, ht⟩ : ∃ t, t = runRound u := ⟨_, rfl⟩
    rw [← ht] at hshare hresult hline hport hothers hex
    have hse : u.se = { v.se with roundCount := 0, grant := u.se.grant, minGrant := u.se.minGrant } :=
      (congrArg State.se hquiet).trans rfl
    refine ⟨t, hex, ?_, ?_, ?_, ?_, ?_, fun l => ?_, ?_⟩
    · rw [hothers, hquiet]
    · rw [hshare, hse, hconf]
      rfl
    · rw [hresult, hsnap]
    · have hliu : u.liu = s.liu := (congrArg State.liu hquiet).trans rfl
      rw [hline, hconf, hse, hliu]
      rfl
    · have hfp : u.fp = s.fp := (congrArg State.fp hquiet).trans rfl
      rw [hport, hfp]
    · rw [hothers]
      exact henters.lines l
    · rw [hothers, hquiet]
      exact ⟨rfl, rfl, rfl, rfl, rfl, rfl, rfl, rfl, rfl, rfl⟩
  · exact congrArg Host.Outcome.next
      ((effect_roundExpiry s).trans (if_neg fun h => htimer (expired_iff.1 h)))
  · let v : State := { s with se := { s.se with roundTimer := some s.mc.config.period } }
    have hround : ActiveRound v (runRound v) := runRound_active hm
    have hnot : ¬(v.mc.mode = .active ∧ severity v ≠ .failed) := fun h => h.2 hsev
    have hse := settledSe_fallback hnot
    refine ⟨runRound v, expires_active htimer hm hwait, by rw [hround.modes]; exact hm, by rw [hround.modes],
      by rw [hround.fallback, hse], hround.timer, hround.count, fun m hw => ?_, by simp [v]⟩
    intro es w
    have hoked : wantMain v.mc.config = some m := hw
    have houtput : (settledSe v).setpoint = s.mc.config.fallbackSetpoint := by
      rw [hse]
      exact if_neg (by rw [hoked]; nofun)
    refine ⟨(hround.output (by rw [hse])).trans houtput, hround.results m (wantMain_computed hw), ?_, fun ho hg => ?_⟩
    · have hsent : settledSent v = [.setpoint m s.mc.config.fallbackSetpoint] := by
        rw [settledSent, hoked, houtput]
      obtain ⟨more, hmore⟩ := hround.sent
      rw [hsent] at hmore
      exact ⟨more, by rw [← hmore, List.append_assoc]; rfl⟩
    · have hown : ownWant v = w := by
        rw [ownWant, if_pos (show severity v = .failed from hsev)]
        rfl
      have hmin : (settled v).se.minGrant = minGrantOf (wantMembers m es) (supply m es) w := by
        rw [← hown]
        exact settledSe_minGrant hw
      have hquiet := runRound_quiet (s := v) (x := { settledSe v with shortfallCount := 0 })
        (by rw [show v.mc.mode = .active from hm]; decide)
        ((evaluateClaims_wants (s := settled v) _ hm hw).trans (evaluateShortfall_met (by rw [hmin]; exact hg) ho))
      rw [hquiet, closing_frame.1, ← hown]
      rw [settledSe_computed, computedSe_wants hoked]
      rfl
  · let v : State := { s with se := { s.se with roundTimer := some s.mc.config.period } }
    have hw : wantMain s.mc.config = none := by
      simp only [List.mem_cons, List.not_mem_nil, or_false] at hrole
      rcases hrole with rfl | rfl | rfl <;> rw [wantMain, hr]
    let x : ShareEngine := { settledSe v with
      excessCount := if r = .producer then 0 else s.se.excessCount }
    have hclaims : evaluateClaims (effectiveWant v).1 (settled v) = { settled v with se := x } := by
      by_cases hp : r = .producer
      · subst hp
        have hagrees := (surplus_weighed (s := v) hm hr).1 (hexcess rfl)
        rw [Weighed, if_pos rfl] at hagrees
        exact hagrees
      · have hnot : (settled v).mc.config.role ≠ some .producer := fun h => hp (Option.some.inj (hr.symm.trans h))
        have hcount : x = settledSe v := by
          simp only [x, if_neg hp, show s.se.excessCount = (settledSe v).excessCount from (settledSe_counts v).2.symm]
        rw [evaluateClaims_wantless (s := settled v) _ hw hnot, hcount]
        rfl
    have hsound : v.mc.mode = .active ∧ severity v ≠ .failed := ⟨hm, hsev⟩
    have hx : x = { v.se with
        roundCount := (s.se.roundCount + 1) % 2 ^ 32, results := x.results, fallback := false
        excessCount := if r = .producer then 0 else s.se.excessCount } := by
      have hnone : wantMain v.mc.config = none := hw
      simp only [x, settledSe_sound hsound, computedSe_wantsNothing hnone, hnone]
      rfl
    have hwhole := runRound_whole (s := v) (.inr (.inl hm)) hr htx hclaims
    have hasked := roundAsked_active (s := { settled v with se := x }) r hm
    refine ⟨runRound v, expires_active htimer hm hwait, ?_⟩
    rw [hwhole, hasked]
    refine ⟨hx, fun hne => ?_, ?_, ?_, rfl, rfl, rfl, rfl, rfl, rfl, rfl, rfl, rfl, rfl, rfl, rfl⟩
    · refine settledSe_results (s := v) ?_
      simp only [List.mem_cons, List.not_mem_nil, or_false] at hrole
      rcases hrole with rfl | rfl | rfl
      · simp [computedMains, v, hr]
      · simp [computedMains, v, hr]
      · exact absurd rfl hne
    · have hcount : x.roundCount = (s.se.roundCount + 1) % 2 ^ 32 := by rw [hx]
      have hhello : configuredHello (settled v).mc.config = helloBody r s.mc.config := configuredHello_eq hr
      have hrecords : ownRecords { settled v with se := x } = ownRecords s := by
        refine ownRecords_congr ⟨rfl, rfl, ?_, rfl, rfl, rfl, fun _ => rfl⟩ ?_ ?_ rfl rfl <;> rw [hx]
      have hbody : stateBody r { settled v with se := x } = .state r s.mc.config.period (ownRecords s) (ownExtras s) :=
        congrArg₂ (TxBody.state r s.mc.config.period) hrecords rfl
      simp only [hcount, hhello, hbody]
      rfl
    · have hsent : settledSent v = [] := by rw [settledSent, show wantMain v.mc.config = none from hw]
      rw [hsent, List.append_nil]
      rfl

end Sys2Proof.Machine
end

section
/-! The statement about the first ASSERT of a line whose ladder is IDLE (R75, R81, R83, R85, R98, R177). -/

namespace Sys2Proof.Machine

variable {s : State} {f : Frame} {rest : List Frame} {l : ClaimLine} {e : PeerEntry}

/-- The station with a first ASSERT taken: the frame off the queue, the sender's claim held, and the sender in the
line's source set, before the rise is noted (R28, R75). -/
def firstAsserted (f : Frame) (rest : List Frame) (l : ClaimLine) (e : PeerEntry) (s : State) : State := { s with
  liu := { s.liu with rx := rest }
  peers := assocPut f.sender { e with claims := e.claims.set l true } s.peers
  cu := s.cu.set l { s.cu.get l with sources := [f.sender] } }

/-- A first ASSERT is the rise of its line. -/
theorem exec_firstAssert (hrx : s.liu.rx = f :: rest) (hk : f.kind = .claim)
    (hc : readClaim f.payload = some (l, .assert)) (he : assocGet f.sender s.peers = some e)
    (hs : (s.cu.get l).sources = []) : exec .claimDelivered s = .next (rise l (firstAsserted f rest l e s)) := by
  simp [exec, execClaimDelivered, headOf, hrx, hk, hc, takeHead, takeClaim, he, applyEdge, setBit, setBitWith, hs,
    setAdd,
    edgeClaims, firstAsserted, setLine, State.setLiu, State.setPeers, State.setCu]

/-- A rise kept from its ladder on a line that is no wake line marks the line pending. -/
theorem rise_held (hheld : heldBack l s = true) (hw : s.mc.config.wakeSet.get l = false) :
    rise l s = setPending true l s := by
  rw [rise, if_pos hheld, noteRise, if_pos hheld, if_neg (by rw [hw]; decide)]

/-- A rise that reaches its ladder, on a line that is no wake line, is the ladder's. -/
theorem rise_handed (hheld : heldBack l s = false) (hw : s.mc.config.wakeSet.get l = false) :
    rise l s = ladderRise l s := by
  rw [rise, hheld, noteRise, hheld]
  simp [hw]

theorem heldBack_masked (h : (s.mc.config.lines.get l).masked = true ∨ s.mc.mode = .listenIn)
    (hi : (s.rl.get l).state = .idle) : heldBack l s = true := by
  rcases h with h | h <;> simp [heldBack, masked, h, hi, modeMasks]

theorem heldBack_open (hmask : (s.mc.config.lines.get l).masked = false)
    (hm : s.mc.mode = .active ∨ s.mc.mode = .leaving) : heldBack l s = false := by
  rcases hm with h | h <;> simp [heldBack, masked, hmask, h, modeMasks]

/-- The station with a line's CLAIM RISE latched (R177). -/
def riseLatched (l : ClaimLine) (s : State) : State :=
  { s with mc := { s.mc with latch := { s.mc.latch with claimRise := s.mc.latch.claimRise.set l true } } }

/-- A wake line's rise, kept from its ladder in a mode that a wake does not end. -/
theorem rise_held_woken (hheld : heldBack l s = true) (hw : s.mc.config.wakeSet.get l = true)
    (hm : s.mc.mode = .listenIn ∨ s.mc.mode = .active ∨ s.mc.mode = .leaving) :
    rise l s = riseLatched l (setPending true l s) := by
  rw [rise, if_pos hheld, noteRise, if_pos hheld, if_pos hw]
  exact latchCause_awake (s := setPending true l s) (.claimRise l) hm

/-- A wake line's rise that reaches its ladder, in a mode that a wake does not end. -/
theorem rise_handed_woken (hheld : heldBack l s = false) (hw : s.mc.config.wakeSet.get l = true)
    (hm : s.mc.mode = .listenIn ∨ s.mc.mode = .active ∨ s.mc.mode = .leaving) :
    rise l s = ladderRise l (riseLatched l s) := by
  rw [rise, hheld, noteRise, hheld]
  simp only [Bool.false_eq_true, if_false, if_pos hw]
  exact congrArg (ladderRise l) (latchCause_awake (s := s) (.claimRise l) hm)

/-- An IDLE ladder handed a rise takes a NONE step at once (R94, R98, R99). -/
theorem ladderRise_noneStep {st : Step} (hi : (s.rl.get l).state = .idle) (ht : (s.rl.get l).taken = 0)
    (hst : (ladderSteps l s)[0]? = some st) (ha : st.action = .none) :
    ladderRise l s = { s with rl := s.rl.set l ⟨.dwell, 1, some st.dwell, some .completed⟩ } := by
  rw [ladderRise_asks hi (by rw [ht]; exact hst), ha, ht, askTake, completeAction_eq]
  have hdwell : ∀ x, stepDwell l 0 { s with rl := x } = st.dwell := fun x => stepDwell_of_step hst
  simp only [finished, setLadder, State.setRl, Six.set_set, Six.get_set_self, hdwell]

/-- In STANDBY-LISTEN a wake line's rise marks it pending and enters ACTIVE (R177). -/
theorem rise_standbyListen (hi : (s.rl.get l).state = .idle) (hw : s.mc.config.wakeSet.get l = true)
    (hm : s.mc.mode = .standbyListen) : rise l s = enterActive (riseLatched l (setPending true l s)) := by
  have hheld : heldBack l s = true := by simp [heldBack, masked, hm, modeMasks, hi]
  have hany : anyRise ((riseLatched l (setPending true l s)).mc.latch.claimRise) = true := by
    obtain ⟨_ | _ | _, _ | _⟩ := l <;> simp [anyRise, riseLatched, Six.set]
  rw [rise, if_pos hheld, noteRise, if_pos hheld, if_pos hw, latchCause, if_neg (by rw [setPending]; simp [hm])]
  have hmode : (riseLatched l (setPending true l s)).mc.mode = .standbyListen := hm
  have hwakes : actOnLatch (riseLatched l (setPending true l s)) =
      enterActive (riseLatched l (setPending true l s)) := by
    rw [actOnLatch, hmode]
    exact if_pos (by rw [hany, Bool.or_true])
  exact hwakes

/-- An entry to ACTIVE takes no note of what was latched. -/
theorem EntersActive.of_latch {u : State} (h : EntersActive (riseLatched l s) u) : EntersActive s u :=
  ⟨h.modes, h.lines, h.startedAtOnce, h.startedAsked, h.notStarted, h.share, h.lowered, h.fuel, h.holder, h.line,
   h.port,
    h.others⟩

theorem setPending_firstAsserted (f : Frame) (rest : List Frame) (l : ClaimLine) (e : PeerEntry) (s : State) :
    setPending true l (firstAsserted f rest l e s) = { s with
      liu := { s.liu with rx := rest }
      peers := assocPut f.sender { e with claims := e.claims.set l true } s.peers
      cu := s.cu.set l { s.cu.get l with sources := [f.sender], pending := true } } := by
  simp only [setPending, setLine, firstAsserted, State.setCu, Six.get_set_self, Six.set_set]

/-- Settles O19. -/
theorem firstAssertReachesTheLadder : Obligations.FirstAssertReachesTheLadder := by
  intro f rest l e s hrx hk hc he hs hi
  let v : State := firstAsserted f rest l e s
  have hex : exec .claimDelivered s = .next (rise l v) := exec_firstAssert hrx hk hc he hs
  have hset : setPending true l v = _ := setPending_firstAsserted f rest l e s
  refine ⟨fun hw => ⟨fun hmask => ?_, fun st more hmask hm hsteps hact htaken => ?_⟩,
    fun hw => ⟨fun hm => ?_, fun hm => ?_⟩⟩
  · rw [hex, rise_held (s := v) (heldBack_masked hmask hi) hw, hset]
  · have hst : (ladderSteps l v)[0]? = some st := by rw [ladderSteps, show v.mc = s.mc from rfl, hsteps]; rfl
    rw [hex, rise_handed (s := v) (heldBack_open hmask (.inl hm)) hw,
      ladderRise_noneStep (s := v) hi htaken hst hact]
    rfl
  · simp only [List.mem_cons, List.not_mem_nil, or_false] at hm
    cases hheld : heldBack l v with
    | true =>
      refine ⟨_, hex.trans (congrArg Host.Outcome.next (rise_held_woken (s := v) hheld hw hm)), ?_⟩
      rw [hset]
      refine ⟨rfl, by simp [riseLatched], fun _ => ⟨by simp [riseLatched], rfl⟩, fun hmask hne => ?_, rfl, rfl, rfl,
        rfl,
        rfl, rfl⟩
      have hopen := heldBack_open (s := v) (l := l) hmask (hm.resolve_left hne)
      exact absurd (hheld.symm.trans hopen) (by decide)
    | false =>
      refine ⟨_, hex.trans (congrArg Host.Outcome.next (rise_handed_woken (s := v) hheld hw hm)), ?_⟩
      refine ⟨by simp [riseLatched, v, firstAsserted], by simp [riseLatched, v, firstAsserted], fun hmask => ?_,
        fun hmask hne hsteps htaken => ?_, by simp [riseLatched, v, firstAsserted],
        by simp [riseLatched, v, firstAsserted],
        by simp [riseLatched, v, firstAsserted], by simp [riseLatched, v, firstAsserted],
        by simp [riseLatched, v, firstAsserted], by simp [riseLatched, v, firstAsserted]⟩
      · exact absurd (hheld.symm.trans (heldBack_masked (s := v) hmask hi)) (by decide)
      · rw [ladderRise_none fun st hst => ?_]
        · simp [riseLatched, v, firstAsserted]
        · have hnone := hst.2
          rw [ladderSteps, show (riseLatched l v).mc.config = s.mc.config from rfl, hsteps] at hnone
          exact absurd hnone nofun
  · refine ⟨_, hex.trans (congrArg Host.Outcome.next (rise_standbyListen (s := v) hi hw hm)), ?_⟩
    rw [hset]
    exact (enterActive_enters (riseLatched l { s with
      liu := { s.liu with rx := rest }
      peers := assocPut f.sender { e with claims := e.claims.set l true } s.peers
      cu := s.cu.set l { s.cu.get l with sources := [f.sender], pending := true } })).of_latch

end Sys2Proof.Machine
end

section
/-! The metering second: the station with its timers one second on, the clock's second by the hold and the pending
step that stand, and the statement about it (R29, R151, R152, R156, R157). -/

namespace Sys2Proof.Machine

variable {s t : State}

/-! ### The timers -/

/-- The station with the trim applied and every timer one second on, before the second is accounted (R151). -/
def ticked (s : State) : State := tickTimers (s.setDc (trimmed s.dc))

theorem exec_meteringSecond (hm : s.mc.mode ≠ .loading) : exec .meteringSecond s = .next (clockSecond (ticked s)) :=
  congrArg Host.Outcome.next ((effect_meteringSecond (s := s)).trans (if_neg hm))

/-- Of the clock, the timers move the sync and TIME timers, the trim's accumulator and the second's length. -/
theorem ticked_dc (s : State) : (ticked s).dc = { s.dc with
    trimAcc := (trimmed s.dc).trimAcc
    secondLength := (trimmed s.dc).secondLength
    syncTimer := tick s.dc.syncTimer
    timeTimer := tick s.dc.timeTimer } := by
  rw [ticked, trimmed_eq]
  rfl

@[simp] theorem ticked_accounts (s : State) : (ticked s).mu = s.mu ∧ (ticked s).tie = s.tie ∧ (ticked s).rs = s.rs ∧
    (ticked s).mc.config = s.mc.config ∧ (ticked s).freeNext = s.freeNext := ⟨rfl, rfl, rfl, rfl, rfl⟩

@[simp] theorem ticked_clock (s : State) : (ticked s).dc.time = s.dc.time ∧ (ticked s).dc.hold = s.dc.hold ∧
    (ticked s).dc.pendingStep = s.dc.pendingStep ∧ (ticked s).dc.spanStart = s.dc.spanStart ∧
    (ticked s).dc.quality = s.dc.quality := by
  rw [ticked_dc]
  exact ⟨rfl, rfl, rfl, rfl, rfl⟩

theorem ticked_frame (s : State) : SecondFrame s (ticked s) where
  line := rfl
  peers := rfl
  share := rfl
  holder := rfl
  claims := rfl
  ladders l := by simp [ticked, tickTimers, ladderTick]
  fuel := rfl
  turbine := rfl
  clock := by
    rw [ticked_dc]
    exact ⟨rfl, rfl, rfl, rfl, rfl⟩
  port := rfl
  modes := rfl
  queue := rfl

/-! ### What the accounting leaves -/

/-- What agrees with a framed state in every block the frame speaks of is framed. -/
theorem SecondFrame.of_same (h : SecondFrame s t) {u : State} (hl : u.liu = t.liu) (hp : u.peers = t.peers)
    (hs : u.se = t.se) (hh : u.hu = t.hu) (hc : u.cu = t.cu) (hr : u.rl = t.rl) (hf : u.fu = t.fu)
    (ht : u.turbine = t.turbine) (hfp : u.fp = t.fp) (hm : u.mc = t.mc) (hq : u.pending = t.pending)
    (hd : u.dc.quality = t.dc.quality ∧ u.dc.trim = t.dc.trim ∧ u.dc.resetTime = t.dc.resetTime ∧
      u.dc.syncTimer = t.dc.syncTimer ∧ u.dc.timeTimer = t.dc.timeTimer) : SecondFrame s u where
  line := hl.trans h.line
  peers := hp.trans h.peers
  share := hs.trans h.share
  holder := hh.trans h.holder
  claims := hc.trans h.claims
  ladders l := hr ▸ h.ladders l
  fuel := hf.trans h.fuel
  turbine := ht.trans h.turbine
  clock := by
    obtain ⟨hq, ht, hz, hy, hx⟩ := hd
    rw [hq, ht, hz, hy, hx]
    exact h.clock
  port := hfp.trans h.port
  modes := hm.trans h.modes
  queue := hq.trans h.queue

/-- The accounting of a second keeps the frame: it writes the tie, the meter, the Record Store and the clock's value,
step, hold and span start. -/
theorem secondFrame_kept (s : State) : AccountKept (fun _ => True) (SecondFrame s) where
  next _ _ := trivial
  periodStart _ _ := trivial
  hourStart _ _ := trivial
  time _ _ := trivial
  period _ _ _ _ := trivial
  interval _ _ _ _ := trivial
  drawn _ h := { h with }
  handOver _ _ h := h.of_same (by simp) (by simp) (by simp) (by simp) (by simp) (by simp) (by simp) (by simp) (by simp)
    (by simp) (by simp) (by simp)
  setTie _ _ _ h := { h with }
  setMu _ _ _ h := { h with }
  setSpan _ _ _ h := { h with }
  setTime _ _ _ h := { h with }
  setHold _ _ _ h := { h with }
  stepTaken _ h := { h with }

theorem meteringSecond_frame (s : State) : SecondFrame s (clockSecond (ticked s)) :=
  (secondFrame_kept s).clockSecond (fun _ _ => trivial) (fun _ _ => trivial) (fun _ _ => ⟨trivial, trivial⟩)
    (ticked_frame s)

/-- The trim's accumulator and the second's length, as they stand before the accounting. -/
structure SameLength (s t : State) : Prop where
  trimAcc : t.dc.trimAcc = s.dc.trimAcc
  secondLength : t.dc.secondLength = s.dc.secondLength

theorem sameLength_kept (s : State) : AccountKept (fun _ => True) (SameLength s) where
  next _ _ := trivial
  periodStart _ _ := trivial
  hourStart _ _ := trivial
  time _ _ := trivial
  period _ _ _ _ := trivial
  interval _ _ _ _ := trivial
  drawn _ h := { h with }
  handOver _ _ h := ⟨by simpa using h.trimAcc, by simpa using h.secondLength⟩
  setTie _ _ _ h := { h with }
  setMu _ _ _ h := { h with }
  setSpan _ _ _ h := { h with }
  setTime _ _ _ h := { h with }
  setHold _ _ _ h := { h with }
  stepTaken _ h := { h with }

/-- The accounting leaves what the trim made of the second. -/
theorem meteringSecond_length (s : State) : (clockSecond (ticked s)).dc.trimAcc = (trimmed s.dc).trimAcc ∧
    (clockSecond (ticked s)).dc.secondLength = (trimmed s.dc).secondLength := by
  have h : SameLength (ticked s) (clockSecond (ticked s)) :=
    (sameLength_kept (ticked s)).clockSecond (fun _ _ => trivial) (fun _ _ => trivial) (fun _ _ => ⟨trivial, trivial⟩)
      ⟨rfl, rfl⟩
  exact ⟨h.trimAcc.trans (by rw [ticked_dc]), h.secondLength.trans (by rw [ticked_dc])⟩

/-- The trim pays a base period with each 1024 of its accumulator. -/
theorem trimmed_length (dc : DayClock) :
    ((trimmed dc).secondLength = 32768 ∧ (trimmed dc).trimAcc = dc.trimAcc + dc.trim.natAbs) ∨
      ((trimmed dc).secondLength = (if 0 < dc.trim then 32769 else 32767) ∧
        (trimmed dc).trimAcc + 1024 = dc.trimAcc + dc.trim.natAbs) := by
  simp only [trimmed]
  split
  · next h => exact .inr ⟨rfl, Nat.sub_add_cancel h⟩
  · exact .inl ⟨rfl, rfl⟩

/-! ### The clock's second by the hold and the pending step -/

theorem clockSecond_running (hh : s.dc.hold = none) (hp : s.dc.pendingStep = none) :
    clockSecond s = advanceTime s := by
  simp only [clockSecond, hh, hp]

theorem clockSecond_steps {f : TimePos} (hh : s.dc.hold = none) (hp : s.dc.pendingStep = some f)
    (hspan : ∀ p, s.dc.spanStart = some p → posNumber p ≤ posNumber f) :
    clockSecond s = advanceTime (notifyStep (s.setDc { s.dc with time := f, pendingStep := none })) := by
  have hc : clampPoint f s.dc = none := by
    rw [clampPoint, Option.filter_eq_none_iff]
    intro p hs
    simpa using hspan p hs
  simp only [clockSecond, hh, hp, stepSecond, hc]

theorem clockSecond_held {h : Hold} (hh : s.dc.hold = some h) (hp : s.dc.pendingStep = none) :
    clockSecond s = heldSecond ⟨h.point, nextSecond h.reference⟩ s := by
  simp only [clockSecond, hh, hp]

/-- A pending time before the span start, or before the clamp point of the hold that stands, is clamped. -/
theorem clockSecond_clamps {point f : TimePos} (h : ClampsTo point f s) : clockSecond s = clampAt point f s := by
  obtain ⟨hp, hlt, ⟨hh, hspan⟩ | ⟨x, hh, rfl⟩⟩ := h
  · have hc : clampPoint f s.dc = some point := by
      rw [clampPoint, hspan, Option.filter_some, if_pos (decide_eq_true hlt)]
    simp only [clockSecond, hh, hp, stepSecond, hc]
  · simp only [clockSecond, hh, hp, holdSecondWith, if_pos hlt]

theorem clockSecond_ends {h : Hold} {f : TimePos} (hh : s.dc.hold = some h) (hp : s.dc.pendingStep = some f)
    (hf : posNumber h.point ≤ posNumber f) :
    clockSecond s = deliverHeld true (s.setDc { s.dc with hold := none, pendingStep := none }) := by
  simp only [clockSecond, hh, hp, holdSecondWith, if_neg (Nat.not_lt.2 hf)]

theorem ticked_clampsTo {point f : TimePos} (h : ClampsTo point f s) : ClampsTo point f (ticked s) := by
  simpa [ClampsTo] using h

/-! ### The clock after the second -/

/-- The hold that stands after a held second at a point with a reference time. -/
def holdAfter (h : Hold) : Option Hold :=
  if posNumber h.point ≤ posNumber h.reference then none else some h

theorem advanceTime_clock (s : State) : (advanceTime s).dc.time = nextSecond s.dc.time ∧
    (advanceTime s).dc.hold = s.dc.hold ∧ (advanceTime s).dc.pendingStep = s.dc.pendingStep := by
  simp [advanceTime]

theorem heldSecond_clock (h : Hold) (s : State) : (heldSecond h s).dc.time = s.dc.time ∧
    (heldSecond h s).dc.pendingStep = none ∧ (heldSecond h s).dc.hold = holdAfter h := by
  simp [heldSecond, holdReached, holdAfter]

theorem clampAt_clock (point f : TimePos) (s : State) : (clampAt point f s).dc.time = point ∧
    (clampAt point f s).dc.pendingStep = none ∧ (clampAt point f s).dc.hold = holdAfter ⟨point, nextSecond f⟩ := by
  obtain ⟨ht, hp, hh⟩ := heldSecond_clock ⟨point, nextSecond f⟩
    (beginHold (notifyStep (s.setDc { s.dc with time := point, pendingStep := none })))
  exact ⟨ht.trans (by simp), hp, hh⟩

/-! ### Roles without accounting -/

/-- The role accounts for nothing: it is neither TOWNHEAT nor EXPORT TIE. -/
def Accountless (s : State) : Prop := s.mc.config.role ≠ some .townheat ∧ s.mc.config.role ≠ some .exportTie

theorem Accountless.setDc (h : Accountless s) (x : DayClock) : Accountless (s.setDc x) := h

theorem Accountless.beginHold (h : Accountless s) : Accountless (beginHold s) := h

theorem Accountless.notifyStep (h : Accountless s) : notifyStep s = s := by
  simp only [Machine.notifyStep]
  split
  · next hr => exact absurd hr h.1
  · next hr => exact absurd hr h.2
  all_goals rfl

theorem Accountless.deliverSecond (h : Accountless s) : deliverSecond s = s := by
  simp only [Machine.deliverSecond]
  split
  · next hr => exact absurd hr h.1
  · next hr => exact absurd hr h.2
  all_goals rfl

theorem Accountless.deliverHeld (h : Accountless s) (ends : Bool) : deliverHeld ends s = s := by
  simp only [Machine.deliverHeld]
  split
  · next hr => exact absurd hr h.1
  · next hr => exact absurd hr h.2
  all_goals rfl

/-- What a second leaves of the accounting blocks where the role has none: a clamp begins the count of held seconds. -/
structure Unaccounted (s t : State) : Prop where
  tie : t.tie = s.tie
  store : t.rs = s.rs
  meter : t.mu = { s.mu with heldSeconds := t.mu.heldSeconds }

/-- With no hold and no step the time value alone moves. -/
theorem Accountless.advanceTime (h : Accountless s) :
    advanceTime s = s.setDc { s.dc with time := nextSecond s.dc.time } := (h.setDc _).deliverSecond

theorem Accountless.heldSecond (h : Accountless s) (x : Hold) : Unaccounted s (heldSecond x s) := by
  rw [Machine.heldSecond, (h.setDc _).deliverHeld]
  exact ⟨rfl, rfl, rfl⟩

theorem Accountless.clampAt (h : Accountless s) (point f : TimePos) : Unaccounted s (clampAt point f s) := by
  rw [Machine.clampAt, Machine.heldSecond, (h.setDc _).notifyStep, ((h.setDc _).beginHold.setDc _).deliverHeld]
  exact ⟨rfl, rfl, rfl⟩

theorem Accountless.clockSecond (h : Accountless s) : Unaccounted s (clockSecond s) := by
  simp only [Machine.clockSecond]
  split
  · rw [h.advanceTime]
    exact ⟨rfl, rfl, rfl⟩
  · simp only [stepSecond]
    split
    · exact h.clampAt _ _
    · rw [(h.setDc _).notifyStep, (h.setDc _).advanceTime]
      exact ⟨rfl, rfl, rfl⟩
  · exact h.heldSecond _
  · simp only [holdSecondWith]
    split
    · exact h.clampAt _ _
    · rw [(h.setDc _).deliverHeld]
      exact ⟨rfl, rfl, rfl⟩

/-! ### The statement -/

/-- Settles O20. -/
theorem meteringSecondEffect : Obligations.MeteringSecondEffect := by
  refine ⟨fun s hm => ⟨_, exec_meteringSecond hm, meteringSecond_frame s, fun hh hp => ?_, fun ht he => ?_⟩,
    fun s hm => ?_, fun s hm ht ha => ⟨_, exec_meteringSecond hm, ?_, ?_⟩, fun s hm => ⟨fun f hh hp hspan => ?_,
    fun f p hh hp hspan hlt => ?_, fun h hh hp => ?_, fun h f hh hp hlt => ?_, fun h f hh hp hle _ => ?_⟩⟩
  · rw [clockSecond_running (by simpa using hh) (by simpa using hp)]
    obtain ⟨hx, hy, hz⟩ := advanceTime_clock (ticked s)
    exact ⟨hx.trans (by simp [nextSecond]), hy.trans (by simpa using hh), hz.trans (by simpa using hp)⟩
  · have hr : Accountless (ticked s) := ⟨ht, he⟩
    obtain ⟨htie, hrs, hmu⟩ := hr.clockSecond
    refine ⟨htie, hrs, hmu, fun hh hp => ?_⟩
    rw [clockSecond_running (by simpa using hh) (by simpa using hp), hr.advanceTime]
    exact ⟨rfl, rfl, (ticked_clock s).2.2.2.1⟩
  · exact congrArg Host.Outcome.next ((effect_meteringSecond (s := s)).trans (if_pos hm))
  · rw [(meteringSecond_length s).1]
    exact trimmed_trimAcc ht ha
  · obtain ⟨hacc, hlen⟩ := meteringSecond_length s
    rw [hacc, hlen]
    exact trimmed_length s.dc
  · refine ⟨_, exec_meteringSecond hm, meteringSecond_frame s, ?_⟩
    rw [clockSecond_steps (by simpa using hh) (by simpa using hp) (by simpa using hspan)]
    obtain ⟨hx, hy, hz⟩ := advanceTime_clock
      (notifyStep ((ticked s).setDc { (ticked s).dc with time := f, pendingStep := none }))
    exact ⟨hx.trans (by simp), hz.trans (by simp), hy.trans (by simpa using hh)⟩
  · refine ⟨_, exec_meteringSecond hm, meteringSecond_frame s, ?_⟩
    rw [clockSecond_clamps (ticked_clampsTo ⟨hp, hlt, .inl ⟨hh, hspan⟩⟩)]
    exact clampAt_clock p f _
  · refine ⟨_, exec_meteringSecond hm, meteringSecond_frame s, ?_⟩
    rw [clockSecond_held (h := h) (by simpa using hh) (by simpa using hp)]
    obtain ⟨hx, hy, hz⟩ := heldSecond_clock ⟨h.point, nextSecond h.reference⟩ (ticked s)
    exact ⟨hx.trans (by simp), hy, hz⟩
  · refine ⟨_, exec_meteringSecond hm, meteringSecond_frame s, ?_⟩
    rw [clockSecond_clamps (ticked_clampsTo ⟨hp, hlt, .inr ⟨h, hh, rfl⟩⟩)]
    exact clampAt_clock h.point f _
  · refine ⟨_, exec_meteringSecond hm, meteringSecond_frame s, ?_⟩
    rw [clockSecond_ends (h := h) (f := f) (by simpa using hh) (by simpa using hp) hle]
    simp

end Sys2Proof.Machine
end

section
/-! The metering second of an EXPORT TIE: the second counted, the gap at the position, and the half hour that settles
the period (R120, R122, R124 to R127, R129, R157). -/

namespace Sys2Proof.Machine

variable {s t u : State} {p : Period}

/-! ### A hand-over to an idle store -/

/-- The store holds nothing, commits nothing, misses no number and has one left. -/
structure StoreReady (rs : RecordUnit) : Prop where
  empty : rs.holdQueue = []
  idle : rs.inFlight = false
  whole : noneLost rs
  room : rs.nextSeq + 1 < 2 ^ 32

/-- The store with one record held, its commit in flight, and the slot it goes to no longer retained. -/
def handedTo (x : StoreRecord) (rs : RecordUnit) : RecordUnit := { rs with
  nextSeq := rs.nextSeq + 1
  firstHandOver := false
  inFlight := true
  holdQueue := [x]
  slots := assocErase ((rs.nextSeq + 1023) % 1024) rs.slots }

theorem queueAfter_alone {rs : RecordUnit} (h : StoreReady rs) (r : StoreRecord) :
    queueAfter r rs = [withSeq rs.nextSeq r] := by
  have hplain : handedRecord r rs = withSeq rs.nextSeq r := by
    refine handedRecord_plain (by simp [h.empty]) ?_
    rintro ⟨hf, k, hk, hlt, hlost⟩
    exact hlost (h.whole hf k hk hlt)
  have hfull : holdFull rs = false := by simp [holdFull, h.empty]
  simp [queueAfter, flightPart, waitingPart, h.idle, h.empty, hfull, hplain, placeWaiting]

@[simp] theorem recordSeq_withSeq (n : Nat) (r : StoreRecord) : recordSeq (withSeq n r) = n := by
  cases r <;> rfl

/-- An idle store starts the commit of what it is handed (R161, R164). -/
theorem handOver_alone (h : StoreReady s.rs) (r : StoreRecord) :
    handOver r s = s.setRs (handedTo (withSeq s.rs.nextSeq r) s.rs) := by
  rw [handOver_eq h.room, startIfIdle_starts (rs := queued r s.rs) (y := withSeq s.rs.nextSeq r) h.idle
    (by simp [queued, queueAfter_alone h])]
  simp [queued, queueAfter_alone h, handedTo]

/-! ### The gap (R125) -/

/-- A quotient rounded up covers the dividend, by less than a divisor more. -/
theorem ceilDiv_spec {a b : Nat} (hb : 0 < b) : a ≤ ceilDiv a b * b ∧ ceilDiv a b * b < a + b := by
  have hmax : Nat.max b 1 = b := Nat.max_eq_left hb
  have hle := Nat.div_mul_le_self (a + (b - 1)) b
  have hlt := Nat.lt_div_mul_add (a := a + (b - 1)) hb
  rw [ceilDiv, hmax]
  omega

theorem gapOf_at {now : TimePos} (h : posNumber now < posNumber p.start + p.planned) : GapAt p now (gapOf p now) := by
  have hleft : 0 < posNumber p.start + p.planned - posNumber now := Nat.sub_pos_of_lt h
  refine ⟨fun he => if_pos he, fun he => ?_⟩
  obtain ⟨hlo, hhi⟩ := ceilDiv_spec (a := ((p.energyC : Int) - p.energyE).toNat * 36) hleft
  have hrest : ((((p.energyC : Int) - p.energyE).toNat : Nat) : Int) = p.energyC - p.energyE :=
    Int.toNat_of_nonneg (by omega)
  refine ⟨_, ?_, ?_, if_neg (Int.not_le.2 he)⟩
  · rw [← hrest]
    exact_mod_cast hlo
  · rw [← hrest]
    exact_mod_cast hhi

/-! ### The second counted -/

/-- The period after a second, with flags (R124). -/
def countedPeriod (p : Period) (flags : RecordFlags) (s : State) : Period := { p with
  missing := if s.tie.mark then p.missing else Nat.min (p.missing + 1) 65535
  quality := lowerQuality p.quality s.dc.quality
  flags := flags }

theorem tieCounts_open (h : s.tie.openPeriod = some p) : tieCounts s =
    s.setTie { s.tie with openPeriod := some (countedPeriod p p.flags s), mark := false } := by
  simp only [tieCounts, h]
  rfl

theorem tieCounts_closed (h : s.tie.openPeriod = none) : tieCounts s = s := by
  simp only [tieCounts, h]

theorem tieSecond_open (h : s.tie.openPeriod = some p) : tieSecond false s = s.setTie { s.tie with
    openPeriod := some (countedPeriod p p.flags s)
    mark := false
    gap := gapOf (countedPeriod p p.flags s) s.dc.time } := by
  rw [tieSecond, if_neg Bool.false_ne_true, tieCounts_open h]
  rfl

theorem tieSecond_closed (h : s.tie.openPeriod = none) :
    tieSecond false s = s.setTie { s.tie with gap := 0 } := by
  rw [tieSecond, if_neg Bool.false_ne_true, tieCounts_closed h, recomputeGap, h]

theorem tieBoundary_closed (h : s.tie.openPeriod = none) : tieSecond true s = emptySlots s := by
  rw [tieSecond, if_pos rfl, tieCounts_closed h, tieBoundary]
  simp only [h]

/-- A station stands as another but for the flags of its open period and the time value, before the tie counts. -/
structure BeforeTie (p : Period) (flags : RecordFlags) (now : TimePos) (s u : State) : Prop where
  tie : u.tie = { s.tie with openPeriod := some { p with flags := flags } }
  store : u.rs = s.rs
  meter : u.mu = { s.mu with heldSeconds := u.mu.heldSeconds }
  quality : u.dc.quality = s.dc.quality
  spanStart : u.dc.spanStart = s.dc.spanStart
  time : u.dc.time = now

theorem BeforeTie.counted {flags : RecordFlags} {now : TimePos} (h : BeforeTie p flags now s u)
    (hnow : posNumber now < posNumber p.start + p.planned) :
    TieSecondCounted p flags now s (tieSecond false u) ∧ (tieSecond false u).mu = u.mu := by
  have hc : countedPeriod { p with flags := flags } flags u = countedPeriod p flags s := by
    rw [countedPeriod, h.tie, h.quality]
    rfl
  rw [tieSecond_open (p := { p with flags := flags }) (by rw [h.tie]), hc, h.time, h.tie]
  exact ⟨⟨rfl, gapOf_at (p := countedPeriod p flags s) hnow, h.store, h.meter, h.spanStart⟩, rfl⟩

/-! ### The deliveries at a tie -/

theorem deliverSecond_tie (h : s.mc.config.role = some .exportTie) :
    deliverSecond s = tieSecond (s.dc.time.sec % 1800 == 0) s := by
  simp only [deliverSecond, h]

theorem deliverHeld_tie (ends : Bool) (h : s.mc.config.role = some .exportTie) :
    deliverHeld ends s = tieSecond false s := by
  simp only [deliverHeld, h]

theorem notifyStep_tie (h : s.mc.config.role = some .exportTie) : notifyStep s = tieStep s := by
  simp only [notifyStep, h]

theorem advanceTime_tie (h : s.mc.config.role = some .exportTie) : advanceTime s =
    tieSecond ((nextSecond s.dc.time).sec % 1800 == 0) (s.setDc { s.dc with time := nextSecond s.dc.time }) :=
  deliverSecond_tie (s := s.setDc { s.dc with time := nextSecond s.dc.time }) h

theorem heldSecond_tie (x : Hold) (h : s.mc.config.role = some .exportTie) : heldSecond x s =
    tieSecond false (s.setDc { s.dc with hold := if holdReached x then none else some x, pendingStep := none }) :=
  deliverHeld_tie _ (s := s.setDc _) h

/-- A step that does not pass the end of the open period flags it (R127). -/
theorem tieStep_within (h : s.tie.openPeriod = some p) (hw : posNumber s.dc.time < posNumber p.start + p.planned) :
    tieStep s = s.setTie { s.tie with
      openPeriod := some { p with flags := { p.flags with timeStepped := true } } } := by
  have hend : posNumber s.dc.time < periodEnd p := hw
  simp only [tieStep, h, if_pos hend]

/-- The clock of a step: the value at a position, the pending step taken. -/
def steppedTo (f : TimePos) (s : State) : State := s.setDc { s.dc with time := f, pendingStep := none }

/-- A clamp of a tie with a period open that does not end before the point. -/
theorem clampAt_tie {point f : TimePos} (hr : s.mc.config.role = some .exportTie) (h : s.tie.openPeriod = some p)
    (hw : posNumber point < posNumber p.start + p.planned) :
    TieSecondCounted p { p.flags with timeStepped := true } point s (clampAt point f s) := by
  have hstep : notifyStep (steppedTo point s) = (steppedTo point s).setTie { s.tie with
      openPeriod := some { p with flags := { p.flags with timeStepped := true } } } :=
    (notifyStep_tie (s := steppedTo point s) hr).trans (tieStep_within (s := steppedTo point s) h hw)
  have hclamp : clampAt point f s = heldSecond ⟨point, nextSecond f⟩ (beginHold (notifyStep (steppedTo point s))) := rfl
  rw [hclamp, hstep, heldSecond_tie (s := beginHold ((steppedTo point s).setTie _)) _ hr]
  refine (BeforeTie.counted ⟨?_, ?_, ?_, ?_, ?_, ?_⟩ hw).1
  all_goals rfl

/-- A second whose delivery is that of a held one: the hold goes on or ends (R157). -/
theorem clockSecond_heldAt {ends : Prop} (h : HeldAt ends s) : ∃ b x, (b = true ↔ ends) ∧
    clockSecond s = deliverHeld b (s.setDc { s.dc with hold := x, pendingStep := none }) := by
  obtain ⟨x, hh, ⟨hp, hends⟩ | ⟨f, hp, hle, hends⟩⟩ := h
  · refine ⟨_, _, ?_, clockSecond_held hh hp⟩
    simp [holdReached, hends]
  · exact ⟨true, none, by simp [hends], clockSecond_ends hh hp hle⟩

theorem ticked_heldAt {ends : Prop} (h : HeldAt ends s) : HeldAt ends (ticked s) := by
  simpa [HeldAt] using h

theorem beforeTie_ticked (h : s.tie.openPeriod = some p) (dc : DayClock) (hq : dc.quality = s.dc.quality)
    (hs : dc.spanStart = s.dc.spanStart) : BeforeTie p p.flags dc.time s ((ticked s).setDc dc) :=
  ⟨by rw [← h]; rfl, rfl, rfl, hq, hs, rfl⟩

/-- What a second counted says of a station that stands as the ticked one does. -/
theorem TieSecondCounted.of_ticked {flags : RecordFlags} {now : TimePos}
    (h : TieSecondCounted p flags now (ticked s) t) : TieSecondCounted p flags now s t := by
  obtain ⟨ht, hg, hrs, hmu, hspan⟩ := h
  obtain ⟨-, -, -, hss, hq⟩ := ticked_clock s
  rw [hq] at ht
  rw [hss] at hspan
  exact ⟨ht, hg, hrs, hmu, hspan⟩

/-- Settles O24. -/
theorem tieSecondCountsAndRecomputesTheGap : Obligations.TieSecondCountsAndRecomputesTheGap := by
  refine ⟨fun p s hm hr hp => ⟨fun hh hn hsec hw => ?_, fun ends he hw => ?_, fun point f hc hw => ?_⟩,
    fun s hm hr hp hn => ⟨_, exec_meteringSecond hm, meteringSecond_frame s, ?_⟩⟩
  · refine ⟨_, exec_meteringSecond hm, meteringSecond_frame s, ?_⟩
    have hb : ((nextSecond (ticked s).dc.time).sec % 1800 == 0) = false := by simpa using hsec
    rw [clockSecond_running (by simpa using hh) (by simpa using hn), advanceTime_tie (s := ticked s) hr, hb]
    have h := beforeTie_ticked hp { (ticked s).dc with time := nextSecond s.dc.time } (by simp) (by simp)
    simpa using h.counted hw
  · obtain ⟨b, x, -, hcs⟩ := clockSecond_heldAt (ticked_heldAt he)
    refine ⟨_, exec_meteringSecond hm, meteringSecond_frame s, ?_⟩
    rw [hcs, deliverHeld_tie (s := (ticked s).setDc _) _ hr]
    have h := beforeTie_ticked hp { (ticked s).dc with hold := x, pendingStep := none } (by simp) (by simp)
    simpa using h.counted (by simpa using hw)
  · refine ⟨_, exec_meteringSecond hm, meteringSecond_frame s, ?_⟩
    rw [clockSecond_clamps (ticked_clampsTo hc)]
    exact (clampAt_tie (s := ticked s) hr hp hw).of_ticked
  · have hspan := (ticked_clock s).2.2.2.1
    cases hh : s.dc.hold with
    | none =>
      rw [clockSecond_running (by simpa using hh) (by simpa using hn), advanceTime_tie (s := ticked s) hr]
      by_cases hb : (nextSecond s.dc.time).sec % 1800 = 0
      · have hb' : ((nextSecond (ticked s).dc.time).sec % 1800 == 0) = true := by simpa using hb
        rw [hb', tieBoundary_closed (s := (ticked s).setDc _) hp]
        exact ⟨fun h => by simp [hb] at h, fun _ _ => rfl, rfl, rfl, hspan⟩
      · have hb' : ((nextSecond (ticked s).dc.time).sec % 1800 == 0) = false := by simpa using hb
        rw [hb', tieSecond_closed (s := (ticked s).setDc _) hp]
        exact ⟨fun _ => rfl, fun _ h => absurd h hb, rfl, rfl, hspan⟩
    | some h =>
      rw [clockSecond_held (h := h) (by simpa using hh) (by simpa using hn), heldSecond_tie (s := ticked s) _ hr,
        tieSecond_closed (s := (ticked s).setDc _) hp]
      exact ⟨fun _ => rfl, nofun, rfl, rfl, hspan⟩

end Sys2Proof.Machine
end

section
/-! The half hour of an open settlement period: the record settled, the slots of past days emptied, and the next period
opened with its schedule entry (R120, R122, R126, R129). -/

namespace Sys2Proof.Machine

variable {s t : State} {p : Period}

/-! ### Closing and opening -/

/-- The verdict and penalty of a period closed after a length (R126). -/
def settledVerdict (p : Period) (len : Nat) (s : State) : Verdict × Nat :=
  let r := settleRecord (lowerPeriod p s) len s.mc.config.tolerance
  (r.verdict, r.penalty)

/-- The SETTLE record of a period closed after a length, numbered. -/
def numberedSettle (p : Period) (len : Nat) (s : State) : SettleRecord :=
  { settleRecord (lowerPeriod p s) len s.mc.config.tolerance with seq := s.rs.nextSeq }

/-- The station after a period is closed into an idle store. -/
def periodClosed (p : Period) (len : Nat) (s : State) : State := { s with
  rs := handedTo (.settle (numberedSettle p len s)) s.rs
  tie := { s.tie with openPeriod := none, lastVerdict := some (settledVerdict p len s) }
  dc := { s.dc with spanStart := none } }

theorem closePeriod_eq (h : StoreReady s.rs) (p : Period) (len : Nat) :
    closePeriod p len s = periodClosed p len s := by
  rw [closePeriod, handOver_alone h]
  rfl

/-- The station after a period is opened at a position. -/
theorem openPeriod_eq (x : TimePos) (f : RecordFlags) (s : State) : openPeriod x f s = { s with
    tie := { s.tie with
      openPeriod := some (periodAt x f s), mark := false, gap := gapOf (periodAt x f s) s.dc.time }
    dc := { s.dc with spanStart := some x } } := rfl

/-- Emptying the slots of past days leaves today's. -/
theorem slotOfDay_emptySlots (s : State) :
    slotOfDay s.dc.time.day (emptySlots s).tie = slotOfDay s.dc.time.day s.tie := by
  have hkept : ∀ x : Option DaySchedule,
      ((keptSlot s.dc.time.day x).filter fun y => y.day == s.dc.time.day) =
        x.filter fun y => y.day == s.dc.time.day := by
    intro x
    rw [keptSlot, Option.filter_filter]
    congr 1
    funext y
    by_cases hy : y.day = s.dc.time.day <;> simp [hy]
  have hslot : ∀ t : TieUnit, slotOfDay s.dc.time.day t =
      ((t.slotA.filter fun y => y.day == s.dc.time.day).or (t.slotB.filter fun y => y.day == s.dc.time.day)) := by
    intro t
    rw [slotOfDay]
    cases t.slotA with
    | none => rfl
    | some x => by_cases hx : x.day = s.dc.time.day <;> simp [Option.filter_some, hx]
  rw [hslot, hslot]
  exact congrArg₂ Option.or (hkept s.tie.slotA) (hkept s.tie.slotB)

theorem slotEntry_eq (x : Option DaySchedule) (k : Nat) : slotEntry x k = x.bind fun d => (d.entries[k]?).join := by
  cases x <;> rfl

/-- A span closed at its planned end has its planned length (R129, R144). -/
theorem spanLength_planned {limit n : Nat} {a b : TimePos} (h : secondsFrom a b = n) (hn : n ≤ limit) :
    spanLength limit a b = n := by
  rw [spanLength, h]
  exact if_pos hn

/-! ### The half hour -/

theorem tieSecond_boundary (h : s.tie.openPeriod = some p) : tieSecond true s =
    let u := s.setTie { s.tie with openPeriod := some (countedPeriod p p.flags s), mark := false }
    let v := emptySlots (closePeriodNow (countedPeriod p p.flags s) u)
    openPeriod v.dc.time noFlags v := by
  rw [tieSecond, if_pos rfl, tieCounts_open h]
  rfl

theorem qualityLowered_twice (a b : Quality) : lowerQuality (lowerQuality a b) b = lowerQuality a b := by
  cases a <;> cases b <;> rfl

/-- The settlement of a period whose deviation fits 32 bits (R126). -/
theorem settleRecord_fits {len tol : Nat} (hlo : -2147483648 ≤ p.energyE - (commitmentEnergy p.commitment len : Int))
    (hhi : p.energyE ≤ 2147483647) :
    let c := commitmentEnergy p.commitment len
    let dev := p.energyE - (c : Int)
    settleRecord p len tol =
      { seq := 0, start := p.start, length := len, commitment := p.commitment, energyC := c, energyE := p.energyE
        deviation := dev, tolerance := toleranceOf c tol, penalty := dev.natAbs - toleranceOf c tol
        verdict := verdictOf dev (toleranceOf c tol), quality := p.quality, missing := p.missing
        flags := p.flags } := by
  intro c dev
  have hdev : ¬dev < -2147483648 := by omega
  have hpen : Nat.min (dev.natAbs - toleranceOf c tol) 4294967295 = dev.natAbs - toleranceOf c tol :=
    Nat.min_eq_left (by omega)
  simp only [settleRecord]
  rw [if_neg hdev, hpen]

/-- What the second that ends a half hour leaves of an open period: its record handed over, and the next period open. -/
structure HalfHourSettled (p : Period) (s t : State) : Prop where
  store : t.rs = handedTo (.settle (numberedSettle (countedPeriod p p.flags s) p.planned s)) s.rs
  verdict : t.tie.lastVerdict = some (settledVerdict (countedPeriod p p.flags s) p.planned s)
  next : t.tie.openPeriod = some (periodAt s.dc.time noFlags (emptySlots s))
  mark : t.tie.mark = false
  spanStart : t.dc.spanStart = some s.dc.time
  meter : t.mu = s.mu

theorem tieSecond_settles (h : s.tie.openPeriod = some p) (hready : StoreReady s.rs)
    (hlen : secondsFrom p.start s.dc.time = p.planned) (hplan : p.planned ≤ 1800) :
    HalfHourSettled p s (tieSecond true s) := by
  let u := s.setTie { s.tie with openPeriod := some (countedPeriod p p.flags s), mark := false }
  have hclose : closePeriodNow (countedPeriod p p.flags s) u =
      periodClosed (countedPeriod p p.flags s) p.planned u := by
    rw [closePeriodNow]
    exact (congrArg (fun n => closePeriod _ n u) (spanLength_planned hlen hplan)).trans
      (closePeriod_eq (s := u) hready _ _)
  have hsecond : tieSecond true s =
      openPeriod s.dc.time noFlags (emptySlots (periodClosed (countedPeriod p p.flags s) p.planned u)) := by
    rw [tieSecond_boundary h, ← hclose]
    simp [closePeriodNow, u]
  rw [hsecond, openPeriod_eq]
  refine ⟨?_, ?_, ?_, ?_, ?_, ?_⟩
  all_goals rfl

/-- The period a half hour opens: whole, with the entry of the schedule for it, or 0 and NO SCHEDULE (R122). -/
theorem periodAt_halfHour (h : s.dc.time.sec % 1800 = 0) :
    let q := periodAt s.dc.time noFlags (emptySlots s)
    let entry := (slotOfDay s.dc.time.day s.tie).bind fun d => (d.entries[s.dc.time.sec / 1800]?).join
    (q.start = s.dc.time ∧ q.planned = 1800 ∧ q.energyE = 0 ∧ q.missing = 0 ∧ q.quality = s.dc.quality ∧
      q.energyC = q.commitment * 1800 / 36) ∧
    q.commitment = entry.getD 0 ∧ q.flags = { noFlags with noSchedule := entry.isNone } := by
  have hplan : 1800 * (s.dc.time.sec / 1800 + 1) - s.dc.time.sec = 1800 := by omega
  have hentry := (slotEntry_eq (slotOfDay s.dc.time.day (emptySlots s).tie) (s.dc.time.sec / 1800)).trans
    (congrArg (fun x : Option DaySchedule => x.bind fun d => (d.entries[s.dc.time.sec / 1800]?).join)
      (slotOfDay_emptySlots s))
  intro q entry
  refine ⟨⟨rfl, hplan, rfl, rfl, rfl, ?_⟩, congrArg (fun x => x.getD 0) hentry,
    congrArg (fun x : Option Nat => { noFlags with noSchedule := x.isNone }) hentry⟩
  exact congrArg (fun n => q.commitment * n / 36) hplan

/-- Settles O25. -/
theorem halfHourBoundarySettlesThePeriod : Obligations.HalfHourBoundarySettlesThePeriod := by
  intro p s hm hr hh hn hsec hp hplan _ hlen hlo hhi hq hidle hwhole hroom c dev tol verdict entry
  let u := (ticked s).setDc { (ticked s).dc with time := nextSecond s.dc.time }
  have hsecond : clockSecond (ticked s) = tieSecond true u := by
    have hb : ((nextSecond (ticked s).dc.time).sec % 1800 == 0) = true := by simpa using hsec
    rw [clockSecond_running (by simpa using hh) (by simpa using hn), advanceTime_tie (s := ticked s) hr, hb,
      (ticked_clock s).1]
  obtain ⟨hrs, hverdict, hnext, hmark, hspan, hmu⟩ :=
    tieSecond_settles (s := u) hp ⟨hq, hidle, hwhole, hroom⟩ hlen hplan
  obtain ⟨hopened, hcommitment, hflags⟩ := periodAt_halfHour (s := u) hsec
  have hquality : u.dc.quality = s.dc.quality := (ticked_clock s).2.2.2.2
  have hrecord := settleRecord_fits (p := lowerPeriod (countedPeriod p p.flags u) u) (len := p.planned)
    (tol := s.mc.config.tolerance) hlo hhi
  have hlowered : lowerQuality (lowerQuality p.quality u.dc.quality) u.dc.quality =
      lowerQuality p.quality s.dc.quality := by rw [qualityLowered_twice, hquality]
  rw [hquality] at hopened
  refine ⟨_, periodAt u.dc.time noFlags (emptySlots u), exec_meteringSecond hm, meteringSecond_frame s, ?_, ?_, ?_, ?_,
    hopened, hcommitment, hflags, ?_, ?_⟩
  all_goals rw [hsecond]
  · rw [hrs, numberedSettle]
    exact (congrArg (fun r : SettleRecord => handedTo (.settle { r with seq := s.rs.nextSeq }) s.rs) hrecord).trans
      (congrArg (fun q => handedTo (.settle {
        seq := s.rs.nextSeq, start := p.start, length := p.planned, commitment := p.commitment, energyC := c
        energyE := p.energyE, deviation := dev, tolerance := tol, penalty := dev.natAbs - tol, verdict := verdict
        quality := q, missing := if s.tie.mark then p.missing else Nat.min (p.missing + 1) 65535
        flags := p.flags }) s.rs) hlowered)
  · rw [hverdict]
    exact congrArg (fun r : SettleRecord => some (r.verdict, r.penalty)) hrecord
  · exact hnext
  · exact hmark
  · exact hspan
  · exact hmu

end Sys2Proof.Machine
end

section
/-! The metering second of a TOWNHEAT: the second integrated, the minute check, and the held seconds counted (R138 to
R141, R145, R157). -/

namespace Sys2Proof.Machine

variable {s t u : State} {i j : Interval}

/-! ### The energy split (R138, R140) -/

theorem secondEnergy_eq (s : State) : secondEnergy s.mu.held = energyOfSecond s := by
  rw [energyOfSecond]
  cases s.mu.held with
  | none => rfl
  | some x =>
    show sampleEnergy x = x.flow * (x.supply - x.return_) * 419
    rw [sampleEnergy]
    split
    · next h => rw [Nat.sub_eq_zero_of_le h, Nat.mul_zero, Nat.zero_mul]
    · rfl

/-- The remainders are below one kWh, and the second's energy leaves both counts within 32 bits. -/
structure CountsFit (i : Interval) (s : State) : Prop where
  fraction : s.mu.held ≠ none → s.mu.fraction ≤ 1000
  worksRem : s.mu.worksRem < 360000000
  purchRem : s.mu.purchRem < 360000000
  works : i.works + (s.mu.worksRem + energyOfSecond s) / 360000000 < 2 ^ 32
  purchased : i.purchased + (s.mu.purchRem + energyOfSecond s) / 360000000 < 2 ^ 32

/-- A share of the energy is no more than the energy. -/
theorem purchasedShare_le (h : s.mu.held ≠ none → s.mu.fraction ≤ 1000) :
    purchasedShare (energyOfSecond s) s.mu.fraction ≤ energyOfSecond s := by
  cases hh : s.mu.held with
  | none => simp [purchasedShare, energyOfSecond, hh]
  | some x =>
    have hf := h (by simp [hh])
    calc energyOfSecond s * s.mu.fraction / 1000
        ≤ energyOfSecond s * 1000 / 1000 := Nat.div_le_div_right (Nat.mul_le_mul_left _ hf)
      _ = energyOfSecond s := Nat.mul_div_cancel _ (by decide)

theorem worksShare_le (e f : Nat) : worksShare e f ≤ e := Nat.sub_le _ _

/-- A share that leaves the count within 32 bits is moved in, whole kWh at a time, and nothing is lost. -/
theorem kwhSum_moved {n rem share : Nat} (h : n + (rem + share) / kwhUnit < 2 ^ 32) (free : Nat) :
    kwhSum n (movedOut rem share) free = n + (rem + share) / kwhUnit := if_pos h

theorem moved_conserves (n rem share : Nat) :
    (n + (rem + share) / kwhUnit) * 360000000 + remLeft rem share = n * 360000000 + rem + share := by
  have h := Nat.div_add_mod (rem + share) 360000000
  simp only [remLeft, kwhUnit]
  omega

theorem CountsFit.works_fit (h : CountsFit i s) : i.works +
    (s.mu.worksRem + worksShare (energyOfSecond s) s.mu.fraction) / kwhUnit < 2 ^ 32 :=
  Nat.lt_of_le_of_lt (Nat.add_le_add_left (Nat.div_le_div_right (Nat.add_le_add_left (worksShare_le _ _) _)) _) h.works

theorem CountsFit.purchased_fit (h : CountsFit i s) : i.purchased +
    (s.mu.purchRem + purchasedShare (energyOfSecond s) s.mu.fraction) / kwhUnit < 2 ^ 32 :=
  Nat.lt_of_le_of_lt
    (Nat.add_le_add_left (Nat.div_le_div_right (Nat.add_le_add_left (purchasedShare_le h.fraction) _)) _) h.purchased

/-- The interval after a second whose counts fit. -/
def secondInterval (i : Interval) (s : State) : Interval := intervalAfter i s.mu s.dc.quality 0 0

theorem secondInterval_works (h : CountsFit i s) : (secondInterval i s).works =
    i.works + (s.mu.worksRem + worksShare (energyOfSecond s) s.mu.fraction) / kwhUnit := by
  simp only [secondInterval, intervalAfter, secondEnergy_eq, kwhSum_moved h.works_fit]

theorem secondInterval_purchased (h : CountsFit i s) : (secondInterval i s).purchased =
    i.purchased + (s.mu.purchRem + purchasedShare (energyOfSecond s) s.mu.fraction) / kwhUnit := by
  simp only [secondInterval, intervalAfter, secondEnergy_eq, kwhSum_moved h.purchased_fit]

/-- The counts of a second that fits draw no value. -/
theorem integrateSecond_open (ho : s.mu.openInterval = some i) (h : CountsFit i s) :
    integrateSecond s = s.setMu (integrated i s.dc.quality 0 s.mu) := by
  have hw := h.works_fit
  have hp := h.purchased_fit
  have hover : countsOverflow i s.mu = false := by
    simp only [countsOverflow, secondEnergy_eq, movedOut]
    simp only [Bool.or_eq_false_iff, decide_eq_false_iff_not, Nat.not_le]
    exact ⟨hw, hp⟩
  have hfree : ∀ a b, intervalAfter i s.mu s.dc.quality a b = secondInterval i s := by
    intro a b
    simp only [secondInterval, intervalAfter, secondEnergy_eq, kwhSum_moved hw, kwhSum_moved hp]
  simp only [integrateSecond, ho, hover, if_neg Bool.false_ne_true, integrated, hfree]

theorem integrateSecond_closed (ho : s.mu.openInterval = none) :
    integrateSecond s = s.setMu { s.mu with held := none } := by
  simp only [integrateSecond, ho]

theorem add_shares {a b w p e : Nat} (h : w + p = e) : a + w + (b + p) = a + b + e := by omega

/-- The missing, reverse and over-range counts after a second (R138). -/
theorem countSecond_counts (held : Option HeatSample) (i : Interval) :
    (countSecond held i).missing = (if held = none then Nat.min (i.missing + 1) 65535 else i.missing) ∧
    (countSecond held i).reverse = (match held with
      | none => i.reverse
      | some x => if x.supply ≤ x.return_ then Nat.min (i.reverse + 1) 65535 else i.reverse) ∧
    (countSecond held i).overRange = (match held with
      | none => i.overRange
      | some x => if x.overRange then Nat.min (i.overRange + 1) 65535 else i.overRange) ∧
    (countSecond held i).start = i.start ∧ (countSecond held i).planned = i.planned ∧
    (countSecond held i).band = i.band ∧ (countSecond held i).peak = i.peak ∧
    (countSecond held i).flags = i.flags := by
  cases held <;> exact ⟨rfl, rfl, rfl, rfl, rfl, rfl, rfl, rfl⟩

theorem secondInterval_peak (i : Interval) (s : State) : (secondInterval i s).peak = i.peak ∧
    (secondInterval i s).flags = i.flags := by
  obtain ⟨-, -, -, -, -, -, hp, hf⟩ := countSecond_counts s.mu.held i
  exact ⟨hp, hf⟩

/-- A second integrated whose counts fit (R138, R140). -/
theorem integrateSecond_integrates (ho : s.mu.openInterval = some i) (h : CountsFit i s) :
    SecondIntegrated i (secondInterval i s) s (integrateSecond s) := by
  have hshare := purchasedShare_le h.fraction
  have hw := secondInterval_works h
  have hp := secondInterval_purchased h
  have hcw := moved_conserves i.works s.mu.worksRem (worksShare (energyOfSecond s) s.mu.fraction)
  have hcp := moved_conserves i.purchased s.mu.purchRem (purchasedShare (energyOfSecond s) s.mu.fraction)
  obtain ⟨hmissing, hreverse, hover, hstart, hplanned, hband, -, -⟩ := countSecond_counts s.mu.held i
  have hlt : ∀ a b, remLeft a b < 360000000 := fun a b => Nat.mod_lt _ (by decide)
  have hrems : (integrateSecond s).mu.worksRem = remLeft s.mu.worksRem (worksShare (energyOfSecond s) s.mu.fraction) ∧
      (integrateSecond s).mu.purchRem =
        remLeft s.mu.purchRem (purchasedShare (energyOfSecond s) s.mu.fraction) := by
    rw [integrateSecond_open ho h, ← secondEnergy_eq]
    exact ⟨rfl, rfl⟩
  obtain ⟨hwr, hpr⟩ := hrems
  have hsplit : worksShare (energyOfSecond s) s.mu.fraction + purchasedShare (energyOfSecond s) s.mu.fraction =
      energyOfSecond s := Nat.sub_add_cancel hshare
  refine ⟨?_, ?_, ?_, ⟨hwr ▸ hlt _ _, hpr ▸ hlt _ _⟩, ?_, hmissing, hreverse, hover, rfl, ⟨hstart, hplanned, hband⟩, ?_⟩
  · rw [integrateSecond_open ho h]
    rfl
  · rw [hp, hpr, hcp, purchasedShare]
  · rw [hw, hp, hwr, hpr, hcw, hcp]
    exact add_shares hsplit
  · rw [integrateSecond_open ho h]
    rfl
  · rw [integrateSecond_open ho h]
    exact ⟨rfl, rfl, rfl, rfl, rfl, rfl, rfl⟩

theorem integrateSecond_acc (ho : s.mu.openInterval = some i) (h : CountsFit i s) :
    (integrateSecond s).mu.minuteAcc = s.mu.minuteAcc + energyOfSecond s ∧
    (integrateSecond s).mu.heldSeconds = s.mu.heldSeconds ∧
    (integrateSecond s).mu.holdCheckDue = s.mu.holdCheckDue := by
  rw [integrateSecond_open ho h, ← secondEnergy_eq]
  exact ⟨rfl, rfl, rfl⟩

/-! ### What comes before and after the integration -/

/-- What precedes the integration of a second may move the peak and the flags of the interval, the minute accumulator
and the count of held seconds. -/
theorem SecondIntegrated.before {i' : Interval} (h : SecondIntegrated i' j u t)
    (hi : i' = { i with peak := i'.peak, flags := i'.flags })
    (hmu : u.mu = { s.mu with
      openInterval := u.mu.openInterval, minuteAcc := u.mu.minuteAcc, heldSeconds := u.mu.heldSeconds })
    (hrs : u.rs = s.rs) (htie : u.tie = s.tie) (hspan : u.dc.spanStart = s.dc.spanStart)
    (hq : u.dc.quality = s.dc.quality) : SecondIntegrated i j s t := by
  obtain ⟨hnow, hpurchased, hwhole, hrem, hsample, hmissing, hreverse, hover, hquality, hkept, hothers⟩ := h
  have he : energyOfSecond u = energyOfSecond s := by rw [energyOfSecond, energyOfSecond, hmu]
  rw [he, hi, hmu] at hpurchased
  rw [he, hi, hmu] at hwhole
  rw [hi, hmu] at hmissing hreverse hover
  rw [hi, hq] at hquality
  rw [hi] at hkept
  rw [hmu, hrs, htie, hspan] at hothers
  exact ⟨hnow, hpurchased, hwhole, hrem, hsample, hmissing, hreverse, hover, hquality, hkept, hothers⟩

/-- What follows the integration may move the peak of the interval, the minute accumulator, the count of held seconds
and the mark of a check due. -/
theorem SecondIntegrated.after {x : Nat} (h : SecondIntegrated i j s t)
    (hopen : u.mu.openInterval = some { j with peak := x })
    (hmu : u.mu = { t.mu with
      openInterval := u.mu.openInterval, minuteAcc := u.mu.minuteAcc, heldSeconds := u.mu.heldSeconds
      holdCheckDue := u.mu.holdCheckDue })
    (hrs : u.rs = t.rs) (htie : u.tie = t.tie) (hspan : u.dc.spanStart = t.dc.spanStart) :
    SecondIntegrated i { j with peak := x } s u := by
  obtain ⟨-, hpurchased, hwhole, hrem, hsample, hmissing, hreverse, hover, hquality, hkept, hothers⟩ := h
  rw [← hrs, ← htie, ← hspan] at hothers
  refine ⟨hopen, ?_, ?_, ?_, ?_, hmissing, hreverse, hover, hquality, hkept, ?_⟩
  all_goals rw [hmu]
  · exact hpurchased
  · exact hwhole
  · exact hrem
  · exact hsample
  · exact hothers

/-! ### The deliveries at a TOWNHEAT -/

theorem deliverSecond_town (h : s.mc.config.role = some .townheat) :
    deliverSecond s = meterSecond (some s.dc.time) s := by
  simp only [deliverSecond, h]

theorem deliverHeld_town (ends : Bool) (h : s.mc.config.role = some .townheat) :
    deliverHeld ends s = countHeld ends (integrateSecond s) := by
  simp only [deliverHeld, h]
  rfl

theorem notifyStep_town (h : s.mc.config.role = some .townheat) : notifyStep s = meterStep s := by
  simp only [notifyStep, h]

theorem advanceTime_town (h : s.mc.config.role = some .townheat) : advanceTime s =
    meterSecond (some (nextSecond s.dc.time)) (s.setDc { s.dc with time := nextSecond s.dc.time }) :=
  deliverSecond_town (s := s.setDc { s.dc with time := nextSecond s.dc.time }) h

theorem meterSecond_plain {p : TimePos} (h : p.sec % 60 ≠ 0) : meterSecond (some p) s = integrateSecond s := by
  have hh : ¬p.sec % 3600 = 0 := by omega
  simp only [meterSecond, if_neg hh, if_neg h]

theorem meterSecond_minute {p : TimePos} (h : p.sec % 60 = 0) (hh : p.sec % 3600 ≠ 0) :
    meterSecond (some p) s = minuteCheck (integrateSecond s) := by
  simp only [meterSecond, if_neg hh, if_pos h]

theorem meterSecond_hour {p : TimePos} (h : p.sec % 3600 = 0) :
    meterSecond (some p) s = hourBoundary (integrateSecond s) := by
  simp only [meterSecond, if_pos h]

theorem minuteCheck_open (h : s.mu.openInterval = some i) : minuteCheck s = s.setMu { s.mu with
    openInterval := some { i with peak := Nat.max i.peak (s.mu.minuteAcc / kwhUnit) }, minuteAcc := 0 } := by
  rw [minuteCheck, h]
  rfl

theorem minuteCheck_closed (h : s.mu.openInterval = none) : minuteCheck s = s.setMu { s.mu with minuteAcc := 0 } := by
  rw [minuteCheck, h, Option.map_none, ← h]

/-- A step that does not pass the end of the open interval makes the minute check and flags it (R145). -/
theorem meterStep_within (h : s.mu.openInterval = some i) (hw : posNumber s.dc.time < posNumber i.start + i.planned) :
    meterStep s = s.setMu { s.mu with
      minuteAcc := 0
      openInterval := some { i with
        peak := Nat.max i.peak (s.mu.minuteAcc / kwhUnit), flags := { i.flags with timeStepped := true } } } := by
  have hend : ∀ x f, posNumber s.dc.time < intervalEnd { i with peak := x, flags := f } := fun _ _ => hw
  rw [meterStep, minuteCheck_open h]
  exact if_pos (hend _ _)

theorem countHeld_counted (ends : Bool) (s : State) :
    HeldSecondCounted s.mu.heldSeconds (ends = true) s (countHeld ends s) ∧
    (countHeld ends s).mu = { s.mu with
      openInterval := (countHeld ends s).mu.openInterval, minuteAcc := (countHeld ends s).mu.minuteAcc
      heldSeconds := (countHeld ends s).mu.heldSeconds, holdCheckDue := (countHeld ends s).mu.holdCheckDue } ∧
    (countHeld ends s).mu.minuteAcc = s.mu.minuteAcc := by
  simp only [countHeld]
  split
  · next h => exact ⟨⟨fun hlt hno => absurd h (by simp [hno]; omega), fun _ => ⟨rfl, rfl⟩⟩, rfl, rfl⟩
  · next h => exact ⟨⟨fun _ _ => ⟨rfl, rfl⟩, fun hc => absurd hc h⟩, rfl, rfl⟩

/-- A held second of an open interval: integrated, and counted toward the checks of the hold. -/
structure HeldIntegrated (i : Interval) (ends : Prop) (s t : State) : Prop where
  integrates : SecondIntegrated i (secondInterval i s) s t
  acc : t.mu.minuteAcc = s.mu.minuteAcc + energyOfSecond s
  counted : HeldSecondCounted s.mu.heldSeconds ends s t

theorem countHeld_integrates (ho : s.mu.openInterval = some i) (h : CountsFit i s) (ends : Bool) :
    HeldIntegrated i (ends = true) s (countHeld ends (integrateSecond s)) := by
  have hi := integrateSecond_integrates ho h
  obtain ⟨hacc, hheld, hdue⟩ := integrateSecond_acc ho h
  obtain ⟨hcounted, hmu, hkeep⟩ := countHeld_counted ends (integrateSecond s)
  refine ⟨hi.after (x := (secondInterval i s).peak) (by simp [hi.now]) hmu (by simp) (by simp) (by simp),
    hkeep.trans hacc, ?_⟩
  · rw [HeldSecondCounted, ← hheld, ← hdue]
    exact hcounted

/-- A minute check after an integrated second. -/
theorem minuteCheck_integrates (ho : s.mu.openInterval = some i) (h : CountsFit i s) :
    let x := Nat.max i.peak ((s.mu.minuteAcc + energyOfSecond s) / 360000000)
    SecondIntegrated i { secondInterval i s with peak := x } s (minuteCheck (integrateSecond s)) ∧
      (minuteCheck (integrateSecond s)).mu.minuteAcc = 0 ∧
      (minuteCheck (integrateSecond s)).mu.heldSeconds = s.mu.heldSeconds ∧
      (minuteCheck (integrateSecond s)).mu.holdCheckDue = s.mu.holdCheckDue := by
  intro x
  have hi := integrateSecond_integrates ho h
  obtain ⟨hacc, hheld, hdue⟩ := integrateSecond_acc ho h
  have hx : Nat.max (secondInterval i s).peak ((integrateSecond s).mu.minuteAcc / kwhUnit) = x := by
    rw [(secondInterval_peak i s).1, hacc]
    rfl
  rw [minuteCheck_open hi.now, hx]
  exact ⟨hi.after rfl rfl rfl rfl rfl, rfl, hheld, hdue⟩

/-- A second of an open interval that is no hour boundary: integrated, and checked at an aligned minute. -/
theorem meterSecond_integrates {p : TimePos} (ho : s.mu.openInterval = some i) (h : CountsFit i s)
    (hh : p.sec % 3600 ≠ 0) : ∃ j, SecondIntegrated i j s (meterSecond (some p) s) ∧ j.flags = i.flags ∧
      (p.sec % 60 ≠ 0 → (meterSecond (some p) s).mu.minuteAcc = s.mu.minuteAcc + energyOfSecond s ∧
        j.peak = i.peak) ∧
      (p.sec % 60 = 0 → (meterSecond (some p) s).mu.minuteAcc = 0 ∧
        j.peak = Nat.max i.peak ((s.mu.minuteAcc + energyOfSecond s) / 360000000)) ∧
      (meterSecond (some p) s).mu.heldSeconds = s.mu.heldSeconds ∧
      (meterSecond (some p) s).mu.holdCheckDue = s.mu.holdCheckDue := by
  obtain ⟨hpeak, hflags⟩ := secondInterval_peak i s
  by_cases hm : p.sec % 60 = 0
  · obtain ⟨hi, hacc, hheld, hdue⟩ := minuteCheck_integrates ho h
    rw [meterSecond_minute hm hh]
    exact ⟨_, hi, hflags, fun hn => absurd hm hn, fun _ => ⟨hacc, rfl⟩, hheld, hdue⟩
  · obtain ⟨hacc, hheld, hdue⟩ := integrateSecond_acc ho h
    rw [meterSecond_plain hm]
    exact ⟨_, integrateSecond_integrates ho h, hflags, fun _ => ⟨hacc, hpeak⟩, fun hn => absurd hn hm, hheld, hdue⟩

/-- The interval flagged by a step, its minute check made. -/
def steppedInterval (i : Interval) (s : State) : Interval := { i with
  peak := Nat.max i.peak (s.mu.minuteAcc / 360000000), flags := { i.flags with timeStepped := true } }

/-- The meter at a clamp before the first held second is integrated. -/
theorem beginHold_clamp {point : TimePos} (hr : s.mc.config.role = some .townheat) (ho : s.mu.openInterval = some i)
    (hw : posNumber point < posNumber i.start + i.planned) :
    beginHold (notifyStep (steppedTo point s)) = (steppedTo point s).setMu { s.mu with
      openInterval := some (steppedInterval i s), minuteAcc := 0, heldSeconds := 0 } := by
  rw [notifyStep_town (s := steppedTo point s) hr, meterStep_within (s := steppedTo point s) ho hw]
  rfl

/-- A clamp of an interval that does not end before the point: the minute check and the flag first, then the second is
integrated and is the first held one (R145, R157). -/
theorem clampAt_integrates {point f : TimePos} (hr : s.mc.config.role = some .townheat)
    (ho : s.mu.openInterval = some i) (h : CountsFit i s)
    (hw : posNumber point < posNumber i.start + i.planned) :
    ∃ j, SecondIntegrated i j s (clampAt point f s) ∧ j.flags = { i.flags with timeStepped := true } ∧
      (clampAt point f s).mu.minuteAcc = energyOfSecond s ∧
      j.peak = Nat.max i.peak (s.mu.minuteAcc / 360000000) ∧
      HeldSecondCounted 0 (posNumber point ≤ posNumber (nextSecond f)) s (clampAt point f s) := by
  let x : Hold := ⟨point, nextSecond f⟩
  let u := (beginHold (notifyStep (steppedTo point s))).setDc {
    (beginHold (notifyStep (steppedTo point s))).dc with
      hold := if holdReached x then none else some x, pendingStep := none }
  have hu : u = (((steppedTo point s).setMu { s.mu with
      openInterval := some (steppedInterval i s), minuteAcc := 0, heldSeconds := 0 }).setDc {
    (steppedTo point s).dc with hold := if holdReached x then none else some x, pendingStep := none }) := by
    simp only [u, beginHold_clamp hr ho hw]
    rfl
  have hclamp : clampAt point f s = countHeld (holdReached x) (integrateSecond u) :=
    deliverHeld_town (s := u) _ (by rw [hu]; exact hr)
  have hfit : CountsFit (steppedInterval i s) u := by
    rw [hu]
    exact ⟨h.fraction, h.worksRem, h.purchRem, h.works, h.purchased⟩
  have hopen : u.mu.openInterval = some (steppedInterval i s) := by rw [hu]; rfl
  obtain ⟨hi, hacc, hcounted⟩ := countHeld_integrates hopen hfit (holdReached x)
  obtain ⟨hpeak, hflags⟩ := secondInterval_peak (steppedInterval i s) u
  rw [hclamp]
  have hends : (holdReached x = true) = (posNumber point ≤ posNumber (nextSecond f)) := decide_eq_true_eq
  rw [hends] at hcounted
  refine ⟨_, hi.before rfl ?_ ?_ ?_ ?_ ?_, hflags, hacc.trans ?_, hpeak, ?_⟩
  all_goals rw [hu]
  · rfl
  · rfl
  · rfl
  · rfl
  · rfl
  · exact Nat.zero_add _
  · rw [hu] at hcounted
    exact hcounted

/-- A held second at a TOWNHEAT with an interval open (R141, R157). -/
theorem clockSecond_heldIntegrates {ends : Prop} (hr : s.mc.config.role = some .townheat)
    (ho : s.mu.openInterval = some i) (h : CountsFit i s) (he : HeldAt ends s) :
    HeldIntegrated i ends s (clockSecond s) := by
  obtain ⟨b, x, hends, hcs⟩ := clockSecond_heldAt he
  have hb : (b = true) = ends := propext hends
  rw [hcs, deliverHeld_town (s := s.setDc { s.dc with hold := x, pendingStep := none }) _ hr, ← hb]
  have hheld := countHeld_integrates (s := s.setDc { s.dc with hold := x, pendingStep := none }) ho
    ⟨h.fraction, h.worksRem, h.purchRem, h.works, h.purchased⟩ b
  exact ⟨hheld.integrates.before rfl rfl rfl rfl rfl rfl, hheld.acc, hheld.counted⟩

theorem SecondIntegrated.of_ticked (h : SecondIntegrated i j (ticked s) t) : SecondIntegrated i j s t :=
  h.before rfl rfl rfl rfl (ticked_clock s).2.2.2.1 (ticked_clock s).2.2.2.2

theorem CountsFit.ticked (h : CountsFit i s) : CountsFit i (ticked s) :=
  ⟨h.fraction, h.worksRem, h.purchRem, h.works, h.purchased⟩

/-! ### With no interval open -/

/-- What a second leaves of a TOWNHEAT with no interval open: the held sample is cleared and nothing is counted. -/
structure NothingIntegrated (acc : Nat) (s t : State) : Prop where
  meter : t.mu = { s.mu with
    held := none, heldSeconds := t.mu.heldSeconds, holdCheckDue := t.mu.holdCheckDue, minuteAcc := acc }
  others : t.rs = s.rs ∧ t.tie = s.tie ∧ t.dc.spanStart = s.dc.spanStart

theorem meterSecond_closed (p : TimePos) (ho : s.mu.openInterval = none) :
    NothingIntegrated (if p.sec % 60 = 0 then 0 else s.mu.minuteAcc) s (meterSecond (some p) s) ∧
      (meterSecond (some p) s).mu.heldSeconds = s.mu.heldSeconds ∧
      (meterSecond (some p) s).mu.holdCheckDue = s.mu.holdCheckDue := by
  have hi := integrateSecond_closed ho
  have hcheck : minuteCheck (integrateSecond s) = s.setMu { s.mu with held := none, minuteAcc := 0 } := by
    rw [hi]
    exact minuteCheck_closed (s := s.setMu { s.mu with held := none }) ho
  have hhour : hourBoundary (integrateSecond s) = minuteCheck (integrateSecond s) := by
    have hn : (integrateSecond s).mu.openInterval = none := by rw [hi]; exact ho
    simp only [hourBoundary, hn]
  by_cases hm : p.sec % 60 = 0
  · have hs : meterSecond (some p) s = s.setMu { s.mu with held := none, minuteAcc := 0 } := by
      by_cases hh : p.sec % 3600 = 0
      · rw [meterSecond_hour hh, hhour, hcheck]
      · rw [meterSecond_minute hm hh, hcheck]
    rw [hs, if_pos hm]
    exact ⟨⟨rfl, rfl, rfl, rfl⟩, rfl, rfl⟩
  · rw [meterSecond_plain hm, hi, if_neg hm]
    exact ⟨⟨rfl, rfl, rfl, rfl⟩, rfl, rfl⟩

theorem countHeld_closed (ends : Bool) (ho : s.mu.openInterval = none) :
    NothingIntegrated s.mu.minuteAcc s (countHeld ends (integrateSecond s)) := by
  rw [integrateSecond_closed ho]
  simp only [countHeld]
  split
  · exact ⟨rfl, rfl, rfl, rfl⟩
  · exact ⟨rfl, rfl, rfl, rfl⟩

theorem heldSecond_closed (x : Hold) (hr : s.mc.config.role = some .townheat) (ho : s.mu.openInterval = none) :
    NothingIntegrated s.mu.minuteAcc s (heldSecond x s) := by
  let u := s.setDc { s.dc with hold := if holdReached x then none else some x, pendingStep := none }
  have hs : heldSecond x s = countHeld (holdReached x) (integrateSecond u) := deliverHeld_town (s := u) _ hr
  rw [hs]
  obtain ⟨hmu, hrs, htie, hspan⟩ := countHeld_closed (s := u) (holdReached x) ho
  exact ⟨hmu, hrs, htie, hspan⟩

/-- Settles O22. -/
theorem townSecondConservesEnergy : Obligations.TownSecondConservesEnergy := by
  refine ⟨fun i s hm hr ho hf hw hp => ?_, fun s hm hr ho hn => ?_⟩
  · intro e hworks hpurchased
    have hfit : CountsFit i (ticked s) := ⟨fun _ => hf, hw, hp, hworks, hpurchased⟩
    refine ⟨fun hh hn hsec => ?_, fun ends he => ?_, fun point f hc hpoint => ?_⟩
    · let u := (ticked s).setDc { (ticked s).dc with time := nextSecond s.dc.time }
      have hcs : clockSecond (ticked s) = meterSecond (some (nextSecond s.dc.time)) u := by
        rw [clockSecond_running (by simpa using hh) (by simpa using hn), advanceTime_town (s := ticked s) hr,
          (ticked_clock s).1]
      obtain ⟨j, hi, hflags, hplain, hminute, hheld, hdue⟩ := meterSecond_integrates (s := u) ho
        ⟨hfit.fraction, hfit.worksRem, hfit.purchRem, hfit.works, hfit.purchased⟩ hsec
      refine ⟨_, j, exec_meteringSecond hm, meteringSecond_frame s, ?_⟩
      rw [hcs]
      exact ⟨(hi.before (s := ticked s) rfl rfl rfl rfl rfl rfl).of_ticked, hflags, hplain, hminute, hheld, hdue⟩
    · obtain ⟨hi, hacc, hcounted⟩ := clockSecond_heldIntegrates (s := ticked s) hr ho hfit (ticked_heldAt he)
      obtain ⟨hpeak, hflags⟩ := secondInterval_peak i (ticked s)
      exact ⟨_, _, exec_meteringSecond hm, meteringSecond_frame s, hi.of_ticked, hflags, hacc, hpeak, hcounted⟩
    · obtain ⟨j, hi, hflags, hacc, hpeak, hcounted⟩ := clampAt_integrates (s := ticked s) (f := f) hr ho hfit hpoint
      refine ⟨_, j, exec_meteringSecond hm, meteringSecond_frame s, ?_⟩
      rw [clockSecond_clamps (ticked_clampsTo hc)]
      exact ⟨hi.of_ticked, hflags, hacc, hpeak, hcounted⟩
  · refine ⟨_, exec_meteringSecond hm, meteringSecond_frame s, ?_⟩
    have hspan := (ticked_clock s).2.2.2.1
    cases hh : s.dc.hold with
    | none =>
      let u := (ticked s).setDc { (ticked s).dc with time := nextSecond s.dc.time }
      have hcs : clockSecond (ticked s) = meterSecond (some (nextSecond s.dc.time)) u := by
        rw [clockSecond_running (by simpa using hh) (by simpa using hn), advanceTime_town (s := ticked s) hr,
          (ticked_clock s).1]
      obtain ⟨⟨hmu, hrs, htie, hss⟩, hheld, hdue⟩ := meterSecond_closed (s := u) (nextSecond s.dc.time) ho
      rw [hcs]
      refine ⟨?_, fun _ => ⟨hheld, hdue⟩, hrs, htie, hss.trans hspan⟩
      simp only [true_and]
      exact hmu
    | some h =>
      obtain ⟨hmu, hrs, htie, hss⟩ := heldSecond_closed (s := ticked s) ⟨h.point, nextSecond h.reference⟩ hr ho
      rw [clockSecond_held (h := h) (by simpa using hh) (by simpa using hn)]
      refine ⟨?_, nofun, hrs, htie, hss.trans hspan⟩
      simpa using hmu

end Sys2Proof.Machine
end

section
/-! The hour boundary of an open interval: the record billed and the next interval opened (R138, R140 to R144). -/

namespace Sys2Proof.Machine

variable {s t u : State} {i j : Interval}

/-- The BILL record of an interval closed after a length, numbered. -/
def numberedBill (i : Interval) (len : Nat) (s : State) : BillRecord :=
  { billRecord (lowerInterval i s) len with seq := s.rs.nextSeq }

/-- The station after an interval is closed into an idle store. -/
def intervalClosed (i : Interval) (len : Nat) (s : State) : State := { s with
  rs := handedTo (.bill (numberedBill i len s)) s.rs
  mu := { s.mu with openInterval := none }
  dc := { s.dc with spanStart := none } }

theorem closeInterval_eq (h : StoreReady s.rs) (i : Interval) (len : Nat) :
    closeInterval i len s = intervalClosed i len s := by
  rw [closeInterval, handOver_alone h]
  rfl

/-- The station after an interval is opened at a position. -/
theorem openIntervalAt_eq (x : TimePos) (f : RecordFlags) (s : State) : openIntervalAt x f s = { s with
    mu := { s.mu with openInterval := some (intervalAt x f s), minuteAcc := 0 }
    dc := { s.dc with spanStart := some x } } := rfl

/-- The interval an hour's start opens is a whole hour. -/
theorem intervalAt_hour {x : TimePos} (h : x.sec % 3600 = 0) (f : RecordFlags) (s : State) : intervalAt x f s =
    { start := x, planned := 3600, band := s.mc.config.tariff.getD (x.sec / 3600) 0, works := 0, purchased := 0
      peak := 0, missing := 0, reverse := 0, overRange := 0, quality := s.dc.quality, flags := f } := by
  have hplan : 3600 * (x.sec / 3600 + 1) - x.sec = 3600 := by omega
  rw [intervalAt, hourOf, hplan]

/-- The interval after the second that ends its hour, the peak minute taken. -/
def billedInterval (i : Interval) (s : State) : Interval :=
  { secondInterval i s with peak := Nat.max i.peak ((s.mu.minuteAcc + energyOfSecond s) / 360000000) }

/-- The hour boundary after an integrated second: the interval billed at its planned length, the next one open at the
boundary. -/
structure HourBilled (i : Interval) (s t : State) : Prop where
  store : t.rs = handedTo (.bill (numberedBill (billedInterval i s) i.planned s)) s.rs
  meter : t.mu = { s.mu with
    held := none, worksRem := t.mu.worksRem, purchRem := t.mu.purchRem, minuteAcc := 0
    openInterval := some (intervalAt s.dc.time noFlags s) }
  remainders : t.mu.worksRem = (integrateSecond s).mu.worksRem ∧ t.mu.purchRem = (integrateSecond s).mu.purchRem
  others : t.dc.spanStart = some s.dc.time ∧ t.tie = s.tie

theorem hourBoundary_bills (ho : s.mu.openInterval = some i) (h : CountsFit i s) (hready : StoreReady s.rs)
    (hlen : secondsFrom i.start s.dc.time = i.planned) (hplan : i.planned ≤ 3600) :
    HourBilled i s (hourBoundary (integrateSecond s)) := by
  have hi := integrateSecond_open ho h
  have hopen : (integrateSecond s).mu.openInterval = some (secondInterval i s) := by
    rw [hi]
    rfl
  have hpeak : Nat.max (secondInterval i s).peak ((integrateSecond s).mu.minuteAcc / kwhUnit) =
      Nat.max i.peak ((s.mu.minuteAcc + energyOfSecond s) / 360000000) := by
    rw [(secondInterval_peak i s).1, (integrateSecond_acc ho h).1]
    rfl
  let v := (integrateSecond s).setMu { (integrateSecond s).mu with
    openInterval := some (billedInterval i s), minuteAcc := 0 }
  have hcheck : minuteCheck (integrateSecond s) = v := by
    rw [minuteCheck_open hopen, hpeak]
    rfl
  have hkept := (countSecond_counts s.mu.held i).2.2.2
  have hspan : spanLength 3600 (billedInterval i s).start s.dc.time = i.planned :=
    spanLength_planned ((congrArg (fun p => secondsFrom p s.dc.time) hkept.1).trans hlen) hplan
  have hvtime : v.dc.time = s.dc.time := by simp [v]
  have hvready : StoreReady v.rs := by
    have hrs : v.rs = s.rs := by
      simp only [v, hi]
      rfl
    rw [hrs]
    exact hready
  have hclose : closeIntervalNow v = intervalClosed (billedInterval i s) i.planned v := by
    have hv : v.mu.openInterval = some (billedInterval i s) := rfl
    simp only [closeIntervalNow, hv]
    rw [hvtime, hspan, closeInterval_eq hvready]
  have hboundary : hourBoundary (integrateSecond s) =
      openIntervalAt s.dc.time noFlags (intervalClosed (billedInterval i s) i.planned v) := by
    simp only [hourBoundary, hopen]
    rw [hcheck, hclose]
    exact congrArg (fun x => openIntervalAt x noFlags (intervalClosed (billedInterval i s) i.planned v)) hvtime
  rw [hboundary, openIntervalAt_eq]
  refine ⟨?_, ?_, ⟨rfl, rfl⟩, rfl, ?_⟩
  all_goals simp only [v, hi]
  all_goals rfl

/-- Settles O23. -/
theorem hourBoundaryBillsTheInterval : Obligations.HourBoundaryBillsTheInterval := by
  intro i s hm hr hh hn hsec ho hf hw hp e hworks hpurchased hlen hplan hq hidle hwhole hroom
  let u := (ticked s).setDc { (ticked s).dc with time := nextSecond s.dc.time }
  have hcs : clockSecond (ticked s) = hourBoundary (integrateSecond u) := by
    rw [clockSecond_running (by simpa using hh) (by simpa using hn), advanceTime_town (s := ticked s) hr,
      (ticked_clock s).1, meterSecond_hour hsec]
  have hfit : CountsFit i u := ⟨hf, hw, hp, hworks, hpurchased⟩
  obtain ⟨hrs, hmu, ⟨hwr, hpr⟩, hspan, htie⟩ :=
    hourBoundary_bills (s := u) ho hfit ⟨hq, hidle, hwhole, hroom⟩ hlen hplan
  have hi := integrateSecond_integrates (s := u) ho hfit
  obtain ⟨-, hpurch, hwhole, ⟨hwlt, hplt⟩, -, hmissing, hreverse, hover, hquality, ⟨hstart, hplanned, hband⟩, -⟩ := hi
  rw [← hwr, ← hpr] at hwhole
  rw [← hpr] at hpurch hplt
  rw [← hwr] at hwlt
  have hsynced : u.dc.quality = s.dc.quality := (ticked_clock s).2.2.2.2
  have hbill : numberedBill (billedInterval i u) i.planned u =
      { seq := s.rs.nextSeq, start := i.start, length := i.planned, band := i.band
        quality := lowerQuality i.quality s.dc.quality, works := (secondInterval i u).works
        purchased := (secondInterval i u).purchased, peak := Nat.max i.peak ((s.mu.minuteAcc + e) / 360000000)
        missing := if s.mu.held = none then Nat.min (i.missing + 1) 65535 else i.missing
        reverse := match s.mu.held with
          | none => i.reverse
          | some x => if x.supply ≤ x.return_ then Nat.min (i.reverse + 1) 65535 else i.reverse
        overRange := match s.mu.held with
          | none => i.overRange
          | some x => if x.overRange then Nat.min (i.overRange + 1) 65535 else i.overRange
        flags := i.flags } := by
    simp only [numberedBill, billRecord, lowerInterval, billedInterval, hstart, hband, hquality, hmissing, hreverse,
      hover, (secondInterval_peak i u).2, qualityLowered_twice, hsynced]
    rfl
  have hnext := intervalAt_hour (x := u.dc.time) hsec noFlags u
  rw [hsynced] at hnext
  refine ⟨_, (secondInterval i u).works, (secondInterval i u).purchased, exec_meteringSecond hm, meteringSecond_frame s,
    ?_, ?_, ?_, ?_, ?_, ?_, ?_, ?_⟩
  all_goals rw [hcs]
  · exact hpurch
  · exact hwhole
  · exact hwlt
  · exact hplt
  · rw [hrs]
    exact congrArg (fun r => handedTo (.bill r) s.rs) hbill
  · rw [hmu, hnext]
    rfl
  · exact hspan
  · exact htie

end Sys2Proof.Machine
end

section
/-! A pending step taken at a metering second: the open span flagged, or closed at its own end and a new one opened
(R127, R145, R156). -/

namespace Sys2Proof.Machine

variable {s t u : State} {p : Period} {i : Interval} {f : TimePos}

/-- The second after a step: the value at the step's time, one second on. -/
def secondAfter (u : State) : State := u.setDc { u.dc with time := nextSecond u.dc.time }

theorem clockSecond_ticked_steps (hh : s.dc.hold = none) (hp : s.dc.pendingStep = some f)
    (hspan : ∀ x, s.dc.spanStart = some x → posNumber x ≤ posNumber f) :
    clockSecond (ticked s) = advanceTime (notifyStep (steppedTo f (ticked s))) :=
  clockSecond_steps (by simpa using hh) (by simpa using hp) (by simpa using hspan)

/-! ### The tie -/

theorem advanceTime_tie_plain (hr : u.mc.config.role = some .exportTie) (hsec : (nextSecond u.dc.time).sec % 1800 ≠ 0) :
    advanceTime u = tieSecond false (secondAfter u) := by
  have hb : ((nextSecond u.dc.time).sec % 1800 == 0) = false := by simpa using hsec
  rw [advanceTime_tie hr, hb]
  rfl

/-- A step to the end of the open period or past it closes the period at its own end (R127). -/
theorem tieStep_beyond (h : s.tie.openPeriod = some p) (hready : StoreReady s.rs)
    (hw : posNumber p.start + p.planned ≤ posNumber s.dc.time) :
    tieStep s = openPeriod (periodStart s.dc.time) steppedFlags (emptySlots
      (periodClosed { p with flags := { p.flags with timeStepped := true } } p.planned s)) := by
  have hend : ¬posNumber s.dc.time < periodEnd p := Nat.not_lt.2 hw
  simp only [tieStep, h, if_neg hend, closePeriod_eq hready]
  rfl

/-- What a step past its end leaves of the open period, the second after it counted. -/
structure TieStepped (f : TimePos) (x : SettleRecord) (q : Period) (s t : State) : Prop where
  time : t.dc.time = nextSecond f
  store : t.rs = handedTo (.settle x) s.rs
  next : t.tie.openPeriod = some q
  spanStart : t.dc.spanStart = some q.start
  meter : t.mu = s.mu

/-- The period the step opens, its first second counted. -/
def steppedPeriod (s : State) : Period :=
  countedPeriod (periodAt (periodStart s.dc.time) steppedFlags (emptySlots s))
    (periodAt (periodStart s.dc.time) steppedFlags (emptySlots s)).flags
    (s.setTie { s.tie with mark := false })

theorem steppedPeriod_whole (s : State) :
    (steppedPeriod s).start = ⟨s.dc.time.day, 1800 * (s.dc.time.sec / 1800)⟩ ∧ (steppedPeriod s).planned = 1800 ∧
    (steppedPeriod s).energyE = 0 ∧ (steppedPeriod s).missing = 1 ∧
    (steppedPeriod s).flags =
      { noFlags with timeStepped := true, noSchedule := (steppedPeriod s).flags.noSchedule } := by
  have hplan : 1800 * (1800 * (s.dc.time.sec / 1800) / 1800 + 1) - 1800 * (s.dc.time.sec / 1800) = 1800 := by omega
  exact ⟨rfl, hplan, rfl, rfl, rfl⟩

theorem countedPeriod_congr {flags : RecordFlags} (hm : s.tie.mark = t.tie.mark)
    (hq : s.dc.quality = t.dc.quality) : countedPeriod p flags s = countedPeriod p flags t := by
  rw [countedPeriod, countedPeriod, hm, hq]

theorem tieStep_beyond_parts (h : s.tie.openPeriod = some p) (hready : StoreReady s.rs)
    (hw : posNumber p.start + p.planned ≤ posNumber s.dc.time) :
    (tieStep s).tie.openPeriod = some (periodAt (periodStart s.dc.time) steppedFlags (emptySlots s)) ∧
    (tieStep s).tie.mark = false ∧
    (tieStep s).rs = handedTo (.settle (numberedSettle { p with flags := { p.flags with timeStepped := true } }
      p.planned s)) s.rs ∧
    (tieStep s).dc.spanStart = some (periodStart s.dc.time) ∧ (tieStep s).mu = s.mu := by
  rw [tieStep_beyond h hready hw, openPeriod_eq]
  refine ⟨?_, ?_, ?_, ?_, ?_⟩
  all_goals rfl

theorem tieStep_beyond_counted (h : s.tie.openPeriod = some p) (hready : StoreReady s.rs)
    (hw : posNumber p.start + p.planned ≤ posNumber s.dc.time) :
    TieStepped s.dc.time (numberedSettle { p with flags := { p.flags with timeStepped := true } } p.planned s)
      (steppedPeriod s) s (tieSecond false (secondAfter (tieStep s))) := by
  obtain ⟨hopen, hmark, hrs, hspan, hmu⟩ := tieStep_beyond_parts h hready hw
  rw [tieSecond_open (s := secondAfter (tieStep s)) hopen]
  have htime : (tieStep s).dc.time = s.dc.time := by simp
  refine ⟨congrArg nextSecond htime, hrs, congrArg some ?_, hspan, hmu⟩
  exact countedPeriod_congr hmark (by simp [secondAfter, State.setTie])

/-! ### The meter -/

theorem advanceTime_town_after (hr : u.mc.config.role = some .townheat) :
    advanceTime u = meterSecond (some (nextSecond u.dc.time)) (secondAfter u) := advanceTime_town hr

/-- The interval after a second without a sample. -/
def missedInterval (i : Interval) (s : State) : Interval := { i with
  missing := Nat.min (i.missing + 1) 65535, quality := lowerQuality i.quality s.dc.quality }

/-- Counts and remainders in range, and no sample held. -/
structure Unsampled (i : Interval) (s : State) : Prop where
  held : s.mu.held = none
  worksRem : s.mu.worksRem < 360000000
  purchRem : s.mu.purchRem < 360000000
  works : i.works < 2 ^ 32
  purchased : i.purchased < 2 ^ 32

theorem Unsampled.energy (h : Unsampled i s) : energyOfSecond s = 0 := by
  simp [energyOfSecond, h.held]

theorem Unsampled.fits (h : Unsampled i s) : CountsFit i s := by
  refine ⟨fun hn => absurd h.held hn, h.worksRem, h.purchRem, ?_, ?_⟩
  · rw [h.energy, Nat.add_zero, Nat.div_eq_of_lt h.worksRem]
    exact h.works
  · rw [h.energy, Nat.add_zero, Nat.div_eq_of_lt h.purchRem]
    exact h.purchased

/-- Without a sample nothing is moved: the second is missing. -/
theorem integrateSecond_missed (ho : s.mu.openInterval = some i) (h : Unsampled i s) :
    integrateSecond s = s.setMu { s.mu with openInterval := some (missedInterval i s) } := by
  have hi := integrateSecond_integrates ho h.fits
  have hw := secondInterval_works h.fits
  have hp := secondInterval_purchased h.fits
  have hshare : ∀ x, worksShare 0 x = 0 ∧ purchasedShare 0 x = 0 := fun x => by
    simp [worksShare, purchasedShare]
  have he : secondEnergy s.mu.held = 0 := (secondEnergy_eq s).trans h.energy
  have hdw : s.mu.worksRem / kwhUnit = 0 := Nat.div_eq_of_lt h.worksRem
  have hdp : s.mu.purchRem / kwhUnit = 0 := Nat.div_eq_of_lt h.purchRem
  rw [h.energy, (hshare _).1, Nat.add_zero, hdw, Nat.add_zero] at hw
  rw [h.energy, (hshare _).2, Nat.add_zero, hdp, Nat.add_zero] at hp
  have hsecond : secondInterval i s = missedInterval i s := by
    have hcount : countSecond s.mu.held i = { i with missing := Nat.min (i.missing + 1) 65535 } := by
      rw [h.held]
      rfl
    have hform : secondInterval i s = { countSecond s.mu.held i with
        works := (secondInterval i s).works, purchased := (secondInterval i s).purchased
        quality := lowerQuality i.quality s.dc.quality } := rfl
    rw [hform, hw, hp, hcount]
    rfl
  have hrem : remLeft s.mu.worksRem 0 = s.mu.worksRem ∧ remLeft s.mu.purchRem 0 = s.mu.purchRem :=
    ⟨Nat.mod_eq_of_lt h.worksRem, Nat.mod_eq_of_lt h.purchRem⟩
  have hint : integrated i s.dc.quality 0 s.mu = { s.mu with openInterval := some (missedInterval i s) } := by
    have hform : integrated i s.dc.quality 0 s.mu = { s.mu with
        openInterval := some (secondInterval i s)
        worksRem := remLeft s.mu.worksRem (worksShare (secondEnergy s.mu.held) s.mu.fraction)
        purchRem := remLeft s.mu.purchRem (purchasedShare (secondEnergy s.mu.held) s.mu.fraction)
        minuteAcc := s.mu.minuteAcc + secondEnergy s.mu.held
        held := none } := rfl
    rw [hform, hsecond, he, (hshare _).1, (hshare _).2, hrem.1, hrem.2, ← h.held]
    rfl
  rw [integrateSecond_open ho h.fits, hint]

/-- With the accumulator empty a minute check moves nothing. -/
theorem meterSecond_missed {x : TimePos} (hx : x.sec % 3600 ≠ 0) (ho : s.mu.openInterval = some i)
    (h : Unsampled i s) (hacc : s.mu.minuteAcc = 0) :
    meterSecond (some x) s = s.setMu { s.mu with openInterval := some (missedInterval i s) } := by
  by_cases hm : x.sec % 60 = 0
  · rw [meterSecond_minute hm hx, integrateSecond_missed ho h, minuteCheck_open (i := missedInterval i s) rfl]
    have hpeak : Nat.max (missedInterval i s).peak
        ((s.setMu { s.mu with openInterval := some (missedInterval i s) }).mu.minuteAcc / kwhUnit) =
          (missedInterval i s).peak := by
      have hz : (s.setMu { s.mu with openInterval := some (missedInterval i s) }).mu.minuteAcc = 0 := hacc
      rw [hz, Nat.zero_div]
      exact Nat.max_eq_left (Nat.zero_le _)
    rw [hpeak]
    simp only [State.setMu, hacc]
  · rw [meterSecond_plain hm, integrateSecond_missed ho h]

/-- A step to the end of the open interval or past it closes the interval at its own end (R145). -/
theorem meterStep_beyond (h : s.mu.openInterval = some i) (hready : StoreReady s.rs)
    (hw : posNumber i.start + i.planned ≤ posNumber s.dc.time) :
    meterStep s = openIntervalAt (hourStart s.dc.time) steppedFlags (intervalClosed (steppedInterval i s) i.planned
      (s.setMu { s.mu with openInterval := some (steppedInterval i s), minuteAcc := 0 })) := by
  let v := s.setMu { s.mu with openInterval := some (steppedInterval i s), minuteAcc := 0 }
  have hend : ¬posNumber v.dc.time < intervalEnd (steppedInterval i s) := Nat.not_lt.2 hw
  have hv : flagInterval setStepped (minuteCheck s) = v := by
    rw [minuteCheck_open h]
    rfl
  have hopen : v.mu.openInterval = some (steppedInterval i s) := rfl
  simp only [meterStep, hv, hopen, if_neg hend]
  rw [closeInterval_eq (s := v) hready]
  rfl

theorem hourStart_whole (x : TimePos) : (hourStart x).sec % 3600 = 0 ∧ (hourStart x).sec / 3600 = x.sec / 3600 := by
  simp only [hourStart, hourOf]
  omega

/-! ### The statement -/

/-- A step within the open period: flagged, and the second after it counted. -/
theorem tieStepped_within (hm : s.mc.mode ≠ .loading) (hh : s.dc.hold = none) (hp : s.dc.pendingStep = some f)
    (hspan : ∀ x, s.dc.spanStart = some x → posNumber x ≤ posNumber f) (hr : s.mc.config.role = some .exportTie)
    (ho : s.tie.openPeriod = some p) (hsec : (nextSecond f).sec % 1800 ≠ 0)
    (hw : posNumber f < posNumber p.start + p.planned) :
    ∃ t, exec .meteringSecond s = .next t ∧ SecondFrame s t ∧ t.dc.time = nextSecond f ∧
      t.tie = { s.tie with
        openPeriod := some (countedPeriod p { p.flags with timeStepped := true } s), mark := false
        gap := t.tie.gap } ∧
      t.rs = s.rs ∧ t.mu = s.mu ∧ t.dc.spanStart = s.dc.spanStart := by
  let v := (steppedTo f (ticked s)).setTie { s.tie with
    openPeriod := some { p with flags := { p.flags with timeStepped := true } } }
  have hcs : clockSecond (ticked s) = tieSecond false (secondAfter v) := by
    rw [clockSecond_ticked_steps hh hp hspan, notifyStep_tie (s := steppedTo f (ticked s)) hr,
      tieStep_within (s := steppedTo f (ticked s)) ho hw]
    exact advanceTime_tie_plain (u := v) hr hsec
  have hq : countedPeriod { p with flags := { p.flags with timeStepped := true } }
      { p.flags with timeStepped := true } (secondAfter v) =
      countedPeriod p { p.flags with timeStepped := true } s :=
    countedPeriod_congr (p := { p with flags := { p.flags with timeStepped := true } }) rfl
      (ticked_clock s).2.2.2.2
  refine ⟨_, exec_meteringSecond hm, meteringSecond_frame s, ?_⟩
  rw [hcs, tieSecond_open (s := secondAfter v) (p := { p with flags := { p.flags with timeStepped := true } }) rfl, hq]
  exact ⟨rfl, rfl, rfl, rfl, (ticked_clock s).2.2.2.1⟩

/-- A step past the open period: closed at its own end, a new one opened, and the second after it counted. -/
theorem tieStepped_beyond (hm : s.mc.mode ≠ .loading) (hh : s.dc.hold = none) (hp : s.dc.pendingStep = some f)
    (hspan : ∀ x, s.dc.spanStart = some x → posNumber x ≤ posNumber f) (hr : s.mc.config.role = some .exportTie)
    (ho : s.tie.openPeriod = some p) (hsec : (nextSecond f).sec % 1800 ≠ 0) (hready : StoreReady s.rs)
    (hw : posNumber p.start + p.planned ≤ posNumber f) :
    ∃ t, exec .meteringSecond s = .next t ∧ SecondFrame s t ∧
      TieStepped f (numberedSettle { p with flags := { p.flags with timeStepped := true } } p.planned
        (steppedTo f (ticked s))) (steppedPeriod (steppedTo f (ticked s))) s t := by
  let v := steppedTo f (ticked s)
  have hcs : clockSecond (ticked s) = tieSecond false (secondAfter (tieStep v)) := by
    rw [clockSecond_ticked_steps hh hp hspan, notifyStep_tie (s := steppedTo f (ticked s)) hr]
    refine advanceTime_tie_plain (u := tieStep v) (by simpa [v, steppedTo] using hr) ?_
    have htime : (tieStep v).dc.time = f := by simp [v, steppedTo]
    rw [htime]
    exact hsec
  obtain ⟨ht, hrs, hnext, hss, hmu⟩ := tieStep_beyond_counted (s := v) ho hready hw
  refine ⟨_, exec_meteringSecond hm, meteringSecond_frame s, ?_⟩
  rw [hcs]
  exact ⟨ht, hrs, hnext, hss, hmu⟩

theorem missedInterval_congr (h : s.dc.quality = t.dc.quality) : missedInterval i s = missedInterval i t := by
  rw [missedInterval, missedInterval, h]

/-- A second without a sample that follows a step is that of the stepped meter. -/
theorem clockSecond_ticked_town (hh : s.dc.hold = none) (hp : s.dc.pendingStep = some f)
    (hspan : ∀ x, s.dc.spanStart = some x → posNumber x ≤ posNumber f) (hr : s.mc.config.role = some .townheat) :
    clockSecond (ticked s) =
      meterSecond (some (nextSecond f)) (secondAfter (meterStep (steppedTo f (ticked s)))) := by
  have htime : (meterStep (steppedTo f (ticked s))).dc.time = f := by simp [steppedTo]
  rw [clockSecond_ticked_steps hh hp hspan, notifyStep_town (s := steppedTo f (ticked s)) hr,
    advanceTime_town_after (u := meterStep (steppedTo f (ticked s))) (by simpa [steppedTo] using hr), htime]

/-- A step within the open interval: the minute check, the flag, and the second after it missing. -/
theorem townStepped_within (hm : s.mc.mode ≠ .loading) (hh : s.dc.hold = none) (hp : s.dc.pendingStep = some f)
    (hspan : ∀ x, s.dc.spanStart = some x → posNumber x ≤ posNumber f) (hr : s.mc.config.role = some .townheat)
    (ho : s.mu.openInterval = some i) (hsec : (nextSecond f).sec % 3600 ≠ 0) (hu : Unsampled i s)
    (hw : posNumber f < posNumber i.start + i.planned) :
    ∃ t, exec .meteringSecond s = .next t ∧ SecondFrame s t ∧ t.dc.time = nextSecond f ∧
      t.mu = { s.mu with minuteAcc := 0, openInterval := some (missedInterval (steppedInterval i s) s) } ∧
      t.rs = s.rs ∧ t.tie = s.tie ∧ t.dc.spanStart = s.dc.spanStart := by
  let u := (steppedTo f (ticked s)).setMu { s.mu with minuteAcc := 0, openInterval := some (steppedInterval i s) }
  have hstep : meterStep (steppedTo f (ticked s)) = u := meterStep_within (s := steppedTo f (ticked s)) ho hw
  have hsecond := meterSecond_missed (s := secondAfter u) (i := steppedInterval i s) hsec rfl
    ⟨hu.held, hu.worksRem, hu.purchRem, hu.works, hu.purchased⟩ rfl
  have hquality : missedInterval (steppedInterval i s) (secondAfter u) = missedInterval (steppedInterval i s) s :=
    missedInterval_congr (ticked_clock s).2.2.2.2
  rw [hquality] at hsecond
  refine ⟨_, exec_meteringSecond hm, meteringSecond_frame s, ?_⟩
  rw [clockSecond_ticked_town hh hp hspan hr, hstep, hsecond]
  exact ⟨rfl, rfl, rfl, rfl, (ticked_clock s).2.2.2.1⟩

/-- A step past the open interval: the minute check, the record at the interval's own end, a new interval at the start
of the hour, and the second after it missing. -/
theorem townStepped_beyond (hm : s.mc.mode ≠ .loading) (hh : s.dc.hold = none) (hp : s.dc.pendingStep = some f)
    (hspan : ∀ x, s.dc.spanStart = some x → posNumber x ≤ posNumber f) (hr : s.mc.config.role = some .townheat)
    (ho : s.mu.openInterval = some i) (hsec : (nextSecond f).sec % 3600 ≠ 0) (hu : Unsampled i s)
    (hready : StoreReady s.rs) (hw : posNumber i.start + i.planned ≤ posNumber f) :
    ∃ t, exec .meteringSecond s = .next t ∧ SecondFrame s t ∧ t.dc.time = nextSecond f ∧
      t.rs = handedTo (.bill (numberedBill (steppedInterval i s) i.planned s)) s.rs ∧
      t.mu = { s.mu with
        minuteAcc := 0, openInterval := some (missedInterval (intervalAt (hourStart f) steppedFlags s) s) } ∧
      t.tie = s.tie ∧ t.dc.spanStart = some (hourStart f) := by
  let v := steppedTo f (ticked s)
  let u := openIntervalAt (hourStart f) steppedFlags (intervalClosed (steppedInterval i s) i.planned
    (v.setMu { s.mu with openInterval := some (steppedInterval i s), minuteAcc := 0 }))
  have hsynced : (ticked s).dc.quality = s.dc.quality := (ticked_clock s).2.2.2.2
  have hstep : meterStep v = u := meterStep_beyond (s := v) ho hready hw
  have hopen : u.mu.openInterval = some (intervalAt (hourStart f) steppedFlags s) :=
    congrArg (fun q => some ({ intervalAt (hourStart f) steppedFlags s with quality := q } : Interval)) hsynced
  have hsecond := meterSecond_missed (s := secondAfter u) hsec hopen
    ⟨hu.held, hu.worksRem, hu.purchRem, Nat.two_pow_pos 32, Nat.two_pow_pos 32⟩ rfl
  have hquality : missedInterval (intervalAt (hourStart f) steppedFlags s) (secondAfter u) =
      missedInterval (intervalAt (hourStart f) steppedFlags s) s := missedInterval_congr hsynced
  have hbill : numberedBill (steppedInterval i s) i.planned v = numberedBill (steppedInterval i s) i.planned s := by
    have hlower : lowerInterval (steppedInterval i s) v = lowerInterval (steppedInterval i s) s :=
      congrArg (fun q => ({ steppedInterval i s with quality := lowerQuality i.quality q } : Interval)) hsynced
    rw [numberedBill, hlower]
    rfl
  rw [hquality] at hsecond
  refine ⟨_, exec_meteringSecond hm, meteringSecond_frame s, ?_⟩
  rw [clockSecond_ticked_town hh hp hspan hr, hstep, hsecond]
  exact ⟨rfl, congrArg (fun r => handedTo (.bill r) s.rs) hbill, rfl, rfl, rfl⟩

/-- Settles O26. -/
theorem timeStepsAreAccounted : Obligations.TimeStepsAreAccounted := by
  intro f s hm hh hp hspan hq hidle hwhole hroom handed
  have hready : StoreReady s.rs := ⟨hq, hidle, hwhole, hroom⟩
  have hsynced : (ticked s).dc.quality = s.dc.quality := (ticked_clock s).2.2.2.2
  refine ⟨fun p hr ho hsec => ⟨fun hw => ?_, fun hw => ?_⟩, fun i hr ho hheld hsec hw hpr hworks hpurch => ?_⟩
  · exact tieStepped_within hm hh hp hspan hr ho hsec hw
  · obtain ⟨t, hexec, hframe, ht, hrs, hnext, hss, hmu⟩ := tieStepped_beyond hm hh hp hspan hr ho hsec hready hw
    obtain ⟨hstart, hplan, henergy, hmissing, hflags⟩ := steppedPeriod_whole (steppedTo f (ticked s))
    exact ⟨t, _, _, hexec, hframe, ht, hrs, rfl, rfl, rfl, rfl, rfl, rfl, rfl,
      congrArg (lowerQuality p.quality) hsynced, rfl, hnext, hstart, hplan, henergy, hmissing, hflags, hss, hmu⟩
  · have hu : Unsampled i s := ⟨hheld, hw, hpr, hworks, hpurch⟩
    refine ⟨fun hwithin => townStepped_within hm hh hp hspan hr ho hsec hu hwithin, fun hbeyond => ?_⟩
    obtain ⟨t, hexec, hframe, ht, hrs, hmu, htie, hss⟩ :=
      townStepped_beyond hm hh hp hspan hr ho hsec hu hready hbeyond
    obtain ⟨hwhole, hhour⟩ := hourStart_whole f
    have hnext := intervalAt_hour hwhole steppedFlags s
    rw [hhour] at hnext
    rw [hnext] at hmu
    refine ⟨t, hexec, hframe, ht, hrs, hmu.trans ?_, htie, hss⟩
    have hlow : lowerQuality s.dc.quality s.dc.quality = s.dc.quality := by cases s.dc.quality <;> rfl
    rw [missedInterval, hlow]
    rfl

end Sys2Proof.Machine
end

section
/-! SUPPLY LOW: the open span closed with POWER FAIL, and opened again with PARTIAL START (R125, R128, R146, R179). -/

namespace Sys2Proof.Machine

variable {s : State} {p : Period} {i : Interval}

/-! ### The input -/

theorem exec_supplyLowAsserted (hm : s.mc.mode ≠ .loading) (hlow : s.mc.supplyLow = false) :
    exec .supplyLowAsserted s = .next (tellAsserted (s.setMc { s.mc with supplyLow := true })) := by
  refine congrArg Host.Outcome.next ((effect_supplyLowAsserted (s := s)).trans ?_)
  rw [if_neg (by simp [hlow])]
  exact if_neg hm

theorem exec_supplyLowReleased (hm : s.mc.mode ≠ .loading) (hlow : s.mc.supplyLow = true) :
    exec .supplyLowReleased s = .next (tellReleased (s.setMc { s.mc with supplyLow := false })) := by
  refine congrArg Host.Outcome.next ((effect_supplyLowReleased (s := s)).trans ?_)
  rw [if_pos hlow]
  exact if_neg hm

/-- A role that keeps records is one of the two that account. -/
theorem accountless_of_keptKind (h : keptKind s.mc.config = none) : Accountless s :=
  ⟨fun ht => by simp [keptKind, ht] at h, fun ht => by simp [keptKind, ht] at h⟩

theorem Accountless.tellAsserted (h : Accountless s) : tellAsserted s = s := by
  simp only [Machine.tellAsserted]
  split
  · next hr => exact absurd hr h.1
  · next hr => exact absurd hr h.2
  all_goals rfl

theorem Accountless.tellReleased (h : Accountless s) : tellReleased s = s := by
  simp only [Machine.tellReleased]
  split
  · next hr => exact absurd hr h.1
  · next hr => exact absurd hr h.2
  all_goals rfl

/-- Where nothing accounts, and in LOADING, the input is only noted (R179). -/
theorem supplyLow_noted (h : s.mc.mode = .loading ∨ keptKind s.mc.config = none) :
    exec .supplyLowAsserted s = .next (s.setMc { s.mc with supplyLow := true }) ∧
    exec .supplyLowReleased s = .next (s.setMc { s.mc with supplyLow := false }) := by
  have htold : ∀ b, tellAsserted (s.setMc { s.mc with supplyLow := b }) = s.setMc { s.mc with supplyLow := b } ∧
      tellReleased (s.setMc { s.mc with supplyLow := b }) = s.setMc { s.mc with supplyLow := b } ∨
        s.mc.mode = .loading := by
    intro b
    rcases h with hm | hk
    · exact .inr hm
    · have ha : Accountless (s.setMc { s.mc with supplyLow := b }) := accountless_of_keptKind hk
      exact .inl ⟨ha.tellAsserted, ha.tellReleased⟩
  constructor
  · refine congrArg Host.Outcome.next ((effect_supplyLowAsserted (s := s)).trans ?_)
    split
    · next hlow => rw [← hlow]; rfl
    · split
      · rfl
      · next hm => exact ((htold true).resolve_right hm).1
  · refine congrArg Host.Outcome.next ((effect_supplyLowReleased (s := s)).trans ?_)
    split
    · split
      · rfl
      · next hm => exact ((htold false).resolve_right hm).2
    · next hlow => rw [← Bool.eq_false_of_not_eq_true hlow]; rfl

/-! ### The closes -/

theorem closePeriodNow_eq (h : StoreReady s.rs) (p : Period) :
    closePeriodNow p s = periodClosed p (spanLength 1800 p.start s.dc.time) s := closePeriod_eq h _ _

theorem closeIntervalNow_eq (h : StoreReady s.rs) (ho : s.mu.openInterval = some i) :
    closeIntervalNow s = intervalClosed i (spanLength 3600 i.start s.dc.time) s := by
  simp only [closeIntervalNow, ho, closeInterval_eq h]

theorem tiePowerFail_eq (h : StoreReady s.rs) (ho : s.tie.openPeriod = some p) : tiePowerFail s =
    recomputeGap (periodClosed { p with flags := { p.flags with powerFail := true } }
      (spanLength 1800 p.start s.dc.time) s) := by
  simp only [tiePowerFail, ho, closePeriodNow_eq h]

/-- The open interval checked and flagged, before a close. -/
def flaggedInterval (g : RecordFlags → RecordFlags) (i : Interval) (s : State) : Interval := { i with
  peak := Nat.max i.peak (s.mu.minuteAcc / 360000000), flags := g i.flags }

theorem closeFlagged_eq (g : RecordFlags → RecordFlags) (h : StoreReady s.rs) (ho : s.mu.openInterval = some i) :
    closeIntervalNow (flagInterval g (minuteCheck s)) =
      intervalClosed (flaggedInterval g i s) (spanLength 3600 i.start s.dc.time)
        (s.setMu { s.mu with openInterval := some (flaggedInterval g i s), minuteAcc := 0 }) := by
  have hf : flagInterval g (minuteCheck s) =
      s.setMu { s.mu with openInterval := some (flaggedInterval g i s), minuteAcc := 0 } := by
    rw [minuteCheck_open ho]
    rfl
  rw [hf]
  exact closeIntervalNow_eq (s := s.setMu _) h rfl

theorem meterPowerFail_eq (h : StoreReady s.rs) (ho : s.mu.openInterval = some i) : meterPowerFail s =
    intervalClosed (flaggedInterval setPowerFail i s) (spanLength 3600 i.start s.dc.time)
      (s.setMu { s.mu with openInterval := some (flaggedInterval setPowerFail i s), minuteAcc := 0 }) := by
  simp only [meterPowerFail, ho]
  exact closeFlagged_eq setPowerFail h ho

/-- Settles O52. -/
theorem supplyLowClosesAndOpens : Obligations.SupplyLowClosesAndOpens := by
  refine ⟨fun s h => supplyLow_noted h, fun s hm hlow hq hidle hwhole hroom => ⟨fun p hr ho => ?_, fun i hr ho => ?_⟩,
    fun s hm hlow => ⟨fun hr ho => ?_, fun hr ho => ?_⟩⟩
  · let u := s.setMc { s.mc with supplyLow := true }
    have htell : tellAsserted u = tiePowerFail u := by
      have hu : u.mc.config.role = some .exportTie := hr
      simp only [tellAsserted, hu]
    rw [exec_supplyLowAsserted hm hlow, htell, tiePowerFail_eq (s := u) ⟨hq, hidle, hwhole, hroom⟩ ho]
    refine ⟨_, _, rfl, rfl, rfl, rfl, rfl, rfl, rfl, rfl, rfl, fun hlen => ?_⟩
    have hspan : spanLength 1800 p.start u.dc.time = secondsFrom p.start s.dc.time := spanLength_planned rfl hlen
    exact ⟨hspan, congrArg (fun n => p.commitment * n / 36) hspan⟩
  · let u := s.setMc { s.mc with supplyLow := true }
    have htell : tellAsserted u = meterPowerFail u := by
      have hu : u.mc.config.role = some .townheat := hr
      simp only [tellAsserted, hu]
    rw [exec_supplyLowAsserted hm hlow, htell, meterPowerFail_eq (s := u) ⟨hq, hidle, hwhole, hroom⟩ ho]
    exact ⟨_, _, rfl, rfl, rfl, rfl, rfl, rfl, rfl, rfl, rfl, rfl, rfl, rfl, rfl,
      fun hlen => spanLength_planned rfl hlen⟩
  · let u := s.setMc { s.mc with supplyLow := false }
    have htell : tellReleased u = openPeriod s.dc.time partialStart u := by
      have hu : u.mc.config.role = some .exportTie := hr
      have hn : u.tie.openPeriod = none := ho
      simp only [tellReleased, hu, tieSupplyBack, hn]
      rfl
    rw [exec_supplyLowReleased hm hlow, htell, openPeriod_eq]
    exact ⟨_, _, rfl, rfl, rfl, rfl, rfl, rfl, rfl, rfl, rfl, rfl, rfl⟩
  · let u := s.setMc { s.mc with supplyLow := false }
    have htell : tellReleased u = openIntervalAt s.dc.time partialStart u := by
      have hu : u.mc.config.role = some .townheat := hr
      have hn : u.mu.openInterval = none := ho
      simp only [tellReleased, hu, meterSupplyBack, hn]
      rfl
    rw [exec_supplyLowReleased hm hlow, htell, openIntervalAt_eq]
    exact ⟨_, _, rfl, rfl, rfl, rfl, rfl, rfl, rfl, rfl, rfl, rfl⟩

end Sys2Proof.Machine
end

section
/-! NODE STATUS: what its timer sends (R54, R74, R89, R105, R118, R132, R134, R150, R159, R169, R170). -/

namespace Sys2Proof.Machine

variable {s : State}

theorem exec_nodeStatusTimer (h : s.fp.statusTimer = some 0) :
    exec .nodeStatusTimer s = .next (statusAtEntry s) :=
  congrArg Host.Outcome.next ((effect_nodeStatusTimer (s := s)).trans (if_pos (expired_iff.2 h)))

/-- The share of a main that is computed names the main. -/
theorem computedMains_shown (s : State) :
    ((computedMains s.mc.config).map (shareStatus s)).map ShareStatus.main = computedMains s.mc.config := by
  rw [List.map_map]
  exact List.map_id _

/-- The action a ladder has in flight, as reported (R105). -/
theorem actionInFlight_eq (x : Ladder) : actionInFlight x = match x.state with
    | .stepping => some (x.taken - 1, false)
    | .undoInFlight => some (x.taken, true)
    | _ => none := by
  rw [actionInFlight]
  cases x.state <;> rfl

/-- A line as it stands (R89). -/
theorem lineStatus_eq (s : State) (l : ClaimLine) : lineStatus s l =
    ⟨(s.cu.get l).own, decide ((s.cu.get l).sources ≠ []), (s.cu.get l).sources.length,
      (s.mc.config.lines.get l).masked, (s.cu.get l).pending⟩ := by
  have hor : orAsserted l s = decide ((s.cu.get l).sources ≠ []) := by
    rw [orAsserted]
    cases (s.cu.get l).sources <;> rfl
  rw [lineStatus, hor]

/-- A ladder as it stands (R105). -/
theorem ladderStatus_eq (s : State) (l : ClaimLine) : ladderStatus s l =
    ⟨(s.rl.get l).state, (s.rl.get l).taken, (s.mc.config.lines.get l).steps.length,
      (match (s.rl.get l).state with
        | .stepping => some ((s.rl.get l).taken - 1, false)
        | .undoInFlight => some ((s.rl.get l).taken, true)
        | _ => none),
      (s.rl.get l).dwell, (s.rl.get l).outcome, (s.mc.config.lines.get l).steps.map Step.replaced⟩ := by
  rw [ladderStatus, actionInFlight_eq]
  rfl

/-- The boiler's fuel as it stands (R118). -/
theorem fuelStatusOf_eq (s : State) : fuelStatusOf s = ⟨s.fu.mode, s.fu.lastReported,
    s.fu.flight.map fun x => (x.target, x.timer), s.fu.recorded.map RecordedTarget.target,
    ((s.fu.flight.map Changeover.joined).getD []).length,
    ((s.fu.recorded.map RecordedTarget.waiting).getD []).length⟩ := by
  rw [fuelStatusOf]
  cases s.fu.flight <;> cases s.fu.recorded <;> rfl

theorem entryCount_eq (x : Option DaySchedule) : entryCount x = match x with
    | some d => (d.entries.filter Option.isSome).length
    | none => 0 := by
  cases x <;> rfl

/-- The open period as the tie reports it (R132). -/
theorem tieStatus_open {p : Period} (h : s.tie.openPeriod = some p) :
    (tieStatus s).start = some p.start ∧ (tieStatus s).planned = p.planned ∧
    (tieStatus s).commitment = p.commitment ∧ (tieStatus s).energyC = p.energyC ∧
    (tieStatus s).energyE = p.energyE ∧ (tieStatus s).missing = p.missing ∧ (tieStatus s).flags = some p.flags := by
  simp [tieStatus, h]

theorem tieStatus_closed (h : s.tie.openPeriod = none) :
    (tieStatus s).start = none ∧ (tieStatus s).planned = 0 ∧ (tieStatus s).commitment = 0 ∧
    (tieStatus s).energyC = 0 ∧ (tieStatus s).energyE = 0 ∧ (tieStatus s).missing = 0 ∧
    (tieStatus s).flags = none := by
  simp [tieStatus, h]

theorem onlyRole_same {α : Type} {r : Role} (x : α) (h : s.mc.config.role = some r) :
    onlyRole r x s = some x := if_pos h

theorem onlyRole_other {α : Type} {r : Role} (x : α) (h : s.mc.config.role ≠ some r) :
    onlyRole r x s = none := if_neg h

/-- Settles O47. -/
theorem nodeStatusShowsTheBlocks : Obligations.NodeStatusShowsTheBlocks := by
  intro s htimer c slotShown given
  let u := s.setFp { s.fp with statusTimer := some 10 }
  refine ⟨nodeStatus u, exec_nodeStatusTimer htimer, ⟨rfl, rfl, rfl, rfl, rfl, rfl, rfl, rfl⟩, ⟨?_, fun x hx => ?_⟩,
    fun l => ⟨?_, ?_⟩, fun hr => ?_, fun hr => ?_, fun hr => ?_, fun hr => ?_, fun hr => ?_,
    ⟨fun hr => ?_, fun hr => ?_, fun hr => ?_, fun hr => ?_, fun hr => ?_⟩, rfl, rfl⟩
  · exact computedMains_shown u
  · obtain ⟨m, -, rfl⟩ := List.mem_map.1 hx
    exact ⟨rfl, rfl⟩
  · exact (Six.get_build _ l).trans (lineStatus_eq u l)
  · exact (Six.get_build _ l).trans (ladderStatus_eq u l)
  · exact onlyRole_same (s := u) _ hr
  · exact (onlyRole_same (s := u) _ hr).trans (congrArg some (fuelStatusOf_eq u))
  · refine ⟨_, onlyRole_same (s := u) _ hr, rfl, ?_, ?_, rfl, rfl, fun p hp => ?_, fun hn => ?_⟩
    · exact entryCount_eq _
    · exact entryCount_eq _
    · exact tieStatus_open (s := u) hp
    · exact tieStatus_closed (s := u) hn
  · exact onlyRole_same (s := u) _ hr
  · exact onlyRole_same (s := u) _ hr
  · exact onlyRole_other (s := u) _ hr
  · exact onlyRole_other (s := u) _ hr
  · exact onlyRole_other (s := u) _ hr
  · exact onlyRole_other (s := u) _ hr
  · exact onlyRole_other (s := u) _ hr

end Sys2Proof.Machine
end

section
/-! Wake causes and standby requests: what latches, what wakes, and a waiting request taking effect (R15, R17, R57, R59,
R88, R170, R175 to R177). -/

namespace Sys2Proof.Machine

variable {s t u : State}

/-! ### The latch -/

/-- A latch that is not empty holds a cause. -/
theorem latch_holds_iff (x : WakeLatch) :
    x ≠ ⟨false, false, Six.all false⟩ ↔ (x.wakeFrame || x.resume || anyRise x.claimRise) = true := by
  obtain ⟨a, b, ⟨c, d, e, f, g, h⟩⟩ := x
  rw [← not_iff_not, not_not]
  simp [anyRise, Six.all, and_assoc]

/-- In STANDBY-LISTEN any latched cause wakes the station to ACTIVE (R177). -/
theorem actOnLatch_listen (hm : s.mc.mode = .standbyListen) :
    (s.mc.latch ≠ ⟨false, false, Six.all false⟩ → EntersActive s (actOnLatch s)) ∧
    (¬s.mc.latch ≠ ⟨false, false, Six.all false⟩ → actOnLatch s = s) := by
  rw [latch_holds_iff, actOnLatch, hm]
  constructor
  · intro h
    simp only [h, if_true]
    exact enterActive_enters s
  · intro h
    simp only [h, if_false, Bool.false_eq_true]

/-- In STANDBY-DEEP a latched WAKE FRAME or RESUME wakes it to LISTEN-IN (R177). -/
theorem actOnLatch_deep (hm : s.mc.mode = .standbyDeep) :
    ((s.mc.latch.wakeFrame = true ∨ s.mc.latch.resume = true) → EntersListenIn s (actOnLatch s)) ∧
    (¬(s.mc.latch.wakeFrame = true ∨ s.mc.latch.resume = true) → actOnLatch s = s) := by
  rw [← Bool.or_eq_true, actOnLatch, hm]
  constructor
  · intro h
    simp only [h, if_true]
    exact enterListenIn_enters s
  · intro h
    simp only [h, if_false, Bool.false_eq_true]

/-- A cause that reaches the latch in standby wakes the station, a CLAIM RISE from STANDBY-LISTEN alone (R177). -/
theorem latchCause_wakes (x : WakeCause) (hx : x = .wakeFrame ∨ x = .resume) :
    let v := s.setMc { s.mc with latch := latched x s.mc.latch }
    (s.mc.mode = .standbyListen → EntersActive v (latchCause x s)) ∧
    (s.mc.mode = .standbyDeep → EntersListenIn v (latchCause x s)) := by
  intro v
  have hlatch : v.mc.latch.wakeFrame = true ∨ v.mc.latch.resume = true :=
    hx.imp (fun h => by rw [show v.mc.latch = latched x s.mc.latch from rfl, h]; rfl)
      (fun h => by rw [show v.mc.latch = latched x s.mc.latch from rfl, h]; rfl)
  have hcause : s.mc.mode ≠ .loading → s.mc.mode ≠ .listenOnly → latchCause x s = actOnLatch v := fun hl ho =>
    if_neg (by simp [hl, ho])
  refine ⟨fun hm => ?_, fun hm => ?_⟩
  · rw [hcause (by rw [hm]; decide) (by rw [hm]; decide)]
    refine (actOnLatch_listen (s := v) hm).1 ((latch_holds_iff _).2 ?_)
    rcases hlatch with h | h <;> simp [h]
  · rw [hcause (by rw [hm]; decide) (by rw [hm]; decide)]
    exact (actOnLatch_deep (s := v) hm).1 hlatch

/-! ### RESUME and WAKE -/

theorem exec_resume (hm : s.mc.mode ≠ .loading) (hr : s.mc.config.role ≠ none) :
    exec .resume s = .next (latchCause .resume (linkRestored s)) :=
  congrArg Host.Outcome.next ((effect_resume (s := s)).trans
    (fieldMessage_taken hm (Option.isSome_iff_ne_none.2 hr)))

theorem exec_wakeDelivered {f : Frame} {rest : List Frame} (hrx : s.liu.rx = f :: rest) (hk : f.kind = .wake)
    (hw : wakeMatches f.payload s = true) : exec .wakeDelivered s = .next (latchCause .wakeFrame (takeHead s)) := by
  refine congrArg Host.Outcome.next ((effect_wakeDelivered (s := s)).trans ?_)
  simp only [headOf, hrx, hk, hw, if_true]

/-- Settles O49. -/
theorem wakeCausesLatchAndWake : Obligations.WakeCausesLatchAndWake := by
  intro s hr
  have htake : ∀ f rest, s.liu.rx = f :: rest → takeHead s = { s with liu := { s.liu with rx := rest } } := by
    intro f rest hrx
    rw [takeHead, hrx]
    rfl
  refine ⟨fun hm => ?_, fun c u hcause => ?_⟩
  · have hload : s.mc.mode ≠ .loading := by rcases hm with h | h | h <;> rw [h] <;> decide
    refine ⟨(exec_resume hload hr).trans (congrArg _ (latchCause_awake (s := linkRestored s) .resume hm)),
      fun f rest hrx hk hw => ?_⟩
    rw [exec_wakeDelivered hrx hk hw, htake f rest hrx]
    exact congrArg _ (latchCause_awake (s := { s with liu := { s.liu with rx := rest } }) .wakeFrame hm)
  · rcases hcause with ⟨rfl, rfl⟩ | ⟨rfl, f, rest, hrx, hk, hw, rfl⟩
    · obtain ⟨hlisten, hdeep⟩ := latchCause_wakes (s := linkRestored s) .resume (.inr rfl)
      exact ⟨fun hm => ⟨_, exec_resume (by rw [hm]; decide) hr, hlisten hm⟩,
        fun hm => ⟨_, exec_resume (by rw [hm]; decide) hr, hdeep hm⟩⟩
    · have hex := exec_wakeDelivered hrx hk hw
      rw [htake f rest hrx] at hex
      obtain ⟨hlisten, hdeep⟩ :=
        latchCause_wakes (s := { s with liu := { s.liu with rx := rest } }) .wakeFrame (.inl rfl)
      exact ⟨fun hm => ⟨_, hex, hlisten hm⟩, fun hm => ⟨_, hex, hdeep hm⟩⟩

/-! ### Standby requests -/

theorem expires_takes {r : StandbyRequest} (htimer : s.se.roundTimer = some 0)
    (hm : s.mc.mode = .active ∨ s.mc.mode = .standbyListen) (hwait : s.mc.waitingRequest = some r) :
    exec .roundExpiry s =
      .next (takeEffect r { s with se := { s.se with roundTimer := some s.mc.config.period } }) := by
  rw [exec_roundExpiry htimer, roundExpires]
  rcases hm with hm | hm <;> simp only [hm, hwait]

theorem DeepStandbyEntered.of_timer {clear : Bool} {x : Timer}
    (h : DeepStandbyEntered clear (s.setSe { s.se with roundTimer := x }) u) : DeepStandbyEntered clear s u :=
  ⟨h.modes, h.line, h.allWaiting, h.oneSending, h.share, h.results, h.lines, h.ladders, h.fuel, h.port, h.others⟩

/-- A STANDBY REQUEST by mode, at a role that takes it (R175). -/
theorem takeStandbyRequest_eq (level : StandbyLevel) (clear : Bool) (hl : s.mc.mode ≠ .loading)
    (ho : s.mc.mode ≠ .listenOnly) : takeStandbyRequest level clear s = s.setMc { s.mc with
      waitingRequest :=
        if refusesStandby s.mc.config = true ∨ s.mc.mode = .leaving then s.mc.waitingRequest
        else if s.mc.mode = .active ∨ s.mc.mode = .listenIn ∨ (s.mc.mode = .standbyListen ∧ level = .deep)
        then some ⟨level, clear⟩ else s.mc.waitingRequest
      lastStandby :=
        if refusesStandby s.mc.config = true ∨ s.mc.mode = .leaving then .refused
        else if s.mc.mode = .active ∨ s.mc.mode = .listenIn ∨ (s.mc.mode = .standbyListen ∧ level = .deep)
        then .waiting else .taken } := by
  by_cases hr : refusesStandby s.mc.config = true
  · rw [takeStandbyRequest, if_pos hr, if_pos (.inl hr), if_pos (.inl hr)]
    rfl
  · rw [takeStandbyRequest, if_neg hr]
    cases hm : s.mc.mode with
    | loading => exact absurd hm hl
    | listenOnly => exact absurd hm ho
    | leaving => simp [standbyOutcome]
    | active => simp [hr, requestWaits]
    | listenIn => simp [hr, requestWaits]
    | standbyDeep => simp [hr, standbyOutcome]
    | standbyListen => by_cases hd : level = .deep <;> simp [hr, hd, requestWaits, standbyOutcome]

theorem refusesStandby_iff {r : Role} (h : s.mc.config.role = some r) :
    refusesStandby s.mc.config = true ↔ r ∈ [Role.holder, .townheat, .exportTie] := by
  simp [refusesStandby, h, or_assoc]

/-- Settles O48. -/
theorem standbyRequestsWaitAndTakeEffect : Obligations.StandbyRequestsWaitAndTakeEffect := by
  refine ⟨fun level clear r s hr hl ho => ?_, fun r s htimer hm hwait => ?_⟩
  · have htake := takeStandbyRequest_eq (s := linkRestored s) level clear hl ho
    rw [show (linkRestored s).mc.config = s.mc.config from rfl] at htake
    simp only [refusesStandby_iff hr] at htake
    exact (congrArg Host.Outcome.next ((effect_standbyRequest (s := s) level clear).trans
      (fieldMessage_taken hl (by simp [roleUses, hr])))).trans (congrArg Host.Outcome.next htake)
  · intro wakesDeep wakesListen
    let v := s.setSe { s.se with roundTimer := some s.mc.config.period }
    have hex : exec .roundExpiry s = .next (takeEffect r v) := expires_takes htimer hm hwait
    refine ⟨fun hlevel => ?_, fun hlevel => ?_⟩
    · have hentered := (deepStandby_entered r v).of_timer
      have heffect : takeEffect r v =
          actOnLatch (statusAtEntry (requestTaken (enterStandbyDeep (clearIfAsked r v)))) := by
        rw [takeEffect, hlevel]
        rfl
      rw [heffect] at hex
      generalize statusAtEntry (requestTaken (enterStandbyDeep (clearIfAsked r v))) = u at hex hentered
      have hmodes := hentered.modes
      have hwakes : wakesDeep ↔ (u.mc.latch.wakeFrame = true ∨ u.mc.latch.resume = true) := by
        rw [hmodes, standbyTaken]
        cases hc : r.clearWake <;> simp [wakesDeep, hc]
      obtain ⟨hin, hstay⟩ := actOnLatch_deep (s := u) (by rw [hmodes]; rfl)
      refine ⟨u, hentered, fun hn => ?_, fun hw => ⟨_, hex, hin (hwakes.1 hw)⟩⟩
      rw [hex, hstay fun h => hn (hwakes.2 h)]
    · have hentered := listenStandby_entered r s
      have heffect : takeEffect r v = actOnLatch (runRound (requestTaken (enterStandbyListen (clearIfAsked r v)))) := by
        rw [takeEffect, hlevel]
      rw [heffect] at hex
      change exec .roundExpiry s = .next (actOnLatch (runRound (requestTaken (enterStandbyListen (clearIfAsked r
        (s.setSe { s.se with roundTimer := some s.mc.config.period })))))) at hex
      generalize runRound (requestTaken (enterStandbyListen (clearIfAsked r
        (s.setSe { s.se with roundTimer := some s.mc.config.period })))) = u at hex hentered
      have hmodes := hentered.modes
      have hwakes : wakesListen ↔ u.mc.latch ≠ ⟨false, false, Six.all false⟩ := by
        rw [hmodes, standbyTaken]
        cases hc : r.clearWake <;> simp [wakesListen, hc]
      obtain ⟨hin, hstay⟩ := actOnLatch_listen (s := u) (by rw [hmodes]; rfl)
      refine ⟨u, hentered, fun hn => ?_, fun hw => ⟨_, hex, hin (hwakes.1 hw)⟩⟩
      rw [hex, hstay fun h => hn (hwakes.2 h)]

end Sys2Proof.Machine
end

section
/-! Entry to LEAVING: what the entry does to the modes, the share, the claims, the transmit queue and the messages, and
the spans it closes SHORT (R17, R52, R57, R128, R146, R164, R178). -/

namespace Sys2Proof.Machine

variable {s t x y : State} {p : Period} {i : Interval}

/-! ### Claims released in fallback -/

theorem releaseAll_undoKeeps (ls : List ClaimLine) : ∀ {y : State}, y.se.fallback = true →
    UndoKeeps y (releaseAll ls y) := by
  induction ls with
  | nil => exact fun _ => .refl _
  | cons l ls ih =>
    intro y h
    exact (releaseOwn_keeps l h).trans (ih (by simpa using h))

/-- Claims released, line by line: the lines named are no longer own, the others stand, and of no set but the own number
is taken. -/
structure LinesReleased (ls : List ClaimLine) (x y : State) : Prop where
  free : ∀ l ∈ ls, (y.cu.get l).own = false
  kept : ∀ l, (x.cu.get l).own = false → (y.cu.get l).own = false
  others : ∀ l, l ∉ ls → y.cu.get l = x.cu.get l
  sources : ∀ l n, n ≠ x.mc.node.val → (n ∈ (y.cu.get l).sources ↔ n ∈ (x.cu.get l).sources)
  node : y.mc.node = x.mc.node

theorem releaseOwn_released (l : ClaimLine) (y : State) : LinesReleased [l] y (releaseOwn l y) := by
  refine ⟨fun k hk => ?_, fun k hk => ?_, fun k hk => ?_, fun k n hn => ?_, by simp⟩
  · obtain rfl := List.mem_singleton.1 hk
    rw [releaseOwn_line]
    split
    · rfl
    · next h => simpa using h
  · rw [releaseOwn_line]
    split
    · rfl
    · exact hk
  · rw [releaseOwn_line, if_neg fun h => hk (List.mem_singleton.2 h.1)]
  · rw [releaseOwn_line]
    split
    · next h =>
      obtain ⟨rfl, -⟩ := h
      simp [hn]
    · exact Iff.rfl

theorem LinesReleased.trans {ls ks : List ClaimLine} (h : LinesReleased ls s x) (g : LinesReleased ks x y) :
    LinesReleased (ls ++ ks) s y where
  free l hl := (List.mem_append.1 hl).elim (fun hs => g.kept l (h.free l hs)) (g.free l)
  kept l hl := g.kept l (h.kept l hl)
  others l hl := by
    rw [List.mem_append, not_or] at hl
    rw [g.others l hl.2, h.others l hl.1]
  sources l n hn := (g.sources l n (h.node ▸ hn)).trans (h.sources l n hn)
  node := g.node.trans h.node

theorem releaseAll_released (ls : List ClaimLine) : ∀ y : State, LinesReleased ls y (releaseAll ls y) := by
  induction ls with
  | nil => exact fun y => ⟨nofun, fun _ h => h, fun _ _ => rfl, fun _ _ _ => Iff.rfl, rfl⟩
  | cons l ls ih => exact fun y => (releaseOwn_released l y).trans (ih _)

/-! ### The transmit queue under a release -/

/-- What a request for a place leaves in the queue was there, or is the new entry. -/
theorem mem_placeEntry {b : TxBody} {tx : List TxEntry} {e : TxEntry} (he : e ∈ placeEntry b tx) :
    e ∈ tx ∨ e = newEntry b := by
  simp only [placeEntry, placeFull] at he
  split at he
  · exact (List.mem_append.1 he).imp_right List.mem_singleton.1
  · split at he
    · exact .inl he
    · split at he
      · exact .inl he
      · exact (List.mem_append.1 he).imp ((sublist_removeFirst _ _).subset ·) List.mem_singleton.1

/-- What a CLAIM request leaves in the queue was there, or is a CLAIM. -/
theorem mem_enqueueClaim {l : ClaimLine} {g : Edge} {e : TxEntry} (h : e ∈ (enqueue (.claim l g) s).liu.tx) :
    e ∈ s.liu.tx ∨ bodyKind e.body = .claim := by
  have hplace : e ∈ placeEntry (.claim l g) s.liu.tx → e ∈ s.liu.tx ∨ bodyKind e.body = .claim := fun he =>
    (mem_placeEntry he).imp_right fun hn => by rw [hn]; rfl
  simp only [enqueue] at h
  split at h
  · simp only [enqueueClaim] at h
    split at h
    · exact hplace h
    · split at h
      · exact .inl ((sublist_removeFirst _ _).subset h)
      · rcases mem_changeFirst h with hm | ⟨_, -, -, rfl⟩
        · refine .inl ?_
          simpa [survivorDrawn, apply_ite State.liu] using hm
        · exact .inr rfl
  · exact .inl h

theorem mem_removeFirst_of_not {α : Type} {q : α → Bool} {l : List α} {e : α} (h : e ∈ l) (hq : q e = false) :
    e ∈ removeFirst q l := by
  induction l with
  | nil => exact h
  | cons a l ih =>
    rw [removeFirst]
    rcases List.mem_cons.1 h with rfl | hm
    · simp [hq]
    · split
      · exact hm
      · exact List.mem_cons_of_mem _ (ih hm)

theorem mem_changeFirst_of_not {α : Type} {q : α → Bool} {f : α → α} {l : List α} {e : α} (h : e ∈ l)
    (hq : q e = false) : e ∈ changeFirst q f l := by
  induction l with
  | nil => exact h
  | cons a l ih =>
    rw [changeFirst]
    rcases List.mem_cons.1 h with rfl | hm
    · simp [hq]
    · split
      · exact List.mem_cons_of_mem _ hm
      · exact List.mem_cons_of_mem _ (ih hm)

/-- A CLAIM request to a queue with room leaves an entry that is no CLAIM. -/
theorem enqueueClaim_leaves {l : ClaimLine} {g : Edge} {e : TxEntry} (he : e ∈ s.liu.tx)
    (hk : bodyKind e.body ≠ .claim) (hl : s.liu.tx.length < 4) : e ∈ (enqueue (.claim l g) s).liu.tx ∧
      (enqueue (.claim l g) s).liu.tx.length ≤ s.liu.tx.length + 1 := by
  have hno : (isWaiting e && claimsLine l e.body) = false := by
    cases hb : e.body with
    | claim k h => exact absurd (by rw [hb]; rfl) hk
    | _ => simp [claimsLine]
  simp only [enqueue]
  split
  · simp only [enqueueClaim]
    split
    · simp only [placeEntry, if_pos hl, setLiu_liu]
      exact ⟨List.mem_append_left _ he, by simp⟩
    · split
      · exact ⟨mem_removeFirst_of_not he hno, Nat.le_succ_of_le (sublist_removeFirst _ _).length_le⟩
      · have hdrawn : ∀ n, (survivorDrawn n s).liu = s.liu := fun n => by
          simp only [survivorDrawn]
          split <;> rfl
        simp only [setLiu_liu, hdrawn]
        exact ⟨mem_changeFirst_of_not he hno, by simp⟩
  · exact ⟨he, Nat.le_succ _⟩

/-- A release of a claim asks for its CLAIM in a state with the queue and the mode as they stand, or for nothing. -/
theorem releaseOwn_asks (l : ClaimLine) (y : State) : (releaseOwn l y).liu.tx = y.liu.tx ∨
    ∃ z : State, z.liu = y.liu ∧ (releaseOwn l y).liu.tx = (enqueue (.claim l .release) z).liu.tx := by
  simp only [releaseOwn, releaseOwnWith]
  split
  · refine .inr ⟨_, ?_, rfl⟩
    simp only [clearBitWith]
    (repeat' split) <;> simp [fall]
  · exact .inl rfl

theorem mem_releaseAll (ls : List ClaimLine) {e : TxEntry} : ∀ {y : State}, e ∈ (releaseAll ls y).liu.tx →
    e ∈ y.liu.tx ∨ bodyKind e.body = .claim := by
  induction ls with
  | nil => exact fun h => .inl h
  | cons l ls ih =>
    intro y h
    rcases ih h with h | h
    · rcases releaseOwn_asks l y with hq | ⟨z, hz, hq⟩
      · exact .inl (hq ▸ h)
      · rw [hq] at h
        exact (mem_enqueueClaim h).imp_left fun hm => hz ▸ hm
    · exact .inr h

theorem releaseAll_leaves (ls : List ClaimLine) {e : TxEntry} (hk : bodyKind e.body ≠ .claim) : ∀ {y : State},
    e ∈ y.liu.tx → y.liu.tx.length + ls.length ≤ 4 → e ∈ (releaseAll ls y).liu.tx ∧
      (releaseAll ls y).liu.tx.length ≤ y.liu.tx.length + ls.length := by
  induction ls with
  | nil => exact fun h _ => ⟨h, Nat.le_refl _⟩
  | cons l ls ih =>
    intro y he hl
    rw [List.length_cons] at hl
    have hstep : e ∈ (releaseOwn l y).liu.tx ∧ (releaseOwn l y).liu.tx.length ≤ y.liu.tx.length + 1 := by
      rcases releaseOwn_asks l y with hq | ⟨z, hz, hq⟩
      · rw [hq]
        exact ⟨he, Nat.le_succ _⟩
      · rw [hq, ← hz]
        rw [← hz] at he
        exact enqueueClaim_leaves he hk (by rw [hz]; omega)
    obtain ⟨hm, hlen⟩ := ih hstep.1 (by omega)
    have hlength : (releaseAll ls (releaseOwn l y)).liu.tx.length ≤ y.liu.tx.length + (ls.length + 1) := by omega
    exact ⟨hm, hlength⟩

/-! ### The queue at the entry (R17) -/

/-- The entry to LEAVING leaves no HELLO and no STATE that waits, and lets one being sent not be retried. -/
theorem lineLeaves_settled {e : TxEntry} (h : e ∈ (lineLeaves s).liu.tx) :
    bodyKind e.body = .hello ∨ bodyKind e.body = .state → e.sending ≠ none ∧ e.noRetry = true := by
  have hgone : ∀ b : TxBody, bodyKind b = .hello ∨ bodyKind b = .state → (isHello b || isState b) = true := by
    intro b hb
    cases b <;> simp [bodyKind] at hb <;> rfl
  have hleft : e ∈ queueLeft (fun b => isHello b || isState b) s.liu.tx ∨ e.body = .leave .resetWarning := by
    simp only [lineLeaves, enqueue] at h
    split at h
    · exact (mem_placeEntry h).imp_right fun hn => by rw [hn]; rfl
    · exact .inl h
  intro hb
  rcases hleft with hl | hl
  · rw [queueLeft, List.mem_map] at hl
    obtain ⟨a, ha, rfl⟩ := hl
    obtain ⟨-, hw⟩ := List.mem_filter.1 ha
    have hbody : bodyKind a.body = .hello ∨ bodyKind a.body = .state := by
      split at hb <;> exact hb
    have hg := hgone a.body hbody
    rw [if_pos hg]
    rw [hg, Bool.and_true, Bool.not_eq_true', isWaiting, Option.isNone_eq_false_iff] at hw
    exact ⟨Option.ne_none_iff_isSome.2 hw, rfl⟩
  · rw [hl] at hb
    simp [bodyKind] at hb

/-! ### The entry to LEAVING (R178) -/

theorem holderLines_length (c : StationConfig) : (engineLines c ++ holderLines c).length ≤ 2 := by
  simp only [engineLines, holderLines, wantMain]
  (repeat' split) <;> simp_all

/-- The entry by its blocks before the claims are released: the modes, the LIU, the round timer, the fallback. -/
def leavingBegun (s : State) : State :=
  let t := lineLeaves (s.setMc { s.mc with warning := true, waitingRequest := none, mode := .leaving })
  t.setSe { t.se with roundTimer := none, fallback := true, shortfallCount := 0, excessCount := 0 }

/-- The claims the entry releases, in turn. -/
def leavingLines (c : StationConfig) : List ClaimLine := engineLines c ++ holderLines c

theorem releaseAll_append (ls ks : List ClaimLine) : ∀ y : State,
    releaseAll (ls ++ ks) y = releaseAll ks (releaseAll ls y) := by
  induction ls with
  | nil => exact fun _ => rfl
  | cons l ls ih => exact fun y => ih _

theorem enterLeaving_eq (s : State) : enterLeaving s =
    rebuildWant (enterFallback (releaseAll (leavingLines s.mc.config) (leavingBegun s))) := by
  have hconf : ∀ y : State, (engineReleases y).mc.config = y.mc.config := fun y => by simp
  rw [leavingLines, releaseAll_append]
  simp only [enterLeaving, hconf]
  simp only [engineReleases, leavingBegun, lineLeaves_frame, setSe_mc, setMc_mc]
  rfl

/-- What an entry to LEAVING does, `s` the state before it and `t` after (R17, R52, R57, R178). -/
structure LeavingEntered (s t : State) : Prop where
  modes : t.mc = { s.mc with warning := true, waitingRequest := none, mode := .leaving }
  share : t.se.roundTimer = none ∧ t.se.fallback = true ∧ t.se.shortfallCount = 0 ∧ t.se.excessCount = 0
  output : wantMain s.mc.config ≠ none → t.se.setpoint = s.mc.config.fallbackSetpoint
  port : t.fp = { s.fp with out := t.fp.out }
  sent : ∃ more, t.fp.out = s.fp.out ++ (more ++ fallbackSent s.mc.config)
  lines : LinesReleased (leavingLines s.mc.config) s t
  leave : s.liu.tx = [] → ⟨.leave .resetWarning, 0, none, false⟩ ∈ t.liu.tx
  settled : ∀ e ∈ t.liu.tx, bodyKind e.body = .hello ∨ bodyKind e.body = .state → e.sending ≠ none ∧ e.noRetry = true

theorem enterLeaving_entered (s : State) : LeavingEntered s (enterLeaving s) := by
  let y := releaseAll (leavingLines s.mc.config) (leavingBegun s)
  have hfall := enterFallback_eq y
  have hbuilt := rebuildWant_inFallback (s := enterFallback y) (by rw [hfall])
  have hkeeps : UndoKeeps (leavingBegun s) y := releaseAll_undoKeeps _ rfl
  have hlines : LinesReleased (leavingLines s.mc.config) (leavingBegun s) y := releaseAll_released _ _
  have hentered : enterLeaving s = rebuildWant (enterFallback y) := enterLeaving_eq s
  have hbegun : (leavingBegun s).mc = { s.mc with warning := true, waitingRequest := none, mode := .leaving } ∧
      (leavingBegun s).fp = s.fp ∧ (leavingBegun s).cu = s.cu := by simp [leavingBegun]
  obtain ⟨hbmc, hbfp, hbcu⟩ := hbegun
  have hmc : y.mc = { s.mc with warning := true, waitingRequest := none, mode := .leaving } :=
    hkeeps.noWant.1.trans hbmc
  have htx : (enterLeaving s).liu = y.liu := by rw [hentered, hbuilt, hfall]
  have hcu : (enterLeaving s).cu = y.cu := by rw [hentered, hbuilt, hfall]
  have hbtx : (leavingBegun s).liu.tx =
      (lineLeaves (s.setMc { s.mc with warning := true, waitingRequest := none, mode := .leaving })).liu.tx := rfl
  obtain ⟨more, hmore⟩ := hkeeps.sent.2
  refine ⟨?_, ?_, fun hw => ?_, ?_, ⟨more, ?_⟩, ?_, fun h => ?_, fun e he => ?_⟩
  · rw [hentered, hbuilt, hfall]
    exact hmc
  · rw [hentered, hbuilt, hfall, hkeeps.share]
    exact ⟨rfl, rfl, rfl, rfl⟩
  · rw [hentered, hbuilt, hfall, hmc]
    exact if_neg hw
  · rw [hentered, hbuilt, hfall]
    simp only
    rw [hkeeps.sent.1, hbfp]
  · rw [hentered, hbuilt, hfall, hmc, hmore, hbfp]
    exact List.append_assoc _ _ _
  · refine ⟨fun l hl => ?_, fun l hl => ?_, fun l hl => ?_, fun l n hn => ?_, ?_⟩
    · rw [hcu]
      exact hlines.free l hl
    · rw [hcu]
      exact hlines.kept l (by rw [hbcu]; exact hl)
    · rw [hcu, hlines.others l hl, hbcu]
    · rw [hcu, hlines.sources l n (by rw [hbmc]; exact hn), hbcu]
    · rw [hentered, hbuilt, hfall, hmc]
  · rw [htx]
    have hone : (leavingBegun s).liu.tx = [⟨.leave .resetWarning, 0, none, false⟩] := by
      rw [hbtx]
      simp [lineLeaves, enqueue, acceptsRequest, isHello, isState, queueLeft, h, placeEntry, newEntry]
    refine (releaseAll_leaves (leavingLines s.mc.config) (by nofun)
      (by rw [hone]; exact List.mem_singleton_self _) ?_).1
    have hlen := holderLines_length s.mc.config
    rw [hone, leavingLines]
    simp only [List.length_singleton]
    omega
  · rw [htx] at he
    rcases mem_releaseAll _ he with hm | hm
    · exact lineLeaves_settled (hbtx ▸ hm)
    · intro hb
      rw [hm] at hb
      exact absurd hb (by decide)

/-! ### The reset warning -/

theorem exec_resetWarning (hm : s.mc.mode ≠ .loading) :
    exec .resetWarning s = .next (takeResetWarning (linkRestored s)) :=
  congrArg Host.Outcome.next ((effect_resetWarning (s := s)).trans (fieldMessage_taken hm rfl))

theorem takeResetWarning_enters (hm : s.mc.mode ∈ [Mode.listenIn, .active, .standbyListen, .standbyDeep]) :
    takeResetWarning s = statusAtEntry (startReady (shortClose (enterLeaving s))) := by
  simp only [List.mem_cons, List.not_mem_nil, or_false] at hm
  rcases hm with h | h | h | h <;> simp only [takeResetWarning, h]

theorem startReady_holds (h : s.rs.holdQueue ≠ []) :
    startReady s = s.setMc { s.mc with readyTimer := some 2 } := by
  simp only [startReady]
  exact if_neg (by simpa using h)

theorem startReady_empty (h : s.rs.holdQueue = []) :
    startReady s = sendResetReady (s.setMc { s.mc with readyTimer := some 2 }) := by
  simp only [startReady]
  exact if_pos (by simpa using h)

end Sys2Proof.Machine
end

section
/-! A RESET WARNING at a station with a store: the open span closed SHORT and opened again (R128, R146, R164, R178). -/

namespace Sys2Proof.Machine

variable {s w : State} {p : Period} {i : Interval}

theorem shortClose_tie (hr : w.mc.config.role = some .exportTie) (ho : w.tie.openPeriod = some p)
    (h : StoreReady w.rs) : shortClose w = openPeriod w.dc.time partialStart
      (periodClosed { p with flags := { p.flags with short := true } } (spanLength 1800 p.start w.dc.time) w) := by
  simp only [shortClose, hr, tieShortClose, ho, closePeriodNow_eq h]
  rfl

theorem shortClose_town (hr : w.mc.config.role = some .townheat) (ho : w.mu.openInterval = some i)
    (h : StoreReady w.rs) : shortClose w = openIntervalAt w.dc.time partialStart
      (intervalClosed (flaggedInterval setShort i w) (spanLength 3600 i.start w.dc.time)
        (w.setMu { w.mu with openInterval := some (flaggedInterval setShort i w), minuteAcc := 0 })) := by
  simp only [shortClose, hr, meterShortClose, ho, closeFlagged_eq setShort h ho]
  rfl

/-- With no span open nothing is closed or opened. -/
theorem shortClose_closed (h : w.mc.config.role = some .exportTie ∧ w.tie.openPeriod = none ∨
    w.mc.config.role = some .townheat ∧ w.mu.openInterval = none) : shortClose w = w := by
  rcases h with ⟨hr, ho⟩ | ⟨hr, ho⟩
  · simp only [shortClose, hr, tieShortClose, ho]
  · simp only [shortClose, hr, meterShortClose, ho]

/-- The station after the entry with a record held: the ready timer runs, NODE STATUS is sent. -/
theorem readyWithRecord {x : StoreRecord} {z : State} {rs : RecordUnit} (h : z.rs = handedTo x rs) :
    (statusAtEntry (startReady z)).mc = { z.mc with readyTimer := some 2 } ∧
    (statusAtEntry (startReady z)).rs = z.rs ∧ (statusAtEntry (startReady z)).tie = z.tie ∧
    (statusAtEntry (startReady z)).mu = z.mu ∧ (statusAtEntry (startReady z)).dc = z.dc ∧
    (statusAtEntry (startReady z)).peers = z.peers ∧ (statusAtEntry (startReady z)).pending = z.pending := by
  have hne : z.rs.holdQueue ≠ [] := by rw [h]; exact List.cons_ne_nil _ _
  rw [startReady_holds hne]
  exact ⟨rfl, rfl, rfl, rfl, rfl, rfl, rfl⟩

theorem statusAtEntry_out (z : State) : ∃ n, (statusAtEntry z).fp =
    { z.fp with statusTimer := some 10, out := z.fp.out ++ [.nodeStatus n] } := ⟨_, rfl⟩

theorem readyEmpty (z : State) :
    let t := statusAtEntry (sendResetReady (z.setMc { z.mc with readyTimer := some 2 }))
    t.mc = { z.mc with readyTimer := none, returnTimer := some 10 } ∧ t.rs = z.rs ∧ t.tie = z.tie ∧ t.mu = z.mu ∧
      t.dc = z.dc ∧ t.peers = z.peers ∧ t.pending = z.pending := by
  simp [sendResetReady, sendField]

/-- With nothing held RESET READY goes out at once, before NODE STATUS (R178). -/
theorem readyAtOnce (z : State) : ∃ n,
    (statusAtEntry (sendResetReady (z.setMc { z.mc with readyTimer := some 2 }))).fp.out =
      z.fp.out ++ [.resetReady, .nodeStatus n] := by
  obtain ⟨n, hn⟩ := statusAtEntry_out (sendResetReady (z.setMc { z.mc with readyTimer := some 2 }))
  refine ⟨n, ?_⟩
  rw [hn]
  exact List.append_assoc z.fp.out [.resetReady] [.nodeStatus n]

/-- What the entry to LEAVING leaves as it was, at a station that has had a message. -/
structure LeavingKeeps (s w : State) : Prop where
  config : w.mc.config = s.mc.config
  store : w.rs = s.rs
  tie : w.tie = s.tie
  meter : w.mu = s.mu
  clock : w.dc = s.dc
  peers : w.peers = s.peers
  pending : w.pending = s.pending
  modes : w.mc.mode = .leaving ∧ w.mc.warning = true ∧ w.mc.returnTimer = s.mc.returnTimer
  sent : ∃ more, w.fp.out = s.fp.out ++ more

theorem enterLeaving_keeps (s : State) : LeavingKeeps s (enterLeaving (linkRestored s)) := by
  obtain ⟨h, -, -, -, ⟨more, hmore⟩, -, -, -⟩ := enterLeaving_entered (linkRestored s)
  exact ⟨by rw [h]; rfl, by simp, by simp, by simp, by simp, by simp, by simp, by rw [h]; exact ⟨rfl, rfl, rfl⟩,
    _, hmore⟩

/-- Settles O51. -/
theorem resetWarningClosesShort : Obligations.ResetWarningClosesShort := by
  intro s hm hq hidle hwhole hroom handed
  have hload : s.mc.mode ≠ .loading := fun h => by simp [h] at hm
  have hexec := (exec_resetWarning hload).trans
    (congrArg Host.Outcome.next (takeResetWarning_enters (s := linkRestored s) hm))
  have hkeeps := enterLeaving_keeps s
  generalize enterLeaving (linkRestored s) = w at hexec hkeeps
  obtain ⟨hconf, hrs, htie, hmu, hdc, hpeers, hpend, ⟨hleaving, hwarning, hreturn⟩, more, hmore⟩ := hkeeps
  have hready : StoreReady w.rs := by
    rw [hrs]
    exact ⟨hq, hidle, hwhole, hroom⟩
  have htime : w.dc.time = s.dc.time := by rw [hdc]
  have hquality : w.dc.quality = s.dc.quality := by rw [hdc]
  have hslotA : w.tie.slotA = s.tie.slotA := by rw [htie]
  have hslotB : w.tie.slotB = s.tie.slotB := by rw [htie]
  have hhanded : ∀ x, handedTo x w.rs = handedTo x s.rs := fun x => by rw [hrs]
  have hseq : w.rs.nextSeq = s.rs.nextSeq := by rw [hrs]
  have hopened : { w.dc with spanStart := some w.dc.time } = { s.dc with spanStart := some s.dc.time } := by rw [hdc]
  refine ⟨fun p hr ho hlen => ?_, fun i hr ho hlen => ?_, fun hclosed => ?_⟩
  · let q : Period := { p with flags := { p.flags with short := true } }
    have hclose := shortClose_tie (hconf ▸ hr) (htie ▸ ho) hready
    have hspan : spanLength 1800 p.start w.dc.time = secondsFrom p.start s.dc.time := by
      rw [hdc]
      exact spanLength_planned rfl hlen
    rw [hspan, openPeriod_eq] at hclose
    obtain ⟨tmc, trs, ttie, tmu, tdc, tpeers, tpend⟩ := readyWithRecord (z := shortClose w)
      (x := .settle (numberedSettle q (secondsFrom p.start s.dc.time) w)) (rs := w.rs) (by rw [hclose]; rfl)
    have hmc : (shortClose w).mc = w.mc := by rw [hclose]; rfl
    rw [hmc] at tmc
    refine ⟨_, numberedSettle q (secondsFrom p.start s.dc.time) w,
      periodAt w.dc.time partialStart (periodClosed q (secondsFrom p.start s.dc.time) w), hexec, ?_⟩
    rw [tmc, trs, ttie, tmu, tdc, tpeers, tpend, hclose]
    exact ⟨hleaving, hwarning, rfl, hreturn, hhanded _, hseq, rfl, rfl, rfl, rfl, rfl, rfl,
      congrArg (lowerQuality p.quality) hquality, rfl, rfl, rfl, rfl, htime,
      congrArg (fun x : TimePos => 1800 * (x.sec / 1800 + 1) - x.sec) htime, rfl, rfl, rfl, rfl, hquality,
      hslotA, hslotB, hopened, hmu, hpeers, hpend⟩
  · have hclose := shortClose_town (hconf ▸ hr) (hmu ▸ ho) hready
    have hspan : spanLength 3600 i.start w.dc.time = secondsFrom i.start s.dc.time := by
      rw [hdc]
      exact spanLength_planned rfl hlen
    rw [hspan, openIntervalAt_eq] at hclose
    obtain ⟨tmc, trs, ttie, tmu, tdc, tpeers, tpend⟩ := readyWithRecord (z := shortClose w)
      (x := .bill (numberedBill (flaggedInterval setShort i w) (secondsFrom i.start s.dc.time) w)) (rs := w.rs)
      (by rw [hclose]; rfl)
    have hmc : (shortClose w).mc = w.mc := by rw [hclose]; rfl
    rw [hmc] at tmc
    refine ⟨_, hexec, ?_⟩
    rw [tmc, trs, ttie, tmu, tdc, tpeers, tpend, hclose]
    refine ⟨hleaving, hwarning, rfl, hreturn, ?_, ?_, hopened, htie, hpeers, hpend⟩
    · refine (hhanded _).trans ?_
      have hbill : numberedBill (flaggedInterval setShort i w) (secondsFrom i.start s.dc.time) w =
          { seq := s.rs.nextSeq, start := i.start, length := secondsFrom i.start s.dc.time, band := i.band
            quality := lowerQuality i.quality s.dc.quality, works := i.works, purchased := i.purchased
            peak := Nat.max i.peak (s.mu.minuteAcc / 360000000), missing := i.missing, reverse := i.reverse
            overRange := i.overRange, flags := { i.flags with short := true } } := by
        rw [← hseq, ← hquality, ← hmu]
        rfl
      exact congrArg (fun x => handedTo (.bill x) s.rs) hbill
    · rw [← hmu, ← htime, ← hquality, ← hconf]
      rfl
  · rw [shortClose_closed (hclosed.imp (fun h => ⟨hconf ▸ h.1, htie ▸ h.2⟩) fun h => ⟨hconf ▸ h.1, hmu ▸ h.2⟩),
      startReady_empty (hrs ▸ hq)] at hexec
    obtain ⟨tmc, trs, ttie, tmu, tdc, tpeers, tpend⟩ := readyEmpty w
    obtain ⟨n, hn⟩ := readyAtOnce w
    refine ⟨_, hexec, ?_⟩
    rw [tmc, trs, ttie, tmu, tdc, tpeers, tpend, hn, hmore, List.append_assoc, List.drop_left]
    exact ⟨hleaving, hwarning, rfl, rfl, by simp, hrs, htie, hmu, hdc, hpeers, hpend⟩

end Sys2Proof.Machine
end

section
/-! A RESET WARNING of a role without a store, the ready timer, and the return from LEAVING (R17, R36, R52, R57, R64,
R178). -/

namespace Sys2Proof.Machine

variable {s t w : State}

/-! ### Into LEAVING -/

theorem Accountless.shortClose (h : Accountless s) : shortClose s = s := by
  simp only [Machine.shortClose]
  split
  · next hr => exact absurd hr h.1
  · next hr => exact absurd hr h.2
  all_goals rfl

/-- What the ready timer's start and NODE STATUS leave as they were, and what they write. -/
structure Readied (w t : State) : Prop where
  line : t.liu = w.liu
  share : t.se = w.se
  claims : t.cu = w.cu
  others : t.peers = w.peers ∧ t.tie = w.tie ∧ t.mu = w.mu ∧ t.dc = w.dc ∧ t.rs = w.rs ∧ t.pending = w.pending
  modes : t.mc = { w.mc with readyTimer := t.mc.readyTimer, returnTimer := t.mc.returnTimer }
  port : t.fp = { w.fp with statusTimer := some 10, out := t.fp.out }
  sent : ∃ more, t.fp.out = w.fp.out ++ more ∧ (w.rs.holdQueue = [] → .resetReady ∈ more)
  atOnce : w.rs.holdQueue = [] → t.mc.readyTimer = none ∧ t.mc.returnTimer = some 10
  later : w.rs.holdQueue ≠ [] → t.mc.readyTimer = some 2 ∧ t.mc.returnTimer = w.mc.returnTimer

theorem readied (w : State) : Readied w (statusAtEntry (startReady w)) := by
  obtain ⟨n, hn⟩ := statusAtEntry_out (startReady w)
  have hmc : (statusAtEntry (startReady w)).mc = (startReady w).mc := by simp
  by_cases hq : w.rs.holdQueue = []
  · have hr := startReady_empty hq
    have hready : (startReady w).fp = { w.fp with out := w.fp.out ++ [.resetReady] } := by rw [hr]; rfl
    have hmodes : (startReady w).mc = { w.mc with readyTimer := none, returnTimer := some 10 } := by rw [hr]; rfl
    refine ⟨by simp, by simp, by simp, by simp, by rw [hmc, hmodes], by rw [hn, hready],
      ⟨[.resetReady, .nodeStatus n], ?_, fun _ => by simp⟩, fun _ => by rw [hmc, hmodes]; exact ⟨rfl, rfl⟩,
      fun h => absurd hq h⟩
    rw [hn, hready]
    exact List.append_assoc w.fp.out [.resetReady] [.nodeStatus n]
  · have hr := startReady_holds hq
    have hready : (startReady w).fp = w.fp := by rw [hr]; rfl
    have hmodes : (startReady w).mc = { w.mc with readyTimer := some 2 } := by rw [hr]; rfl
    exact ⟨by simp, by simp, by simp, by simp, by rw [hmc, hmodes], by rw [hn, hready],
      ⟨[.nodeStatus n], by rw [hn, hready], fun h => absurd h hq⟩, fun h => absurd h hq,
      fun _ => by rw [hmc, hmodes]; exact ⟨rfl, rfl⟩⟩

/-- A RESET WARNING at a role without a store. -/
theorem exec_resetWarning_storeless (hm : s.mc.mode ∈ [Mode.listenIn, .active, .standbyListen, .standbyDeep])
    (hk : keptKind s.mc.config = none) : ∃ w t, LeavingEntered (linkRestored s) w ∧ LeavingKeeps s w ∧ Readied w t ∧
      w.liu.rx = s.liu.rx ∧ exec .resetWarning s = .next t := by
  have hload : s.mc.mode ≠ .loading := fun h => by simp [h] at hm
  have hkeeps := enterLeaving_keeps s
  have hclose : shortClose (enterLeaving (linkRestored s)) = enterLeaving (linkRestored s) :=
    Accountless.shortClose (accountless_of_keptKind (hkeeps.config ▸ hk))
  refine ⟨_, _, enterLeaving_entered _, hkeeps, readied _, by simp, ?_⟩
  rw [exec_resetWarning hload, takeResetWarning_enters (s := linkRestored s) hm, hclose]

/-! ### The timers -/

theorem exec_readyTimerExpiry (h : s.mc.readyTimer = some 0) : exec .readyTimerExpiry s = .next (sendResetReady s) :=
  congrArg Host.Outcome.next ((effect_readyTimerExpiry (s := s)).trans (if_pos (expired_iff.2 h)))

theorem exec_returnTimerExpiry (h : s.mc.returnTimer = some 0) : exec .returnTimerExpiry s =
    .next (if s.mc.mode = .leaving then returnToListenIn (warningOver s) else warningOver s) :=
  congrArg Host.Outcome.next ((effect_returnTimerExpiry (s := s)).trans (if_pos (expired_iff.2 h)))

/-! ### Back to LISTEN-IN -/

theorem returnToListenIn_other (h : s.mc.config.role ≠ some .holder) : returnToListenIn s = enterListenIn s := by
  have hconf : (enterListenIn s).mc.config.role ≠ some .holder := by simpa using h
  simp only [returnToListenIn]
  exact if_neg hconf

theorem returnToListenIn_holder (h : s.mc.config.role = some .holder) :
    returnToListenIn s = bandClaims s.hu.band (enterListenIn s) := by
  have hconf : (enterListenIn s).mc.config.role = some .holder := by simpa using h
  have hband : (enterListenIn s).hu = s.hu := by simp
  simp only [returnToListenIn]
  rw [if_pos hconf, hband]

/-- The claim a band calls for (R64). -/
def calledLines (b : Band) (m : Main) : List ClaimLine := match b with
  | .none | .normal => []
  | .emptyGuard | .low => [⟨m, .shortfall⟩]
  | .high | .flare => [⟨m, .surplus⟩]

/-- The return of a station that is no HOLDER (R178). -/
theorem exec_return_other {r : Role} (ht : s.mc.returnTimer = some 0) (hm : s.mc.mode = .leaving)
    (hr : s.mc.config.role = some r) (hne : r ≠ .holder) :
    ∃ t, exec .returnTimerExpiry s = .next t ∧ EntersListenIn (warningOver s) t := by
  have hother : (warningOver s).mc.config.role ≠ some .holder := by
    rw [show (warningOver s).mc.config = s.mc.config from rfl, hr]
    exact fun h => hne (Option.some.inj h)
  refine ⟨_, exec_returnTimerExpiry ht, ?_⟩
  rw [if_pos hm, returnToListenIn_other hother]
  exact enterListenIn_enters _

/-! ### An own claim asserted in LISTEN-IN -/

/-- An own claim asked for in LISTEN-IN, the queue with room and no claim waiting: the claim is own, the own number in
the line's set, the CLAIM queued; a rise reaches no ladder and is latched on a wake line (R76, R81, R85, R177). -/
structure ClaimCalled (l : ClaimLine) (s t : State) : Prop where
  modes : t.mc = { s.mc with latch := t.mc.latch }
  line : t.liu = { s.liu with tx := s.liu.tx ++ [⟨.claim l .assert, 0, none, false⟩] }
  own : (t.cu.get l).own = true ∧ s.mc.node.val ∈ (t.cu.get l).sources
  sources : ∀ n, n ≠ s.mc.node.val → (n ∈ (t.cu.get l).sources ↔ n ∈ (s.cu.get l).sources)
  latched : s.mc.config.wakeSet.get l = true → (s.cu.get l).sources = [] → t.mc.latch.claimRise.get l = true
  others : ∀ k, k ≠ l → t.cu.get k = s.cu.get k
  blocks : t.se = s.se ∧ t.fp = s.fp ∧ t.rl = s.rl ∧ t.fu = s.fu ∧ t.hu = s.hu ∧ t.peers = s.peers ∧ t.tie = s.tie ∧
    t.mu = s.mu ∧ t.dc = s.dc ∧ t.rs = s.rs ∧ t.pending = s.pending

/-- A rise in LISTEN-IN: noted, and latched on a wake line; a ladder that is IDLE is not told, and one that is not takes
no rise (R81, R85, R98 to R101). -/
structure RiseNoted (l : ClaimLine) (s t : State) : Prop where
  only : t = { s with cu := t.cu, mc := { s.mc with latch := t.mc.latch } }
  line : (t.cu.get l).own = (s.cu.get l).own ∧ (t.cu.get l).sources = (s.cu.get l).sources
  others : ∀ k, k ≠ l → t.cu.get k = s.cu.get k
  latched : s.mc.config.wakeSet.get l = true → t.mc.latch.claimRise.get l = true

theorem noteRise_noted (l : ClaimLine) (hm : s.mc.mode = .listenIn) : RiseNoted l s (noteRise l s) := by
  by_cases hw : s.mc.config.wakeSet.get l = true
  · rw [noteRise, if_pos hw, latchCause_awake (.claimRise l) (by split <;> exact .inl hm)]
    split
    · exact ⟨rfl, by simp [setPending, setLine], fun k hk => by simp [setPending, setLine, Six.get_set_of_ne, hk],
        fun _ => by simp [latched]⟩
    · exact ⟨rfl, ⟨rfl, rfl⟩, fun _ _ => rfl, fun _ => by simp [latched]⟩
  · rw [noteRise, if_neg hw]
    split
    · exact ⟨rfl, by simp [setPending, setLine], fun k hk => by simp [setPending, setLine, Six.get_set_of_ne, hk],
        fun h => absurd h hw⟩
    · exact ⟨rfl, ⟨rfl, rfl⟩, fun _ _ => rfl, fun h => absurd h hw⟩

theorem rise_noted (l : ClaimLine) (hm : s.mc.mode = .listenIn) : RiseNoted l s (rise l s) := by
  have hnote := noteRise_noted l hm
  rw [rise]
  split
  · exact hnote
  · next hheld =>
    have hidle : (s.rl.get l).state ≠ .idle := by
      intro hi
      exact hheld (heldBack_masked (.inr hm) hi)
    have hstands : ladderRise l (noteRise l s) = noteRise l s := by
      have hrl : (noteRise l s).rl = s.rl := by rw [hnote.only]
      rw [ladderRise, hrl]
      split
      · next hi => exact absurd hi hidle
      all_goals rfl
    rw [hstands]
    exact hnote

theorem assertOwn_called {l : ClaimLine} (hm : s.mc.mode = .listenIn) (ho : (s.cu.get l).own = false)
    (hq : ∀ x ∈ s.liu.tx, bodyKind x.body ≠ .claim) (hl : s.liu.tx.length < 4) : ClaimCalled l s (assertOwn l s) := by
  let v := setLine l { s.cu.get l with own := true } s
  have hbit : ∃ z : State, z = setBitWith (rise l) s.mc.node.val l v ∧
      z = { s with cu := z.cu, mc := { s.mc with latch := z.mc.latch } } ∧ (z.cu.get l).own = true ∧
      s.mc.node.val ∈ (z.cu.get l).sources ∧
      (∀ n, n ≠ s.mc.node.val → (n ∈ (z.cu.get l).sources ↔ n ∈ (s.cu.get l).sources)) ∧
      (s.mc.config.wakeSet.get l = true → (s.cu.get l).sources = [] → z.mc.latch.claimRise.get l = true) ∧
      ∀ k, k ≠ l → z.cu.get k = s.cu.get k := by
    refine ⟨_, rfl, ?_⟩
    have hvl : v.cu.get l = { s.cu.get l with own := true } := by simp [v, setLine]
    rw [setBitWith, hvl]
    split
    · next hc =>
      have hmem : s.mc.node.val ∈ (s.cu.get l).sources := by simpa using hc
      refine ⟨rfl, by rw [hvl], by rw [hvl]; exact hmem, fun n _ => by rw [hvl], fun _ hnil => ?_, fun k hk => ?_⟩
      · rw [hnil] at hmem
        exact absurd hmem (List.not_mem_nil)
      · simp [v, setLine, Six.get_set_of_ne, hk]
    · let y := setLine l { s.cu.get l with own := true, sources := setAdd s.mc.node.val (s.cu.get l).sources } v
      have hyl : y.cu.get l = { s.cu.get l with
          own := true, sources := setAdd s.mc.node.val (s.cu.get l).sources } := by simp [y, setLine]
      have hyk : ∀ k, k ≠ l → y.cu.get k = s.cu.get k := fun k hk => by
        simp [y, v, setLine, Six.get_set_of_ne, hk]
      split
      · obtain ⟨honly, ⟨hown, hsources⟩, hothers, hlatch⟩ := rise_noted (s := y) l hm
        refine ⟨honly, by rw [hown, hyl], by rw [hsources, hyl]; simp, fun n hn => by rw [hsources, hyl]; simp [hn],
          fun hw _ => hlatch hw, fun k hk => (hothers k hk).trans (hyk k hk)⟩
      · next hne =>
        refine ⟨rfl, by rw [hyl], by rw [hyl]; simp, fun n hn => by rw [hyl]; simp [hn], fun _ hnil => ?_, hyk⟩
        exact absurd (by rw [hnil]; rfl) hne
  obtain ⟨z, hz, honly, hown, hmem, hsources, hlatch, hothers⟩ := hbit
  have hmode : z.mc.mode = .listenIn := by rw [honly]; exact hm
  have hliu : z.liu = s.liu := by rw [honly]
  have hassert : assertOwn l s = z.setLiu { s.liu with tx := s.liu.tx ++ [⟨.claim l .assert, 0, none, false⟩] } := by
    have hplace := enqueue_places (b := .claim l .assert) (s := z) (acceptsRequest_open (by simp [hmode]) _) nofun
      fun k g hkg x hx _ j hj => hq x (hliu ▸ hx) (by rw [hj]; rfl)
    rw [assertOwn, assertOwnWith, if_neg (by simp [ho])]
    refine (congrArg (enqueue (.claim l .assert)) hz.symm).trans (hplace.trans ?_)
    rw [hliu, placeEntry, if_pos hl]
    rfl
  rw [hassert]
  refine ⟨?_, rfl, ⟨hown, hmem⟩, hsources, hlatch, hothers, ?_⟩
  · simp only [State.setLiu]
    exact congrArg State.mc honly
  · rw [honly]
    exact ⟨rfl, rfl, rfl, rfl, rfl, rfl, rfl, rfl, rfl, rfl, rfl⟩

/-! ### A HOLDER's return (R64) -/

theorem bandClaims_called {b : Band} (h : ∀ l ∈ holderLines s.mc.config, (s.cu.get l).own = false)
    (hr : s.mc.config.role = some .holder) : calledLines b s.mc.config.main = [] ∧ bandClaims b s = s ∨
      ∃ l, calledLines b s.mc.config.main = [l] ∧ bandClaims b s = assertOwn l s ∧ (s.cu.get l).own = false := by
  have hown : ∀ e : ClaimKind, (s.cu.get ⟨s.mc.config.main, e⟩).own = false := fun e =>
    h _ (by cases e <;> simp [holderLines, hr])
  have hfree : ∀ e : ClaimKind, releaseOwn ⟨s.mc.config.main, e⟩ s = s := fun e => releaseOwn_free (hown e)
  cases b with
  | none => exact .inl ⟨rfl, by simp only [bandClaims, hfree]⟩
  | normal => exact .inl ⟨rfl, by simp only [bandClaims, hfree]⟩
  | emptyGuard => exact .inr ⟨_, rfl, by simp only [bandClaims, hfree], hown _⟩
  | low => exact .inr ⟨_, rfl, by simp only [bandClaims, hfree], hown _⟩
  | high => exact .inr ⟨_, rfl, by simp only [bandClaims, hfree], hown _⟩
  | flare => exact .inr ⟨_, rfl, by simp only [bandClaims, hfree], hown _⟩

/-- Settles O50. -/
theorem resetWarningLeavesAndReturns : Obligations.ResetWarningLeavesAndReturns := by
  refine ⟨fun s hm hk => ?_, fun s hm => ?_, fun s hm => ?_, fun s ht => exec_readyTimerExpiry ht, fun s ht hm => ?_,
    fun r s ht hm hr hne htx => ?_, fun s ht hm hr htx hown => ?_⟩
  · obtain ⟨w, t, hw, hkeeps, ht, hrx, hexec⟩ := exec_resetWarning_storeless hm hk
    obtain ⟨hmc, ⟨htimer, hfall, hshort, hexcess⟩, hout, hport, ⟨more, hmore⟩, hlines, hleave, hsettled⟩ := hw
    obtain ⟨tpeers, ttie, tmu, tdc, trs, tpend⟩ := ht.others
    obtain ⟨last, hlast, hready⟩ := ht.sent
    have hdrop : t.fp.out.drop s.fp.out.length = more ++ fallbackSent s.mc.config ++ last := by
      have hall : t.fp.out = s.fp.out ++ (more ++ fallbackSent s.mc.config ++ last) := by
        rw [hlast, hmore, List.append_assoc]
        rfl
      rw [hall, List.drop_left]
    have hrs : w.rs = s.rs := hkeeps.store
    refine ⟨t, hexec, by rw [ht.modes]; exact hkeeps.modes.1, by rw [ht.modes]; exact hkeeps.modes.2.1, ?_,
      by rw [ht.share, htimer], by rw [ht.share, hfall], by rw [ht.share, hshort], by rw [ht.share, hexcess],
      fun hne => by rw [ht.share]; exact hout hne, fun x hx => ?_, fun l hl => ?_, fun l hl hh => ?_,
      fun l n hn => ?_, fun htx => by rw [ht.line]; exact hleave htx, fun e he => hsettled e (ht.line ▸ he),
      fun hq => ?_, fun hq => ?_, by rw [ht.port], by rw [ht.port, hport]; rfl, by rw [ht.port, hport]; rfl,
      by rw [ht.line, hrx], by rw [tpeers, hkeeps.peers], by rw [ttie, hkeeps.tie], by rw [tmu, hkeeps.meter],
      by rw [tdc, hkeeps.clock], by rw [trs, hrs], by rw [ht.modes]; exact hkeeps.config, ?_, ?_,
      by rw [tpend, hkeeps.pending]⟩
    · rw [ht.modes, hmc]
    · rw [hdrop]
      exact List.mem_append_left _ (List.mem_append_right _ hx)
    · rw [ht.claims]
      exact hlines.free l (List.mem_append.2 hl)
    · rw [ht.claims]
      exact hlines.others l fun hm => (List.mem_append.1 hm).elim hl hh
    · rw [ht.claims]
      exact hlines.sources l n hn
    · refine ⟨?_, ht.atOnce (hrs.symm ▸ hq)⟩
      rw [hdrop]
      exact List.mem_append_right _ (hready (hrs.symm ▸ hq))
    · obtain ⟨hlater, hreturn⟩ := ht.later (hrs.symm ▸ hq)
      exact ⟨hlater, hreturn.trans hkeeps.modes.2.2⟩
    · rw [ht.modes, hmc]
      rfl
    · rw [ht.modes, hmc]
      rfl
  · rw [exec_resetWarning (by rw [hm]; decide), takeResetWarning]
    rw [show (linkRestored s).mc.mode = .listenOnly from hm]
    rfl
  · rw [exec_resetWarning (by rw [hm]; decide), takeResetWarning]
    rw [show (linkRestored s).mc.mode = .leaving from hm]
    rfl
  · rw [exec_returnTimerExpiry ht, if_neg hm]
    rfl
  · obtain ⟨t, hexec, hmodes, hhello, hshare, -, hlines, hport, hpeers, hhu, hrl, hfu, htie, -, hmu, hdc, hrs, hpend⟩ :=
      exec_return_other ht hm hr hne
    have hline := hhello (by rw [show (warningOver s).liu.tx = [] from htx]; decide)
    refine ⟨t, hexec, hmodes, ?_, by rw [hshare]; rfl, by rw [hshare], by rw [hshare], fun hw => ?_, hport, hlines, hrl,
      hfu, hhu, hpeers, htie, hmu, hdc, hrs, hpend⟩
    · rw [hline, show (warningOver s).liu = s.liu from rfl, htx,
        show (warningOver s).mc.config = s.mc.config from rfl, hr]
      rfl
    · rw [hshare]
      exact if_neg hw
  · intro called
    have hholder : (warningOver s).mc.config.role = some .holder := hr
    have henters := enterListenIn_enters (warningOver s)
    have hexec := exec_returnTimerExpiry ht
    rw [if_pos hm, returnToListenIn_holder hholder] at hexec
    generalize enterListenIn (warningOver s) = w at henters hexec
    obtain ⟨hmodes, hhello, hshare, -, hlines, hport, hpeers, hhu, hrl, hfu, htie, -, hmu, hdc, hrs, hpend⟩ := henters
    have hline := hhello (by rw [show (warningOver s).liu.tx = [] from htx]; decide)
    have hconf : w.mc.config = s.mc.config := by rw [hmodes]; rfl
    have hwmode : w.mc.mode = .listenIn := by rw [hmodes]
    have hnode : w.mc.node = s.mc.node := by rw [hmodes]; rfl
    have hwtx : w.liu.tx = [⟨.hello (some .holder) (mainsByte (stationMains s.mc.config)) s.mc.config.period
        s.mc.config.tag, 0, none, false⟩] := by
      rw [hline, show (warningOver s).liu = s.liu from rfl, htx,
        show (warningOver s).mc.config = s.mc.config from rfl, hr]
      rfl
    have hfp : w.fp = { s.fp with statusTimer := none } := by
      have hnone : fallbackSent s.mc.config = [] := by simp [fallbackSent, wantMain, hr]
      rw [hport, show (warningOver s).mc.config = s.mc.config from rfl, hnone, List.append_nil]
      rfl
    have hbound := bandClaims_called (b := s.hu.band) (s := w)
      (fun l hl => by rw [(hlines l).1]; exact hown l (hconf ▸ hl)) (by rw [hconf]; exact hr)
    have hcalled : calledLines s.hu.band w.mc.config.main = called := by
      rw [hconf]
      rfl
    have hwse : w.se.roundTimer = some s.mc.config.period ∧ w.se.roundCount = 0 ∧ w.se.fallback = true := by
      rw [hshare]
      exact ⟨rfl, rfl, rfl⟩
    obtain ⟨htimer, hcount, hfall⟩ := hwse
    have hwmc : ∀ x, { w.mc with latch := x } =
        { s.mc with mode := .listenIn, warning := false, returnTimer := none, latch := x } := fun x => by
      rw [hmodes]
      rfl
    have hliu : ∀ x, { w.liu with tx := x } = { s.liu with tx := x } := fun x => by
      rw [hline]
      rfl
    rw [← hcalled]
    rcases hbound with ⟨hnil, hsame⟩ | ⟨k, hk, hassert, hfree⟩
    · rw [show (warningOver s).hu.band = s.hu.band from rfl, hsame] at hexec
      rw [hnil]
      exact ⟨w, hexec, hwmc w.mc.latch, (congrArg (fun x => { w.liu with tx := x }) hwtx).trans (hliu _), nofun,
        fun l _ => ⟨(hlines l).1, (hlines l).2.1⟩, fun l n _ => by rw [(hlines l).2.1]; exact Iff.rfl, htimer, hcount,
        hfall, hfp, hrl, hfu, hhu, hpeers, htie, hmu, hdc, hrs, hpend⟩
    · obtain ⟨cmc, cliu, ⟨cown, cmem⟩, csources, clatch, cothers, cse, cfp, crl, cfu, chu, cpeers, ctie, cmu, cdc, crs,
        cpend⟩ := assertOwn_called (s := w) hwmode hfree (by rw [hwtx]; simp [bodyKind])
        (by rw [hwtx]; exact Nat.lt_of_sub_eq_succ rfl)
      rw [show (warningOver s).hu.band = s.hu.band from rfl, hassert] at hexec
      rw [hk]
      refine ⟨_, hexec, cmc.trans (hwmc _), ?_, fun l hl => ?_, fun l hl => ?_, fun l n hn => ?_,
        by rw [cse, htimer], by rw [cse, hcount], by rw [cse, hfall], cfp.trans hfp, crl.trans hrl, cfu.trans hfu,
        chu.trans hhu, cpeers.trans hpeers, ctie.trans htie, cmu.trans hmu, cdc.trans hdc, crs.trans hrs,
        cpend.trans hpend⟩
      · rw [cliu, hwtx]
        exact hliu _
      · obtain rfl := List.mem_singleton.1 hl
        rw [hnode] at cmem
        rw [hconf, (hlines l).2.1] at clatch
        exact ⟨cown, cmem, clatch⟩
      · rw [cothers l fun h => hl (List.mem_singleton.2 h)]
        exact ⟨(hlines l).1, (hlines l).2.1⟩
      · rw [hnode] at csources
        by_cases he : l = k
        · subst he
          rw [csources n hn, (hlines l).2.1]
          exact Iff.rfl
        · rw [cothers l he, (hlines l).2.1]
          exact Iff.rfl

end Sys2Proof.Machine
end

section
/-! What an image makes known, and the entry to LISTEN-ONLY at the end of LOADING (R17, R52, R170, R172, R174). -/

namespace Sys2Proof.Machine

variable {s : State}

/-! ### What an image names -/

theorem present_iff {img : RawImage} {place : Nat} : present img place = true ↔ bodyAt img place ≠ [] := by
  simp [present]

theorem roleOfCode_roleCode (r : Role) : roleOfCode (roleCode r) = some r := by cases r <;> rfl

theorem imageRole_of_code {img : RawImage} {r : Role} (hn : bodyAt img 1 ≠ [])
    (hr : roleCode r = at1 (bodyAt img 1) 1) : imageRole img = some r := by
  rw [imageRole, if_pos (present_iff.2 hn), ← hr, roleOfCode_roleCode]

theorem imageRole_none {img : RawImage} (h : bodyAt img 1 = [] ∨ 7 ≤ at1 (bodyAt img 1) 1) : imageRole img = none := by
  rw [imageRole]
  rcases h with h | h
  · rw [if_neg (mt present_iff.1 (not_not_intro h))]
  · rw [roleOfCode_none h, ite_self]

/-- MAIN A of a station that wants stands for main 0 or 1, a higher code held as 1 (R45). -/
theorem imageMain_want {r : Role} (hr : r = .consumer ∨ r = .boiler) (code : Nat) :
    mainNumber (imageMain r code) = Nat.min code 1 := by
  have hcode : mainNumber (if code = 0 then .m0 else .m1) = Nat.min code 1 := by
    by_cases h : code = 0
    · rw [if_pos h, h]; rfl
    · rw [if_neg h]; exact (Nat.min_eq_right (Nat.pos_of_ne_zero h)).symm
  rcases hr with rfl | rfl <;> exact hcode

/-! ### The fallback of LISTEN-ONLY (R52) -/

theorem knownFallback_unknown {img : RawImage}
    (h : img.stored ≠ img.computed ∨ bodyAt img 1 = [] ∨ 7 ≤ at1 (bodyAt img 1) 1) :
    knownFallback (some img) = none := by
  rcases h with h | h
  · exact if_neg h
  · simp [knownFallback, imageRole_none h]

section
variable {img : RawImage} {r : Role} (hcrc : img.stored = img.computed) (hr : imageRole img = some r)
include hcrc hr

theorem knownFallback_ofMain2 (h : r = .turbine ∨ r = .townheat) :
    knownFallback (some img) = some (.m2, Nat.min (at2 (bodyAt img 1) 3) 20000) := by
  rcases h with rfl | rfl <;> simp only [knownFallback, if_pos hcrc, hr] <;> rfl

theorem knownFallback_ofMainA (h : r = .consumer ∨ r = .boiler) : knownFallback (some img) =
    if bodyAt img 2 ≠ [] then
      some (imageMain r (at1 (bodyAt img 2) 0), Nat.min (at2 (bodyAt img 1) 3) 20000)
    else none := by
  rcases h with rfl | rfl <;> simp only [knownFallback, if_pos hcrc, hr, present_iff] <;> rfl

theorem knownFallback_ofNoWant (h : r = .producer ∨ r = .holder ∨ r = .exportTie) :
    knownFallback (some img) = none := by
  rcases h with rfl | rfl | rfl <;> simp only [knownFallback, if_pos hcrc, hr]
end

/-! ### The entry to LISTEN-ONLY -/

/-- NODE STATUS at the entry to a mode shows the state it leaves behind. -/
theorem statusAtEntry_shows (z : State) : (statusAtEntry z).fp =
    { z.fp with statusTimer := some 10, out := z.fp.out ++ [.nodeStatus (nodeStatus (statusAtEntry z))] } := rfl

theorem sendKnownFallback_se (x : Option (Main × Nat)) : (sendKnownFallback x s).se =
    match x with
    | some y => { s.se with setpoint := y.2 }
    | none => s.se := by
  cases x <;> rfl

theorem sendKnownFallback_fp (x : Option (Main × Nat)) : (sendKnownFallback x s).fp =
    { s.fp with out := s.fp.out ++ match x with
      | some y => [.setpoint y.1 y.2]
      | none => [] } := by
  cases x with
  | none => simp [sendKnownFallback]
  | some y => rfl

theorem enqueueLeave_alone (hm : s.mc.mode = .listenOnly) (htx : s.liu.tx = []) :
    (enqueue (.leave .unconfigured) s).liu = { s.liu with tx := [⟨.leave .unconfigured, 0, none, false⟩] } := by
  rw [enqueue_places (acceptsRequest_open (by simp [hm]) _) (by simp [bodyKind]) (by simp), htx]
  rfl

/-- What the entry to LISTEN-ONLY does with a setpoint sent or none. -/
theorem notLoaded_enters (image : Option RawImage) (htx : s.liu.tx = []) :
    let t := notLoaded image s
    t.mc = { s.mc with mode := .listenOnly, config := .unconfigured, helloTimer := some 60 } ∧
      t.liu = { s.liu with tx := [⟨.leave .unconfigured, 0, none, false⟩] } ∧
      t.se = (match knownFallback image with
        | some x => { s.se with setpoint := x.2 }
        | none => s.se) ∧
      t.fp = { s.fp with
        statusTimer := some 10
        out := s.fp.out ++ (match knownFallback image with
          | some x => [.setpoint x.1 x.2]
          | none => []) ++ [.nodeStatus (nodeStatus t)] } := by
  intro t
  have hfp : t.fp = _ := statusAtEntry_shows _
  refine ⟨?_, ?_, ?_, hfp.trans ?_⟩
  · simp [t, notLoaded]
  · simp only [t, notLoaded, statusAtEntry_frame, sendKnownFallback_frame, restartCommit_frame]
    exact enqueueLeave_alone rfl htx
  · simp [t, notLoaded, sendKnownFallback_se]
  · simp [t, notLoaded, sendKnownFallback_fp]

/-- Settles O4. -/
theorem badImageEntersListenOnly : Obligations.BadImageEntersListenOnly := by
  intro strap image s hm htx ho
  let z := loadCommon strap (loadOutcomeOf strap (image.bind rawImage)) (image.bind rawImage) s
  have hload : load strap (image.bind rawImage) s = notLoaded (image.bind rawImage) z := by
    rcases load_cases strap (image.bind rawImage) s with h | ⟨r, img, himg, -, hok, -⟩
    · exact h
    · exact absurd (by rw [himg]; exact hok) ho
  obtain ⟨hmc, hliu, hse, hfp⟩ := notLoaded_enters (s := z) (image.bind rawImage) htx
  refine ⟨notLoaded (image.bind rawImage) z,
    congrArg Host.Outcome.next ((effect_loadComplete (s := s) strap image).trans ((if_pos hm).trans hload)),
    hmc, hliu, ⟨knownFallback (image.bind rawImage), hse, hfp, fun h => by rw [h]; rfl, ?_⟩, ?_⟩
  · intro img himg node mainA value
    rw [himg]
    refine ⟨knownFallback_unknown, fun r hcrc hn hr => ?_⟩
    have hrole := imageRole_of_code hn hr
    refine ⟨knownFallback_ofMain2 hcrc hrole, fun h => ?_, knownFallback_ofNoWant hcrc hrole⟩
    rw [knownFallback_ofMainA hcrc hrole h]
    exact ⟨fun ha => if_neg (not_not_intro ha), fun ha => ⟨_, imageMain_want h _, if_pos ha⟩⟩
  · simp [notLoaded, z, loadCommon]

end Sys2Proof.Machine
end

section
/-! The entry to LISTEN-IN at the end of LOADING (R36, R52, R65, R92, R153, R154, R172, R174). -/

namespace Sys2Proof.Machine

variable {s : State}

/-! ### The faults of the end of LOADING (R92, R153, R180) -/

/-- A list of faults raised one after the other, on the fault list. -/
def faultsAfter (ks : List FaultKind) (now : TimePos) (fs : List FaultEntry) : List FaultEntry :=
  ks.foldl (fun xs k => faultsRaised k now xs) fs

theorem raiseAll_eq (ks : List FaultKind) (s : State) (h : ∀ k ∈ ks, faultSeverity k ≠ .failed) :
    raiseAll ks s = s.setMc { s.mc with faults := faultsAfter ks s.dc.time s.mc.faults } := by
  induction ks generalizing s with
  | nil => rfl
  | cons k ks ih =>
    obtain ⟨hk, hks⟩ := List.forall_mem_cons.1 h
    rw [raiseAll, raiseFault_eq hk, ih _ hks]
    rfl

theorem faultPresent_iff {k : FaultKind} {fs : List FaultEntry} :
    faultPresent k fs = true ↔ ∃ e ∈ fs, e.kind = k := by
  simp [faultPresent]

/-- Different faults find room where the list is short enough: those not present are added in their order. -/
theorem faultsAfter_room (ks : List FaultKind) (now : TimePos) (fs : List FaultEntry) (hd : ks.Nodup)
    (hl : fs.length + ks.length ≤ 8) : faultsAfter ks now fs =
      fs ++ (ks.filter fun k => !faultPresent k fs).map fun k => ⟨k, now⟩ := by
  induction ks generalizing fs with
  | nil => simp [faultsAfter]
  | cons k ks ih =>
    obtain ⟨hk, hd⟩ := List.nodup_cons.1 hd
    rw [List.length_cons] at hl
    change faultsAfter ks now (faultsRaised k now fs) = _
    cases hp : faultPresent k fs with
    | true =>
      have hr : faultsRaised k now fs = fs := by simp [faultsRaised, hp]
      rw [hr, ih fs hd (by omega)]
      simp [hp]
    | false =>
      have hr : faultsRaised k now fs = fs ++ [⟨k, now⟩] := by
        rw [faultsRaised, hp, if_neg Bool.false_ne_true, if_pos (by omega)]
      have hsame : ∀ j ∈ ks, faultPresent j (fs ++ [⟨k, now⟩]) = faultPresent j fs := by
        intro j hj
        have hkj : k ≠ j := fun h => hk (h ▸ hj)
        rw [Bool.eq_iff_iff, faultPresent_iff, faultPresent_iff]
        simp [hkj]
      have hf : (ks.filter fun j => !faultPresent j (fs ++ [⟨k, now⟩])) = ks.filter fun j => !faultPresent j fs :=
        List.filter_congr fun j hj => by rw [hsame j hj]
      rw [hr, ih _ hd (by simp; omega), hf]
      simp [hp]

theorem mem_loadFaults {k : FaultKind} {c : StationConfig} {q : Quality} : k ∈ loadFaults c q ↔
    k = .configStep ∧ anyReplaced c = true ∨ k = .timeFree ∧ keepsTimeFree c = true ∧ q ≠ .synced := by
  simp only [loadFaults, List.mem_append, List.mem_ite_nil_right, List.mem_singleton, Bool.and_eq_true, bne_iff_ne]
  tauto

theorem loadFaults_nodup (c : StationConfig) (q : Quality) : (loadFaults c q).Nodup := by
  simp only [loadFaults]
  (repeat' split) <;> decide

theorem anyReplaced_iff {c : StationConfig} :
    anyReplaced c = true ↔ ∃ l, ∃ st ∈ (c.lines.get l).steps, st.replaced = true := by
  simp [anyReplaced, lineReplaced, mem_allLines]

/-- The end of LOADING raises its faults in some order, in the fault list alone. -/
theorem raiseLoadFaults_eq (s : State) : ∃ ks n, ks.Perm (loadFaults s.mc.config s.dc.quality) ∧
    raiseLoadFaults s = { s with
      mc := { s.mc with faults := faultsAfter ks s.dc.time s.mc.faults }, freeNext := n } := by
  let ks := loadFaults s.mc.config s.dc.quality
  have hperm := freeOrder_perm ks s
  have hsev : ∀ k ∈ freeOrder ks s, faultSeverity k ≠ .failed := by
    intro k hk
    rcases mem_loadFaults.1 (hperm.mem_iff.1 hk) with ⟨rfl, -⟩ | ⟨rfl, -⟩ <;> decide
  have hdrawn : ∃ n, orderDrawn ks s = { s with freeNext := n } := by
    simp only [orderDrawn]
    split
    · exact ⟨_, rfl⟩
    · exact ⟨_, rfl⟩
  obtain ⟨n, hn⟩ := hdrawn
  refine ⟨_, n, hperm, ?_⟩
  rw [raiseLoadFaults, raiseAll_eq _ _ hsev, hn]
  rfl

/-- The faults of the end of LOADING are added to a list that has room for both. -/
theorem loadFaults_added {ks : List FaultKind} {c : StationConfig} {q : Quality} {now : TimePos}
    {fs : List FaultEntry} (hp : ks.Perm (loadFaults c q)) (hl : fs.length ≤ 6) :
    ∃ new, faultsAfter ks now fs = fs ++ new ∧ (new.map FaultEntry.kind).Nodup ∧
      ∀ e, e ∈ new ↔ e.raised = now ∧ e.kind ∈ loadFaults c q ∧ ∀ x ∈ fs, x.kind ≠ e.kind := by
  have hd : ks.Nodup := hp.nodup_iff.2 (loadFaults_nodup c q)
  have hlen : ks.length ≤ 2 := by
    rw [hp.length_eq, loadFaults]
    (repeat' split) <;> decide
  refine ⟨_, faultsAfter_room ks now fs hd (by omega), ?_, fun e => ?_⟩
  · simpa [Function.comp_def] using hd.filter _
  · obtain ⟨kind, raised⟩ := e
    have hno : faultPresent kind fs = false ↔ ∀ x ∈ fs, x.kind ≠ kind := by
      rw [← Bool.not_eq_true, faultPresent_iff]
      simp
    simp only [List.mem_map, List.mem_filter, hp.mem_iff, Bool.not_eq_true', FaultEntry.mk.injEq]
    constructor
    · rintro ⟨k, ⟨hk, hn⟩, rfl, rfl⟩
      exact ⟨rfl, hk, hno.1 hn⟩
    · rintro ⟨rfl, hk, hn⟩
      exact ⟨kind, ⟨hk, hno.2 hn⟩, rfl, rfl⟩

/-! ### What the start of the unit leaves as it was -/

section
variable (s)

@[simp] theorem openPeriod_timeTimer (p : TimePos) (f : RecordFlags) :
    (openPeriod p f s).dc.timeTimer = s.dc.timeTimer := by simp [openPeriod]

@[simp] theorem closePeriod_timeTimer (p : Period) (len : Nat) :
    (closePeriod p len s).dc.timeTimer = s.dc.timeTimer := by simp [closePeriod]

@[simp] theorem closeInterval_timeTimer (i : Interval) (len : Nat) :
    (closeInterval i len s).dc.timeTimer = s.dc.timeTimer := by simp [closeInterval]

@[simp] theorem openIntervalAt_timeTimer (p : TimePos) (f : RecordFlags) :
    (openIntervalAt p f s).dc.timeTimer = s.dc.timeTimer := by simp [openIntervalAt]

@[simp] theorem closeIntervalNow_timeTimer : (closeIntervalNow s).dc.timeTimer = s.dc.timeTimer := by
  simp only [closeIntervalNow]; split <;> simp

@[simp] theorem tieStart_timeTimer (k : StartKind) : (tieStart k s).dc.timeTimer = s.dc.timeTimer := by
  simp only [tieStart, resumePeriod]; (repeat' split) <;> simp

@[simp] theorem resumeInterval_timeTimer (i : Interval) : (resumeInterval i s).dc.timeTimer = s.dc.timeTimer := by
  simp only [resumeInterval]; (repeat' split) <;> simp

@[simp] theorem meterStart_timeTimer (k : StartKind) : (meterStart k s).dc.timeTimer = s.dc.timeTimer := by
  simp only [meterStart]; (repeat' split) <;> simp

@[simp] theorem startUnit_timeTimer (k : StartKind) : (startUnit k s).dc.timeTimer = s.dc.timeTimer := by
  simp only [startUnit]; split <;> simp

@[simp] theorem tellAsserted_timeTimer : (tellAsserted s).dc.timeTimer = s.dc.timeTimer := by
  simp only [tellAsserted, tiePowerFail, meterPowerFail, closePeriodNow, flagInterval]; (repeat' split) <;> simp

@[simp] theorem startAndTell_timeTimer (k : StartKind) : (startAndTell k s).dc.timeTimer = s.dc.timeTimer := by
  simp only [startAndTell]; split <;> simp

@[simp] theorem restartAndStart_timeTimer (k : StartKind) :
    (restartAndStart k s).dc.timeTimer = s.dc.timeTimer := by
  simp only [restartAndStart]; (repeat' split) <;> simp
end

/-- Two states differ, in the Share Engine, in the grants alone, and in the Field Port not at all. -/
def SetpointStands (s t : State) : Prop :=
  t.se.setpoint = s.se.setpoint ∧ t.se.roundCount = s.se.roundCount ∧ t.fp = s.fp

theorem setpointStands_of_eq {t : State} (hse : t.se = s.se) (hfp : t.fp = s.fp) : SetpointStands s t :=
  ⟨by rw [hse], by rw [hse], hfp⟩

theorem SetpointStands.trans {t u : State} (h : SetpointStands s t) (k : SetpointStands t u) : SetpointStands s u :=
  ⟨k.1.trans h.1, k.2.1.trans h.2.1, k.2.2.trans h.2.2⟩

/-- In fallback the start of a TURBINE's unit sends no setpoint (R52, R133). -/
theorem startUnit_stands (k : StartKind) (h : s.se.fallback = true) : SetpointStands s (startUnit k s) := by
  simp only [startUnit]
  split
  · exact setpointStands_of_eq (by simp) (by simp)
  · exact setpointStands_of_eq (by simp) (by simp)
  · rw [recomputeTurbine, rebuildWant_inFallback (by simpa using h)]
    exact ⟨rfl, rfl, rfl⟩
  all_goals exact setpointStands_of_eq rfl rfl

theorem startAndTell_stands (k : StartKind) (h : s.se.fallback = true) : SetpointStands s (startAndTell k s) := by
  have hp : SetpointStands s (protectedAtStart k s) := setpointStands_of_eq (by simp) (by simp)
  have hu := hp.trans (startUnit_stands k (by simpa using h))
  simp only [startAndTell]
  split
  · exact hu.trans (setpointStands_of_eq (by simp) (by simp))
  · exact hu

theorem restartAndStart_stands (k : StartKind) (h : s.se.fallback = true) :
    SetpointStands s (restartAndStart k s) := by
  have hd : SetpointStands s (drawn s) := setpointStands_of_eq rfl rfl
  have hr : ∀ t, SetpointStands t (restartCommit t) := fun t => setpointStands_of_eq (by simp) (by simp)
  simp only [restartAndStart]
  (repeat' split)
  · exact startAndTell_stands k h
  · exact (hd.trans (hr _)).trans (startAndTell_stands k (by simpa using h))
  · exact (hd.trans (startAndTell_stands k (by simpa using h))).trans (hr _)

/-! ### The timers of a role (R65, R154) -/

theorem startRoleTimers_hu {r : Role} (hr : s.mc.config.role = some r) : (startRoleTimers s).hu =
    { s.hu with levelTimer := if r = .holder then some 30 else s.hu.levelTimer } := by
  cases r <;> simp [startRoleTimers, hr]

theorem startRoleTimers_timeTimer {r : Role} (hr : s.mc.config.role = some r) :
    (startRoleTimers s).dc.timeTimer = if r = .exportTie then some 60 else s.dc.timeTimer := by
  cases r <;> simp [startRoleTimers, hr]

/-! ### The configuration of an image -/

theorem configOf_role (r : Role) (img : RawImage) : (configOf r img).role = some r := by cases r <;> rfl

theorem configOf_tag (r : Role) (img : RawImage) : (configOf r img).tag = img.computed := by cases r <;> rfl

theorem keepsTimeFree_iff {c : StationConfig} {r : Role} (h : c.role = some r) :
    keepsTimeFree c = true ↔ r = .townheat ∨ r = .exportTie := by
  simp [keepsTimeFree, h]

/-! ### The entry to LISTEN-IN with a loaded image -/

/-- The state in which the loaded image's configuration stands and its faults are raised. -/
def Configured (r : Role) (img : RawImage) (z w : State) : Prop :=
  ∃ ks n, ks.Perm (loadFaults (configOf r img) z.dc.quality) ∧ w = { z with
    mc := { z.mc with
      config := configOf r img, rememberedTag := some img.computed
      faults := faultsAfter ks z.dc.time z.mc.faults }
    freeNext := n }

theorem loaded_eq (r : Role) (img : RawImage) (z : State) : ∃ w, Configured r img z w ∧
    loaded r img z = restartAndStart (startKind img.computed z.mc) (startRoleTimers (enterListenIn w)) := by
  obtain ⟨ks, n, hp, hw⟩ := raiseLoadFaults_eq
    (z.setMc { z.mc with config := configOf r img, rememberedTag := some img.computed })
  exact ⟨_, ⟨ks, n, hp, rfl⟩, by rw [loaded, hw]; rfl⟩

theorem fallbackSent_want {c : StationConfig} {m : Main} (h : wantMain c = some m) :
    fallbackSent c = [.setpoint m c.fallbackSetpoint] := by
  rw [fallbackSent, h]

theorem fallbackSent_none {c : StationConfig} (h : wantMain c = none) : fallbackSent c = [] := by
  rw [fallbackSent, h]

/-- What the end of LOADING with a loaded image makes of the mode, the line, the share, the port and the timers. -/
theorem loaded_entered (r : Role) (img : RawImage) (z : State) (htx : z.liu.tx = []) :
    let c := configOf r img
    let t := loaded r img z
    (∃ ks, ks.Perm (loadFaults c z.dc.quality) ∧ t.mc = { z.mc with
      mode := .listenIn, config := c, rememberedTag := some img.computed
      faults := faultsAfter ks z.dc.time z.mc.faults }) ∧
      t.liu = { z.liu with tx := [⟨.hello (some r) (mainsByte (stationMains c)) c.period img.computed,
        0, none, false⟩] } ∧
      (t.se.roundTimer = some c.period ∧ t.se.roundCount = 0 ∧ t.se.fallback = true ∧
        t.se.setpoint = if wantMain c = none then z.se.setpoint else c.fallbackSetpoint) ∧
      t.fp = { z.fp with statusTimer := none, out := z.fp.out ++ fallbackSent c } ∧
      t.hu = { z.hu with levelTimer := if r = .holder then some 30 else z.hu.levelTimer } ∧
      t.dc.timeTimer = if r = .exportTie then some 60 else z.dc.timeTimer := by
  intro c t
  obtain ⟨w, ⟨ks, n, hp, hw⟩, ht⟩ := loaded_eq r img z
  have he := enterListenIn_enters w
  obtain ⟨hst, hsc, hsf, hss⟩ : (enterListenIn w).se.roundTimer = some w.mc.config.period ∧
      (enterListenIn w).se.roundCount = 0 ∧ (enterListenIn w).se.fallback = true ∧ (enterListenIn w).se.setpoint =
        if wantMain w.mc.config = none then w.se.setpoint else w.mc.config.fallbackSetpoint := by
    rw [he.share]
    exact ⟨rfl, rfl, rfl, rfl⟩
  have hrole : (enterListenIn w).mc.config.role = some r := by rw [he.modes, hw]; exact configOf_role r img
  have hfall : (startRoleTimers (enterListenIn w)).se.fallback = true := by
    simp [hsf]
  obtain ⟨hset, hcount, hport⟩ := restartAndStart_stands (startKind img.computed z.mc) hfall
  have htxw : w.liu.tx.length < 4 := by rw [hw]; simp [htx]
  have hbase : (startRoleTimers (enterListenIn w)).se = (enterListenIn w).se := by simp
  rw [hbase] at hset hcount
  refine ⟨⟨ks, hp, ?_⟩, ?_, ⟨?_, ?_, ?_, ?_⟩, ?_, ?_, ?_⟩
  · simp only [t, ht, restartAndStart_frame, startRoleTimers_frame, he.modes]
    rw [hw]
  · simp only [t, ht, restartAndStart_frame, startRoleTimers_frame, he.hello htxw]
    rw [hw]
    simp [htx, configOf_role, configOf_tag, c]
  · simp only [t, ht, restartAndStart_frame, startRoleTimers_frame, hst]
    rw [hw]
  · simp only [t, ht, hcount, hsc]
  · simp only [t, ht, restartAndStart_frame, startRoleTimers_frame, hsf]
  · simp only [t, ht, hset, hss]
    rw [hw]
  · simp only [t, ht, hport, startRoleTimers_frame, he.port]
    rw [hw]
  · simp only [t, ht, restartAndStart_frame, startRoleTimers_hu hrole, he.others]
    rw [hw]
  · simp only [t, ht, restartAndStart_timeTimer, startRoleTimers_timeTimer hrole, he.others]
    rw [hw]

/-- Settles O3. -/
theorem goodImageEntersListenIn : Obligations.GoodImageEntersListenIn := by
  intro strap bytes img r s hm htx himg hok hrole
  let z := loadCommon strap .ok (some img) s
  have hload : load strap (some img) s = loaded r img z := by
    simp only [load, loadOutcomeOf, hok, hrole]
    rfl
  have hexec : effect (.loadComplete strap (some bytes)) s = loaded r img z := by
    rw [effect_loadComplete, if_pos hm, Option.bind_some, himg, hload]
  obtain ⟨⟨ks, hp, hmc⟩, hliu, ⟨hround, hcount, hfall, hset⟩, hfp, hhu, htime⟩ := loaded_entered r img z htx
  obtain ⟨-, -, -, -, -, hpeers, -, -, -, -, -, hown, hsrc, hrl, hfu, -, htm, -, -, -, -, htrim, hacc, -, hlink,
    hlt, hnode, -, -, hpend⟩ := loaded_frame (s := z) r img
  refine ⟨_, congrArg Host.Outcome.next hexec, by rw [hmc], by rw [hmc]; rfl, hnode, by rw [hmc],
    by rw [hmc]; exact configOf_role r img, by rw [hmc], hliu, hround, hcount, hfall, fun m hw => ?_,
    fun hw => ?_, hlt, by rw [hfp], hlink, htrim, hacc, htm, hhu, htime, fun hlen => ?_, hpeers, hfu, hrl,
    fun l => ⟨hown l, hsrc l⟩, hpend⟩
  · refine ⟨hset.trans (if_neg (by simp [hw])), ?_⟩
    rw [hfp, fallbackSent_want hw]
    rfl
  · rw [hfp, fallbackSent_none hw]
    exact List.append_nil _
  · intro raised
    obtain ⟨new, hnew, hnodup, hmem⟩ := loadFaults_added (now := s.dc.time) (fs := s.mc.faults) hp hlen
    refine ⟨new, by rw [hmc]; exact hnew, hnodup, fun e => (hmem e).trans ?_⟩
    rw [mem_loadFaults, anyReplaced_iff, keepsTimeFree_iff (configOf_role r img)]
    exact Iff.rfl

end Sys2Proof.Machine
end

section
/-! Bytes written and read back, and the records of an image split as they were put together (R172, R182, R185). -/

namespace Sys2Proof.Machine

/-! ### Fields read back (13) -/

@[simp] theorem at1_cons_zero (b : Byte) (l : List Byte) : at1 (b :: l) 0 = b.toNat := rfl

@[simp] theorem at1_cons_succ (b : Byte) (l : List Byte) (i : Nat) : at1 (b :: l) (i + 1) = at1 l i := rfl

theorem at1_append_right (a b : List Byte) (i : Nat) : at1 (a ++ b) (a.length + i) = at1 b i := by
  rw [at1, at1, List.getD_append_right _ _ _ _ (Nat.le_add_right _ _), Nat.add_sub_cancel_left]

theorem at1_append_left {a : List Byte} {i : Nat} (b : List Byte) (h : i < a.length) : at1 (a ++ b) i = at1 a i := by
  rw [at1, at1, List.getD_append _ _ _ _ h]

theorem at2_append_right (a b : List Byte) (i : Nat) : at2 (a ++ b) (a.length + i) = at2 b i := by
  rw [at2, at2, Nat.add_assoc, at1_append_right, at1_append_right]

@[simp] theorem byte1_length (n : Nat) : (byte1 n).length = 1 := rfl

@[simp] theorem byte2_length (n : Nat) : (byte2 n).length = 2 := rfl

@[simp] theorem byte4_length (n : Nat) : (byte4 n).length = 4 := rfl

/-- A two-byte field as it is read back. -/
theorem at2_byte2 {n : Nat} (h : n < 65536) (l : List Byte) : at2 (byte2 n ++ l) 0 = n := by
  simp only [at2, byte2, List.cons_append, at1_cons_succ, at1_cons_zero, BitVec.toNat_ofNat]
  omega

theorem at1_byte1 {n : Nat} (h : n < 256) (l : List Byte) : at1 (byte1 n ++ l) 0 = n := by
  simp only [byte1, List.cons_append, at1_cons_zero, BitVec.toNat_ofNat]
  omega

/-! ### The records of an image (R172 check 1, R185) -/

/-- A record as it stands in an image. -/
def recordOf (x : List Byte × Nat) : List Byte := byte1 (x.2 + 1) ++ byte1 x.1.length ++ x.1

theorem recordOf_length (x : List Byte × Nat) : (recordOf x).length = x.1.length + 2 := by
  simp [recordOf]
  omega

/-- Bodies of the lengths laid down, one after the other from a place on, are split as they were put together. -/
theorem splitRecords_records {bodies : List (List Byte)} {lens : List Nat}
    (h : List.Forall₂ (fun b n => b.length = 0 ∨ b.length = n) bodies lens) (hl : ∀ n ∈ lens, n < 256)
    (tail : List Byte) : ∀ k, k + lens.length < 256 →
      splitRecords (k + 1) lens ((bodies.zipIdx k).flatMap recordOf ++ tail) = some (bodies, tail) := by
  induction h with
  | nil => intro k _; rfl
  | @cons b n bodies lens hb _ ih =>
    intro k hk
    obtain ⟨hn, hl⟩ := List.forall_mem_cons.1 hl
    rw [List.length_cons] at hk
    have hblen : b.length < 256 := by omega
    let after := (bodies.zipIdx (k + 1)).flatMap recordOf ++ tail
    have hbytes : ((b :: bodies).zipIdx k).flatMap recordOf ++ tail =
        byte1 (k + 1) ++ (byte1 b.length ++ (b ++ after)) := by
      simp [List.zipIdx_cons, recordOf, after]
    have hplace : at1 (byte1 (k + 1) ++ (byte1 b.length ++ (b ++ after))) 0 = k + 1 := at1_byte1 (by omega) _
    have hlen : at1 (byte1 (k + 1) ++ (byte1 b.length ++ (b ++ after))) 1 = b.length := at1_byte1 hblen (b ++ after)
    have hrest : (byte1 (k + 1) ++ (byte1 b.length ++ (b ++ after))).drop (b.length + 2) = after := by
      simp [byte1]
    have hbody : ((byte1 (k + 1) ++ (byte1 b.length ++ (b ++ after))).drop 2).take b.length = b := by
      simp [byte1]
    have hsize : b.length + 2 ≤ (byte1 (k + 1) ++ (byte1 b.length ++ (b ++ after))).length := by
      simp
      omega
    rw [hbytes, splitRecords]
    simp only [hplace, hlen]
    rw [if_pos ⟨trivial, hb, hsize⟩, hrest, ih hl (k + 1) (by omega), hbody]

theorem recordsOf_length_le {bodies : List (List Byte)} {lens : List Nat}
    (h : List.Forall₂ (fun b n => b.length = 0 ∨ b.length = n) bodies lens) (k : Nat) :
    ((bodies.zipIdx k).flatMap recordOf).length ≤ lens.sum + 2 * lens.length := by
  induction h generalizing k with
  | nil => simp
  | @cons b n bodies lens hb _ ih =>
    have hi := ih (k + 1)
    simp only [List.zipIdx_cons, List.flatMap_cons, List.length_append, recordOf_length, List.sum_cons,
      List.length_cons]
    omega

/-- Seven records and the CRC-16 behind them make an image that is read (R172 check 1). -/
theorem rawImage_records {bodies : List (List Byte)}
    (h : List.Forall₂ (fun b n => b.length = 0 ∨ b.length = n) bodies recordLengths) {stored : Nat}
    (hs : stored < 65536) (rest : List Byte) :
    rawImage (bodies.zipIdx.flatMap recordOf ++ byte2 stored ++ rest) =
      some ⟨bodies, stored, crc16 (bodies.zipIdx.flatMap recordOf)⟩ := by
  let recs := bodies.zipIdx.flatMap recordOf
  have hlen : recs.length ≤ 215 := recordsOf_length_le h 0
  let tail := byte2 stored ++ rest.take (510 - recs.length)
  have hmem : (recs ++ byte2 stored ++ rest).take 512 = recs ++ tail := by
    have h2 : (recs ++ byte2 stored).length ≤ 512 := by simp; omega
    rw [List.take_append, List.take_of_length_le h2, List.append_assoc]
    simp only [tail, List.length_append, byte2_length]
    congr 3
    omega
  have hsplit : splitRecords 1 recordLengths (recs ++ tail) = some (bodies, tail) :=
    splitRecords_records h (by decide) tail 0 (by decide)
  have htail : 2 ≤ tail.length := by simp [tail]
  have hrecs : (recs ++ tail).take ((recs ++ tail).length - tail.length) = recs := by simp
  change rawImage (recs ++ byte2 stored ++ rest) = _
  simp only [rawImage, hmem, hsplit, if_pos htail, hrecs]
  rw [show at2 tail 0 = stored from at2_byte2 hs _]

end Sys2Proof.Machine
end

section
/-! The statement about the checks of an image and the values taken from it (R36, R45, R52, R60, R82, R90, R91, R106,
R119, R133, R135, R151, R172, R185). -/

namespace Sys2Proof.Machine

variable {s : State} {img : RawImage} {r : Role} {strap : Node}

/-! ### What every end of LOADING sets -/

/-- Whatever the outcome, it is shown, and NODE's trim stands with nothing accumulated (R151, R172). -/
theorem load_sets (strap : Node) (image : Option RawImage) (s : State) :
    (load strap image s).mc.loadOutcome = loadOutcomeOf strap image ∧
      (load strap image s).dc.trim = imageTrim image ∧ (load strap image s).dc.trimAcc = 0 := by
  rcases load_cases strap image s with h | ⟨r, img, -, -, -, h⟩
  · rw [h]
    simp [notLoaded, loadCommon]
  · obtain ⟨w, ⟨ks, n, -, hw⟩, ht⟩ := loaded_eq r img (loadCommon strap (loadOutcomeOf strap image) image s)
    have hmodes := (enterListenIn_enters w).modes
    rw [h]
    refine ⟨?_, by simp [loadCommon], by simp [loadCommon]⟩
    rw [ht]
    simp only [restartAndStart_frame, startRoleTimers_frame, hmodes]
    rw [hw]
    rfl

/-! ### The trim (R151) -/

theorem imageTrim_taken (hc : img.stored = img.computed) (hn : bodyAt img 1 ≠ []) :
    imageTrim (some img) = max (-1023) (min (at2s (bodyAt img 1) 7) 1023) := by
  simp only [imageTrim, if_pos (And.intro hc (present_iff.2 hn))]
  (repeat' split) <;> omega

theorem imageTrim_zero (h : img.stored ≠ img.computed ∨ ¬bodyAt img 1 ≠ []) : imageTrim (some img) = 0 := by
  have hno : ¬(img.stored = img.computed ∧ present img 1 = true) := by
    rw [present_iff]
    tauto
  exact if_neg hno

/-! ### The load checks (R172) -/

/-- The records a role requires. -/
def HasRequired (r : Role) (img : RawImage) : Prop :=
  (r = .exportTie → bodyAt img 7 ≠ []) ∧ (r ≠ .exportTie → bodyAt img 2 ≠ []) ∧
    (r = .boiler → bodyAt img 3 ≠ []) ∧ (r = .townheat → bodyAt img 6 ≠ [])

theorem requiredPresent_iff : requiredPresent r img = true ↔ HasRequired r img := by
  cases r <;> simp [requiredPresent, HasRequired, present_iff]

/-- The thresholds of a HOLDER each below the next (R60). -/
def ThresholdsRise (img : RawImage) : Prop :=
  let limit := fun o => Nat.min (at2 (bodyAt img 2) o) 1000
  limit 9 < limit 11 ∧ limit 11 < limit 13 ∧ limit 13 < limit 15

theorem strictlyRising_iff : strictlyRising (thresholds img) = true ↔ ThresholdsRise img := by
  simp [strictlyRising, thresholds, ThresholdsRise, holdPerMille]

section
variable (hc : img.stored = img.computed)
include hc

theorem outcomeOf_noRole (h : imageRole img = none) : outcomeOf strap img = .recordMissing := by
  simp [outcomeOf, hc, h]

variable (hr : imageRole img = some r)
include hr

theorem outcomeOf_otherNumber (hn : at1 (bodyAt img 1) 0 ≠ strap.val) : outcomeOf strap img = .numberMismatch := by
  simp [outcomeOf, hc, hr, hn]

variable (hn : at1 (bodyAt img 1) 0 = strap.val)
include hn

theorem outcomeOf_incomplete (h : ¬HasRequired r img) : outcomeOf strap img = .recordMissing := by
  have h := eq_false_of_iff requiredPresent_iff h
  simp [outcomeOf, hc, hr, hn, h]

theorem outcomeOf_unordered (h : HasRequired r img) (hh : r = .holder) (ht : ¬ThresholdsRise img) :
    outcomeOf strap img = .thresholdsUnordered := by
  have h := requiredPresent_iff.2 h
  have ht := eq_false_of_iff strictlyRising_iff ht
  subst hh
  simp [outcomeOf, hc, hr, hn, h, ht]

theorem outcomeOf_ok (h : HasRequired r img) (ht : r = .holder → ThresholdsRise img) :
    outcomeOf strap img = .ok := by
  have h := requiredPresent_iff.2 h
  have ht : r = .holder → strictlyRising (thresholds img) = true := fun hh => strictlyRising_iff.2 (ht hh)
  simpa [outcomeOf, hc, hr, hn, h] using ht
end

/-! ### A step of a ladder (R90, R91, R185) -/

section
variable {c : StationConfig} {m : Main} {code param dwell : Nat}

theorem stepOf_dwell : (stepOf c m code param dwell).dwell = Nat.max 5 (Nat.min dwell 3600) := by
  simp only [stepOf]
  split <;> rfl

theorem stepOf_replaced (h : (stepOf c m code param dwell).replaced = true) :
    (stepOf c m code param dwell).action = .none := by
  simp only [stepOf] at h ⊢
  split at h
  · exact absurd h Bool.false_ne_true
  · rfl

/-- An action a code names stands where it is valid, and is replaced where it is not. -/
theorem stepOf_named {a : Action} (h : actionOf code param = some a) :
    (stepOf c m code param dwell).replaced = !actionValid c m a ∧
      ((stepOf c m code param dwell).replaced = false → (stepOf c m code param dwell).action = a) := by
  cases hv : actionValid c m a <;> simp [stepOf, h, hv, Option.filter]

theorem stepOf_unnamed (h : actionOf code param = none) : (stepOf c m code param dwell).replaced = true := by
  simp [stepOf, h]

theorem actionOf_above (h : 7 ≤ code) : actionOf code param = none := by
  obtain ⟨n, rfl⟩ := Nat.exists_eq_add_of_le' h
  rfl

theorem wakeable_eq (w : Role) (m : Main) : wakeable w m =
    decide (w = .producer ∨ w = .boiler ∨ w = .consumer ∧ m ≠ .m2 ∨ w = .turbine ∧ m = .m2) := by
  cases w <;> cases m <;> rfl

end

/-! ### The configuration taken from an image (R185) -/

theorem configOf_lines (l : ClaimLine) : (configOf r img).lines.get l = lineOf (roleConfig r img) (bodyAt img 4) l := by
  simp [configOf, Six.get_build]

theorem configOf_wakeSet (l : ClaimLine) : (configOf r img).wakeSet.get l =
    (bodyAt img 5 ≠ [] && (at1 (bodyAt img 5) 0).testBit (lineNumber l)) := by
  have hset : (configOf r img).wakeSet =
      if present img 5 then claimSetOfByte (at1 (bodyAt img 5) 0) else Six.all false := by cases r <;> rfl
  rw [hset]
  by_cases h : bodyAt img 5 = []
  · have hp : present img 5 = false := eq_false_of_iff present_iff (not_not_intro h)
    cases l with | mk m k => cases m <;> cases k <;> simp [hp, h]
  · rw [if_pos (present_iff.2 h), claimSetOfByte, Six.get_build]
    simp [h, bitOf]

/-- MAIN A of a station on a main of its own choosing, a higher code held as 2 (R185). -/
theorem imageMain_kept (hr : r = .producer ∨ r = .holder) (code : Nat) :
    mainNumber (imageMain r code) = Nat.min code 2 := by
  have hcode : mainNumber (if code = 0 then .m0 else if code = 1 then .m1 else .m2) = Nat.min code 2 := by
    by_cases h0 : code = 0
    · rw [if_pos h0, h0]; rfl
    · by_cases h1 : code = 1
      · rw [if_neg h0, if_pos h1, h1]; rfl
      · rw [if_neg h0, if_neg h1]
        exact (Nat.min_eq_right (show 2 ≤ code by omega)).symm
  rcases hr with rfl | rfl <;> exact hcode

theorem configOf_main : (configOf r img).main = imageMain r (at1 (bodyAt img 2) 0) := by cases r <;> rfl

/-- The lines play no part in the validity of a step (R91). -/
theorem wantMain_configOf : wantMain (roleConfig r img) = wantMain (configOf r img) := by cases r <;> rfl

theorem roleConfig_role : (roleConfig r img).role = some r := by cases r <;> rfl

theorem roleConfig_main : (roleConfig r img).main = (configOf r img).main := by cases r <;> rfl

/-! ### A line's steps (R82, R90, R91) -/

/-- The step at a place of a line, as the image's body lays it out. -/
def stepAt (r : Role) (img : RawImage) (l : ClaimLine) (j : Nat) : Step :=
  let o := 22 * lineNumber l
  let body := bodyAt img 4
  stepOf (roleConfig r img) l.main (at1 body (o + 2 + 5 * j)) (at2 body (o + 3 + 5 * j)) (at2 body (o + 5 + 5 * j))

theorem configOf_openLine (h : bodyAt img 4 = []) (l : ClaimLine) : (configOf r img).lines.get l = ⟨false, []⟩ := by
  rw [configOf_lines, lineOf, h]
  rfl

theorem configOf_line (h : bodyAt img 4 ≠ []) (l : ClaimLine) : (configOf r img).lines.get l =
    ⟨at1 (bodyAt img 4) (22 * lineNumber l) != 0,
      (List.range (Nat.min (at1 (bodyAt img 4) (22 * lineNumber l + 1)) 4)).map (stepAt r img l)⟩ := by
  rw [configOf_lines, lineOf, if_neg (by simpa using h)]
  rfl

/-- A step as the layout of LADDERS, the role and the line's main make it. -/
theorem stepAt_valid (l : ClaimLine) (j : Nat) :
    let c := configOf r img
    let st := stepAt r img l j
    let o := 22 * lineNumber l
    let code := at1 (bodyAt img 4) (o + 2 + 5 * j)
    let param := at2 (bodyAt img 4) (o + 3 + 5 * j)
    let valid := fun b : Bool => st.replaced = !b
    st.dwell = Nat.max 5 (Nat.min (at2 (bodyAt img 4) (o + 5 + 5 * j)) 3600) ∧
      (st.replaced = true → st.action = .none) ∧
      (code = 0 → st.action = .none ∧ valid true) ∧
      (code = 1 → valid (r = .boiler) ∧ (st.replaced = false → st.action = .fuelBackup)) ∧
      (code = 2 → valid (r = .boiler) ∧ (st.replaced = false → st.action = .fuelGas)) ∧
      (code = 3 → valid (wantMain c = some l.main) ∧
        (st.replaced = false → st.action = .raise (Nat.min param 20000))) ∧
      (code = 4 → valid (wantMain c = some l.main) ∧ (st.replaced = false → st.action = .shed)) ∧
      (code = 5 → valid (r = .holder ∧ c.main ≠ .m2 ∧ c.main = l.main) ∧
        (st.replaced = false → st.action = .flareStep)) ∧
      (code = 6 → (∀ w, roleCode w = param → (st.replaced = false → st.action = .wake w) ∧
          valid (w = .producer ∨ w = .boiler ∨ w = .consumer ∧ l.main ≠ .m2 ∨ w = .turbine ∧ l.main = .m2)) ∧
        (7 ≤ param → valid false)) ∧
      (7 ≤ code → valid false) := by
  intro c st o code param valid
  have hst {a : Action} (h : actionOf code param = some a) {b : Bool}
      (hv : actionValid (roleConfig r img) l.main a = b) : valid b ∧ (st.replaced = false → st.action = a) := by
    obtain ⟨hrep, hact⟩ := stepOf_named (c := roleConfig r img) (m := l.main)
      (dwell := at2 (bodyAt img 4) (o + 5 + 5 * j)) h
    exact ⟨hv ▸ hrep, hact⟩
  have hboiler : actionValid (roleConfig r img) l.main .fuelBackup = decide (r = .boiler) := by
    rw [actionValid, roleConfig_role, Bool.eq_iff_iff]
    simp
  have hwant : actionValid (roleConfig r img) l.main .shed = decide (wantMain c = some l.main) := by
    rw [actionValid, wantMain_configOf, Bool.eq_iff_iff]
    simp [c]
  have hflare : actionValid (roleConfig r img) l.main .flareStep =
      decide (r = .holder ∧ c.main ≠ .m2 ∧ c.main = l.main) := by
    rw [actionValid, hasFlare, roleConfig_role, roleConfig_main, Bool.eq_iff_iff]
    simp [and_assoc, c]
  refine ⟨stepOf_dwell, stepOf_replaced, fun h => ?none, fun h => hst (by rw [h]; rfl) hboiler,
    fun h => hst (by rw [h]; rfl) hboiler, fun h => hst (by rw [h]; rfl) hwant, fun h => hst (by rw [h]; rfl) hwant,
    fun h => hst (by rw [h]; rfl) hflare, fun h => ⟨fun w hw => ?wake, fun hp => ?noRole⟩,
    fun h => stepOf_unnamed (actionOf_above h)⟩
  case none =>
    obtain ⟨hv, ha⟩ := hst (a := .none) (by rw [h]; rfl) rfl
    exact ⟨ha hv, hv⟩
  case wake =>
    have ha : actionOf code param = some (.wake w) := by
      rw [h, ← hw, actionOf, roleOfCode_roleCode]
      rfl
    exact (hst ha (wakeable_eq w l.main)).symm
  case noRole =>
    refine stepOf_unnamed ?_
    rw [show at1 (bodyAt img 4) (22 * lineNumber l + 2 + 5 * j) = 6 from h, actionOf, roleOfCode_none hp]
    rfl

/-- A LOAD_COMPLETE shows the outcome of the checks and takes the trim (R151, R172). -/
theorem loadComplete_checks (strap : Node) (image : Option (List Byte)) (s : State) (hm : s.mc.mode = .loading) :
    ∃ t, exec (.loadComplete strap image) s = .next t ∧
      t.mc.loadOutcome = loadOutcomeOf strap (image.bind rawImage) ∧ t.dc.trim = imageTrim (image.bind rawImage) ∧
      t.dc.trimAcc = 0 := by
  obtain ⟨ho, ht, ha⟩ := load_sets strap (image.bind rawImage) s
  exact ⟨_, congrArg Host.Outcome.next ((effect_loadComplete (s := s) strap image).trans (if_pos hm)), ho, ht, ha⟩

/-- Settles O5. -/
theorem imageChecksAndClamps : Obligations.ImageChecksAndClamps := by
  refine ⟨fun bodies h stored rest hs => rawImage_records h hs rest, fun strap image s hm => ?checks,
    fun r img => ?values⟩
  case checks =>
    obtain ⟨t, hexec, ho, ht, ha⟩ := loadComplete_checks strap image s hm
    refine ⟨t, hexec, fun hnone => ?_, ha, fun img himg => ?_⟩
    · rw [ho, ht, hnone]
      exact ⟨rfl, rfl⟩
    · rw [himg] at ho ht
      replace ho : t.mc.loadOutcome = outcomeOf strap img := ho
      intro node has complete limit rising trim
      refine ⟨fun hc hn => ht.trans (imageTrim_taken hc hn), fun h => ht.trans (imageTrim_zero h),
        fun hc => ho.trans (if_pos hc), fun hc h => ho.trans (outcomeOf_noRole hc (imageRole_none ?_)),
        fun r hc hn hcode => ?_⟩
      · exact h.imp_left not_not.1
      · have hr := imageRole_of_code hn hcode
        exact ⟨fun h => ho.trans (outcomeOf_otherNumber hc hr h),
          fun h hno => ho.trans (outcomeOf_incomplete hc hr h hno),
          fun h hreq hh hno => ho.trans (outcomeOf_unordered hc hr h hreq hh hno),
          fun h hreq hrise => ho.trans (outcomeOf_ok hc hr h hreq hrise)⟩
  case values =>
    intro c node a
    refine ⟨?common, fun hr => ?kept, fun hr => ?want, ?holder, ?boiler, ?turbine, ?townheat, ?tie,
      configOf_openLine, fun l hl => ?line⟩
    case common =>
      refine ⟨configOf_role r img, configOf_tag r img, ?_, ?_, ?_, configOf_wakeSet⟩ <;> cases r <;> rfl
    case kept => rw [configOf_main]; exact imageMain_kept hr _
    case want =>
      refine ⟨by rw [configOf_main]; exact imageMain_want hr _, ?_⟩
      rcases hr with rfl | rfl <;> exact ⟨rfl, rfl, rfl, rfl, rfl⟩
    case holder => rintro rfl; exact ⟨rfl, rfl, rfl, rfl, rfl, rfl⟩
    case boiler => rintro rfl; exact ⟨rfl, rfl, rfl⟩
    case turbine => rintro rfl; exact ⟨rfl, rfl, rfl⟩
    case townheat =>
      rintro rfl
      refine ⟨rfl, rfl, fun h hh => ?_⟩
      have ht : c.tariff = (List.range 24).map fun h => Nat.min (at1 (bodyAt img 6) h) 3 := rfl
      rw [ht]
      simp [hh]
    case tie => rintro rfl; rfl
    case line =>
      intro o count
      rw [configOf_line hl]
      refine ⟨by rw [Bool.eq_iff_iff]; simp [o], by simp [count, o], fun j hj => ⟨stepAt r img l j, ?_, ?_⟩⟩
      · rw [List.getElem?_map, List.getElem?_range hj]
        rfl
      · exact stepAt_valid l j

end Sys2Proof.Machine
end

section
/-! The statement about frames as bytes: built, heard and read (R1, R11, R12, R50, R182, R183). -/

namespace Sys2Proof.Machine

variable {s : State}

/-! ### Fields behind others, and of four bytes -/

theorem at1_behind1 (n : Nat) (l : List Byte) (i : Nat) : at1 (byte1 n ++ l) (i + 1) = at1 l i := rfl

theorem at1_behind2 (n : Nat) (l : List Byte) (i : Nat) : at1 (byte2 n ++ l) (i + 2) = at1 l i := rfl

theorem at2_behind1 (n : Nat) (l : List Byte) (i : Nat) : at2 (byte1 n ++ l) (i + 1) = at2 l i := rfl

theorem at1_byte1_last {n : Nat} (h : n < 256) : at1 (byte1 n) 0 = n := at1_byte1 h []

theorem at4_byte4 {n : Nat} (h : n < 4294967296) (l : List Byte) : at4 (byte4 n ++ l) 0 = n := by
  have hhigh : at2 (byte4 n ++ l) 0 = n / 65536 := by
    rw [byte4, List.append_assoc]
    exact at2_byte2 (by omega) _
  have hlow : at2 (byte4 n ++ l) 2 = n % 65536 := by
    have hcut : at2 (byte2 (n / 65536) ++ (byte2 n ++ l)) (2 + 0) = at2 (byte2 n ++ l) 0 := at2_append_right _ _ 0
    rw [byte4, List.append_assoc]
    refine hcut.trans ?_
    simp only [at2, byte2, List.cons_append, at1_cons_succ, at1_cons_zero, BitVec.toNat_ofNat]
    omega
  rw [at4, hhigh, hlow]
  omega

/-! ### Codes read back (13) -/

theorem frameKindOfCode_code (k : FrameKind) : frameKindOfCode (frameKindCode k) = some k := by cases k <;> rfl

theorem frameKindCode_lt (k : FrameKind) : frameKindCode k < 256 := by cases k <;> decide

theorem mainOfNumber_number (m : Main) : mainOfNumber (mainNumber m) = some m := by cases m <;> rfl

theorem mainNumber_lt (m : Main) : mainNumber m < 256 := by cases m <;> decide

theorem roleCode_lt (r : Role) : roleCode r < 7 := by cases r <;> decide

theorem severityOfCode_code (x : Severity) : severityOfCode (severityCode x) = some x := by cases x <;> rfl

theorem severityCode_lt (x : Severity) : severityCode x < 256 := by cases x <;> decide

theorem fuelOfCode_code (f : FuelField) : fuelOfCode (fuelCode f) = f := by cases f <;> rfl

theorem fuelCode_lt (f : FuelField) : fuelCode f < 256 := by cases f <;> decide

theorem bandCode_le (b : Band) : bandCode b ≤ 5 := by cases b <;> decide

theorem causeOfCode_code (c : ResetCause) : causeOfCode (causeCode c) = some c := by cases c <;> rfl

theorem causeCode_lt (c : ResetCause) : causeCode c < 256 := by cases c <;> decide

theorem qualityOfCode_code (q : Quality) : qualityOfCode (qualityCode q) = some q := by cases q <;> rfl

theorem qualityCode_lt (q : Quality) : qualityCode q < 256 := by cases q <;> decide

theorem boolBit_le (b : Bool) (k : Nat) : boolBit b k ≤ 2 ^ k := by cases b <;> simp [boolBit]

theorem claimSetByte_lt (c : Six Bool) : claimSetByte c < 256 := by
  have h := fun k b => boolBit_le b k
  have h0 := h 0 c.shortfall0
  have h1 := h 1 c.surplus0
  have h2 := h 2 c.shortfall1
  have h3 := h 3 c.surplus1
  have h4 := h 4 c.shortfall2
  have h5 := h 5 c.surplus2
  simp only [claimSetByte]
  omega

/-- Bits 6 and 7 of a claim set's byte are 0; the others are its lines. -/
theorem claimSetOfByte_byte (c : Six Bool) : claimSetOfByte (claimSetByte c) = c := by
  obtain ⟨a0, b0, a1, b1, a2, b2⟩ := c
  revert a0 b0 a1 b1 a2 b2
  decide

theorem mainsByte_lt (m : Three Bool) : mainsByte m < 256 := by
  have h := fun k b => boolBit_le b k
  have h0 := h 0 m.m0
  have h1 := h 1 m.m1
  have h2 := h 2 m.m2
  simp only [mainsByte]
  omega

theorem mainsOfByte_byte (m : Three Bool) : mainsOfByte (mainsByte m) = m := by
  obtain ⟨a, b, c⟩ := m
  revert a b c
  decide

/-! ### A frame built is heard as it was built (R1, R12, R182) -/

theorem crc16_lt (l : List Byte) : crc16 l < 65536 := BitVec.isLt _

/-- No payload allowed for its kind is longer than a frame holds. -/
theorem lengthAllowed_le {k : FrameKind} {p : List Byte} (h : lengthAllowed k p = true) : p.length ≤ 48 := by
  cases k with
  | state =>
    simp only [lengthAllowed, Bool.and_eq_true, decide_eq_true_eq, beq_iff_eq] at h
    obtain ⟨⟨-, hn⟩, hl⟩ := h
    split at hl <;> omega
  | record =>
    simp only [lengthAllowed, Bool.or_eq_true, beq_iff_eq] at h
    omega
  | _ => simp only [lengthAllowed, beq_iff_eq] at h; omega

theorem headerAndPayload_length (node kind : Nat) (p : List Byte) :
    (headerAndPayload node kind p).length = 4 + p.length := by
  simp [headerAndPayload]
  omega

/-- With its own CRC-16 behind it, a header and payload make a good frame, with any other none. -/
theorem goodFrame_built (node : Node) {k : FrameKind} {p : List Byte} (h : lengthAllowed k p = true) {c : Nat}
    (hc : c < 65536) (rest : List Byte) :
    goodFrame (headerAndPayload node.val (frameKindCode k) p ++ byte2 c ++ rest) =
      if c = crc16 (headerAndPayload node.val (frameKindCode k) p) then some ⟨node.val, k, p⟩ else none := by
  let head := headerAndPayload node.val (frameKindCode k) p
  let bytes := head ++ (byte2 c ++ rest)
  have hp := lengthAllowed_le h
  have hnode := node.isLt
  have hhead : head.length = 4 + p.length := headerAndPayload_length _ _ _
  have hbytes : bytes = byte1 0xA5 ++ (byte1 node.val ++ (byte1 (frameKindCode k) ++ (byte1 p.length ++
      (p ++ (byte2 c ++ rest))))) := by simp [bytes, head, headerAndPayload]
  have h0 : at1 bytes 0 = 0xA5 := by rw [hbytes]; exact at1_byte1 (by decide) _
  have h1 : at1 bytes 1 = node.val := by rw [hbytes, at1_behind1]; exact at1_byte1 (by omega) _
  have h2 : at1 bytes 2 = frameKindCode k := by
    rw [hbytes, at1_behind1, at1_behind1]
    exact at1_byte1 (frameKindCode_lt k) _
  have h3 : at1 bytes 3 = p.length := by
    rw [hbytes, at1_behind1, at1_behind1, at1_behind1]
    exact at1_byte1 (by omega) _
  have hsize : p.length + 6 ≤ bytes.length := by simp [bytes, hhead]; omega
  have hcrc : bytes.take (4 + p.length) = head := by rw [← hhead]; exact List.take_left
  have hstored : at2 bytes (4 + p.length) = c := by
    rw [← hhead]
    exact (at2_append_right head (byte2 c ++ rest) 0).trans (at2_byte2 hc rest)
  have hpay : (bytes.drop 4).take p.length = p := by rw [hbytes]; simp [byte1]
  rw [List.append_assoc]
  change goodFrame bytes = _
  simp only [goodFrame, h0, h1, h2, h3, hcrc, hstored, hpay]
  by_cases heq : c = crc16 head
  · rw [if_pos ⟨trivial, hsize, heq.symm, hp, by omega⟩, if_pos heq, frameKindOfCode_code]
    exact if_pos h
  · rw [if_neg fun ⟨_, _, hown, _⟩ => heq hown.symm, if_neg heq]

theorem goodFrame_attempt {b : TxBody} (h : lengthAllowed (bodyKind b) (payloadBytes b s) = true) :
    goodFrame (attemptBytes b s) = some ⟨s.mc.node.val, bodyKind b, payloadBytes b s⟩ := by
  have hf := goodFrame_built s.mc.node h
    (crc16_lt (headerAndPayload s.mc.node.val (frameKindCode (bodyKind b)) (payloadBytes b s))) []
  rwa [List.append_nil, if_pos rfl] at hf

/-! ### The short payloads as they are read (R183) -/

theorem readClaim_sent (l : ClaimLine) (e : Edge) : readClaim (payloadBytes (.claim l e) s) = some (l, e) := by
  obtain ⟨m, k⟩ := l
  cases m <;> cases k <;> cases e <;> rfl

theorem readTime_sent {p : TimePos} (h : posOk p) (q : Quality) :
    readTime (payloadBytes (.time p q) s) = some (p, q) := by
  obtain ⟨hd, hs⟩ := h
  have hbytes : payloadBytes (.time p q) s = byte2 p.day ++ (byte4 p.sec ++ (byte1 (qualityCode q) ++ [])) := by
    simp [payloadBytes]
  have hday : at2 (payloadBytes (.time p q) s) 0 = p.day := by rw [hbytes]; exact at2_byte2 hd _
  have hsec : at4 (payloadBytes (.time p q) s) 2 = p.sec := by
    rw [hbytes]
    exact at4_byte4 (n := p.sec) (by omega) (byte1 (qualityCode q) ++ [])
  have hq : at1 (payloadBytes (.time p q) s) 6 = qualityCode q := by
    rw [hbytes]
    exact at1_byte1 (qualityCode_lt q) []
  simp only [readTime, hday, hsec, hq, qualityOfCode_code]

theorem holdPeriod_of_range {n : Nat} (h2 : 2 ≤ n) (h10 : n ≤ 10) : holdPeriod n = n := by
  change max 2 (min n 10) = n
  omega

/-- The fields of a HELLO's payload. -/
theorem helloFields {code mains period tag cause : Nat} (h0 : code < 256) (h1 : mains < 256) (h2 : period < 256)
    (h3 : tag < 65536) (h5 : cause < 256) :
    let p := byte1 code ++ byte1 mains ++ byte1 period ++ byte2 tag ++ byte1 cause
    at1 p 0 = code ∧ at1 p 1 = mains ∧ at1 p 2 = period ∧ at2 p 3 = tag ∧ at1 p 5 = cause := by
  simp only [List.append_assoc]
  exact ⟨at1_byte1 h0 _, at1_byte1 h1 (byte1 period ++ (byte2 tag ++ byte1 cause)),
    at1_byte1 h2 (byte2 tag ++ byte1 cause), at2_byte2 h3 (byte1 cause), at1_byte1_last h5⟩

theorem readHello_sent (r : Role) (mains : Three Bool) {period tag : Nat} (h2 : 2 ≤ period) (h10 : period ≤ 10)
    (ht : tag < 65536) : readHello (payloadBytes (.hello (some r) (mainsByte mains) period tag) s) =
      .configured ⟨r, mains, period, tag, s.mc.cause⟩ := by
  have hr := roleCode_lt r
  obtain ⟨hcode, hmains, hperiod, htag, hcause⟩ :=
    helloFields (code := roleCode r) (period := period) (by omega) (mainsByte_lt mains) (by omega) ht
      (causeCode_lt s.mc.cause)
  simp only [readHello, payloadBytes, hcode, hmains, hperiod, htag, hcause, causeOfCode_code, roleOfCode_roleCode,
    mainsOfByte_byte, holdPeriod_of_range h2 h10]
  exact if_neg (by omega)

theorem readHello_sentUnconfigured (mains period tag : Nat) :
    readHello (payloadBytes (.hello none mains period tag) s) = .unconfigured := by
  have h0 : at1 (payloadBytes (.hello none mains period tag) s) 0 = 7 := rfl
  have h5 : at1 (payloadBytes (.hello none mains period tag) s) 5 = causeCode s.mc.cause :=
    at1_byte1_last (causeCode_lt s.mc.cause)
  simp only [readHello, h0, h5, causeOfCode_code]
  rfl

/-- A WAKE by role and main matches the stations of that role with that main (R15). -/
theorem wakeMatches_sent (r : Role) (m : Main) (w : State) : wakeMatches (payloadBytes (.wake r m) s) w = true ↔
    w.mc.config.role = some r ∧ (stationMains w.mc.config).get m = true := by
  have hr := roleCode_lt r
  have hbytes : payloadBytes (.wake r m) s = byte1 2 ++ (byte1 (roleCode r) ++ (byte1 (mainNumber m) ++ [])) := by
    simp [payloadBytes]
  have h0 : at1 (payloadBytes (.wake r m) s) 0 = 2 := by rw [hbytes]; rfl
  have h1 : at1 (payloadBytes (.wake r m) s) 1 = roleCode r := by
    rw [hbytes]
    exact at1_byte1 (n := roleCode r) (by omega) (byte1 (mainNumber m) ++ [])
  have h2 : at1 (payloadBytes (.wake r m) s) 2 = mainNumber m := by
    rw [hbytes]
    exact at1_byte1 (mainNumber_lt m) []
  simp [wakeMatches, h0, h1, h2, roleOfCode_roleCode, mainOfNumber_number]

/-! ### The main records of a STATE (R22, R183) -/

@[simp] theorem recordBytes_length (r : StateRecord) : (recordBytes r).length = 9 := by cases r <;> rfl

theorem holdPower_of_range {n : Nat} (h : n ≤ 20000) : holdPower n = n := Nat.min_eq_left h

/-- A main record in range is read as the Peer Table keeps it. -/
theorem readRecord_recordBytes {r : StateRecord} (h : r.inRange) :
    readRecord (recordBytes r) = some (keptRecord r) := by
  cases r with
  | offer m o measured f =>
    obtain ⟨ho, hm⟩ := h
    have hbytes : recordBytes (.offer m o measured f) = byte1 1 ++ (byte1 (mainNumber m) ++ (byte2 o ++
        (byte2 measured ++ (byte1 (fuelCode f) ++ byte2 0)))) := by simp [recordBytes]
    have h0 : at1 (recordBytes (.offer m o measured f)) 0 = 1 := rfl
    have h1 : at1 (recordBytes (.offer m o measured f)) 1 = mainNumber m := by
      rw [hbytes]; exact at1_byte1 (mainNumber_lt m) (byte2 o ++ (byte2 measured ++ (byte1 (fuelCode f) ++ byte2 0)))
    have h2 : at2 (recordBytes (.offer m o measured f)) 2 = o := by
      rw [hbytes]; exact at2_byte2 (by omega) (byte2 measured ++ (byte1 (fuelCode f) ++ byte2 0))
    have h4 : at2 (recordBytes (.offer m o measured f)) 4 = measured := by
      rw [hbytes]; exact at2_byte2 (by omega) (byte1 (fuelCode f) ++ byte2 0)
    have h6 : at1 (recordBytes (.offer m o measured f)) 6 = fuelCode f := by
      rw [hbytes]; exact at1_byte1 (fuelCode_lt f) (byte2 0)
    simp only [readRecord, h0, h1, h2, h4, h6, mainOfNumber_number, holdPower_of_range ho, holdPower_of_range hm,
      fuelOfCode_code, if_pos, keptRecord]
  | want m lo hi c d =>
    obtain ⟨hlh, hh, hc, hd⟩ := h
    have hbytes : recordBytes (.want m lo hi c d) = byte1 2 ++ (byte1 (mainNumber m) ++ (byte2 lo ++ (byte2 hi ++
        (byte1 c ++ (byte1 d ++ byte1 0))))) := by simp [recordBytes]
    have h0 : at1 (recordBytes (.want m lo hi c d)) 0 = 2 := rfl
    have h1 : at1 (recordBytes (.want m lo hi c d)) 1 = mainNumber m := by
      rw [hbytes]; exact at1_byte1 (mainNumber_lt m) (byte2 lo ++ (byte2 hi ++ (byte1 c ++ (byte1 d ++ byte1 0))))
    have h2 : at2 (recordBytes (.want m lo hi c d)) 2 = lo := by
      rw [hbytes]; exact at2_byte2 (by omega) (byte2 hi ++ (byte1 c ++ (byte1 d ++ byte1 0)))
    have h4 : at2 (recordBytes (.want m lo hi c d)) 4 = hi := by
      rw [hbytes]; exact at2_byte2 (by omega) (byte1 c ++ (byte1 d ++ byte1 0))
    have h6 : at1 (recordBytes (.want m lo hi c d)) 6 = c := by
      rw [hbytes]; exact at1_byte1 (by omega) (byte1 d ++ byte1 0)
    have h7 : at1 (recordBytes (.want m lo hi c d)) 7 = d := by
      rw [hbytes]; exact at1_byte1 (by omega) (byte1 0)
    have hlo : Nat.min lo hi = lo := Nat.min_eq_left hlh
    have hcc : holdClass c = c := Nat.min_eq_left hc
    have hdd : holdClass d = d := Nat.min_eq_left hd
    simp only [readRecord, h0, h1, h2, h4, h6, h7, mainOfNumber_number, holdPower_of_range (hlh.trans hh),
      holdPower_of_range hh, hlo, hcc, hdd, keptRecord]
    rfl
  | holder m l b draw absorb =>
    obtain ⟨-, hdr, hab⟩ := h
    have hbytes : recordBytes (.holder m l b draw absorb) = byte1 3 ++ (byte1 (mainNumber m) ++ (byte2 l ++
        (byte1 (bandCode b) ++ (byte2 draw ++ byte2 absorb)))) := by simp [recordBytes]
    have hb := bandCode_le b
    have h0 : at1 (recordBytes (.holder m l b draw absorb)) 0 = 3 := rfl
    have h1 : at1 (recordBytes (.holder m l b draw absorb)) 1 = mainNumber m := by
      rw [hbytes]; exact at1_byte1 (mainNumber_lt m) (byte2 l ++ (byte1 (bandCode b) ++ (byte2 draw ++ byte2 absorb)))
    have h4 : at1 (recordBytes (.holder m l b draw absorb)) 4 = bandCode b := by
      rw [hbytes]; exact at1_byte1 (n := bandCode b) (by omega) (byte2 draw ++ byte2 absorb)
    have h5 : at2 (recordBytes (.holder m l b draw absorb)) 5 = draw := by
      rw [hbytes]; exact at2_byte2 (by omega) (byte2 absorb)
    have h7 : at2 (recordBytes (.holder m l b draw absorb)) 7 = absorb := by
      rw [hbytes]; exact at2_byte2 (by omega) []
    simp only [readRecord, h0, h1, h4, h5, h7, mainOfNumber_number, holdPower_of_range hdr, holdPower_of_range hab,
      keptRecord]
    simp [hb]

/-- Records of different kinds or mains are all accepted (R22). -/
theorem acceptRecords_distinct {l : List MainRecord}
    (h : l.Pairwise fun a b => sameKindAndMain a b = false) : acceptRecords l = l := by
  induction h with
  | nil => rfl
  | @cons a l ha _ ih => rw [acceptRecords, ih, List.filter_eq_self.2 fun b hb => by simp [ha b hb]]

theorem flatMap_recordBytes_length (rs : List StateRecord) : (rs.flatMap recordBytes).length = 9 * rs.length := by
  induction rs with
  | nil => rfl
  | cons r rs ih => simp [ih]; omega

/-- A record stands at its place behind the ones before it. -/
theorem recordBytes_atPlace {rs : List StateRecord} {i : Nat} {r : StateRecord} (h : rs[i]? = some r)
    (tail : List Byte) : ∃ more, (rs.flatMap recordBytes ++ tail).drop (9 * i) = recordBytes r ++ more := by
  obtain ⟨hi, rfl⟩ := List.getElem?_eq_some_iff.1 h
  have hsplit : rs = rs.take i ++ rs[i] :: rs.drop (i + 1) := by simp
  have hlen : ((rs.take i).flatMap recordBytes).length = 9 * i := by
    rw [flatMap_recordBytes_length, List.length_take, Nat.min_eq_left hi.le]
  refine ⟨(rs.drop (i + 1)).flatMap recordBytes ++ tail, ?_⟩
  conv_lhs => rw [hsplit]
  rw [List.flatMap_append, List.flatMap_cons, List.append_assoc, ← hlen, List.drop_left, List.append_assoc]

/-! ### The payload of a STATE (R11, R50, R183) -/

/-- The six bytes before the main records of a STATE. -/
def stateHead (role : Role) (period count : Nat) (s : State) : List Byte :=
  byte1 (roleCode role) ++ byte1 period ++ byte1 (modeCode s.mc.mode) ++ byte1 (severityCode (severity s)) ++
    byte1 (claimSetByte (ownClaimSet s)) ++ byte1 count

section
variable {role : Role} {period : Nat} {records : List StateRecord} {extras : Option (Nat × Nat)}

theorem statePayload_eq : payloadBytes (.state role period records extras) s =
    stateHead role period records.length s ++ (records.flatMap recordBytes ++ extrasBytes extras) := by
  simp [payloadBytes, stateHead]

theorem statePayload_length : (payloadBytes (.state role period records extras) s).length =
    6 + 9 * records.length + (extrasBytes extras).length := by
  rw [statePayload_eq, List.length_append, List.length_append, flatMap_recordBytes_length]
  exact (Nat.add_assoc _ _ _).symm

theorem stateHead_fields {count : Nat} (hp : period < 256) (hc : count < 256) (tail : List Byte) :
    let p := stateHead role period count s ++ tail
    at1 p 0 = roleCode role ∧ at1 p 1 = period ∧ at1 p 2 = modeCode s.mc.mode ∧
      at1 p 3 = severityCode (severity s) ∧ at1 p 4 = claimSetByte (ownClaimSet s) ∧ at1 p 5 = count := by
  have hr := roleCode_lt role
  have hm : modeCode s.mc.mode < 256 := by cases s.mc.mode <;> decide
  let e5 := byte1 count ++ tail
  let e4 := byte1 (claimSetByte (ownClaimSet s)) ++ e5
  let e3 := byte1 (severityCode (severity s)) ++ e4
  let e2 := byte1 (modeCode s.mc.mode) ++ e3
  have hbytes : stateHead role period count s ++ tail = byte1 (roleCode role) ++ (byte1 period ++ e2) := by
    simp [stateHead, e2, e3, e4, e5]
  intro p
  simp only [p, hbytes]
  exact ⟨at1_byte1 (n := roleCode role) (by omega) (byte1 period ++ e2), at1_byte1 hp e2, at1_byte1 hm e3,
    at1_byte1 (severityCode_lt _) e4, at1_byte1 (claimSetByte_lt _) e5, at1_byte1 hc tail⟩

/-- A record of a STATE begins at its place in the payload. -/
theorem statePayload_record {i : Nat} {r : StateRecord} (h : records[i]? = some r) :
    ∃ front more, payloadBytes (.state role period records extras) s = front ++ (recordBytes r ++ more) ∧
      front.length = 6 + 9 * i := by
  obtain ⟨more, hm⟩ := recordBytes_atPlace h (extrasBytes extras)
  have hdrop : (payloadBytes (.state role period records extras) s).drop (6 + 9 * i) = recordBytes r ++ more := by
    rw [statePayload_eq, ← hm, ← List.drop_drop]
    rfl
  obtain ⟨hi, -⟩ := List.getElem?_eq_some_iff.1 h
  refine ⟨(payloadBytes (.state role period records extras) s).take (6 + 9 * i), more, ?_, ?_⟩
  · rw [← hdrop, List.take_append_drop]
  · rw [List.length_take, statePayload_length]
    omega

theorem range_filterMap_getElem? {α : Type} (l : List α) :
    (List.range l.length).filterMap (fun i => l[i]?) = l := by
  induction l with
  | nil => rfl
  | cons a l ih => simp [List.range_succ_eq_map, List.filterMap_map, ih]

theorem readRecords_sent (hp : period < 256) (hl : records.length ≤ 2) (hr : ∀ r ∈ records, r.inRange)
    (hd : records.Pairwise fun a b => sameKindAndMain (keptRecord a) (keptRecord b) = false) :
    readRecords (payloadBytes (.state role period records extras) s) = records.map keptRecord := by
  obtain ⟨-, -, -, -, -, hcount⟩ := stateHead_fields (s := s) (role := role) hp
    (show records.length < 256 by omega) (records.flatMap recordBytes ++ extrasBytes extras)
  rw [← statePayload_eq] at hcount
  have hread : ∀ i ∈ List.range records.length,
      readRecord (((payloadBytes (.state role period records extras) s).drop (6 + 9 * i)).take 9) =
        (records.map keptRecord)[i]? := by
    intro i hi
    have hi := List.mem_range.1 hi
    have hget := List.getElem?_eq_getElem hi
    obtain ⟨front, more, hbytes, hlen⟩ := statePayload_record (s := s) (role := role) (period := period)
      (extras := extras) hget
    have hchunk : ((payloadBytes (.state role period records extras) s).drop (6 + 9 * i)).take 9 =
        recordBytes records[i] := by
      rw [hbytes, ← hlen, List.drop_left]
      exact List.take_left' (recordBytes_length _)
    rw [hchunk, readRecord_recordBytes (hr _ (List.getElem_mem hi)), List.getElem?_map, hget]
    rfl
  have hall : (List.range records.length).filterMap (fun i => (records.map keptRecord)[i]?) =
      records.map keptRecord := by
    simpa using range_filterMap_getElem? (records.map keptRecord)
  rw [readRecords, hcount, List.filterMap_congr hread, hall]
  exact acceptRecords_distinct (List.pairwise_map.2 hd)

/-- The extras of a STATE begin behind its records. -/
theorem statePayload_extras {a b : Nat} (ha : a ≤ 20000) (hb : b ≤ 20000) :
    at2 (payloadBytes (.state role period records (some (a, b))) s) (6 + 9 * records.length) = a ∧
      at2 (payloadBytes (.state role period records (some (a, b))) s) (8 + 9 * records.length) = b := by
  let front := stateHead role period records.length s ++ records.flatMap recordBytes
  have hlen : front.length = 6 + 9 * records.length := by
    rw [List.length_append, flatMap_recordBytes_length]
    rfl
  have hbytes : payloadBytes (.state role period records (some (a, b))) s = front ++ (byte2 a ++ (byte2 b ++ [])) := by
    simp [statePayload_eq, front, extrasBytes]
  rw [hbytes, show 8 + 9 * records.length = front.length + 2 by omega, ← hlen]
  exact ⟨(at2_append_right front (byte2 a ++ (byte2 b ++ [])) 0).trans (at2_byte2 (by omega) _),
    (at2_append_right front (byte2 a ++ (byte2 b ++ [])) 2).trans (at2_byte2 (n := b) (by omega) [])⟩

theorem statePayload_allowed (hp : period < 256) (hl : records.length ≤ 2)
    (he : extras.isSome = true ↔ role = .exportTie ∨ role = .turbine) :
    lengthAllowed .state (payloadBytes (.state role period records extras) s) = true := by
  obtain ⟨hrole, -, -, -, -, hcount⟩ := stateHead_fields (s := s) (role := role) hp
    (show records.length < 256 by omega) (records.flatMap recordBytes ++ extrasBytes extras)
  rw [← statePayload_eq] at hrole hcount
  have hextras : (extrasBytes extras).length = if roleCode role = 4 ∨ roleCode role = 6 then 4 else 0 := by
    cases extras with
    | none =>
      have hno : ¬(roleCode role = 4 ∨ roleCode role = 6) := by
        cases role <;> simp at he <;> decide
      rw [if_neg hno]
      rfl
    | some x =>
      have hyes : roleCode role = 4 ∨ roleCode role = 6 := by
        rcases he.1 rfl with rfl | rfl <;> decide
      rw [if_pos hyes]
      rfl
  simp only [lengthAllowed, hrole, hcount, statePayload_length, hextras, Bool.and_eq_true, decide_eq_true_eq,
    beq_iff_eq, and_true]
  omega

/-- What a receiver keeps of the extras of a STATE (R22). -/
def extrasRead (role : Role) (extras : Option (Nat × Nat)) : Extras :=
  match role, extras with
  | .exportTie, some x => .tie x.1
  | .turbine, some x => .turbine x.1
  | _, _ => .none

theorem readState_sent {m : PeerMode} (h2 : 2 ≤ period) (h10 : period ≤ 10) (hl : records.length ≤ 2)
    (hr : ∀ r ∈ records, r.inRange)
    (hd : records.Pairwise fun a b => sameKindAndMain (keptRecord a) (keptRecord b) = false)
    (he : extras.isSome = true ↔ role = .exportTie ∨ role = .turbine)
    (hx : ∀ x, extras = some x → x.1 ≤ 20000 ∧ x.2 ≤ 20000)
    (hm : s.mc.mode = match m with
      | .active => .active | .standbyListen => .standbyListen | .listenIn => .listenIn) :
    readState (payloadBytes (.state role period records extras) s) = some
      { role := role, period := period, mode := m, severity := severity s, claims := ownClaimSet s
        carries := !records.isEmpty, records := records.map keptRecord
        extras := extrasRead role extras } := by
  obtain ⟨hrole, hperiod, hmode, hsev, hclaims, hcount⟩ := stateHead_fields (s := s) (role := role)
    (show period < 256 by omega) (show records.length < 256 by omega)
    (records.flatMap recordBytes ++ extrasBytes extras)
  rw [← statePayload_eq] at hrole hperiod hmode hsev hclaims hcount
  have hmodeRead : peerModeOfCode (modeCode s.mc.mode) = some m := by rw [hm]; cases m <;> rfl
  have hcarries : (records.length != 0) = !records.isEmpty := by cases records <;> rfl
  have hextras : readExtras role (payloadBytes (.state role period records extras) s) = extrasRead role extras := by
    cases extras with
    | none => cases role <;> simp at he <;> rfl
    | some x =>
      obtain ⟨ha, hb⟩ := hx x rfl
      obtain ⟨hgap, -⟩ := statePayload_extras (s := s) (role := role) (period := period) (records := records) ha hb
      rcases he.1 rfl with rfl | rfl <;> simp only [readExtras, hcount, hgap, holdPower_of_range ha, extrasRead]
  simp only [readState, hrole, hperiod, hmode, hsev, hclaims, hcount, roleOfCode_roleCode, hmodeRead,
    severityOfCode_code, claimSetOfByte_byte, holdPeriod_of_range h2 h10, hcarries,
    readRecords_sent (show period < 256 by omega) hl hr hd, hextras]

/-- A HOLDER's level and band stand in the payload at their record's place (13). -/
theorem statePayload_holder {i : Nat} {main : Main} {level draw absorb : Nat} {band : Band} (hlevel : level ≤ 1000)
    (h : records[i]? = some (.holder main level band draw absorb)) :
    at2 (payloadBytes (.state role period records extras) s) (8 + 9 * i) = level ∧
      at1 (payloadBytes (.state role period records extras) s) (10 + 9 * i) = bandCode band := by
  obtain ⟨front, more, hbytes, hlen⟩ := statePayload_record (s := s) (role := role) (period := period)
    (extras := extras) h
  have hb := bandCode_le band
  let behind := byte1 (bandCode band) ++ (byte2 draw ++ (byte2 absorb ++ more))
  have hrecord : recordBytes (.holder main level band draw absorb) ++ more =
      byte1 3 ++ (byte1 (mainNumber main) ++ (byte2 level ++ behind)) := by simp [recordBytes, behind]
  rw [hbytes, hrecord, show 8 + 9 * i = front.length + 2 by omega, show 10 + 9 * i = front.length + 4 by omega,
    at2_append_right, at1_append_right]
  exact ⟨at2_byte2 (n := level) (by omega) behind,
    at1_byte1 (n := bandCode band) (by omega) (byte2 draw ++ (byte2 absorb ++ more))⟩

end

/-- Settles O13. -/
theorem framesReadBackAsSent : Obligations.FramesReadBackAsSent := by
  refine ⟨fun node k payload rest h => ⟨?built, fun c hc hne => ?other⟩, fun s => ⟨fun l e => ?claim, fun r => ?leave,
    fun p q h => ?time, fun r mains period tag h2 h10 ht => ?hello, fun mains period tag => ?unconfigured,
    fun r m w => ?wake⟩, fun role period records extras m s h2 h10 hl hr hd he hx hm => ?state⟩
  case built => exact (goodFrame_built node h (crc16_lt _) rest).trans (if_pos rfl)
  case other => exact (goodFrame_built node h hc rest).trans (if_neg hne)
  case claim => exact ⟨goodFrame_attempt rfl, readClaim_sent l e⟩
  case leave => exact goodFrame_attempt rfl
  case time => exact ⟨goodFrame_attempt rfl, readTime_sent h q⟩
  case hello => exact ⟨goodFrame_attempt rfl, readHello_sent r mains h2 h10 ht⟩
  case unconfigured => exact ⟨goodFrame_attempt rfl, readHello_sentUnconfigured mains period tag⟩
  case wake => exact ⟨goodFrame_attempt rfl, wakeMatches_sent r m w⟩
  case state =>
    refine ⟨goodFrame_attempt (statePayload_allowed (by omega) hl he), readState_sent h2 h10 hl hr hd he hx hm,
      fun i main level band draw absorb h => ?_, fun x h => ?_⟩
    · exact statePayload_holder (hr _ (List.mem_of_getElem? h)).1 h
    · obtain ⟨a, b⟩ := x
      obtain ⟨ha, hb⟩ := hx _ h
      rw [h]
      exact (statePayload_extras ha hb).2

end Sys2Proof.Machine
end

section
/-! The start of an accounting unit, and a record handed over to an empty hold queue with its GAP (R122, R131, R142,
R148, R149, R162). -/

namespace Sys2Proof.Machine

variable {s t : State} {p : Period} {i : Interval}

/-! ### A hand-over to an empty store, with GAP where a number is lost (R162) -/

/-- The store holds nothing, commits nothing and has a number left. -/
structure StoreRoom (rs : RecordUnit) : Prop where
  empty : rs.holdQueue = []
  idle : rs.inFlight = false
  room : rs.nextSeq + 1 < 2 ^ 32

/-- The flags of a record handed over, from those it had. -/
def GapMarked (rs : RecordUnit) (f g : RecordFlags) : Prop :=
  (noneLost rs → g = f) ∧ (¬noneLost rs → g = { f with gap := true })

/-- The record of a hand-over, numbered, with its flags put in. -/
def numberedWith (n : Nat) (g : RecordFlags) : StoreRecord → StoreRecord
  | .bill x => .bill { x with seq := n, flags := g }
  | .settle x => .settle { x with seq := n, flags := g }

theorem handedRecord_marked {rs : RecordUnit} (h : rs.holdQueue = []) (r : StoreRecord) :
    ∃ g, GapMarked rs (recordFlags r) g ∧ handedRecord r rs = numberedWith rs.nextSeq g r := by
  by_cases hn : noneLost rs
  · refine ⟨recordFlags r, ⟨fun _ => rfl, fun h => absurd hn h⟩, ?_⟩
    rw [handedRecord_plain (by simp [h])]
    · cases r <;> rfl
    · rintro ⟨hf, k, hk, hlt, hlost⟩
      exact hlost (hn hf k hk hlt)
  · refine ⟨{ recordFlags r with gap := true }, ⟨fun h => absurd h hn, fun _ => rfl⟩, ?_⟩
    have hlost : rs.firstHandOver = true ∧
        ∃ k ∈ [1, 2, 3, 4], k < rs.nextSeq ∧ rs.nextSeq - k ∉ retainedNumbers rs := by
      simpa only [noneLost, Classical.not_imp, not_forall, exists_prop] using hn
    rw [handedRecord_gap (.inr hlost)]
    cases r <;> rfl

theorem handOver_marked (h : StoreRoom s.rs) (r : StoreRecord) : ∃ g, GapMarked s.rs (recordFlags r) g ∧
    handOver r s = s.setRs (handedTo (numberedWith s.rs.nextSeq g r) s.rs) := by
  obtain ⟨g, hg, hr⟩ := handedRecord_marked h.empty r
  have hseq : recordSeq (numberedWith s.rs.nextSeq g r) = s.rs.nextSeq := by cases r <;> rfl
  have hfull : holdFull s.rs = false := by simp [holdFull, h.empty]
  have hq : queueAfter r s.rs = [numberedWith s.rs.nextSeq g r] := by
    simp [queueAfter, flightPart, waitingPart, h.idle, h.empty, hfull, hr, placeWaiting]
  refine ⟨g, hg, ?_⟩
  rw [handOver_eq h.room, startIfIdle_starts (rs := queued r s.rs) (y := numberedWith s.rs.nextSeq g r) h.idle
    (by simp [queued, hq])]
  simp [queued, hq, handedTo, hseq]

/-- A period closed into an empty store (R126). -/
theorem closePeriod_marked (h : StoreRoom s.rs) (p : Period) (len : Nat) : ∃ g, GapMarked s.rs p.flags g ∧
    closePeriod p len s = { s with
      rs := handedTo (.settle { numberedSettle p len s with flags := g }) s.rs
      tie := { s.tie with openPeriod := none, lastVerdict := some (settledVerdict p len s) }
      dc := { s.dc with spanStart := none } } := by
  obtain ⟨g, hg, hh⟩ := handOver_marked h (.settle (settleRecord (lowerPeriod p s) len s.mc.config.tolerance))
  refine ⟨g, hg, ?_⟩
  rw [closePeriod, hh]
  rfl

/-- An interval closed into an empty store (R143). -/
theorem closeInterval_marked (h : StoreRoom s.rs) (i : Interval) (len : Nat) : ∃ g, GapMarked s.rs i.flags g ∧
    closeInterval i len s = { s with
      rs := handedTo (.bill { numberedBill i len s with flags := g }) s.rs
      mu := { s.mu with openInterval := none }
      dc := { s.dc with spanStart := none } } := by
  obtain ⟨g, hg, hh⟩ := handOver_marked h (.bill (billRecord (lowerInterval i s) len))
  refine ⟨g, hg, ?_⟩
  rw [closeInterval, hh]
  rfl

/-! ### A span opened at the present second -/

/-- A tie's period begins now, with the flags of its cause (R122). -/
structure TieOpened (now : TimePos) (quality : Quality) (f : RecordFlags) (t : State) : Prop where
  period : ∃ q, t.tie.openPeriod = some q ∧ t.tie.mark = false ∧ q.start = now ∧
    q.planned = 1800 * (now.sec / 1800 + 1) - now.sec ∧ q.energyE = 0 ∧ q.missing = 0 ∧
    q.energyC = q.commitment * q.planned / 36 ∧ q.quality = quality ∧
    q.flags = { f with noSchedule := q.flags.noSchedule }
  span : t.dc.spanStart = some now

/-- The interval that begins at a second (R142). -/
def intervalFrom (tariff : List Nat) (now : TimePos) (quality : Quality) (f : RecordFlags) : Interval where
  start := now
  planned := 3600 * (now.sec / 3600 + 1) - now.sec
  band := tariff.getD (now.sec / 3600) 0
  works := 0
  purchased := 0
  peak := 0
  missing := 0
  reverse := 0
  overRange := 0
  quality := quality
  flags := f

/-- A TOWNHEAT's interval begins now, with the flags of its cause (R142). -/
structure TownOpened (tariff : List Nat) (now : TimePos) (quality : Quality) (f : RecordFlags) (t : State) : Prop where
  acc : t.mu.minuteAcc = 0
  interval : t.mu.openInterval = some (intervalFrom tariff now quality f)
  span : t.dc.spanStart = some now

theorem openPeriod_opens (f : RecordFlags) (s : State) :
    TieOpened s.dc.time s.dc.quality f (openPeriod s.dc.time f s) := by
  rw [openPeriod_eq]
  exact ⟨⟨periodAt s.dc.time f s, rfl, rfl, rfl, rfl, rfl, rfl, rfl, rfl, rfl⟩, rfl⟩

theorem openIntervalAt_opens (f : RecordFlags) (s : State) :
    TownOpened s.mc.config.tariff s.dc.time s.dc.quality f (openIntervalAt s.dc.time f s) := by
  rw [openIntervalAt_eq]
  exact ⟨rfl, rfl, rfl⟩

/-! ### A kept period resumed (R131) -/

/-- A kept period with its missing seconds counted (R129, R131). -/
def resumedPeriod (p : Period) (missing : Nat) (s : State) : Period := { lowerPeriod p s with
  missing := missing, flags := { p.flags with resetDuring := true } }

/-- The kept period after a reset (R129, R131). -/
def keptPeriod (p : Period) (s : State) : Period :=
  resumedPeriod p (saturate16 (p.missing + Nat.min (sinceReset s) (periodEnd p - posNumber s.dc.resetTime))) s

theorem resumedPeriod_fields (p : Period) (n : Nat) (s : State) : (resumedPeriod p n s).start = p.start ∧
    (resumedPeriod p n s).commitment = p.commitment ∧ (resumedPeriod p n s).energyE = p.energyE ∧
    (resumedPeriod p n s).quality = lowerQuality p.quality s.dc.quality ∧
    (resumedPeriod p n s).flags = { p.flags with resetDuring := true } := ⟨rfl, rfl, rfl, rfl, rfl⟩

theorem keptPeriod_fields (p : Period) (s : State) : (keptPeriod p s).start = p.start ∧
    (keptPeriod p s).commitment = p.commitment ∧ (keptPeriod p s).energyE = p.energyE ∧
    (keptPeriod p s).quality = lowerQuality p.quality s.dc.quality ∧
    (keptPeriod p s).flags = { p.flags with resetDuring := true } := resumedPeriod_fields p _ s

theorem resumePeriod_open (h : sinceReset s < periodEnd p - posNumber s.dc.resetTime) : resumePeriod p s = { s with
    tie := { s.tie with openPeriod := some (keptPeriod p s), gap := gapOf (keptPeriod p s) s.dc.time }
    dc := { s.dc with spanStart := some p.start } } := if_pos h

theorem resumePeriod_past (h : periodEnd p - posNumber s.dc.resetTime ≤ sinceReset s) : resumePeriod p s =
    openPeriod s.dc.time partialAfterReset (emptySlots (closePeriod (keptPeriod p s) p.planned s)) := by
  have hp : resumePeriod p s =
      openPeriod (emptySlots (closePeriod (keptPeriod p s) p.planned s)).dc.time partialAfterReset
        (emptySlots (closePeriod (keptPeriod p s) p.planned s)) := if_neg (Nat.not_lt.2 h)
  rw [hp]
  simp

theorem resumePeriod_opens (h : periodEnd p - posNumber s.dc.resetTime ≤ sinceReset s) :
    TieOpened s.dc.time s.dc.quality partialAfterReset (resumePeriod p s) := by
  have ho := openPeriod_opens partialAfterReset (emptySlots (closePeriod (keptPeriod p s) p.planned s))
  rw [resumePeriod_past h]
  simpa using ho

/-- The record a period closed into an empty store leaves (R126, R129, R162). -/
theorem closePeriod_settled (hroom : StoreRoom s.rs) (p : Period) (len : Nat) : ∃ x, (closePeriod p len s).rs =
    handedTo (.settle x) s.rs ∧ x.seq = s.rs.nextSeq ∧ x.start = p.start ∧ x.length = len ∧
    x.commitment = p.commitment ∧ x.energyC = p.commitment * len / 36 ∧ x.energyE = p.energyE ∧
    x.missing = p.missing ∧ x.quality = lowerQuality p.quality s.dc.quality ∧ GapMarked s.rs p.flags x.flags := by
  obtain ⟨g, hg, hc⟩ := closePeriod_marked hroom p len
  rw [hc]
  exact ⟨_, rfl, rfl, rfl, rfl, rfl, rfl, rfl, rfl, rfl, hg⟩

/-- The record of a kept period whose end has passed (R126, R131, R162). -/
theorem resumePeriod_settles (h : periodEnd p - posNumber s.dc.resetTime ≤ sinceReset s) (hroom : StoreRoom s.rs) :
    ∃ x, (resumePeriod p s).rs = handedTo (.settle x) s.rs ∧ x.seq = s.rs.nextSeq ∧ x.start = p.start ∧
      x.length = p.planned ∧ x.commitment = p.commitment ∧ x.energyC = p.commitment * p.planned / 36 ∧
      x.energyE = p.energyE ∧ x.missing = (keptPeriod p s).missing ∧
      x.quality = lowerQuality p.quality s.dc.quality ∧
      GapMarked s.rs { p.flags with resetDuring := true } x.flags := by
  obtain ⟨x, hrs, hseq, hstart, hlen, hcom, hc, he, hm, hq, hg⟩ :=
    closePeriod_settled hroom (keptPeriod p s) p.planned
  obtain ⟨fstart, fcom, fe, fq, fflags⟩ := keptPeriod_fields p s
  rw [fstart] at hstart
  rw [fcom] at hcom hc
  rw [fe] at he
  rw [fq, qualityLowered_twice] at hq
  rw [fflags] at hg
  refine ⟨x, ?_, hseq, hstart, hlen, hcom, hc, he, hm, hq, hg⟩
  rw [resumePeriod_past h, ← hrs]
  simp

/-! ### A kept interval resumed (R149) -/

/-- A minute boundary has passed since the reset (R149). -/
def minuteSince (s : State) : Bool := minutePassed s.dc.resetTime (sinceReset s)

/-- A kept interval with its missing seconds counted and its peak minute taken (R138, R144, R149). -/
def resumedInterval (i : Interval) (missing peak : Nat) (s : State) : Interval := { lowerInterval i s with
  missing := missing, peak := peak, flags := setResetDuring i.flags }

/-- The missing seconds of an interval after a reset (R149). -/
def missingSince (i : Interval) (s : State) : Nat :=
  saturate16 (i.missing + Nat.min (sinceReset s) (intervalEnd i - posNumber s.dc.resetTime))

/-- The kept interval after a reset (R138, R141, R144, R149). -/
def keptInterval (i : Interval) (s : State) : Interval :=
  resumedInterval i (missingSince i s)
    (if minuteSince s then Nat.max (lowerInterval i s).peak (s.mu.minuteAcc / kwhUnit) else (lowerInterval i s).peak) s

theorem resumedInterval_fields (i : Interval) (n m : Nat) (s : State) :
    let j := resumedInterval i n m s
    j.start = i.start ∧ j.planned = i.planned ∧ j.band = i.band ∧ j.works = i.works ∧ j.purchased = i.purchased ∧
      j.peak = m ∧ j.missing = n ∧ j.reverse = i.reverse ∧ j.overRange = i.overRange ∧
      j.quality = lowerQuality i.quality s.dc.quality ∧ j.flags = { i.flags with resetDuring := true } :=
  ⟨rfl, rfl, rfl, rfl, rfl, rfl, rfl, rfl, rfl, rfl, rfl⟩

theorem keptInterval_planned (i : Interval) (s : State) : (keptInterval i s).planned = i.planned :=
  (resumedInterval_fields i _ _ s).2.1

theorem keptInterval_quality (i : Interval) (s : State) :
    (keptInterval i s).quality = lowerQuality i.quality s.dc.quality := by
  obtain ⟨-, -, -, -, -, -, -, -, -, hq, -⟩ := resumedInterval_fields i (missingSince i s)
    (if minuteSince s then Nat.max (lowerInterval i s).peak (s.mu.minuteAcc / kwhUnit) else (lowerInterval i s).peak) s
  exact hq

/-- The minute accumulator after a reset (R141, R149). -/
def keptAcc (s : State) : Nat := if minuteSince s then 0 else s.mu.minuteAcc

/-- The metering with an interval, before it goes on or is closed. -/
def withInterval (j : Interval) (acc : Nat) (s : State) : State :=
  s.setMu { s.mu with openInterval := some j, minuteAcc := acc }

theorem withInterval_parts (j : Interval) (acc : Nat) (s : State) :
    (withInterval j acc s).mu.openInterval = some j ∧ (withInterval j acc s).mu.minuteAcc = acc ∧
      (withInterval j acc s).dc = s.dc ∧ (withInterval j acc s).rs = s.rs ∧ (withInterval j acc s).mc = s.mc ∧
      (withInterval j acc s).tie = s.tie ∧ (withInterval j acc s).mu.worksRem = s.mu.worksRem ∧
      (withInterval j acc s).mu.purchRem = s.mu.purchRem := ⟨rfl, rfl, rfl, rfl, rfl, rfl, rfl, rfl⟩

/-- An interval kept over a reset taken up as it then stands: it goes on, or is closed at its own end and a new one
opened (R149). -/
def takenUp (i j : Interval) (acc : Nat) (s : State) : State :=
  if sinceReset s < intervalEnd i - posNumber s.dc.resetTime then
    (withInterval j acc s).setDc { s.dc with spanStart := some i.start }
  else openIntervalAt s.dc.time partialAfterReset (closeInterval j i.planned (withInterval j acc s))

theorem setMu_setMu (s : State) (x y : MeteringUnit) : (s.setMu x).setMu y = s.setMu y := rfl

theorem resumeInterval_eq (i : Interval) (s : State) :
    resumeInterval i s = takenUp i (keptInterval i s) (keptAcc s) s := by
  cases hm : minutePassed s.dc.resetTime (sinceReset s)
  · simp only [resumeInterval, takenUp, keptInterval, keptAcc, minuteSince, hm, Bool.false_eq_true, if_false,
      withInterval, resumedInterval, missingSince, setMu_dc, setMu_mu, closeInterval_frame, lowerInterval]
  · simp only [resumeInterval, takenUp, keptInterval, keptAcc, minuteSince, hm, if_true, minuteCheck,
      withInterval, resumedInterval, missingSince, setMu_dc, setMu_mu, closeInterval_frame, lowerInterval,
      Option.map_some, setMu_setMu]

/-- The record an interval closed into an empty store leaves (R144, R162). -/
theorem closeInterval_billed (hroom : StoreRoom s.rs) (i : Interval) (len : Nat) :
    ∃ g, GapMarked s.rs i.flags g ∧ (closeInterval i len s).rs = handedTo
      (.bill ⟨s.rs.nextSeq, i.start, len, i.band, lowerQuality i.quality s.dc.quality, i.works, i.purchased, i.peak,
        i.missing, i.reverse, i.overRange, g⟩) s.rs := by
  obtain ⟨g, hg, hc⟩ := closeInterval_marked hroom i len
  refine ⟨g, hg, ?_⟩
  rw [hc]
  rfl

section
variable {j : Interval} {acc : Nat}

theorem takenUp_open (h : sinceReset s < intervalEnd i - posNumber s.dc.resetTime) :
    takenUp i j acc s = (withInterval j acc s).setDc { s.dc with spanStart := some i.start } := if_pos h

theorem takenUp_past (h : intervalEnd i - posNumber s.dc.resetTime ≤ sinceReset s) : takenUp i j acc s =
    openIntervalAt s.dc.time partialAfterReset (closeInterval j i.planned (withInterval j acc s)) :=
  if_neg (Nat.not_lt.2 h)

theorem takenUp_opens (h : intervalEnd i - posNumber s.dc.resetTime ≤ sinceReset s) :
    TownOpened s.mc.config.tariff s.dc.time s.dc.quality partialAfterReset (takenUp i j acc s) := by
  have ho := openIntervalAt_opens partialAfterReset (closeInterval j i.planned (withInterval j acc s))
  rw [takenUp_past h]
  simpa [withInterval] using ho

/-- The record of a kept interval whose end has passed (R144, R149, R162). -/
theorem takenUp_bills (h : intervalEnd i - posNumber s.dc.resetTime ≤ sinceReset s) (hroom : StoreRoom s.rs) :
    ∃ g, GapMarked s.rs j.flags g ∧ (takenUp i j acc s).rs = handedTo
      (.bill ⟨s.rs.nextSeq, j.start, i.planned, j.band, lowerQuality j.quality s.dc.quality, j.works, j.purchased,
        j.peak, j.missing, j.reverse, j.overRange, g⟩) s.rs := by
  obtain ⟨g, hg, hc⟩ := closeInterval_billed (s := withInterval j acc s) hroom j i.planned
  refine ⟨g, hg, ?_⟩
  rw [takenUp_past h]
  have hrs : (openIntervalAt s.dc.time partialAfterReset (closeInterval j i.planned (withInterval j acc s))).rs =
      (closeInterval j i.planned (withInterval j acc s)).rs := by simp
  exact hrs.trans hc

/-- Taking up a kept interval leaves the remainders and the tie as they stand. -/
theorem takenUp_keeps : (takenUp i j acc s).mu.worksRem = s.mu.worksRem ∧
    (takenUp i j acc s).mu.purchRem = s.mu.purchRem ∧ (takenUp i j acc s).tie = s.tie := by
  simp only [takenUp]
  split <;> simp [withInterval]
end

end Sys2Proof.Machine
end

section
/-! The accounting unit at the end of LOADING: its start at a changed tag and at an unchanged one, with the commit of a
kept hold queue restarted (R131, R148, R149, R169). -/

namespace Sys2Proof.Machine

variable {s t x b : State} {r : Role} {img : RawImage} {k : StartKind}

/-! ### What the units start from -/

/-- A state in which the image's configuration stands and the units are as another state has them. -/
structure UnitsAs (r : Role) (img : RawImage) (s x : State) : Prop where
  config : x.mc.config = configOf r img
  tie : x.tie = s.tie
  meter : x.mu = s.mu
  time : x.dc.time = s.dc.time
  quality : x.dc.quality = s.dc.quality
  reset : x.dc.resetTime = s.dc.resetTime

theorem UnitsAs.role (h : UnitsAs r img s x) : x.mc.config.role = some r := by rw [h.config, configOf_role]

theorem UnitsAs.since (h : UnitsAs r img s x) : sinceReset x = sinceReset s := by
  rw [sinceReset, sinceReset, h.reset, h.time]

/-- What a span opened at the end of LOADING is (R122, R142). -/
def Opened (r : Role) (img : RawImage) (s t : State) (f : RecordFlags) : Prop :=
  (r = .exportTie → TieOpened s.dc.time s.dc.quality f t) ∧
    (r = .townheat → TownOpened (configOf r img).tariff s.dc.time s.dc.quality f t)

theorem Opened.of_tie {f : RecordFlags} (hr : r = .exportTie) (h : TieOpened s.dc.time s.dc.quality f t) :
    Opened r img s t f := ⟨fun _ => h, fun ht => absurd (hr.symm.trans ht) (by decide)⟩

theorem Opened.of_town {f : RecordFlags} (hr : r = .townheat)
    (h : TownOpened (configOf r img).tariff s.dc.time s.dc.quality f t) : Opened r img s t f :=
  ⟨fun ht => absurd (hr.symm.trans ht) (by decide), fun _ => h⟩

/-! ### The start of each role's unit -/

theorem startUnit_tie (h : x.mc.config.role = some .exportTie) : startUnit k x = tieStart k x := by
  simp only [startUnit, h]

theorem startUnit_town (h : x.mc.config.role = some .townheat) : startUnit k x = meterStart k x := by
  simp only [startUnit, h]

/-- In the other roles no unit accounts. -/
theorem startUnit_other (hr : x.mc.config.role = some r) (h1 : r ≠ .exportTie) (h2 : r ≠ .townheat) :
    (startUnit k x).tie = x.tie ∧ (startUnit k x).mu = x.mu ∧ (startUnit k x).rs = x.rs := by
  cases r <;> simp [startUnit, hr] at h1 h2 ⊢

/-! ### At power-on and at a changed tag (R131, R148) -/

/-- The state after the protected state of both units is cleared. -/
def cleared (x : State) : State := (x.setTie (clearTie x.tie)).setMu (clearMetering x.mu)

theorem protectedAtStart_changed (hk : k ≠ .unchanged) : protectedAtStart k x = cleared x := by
  cases k with
  | unchanged => exact absurd rfl hk
  | _ => rfl

theorem tieStart_changed (hk : k ≠ .unchanged) : tieStart k x = openPeriod x.dc.time partialStart x := by
  cases k with
  | unchanged => exact absurd rfl hk
  | _ => rfl

theorem meterStart_changed (hk : k ≠ .unchanged) :
    meterStart k x = openIntervalAt x.dc.time partialStart (recomputeFraction x) := by
  cases k with
  | unchanged => exact absurd rfl hk
  | _ => rfl

/-- The units after a start with their protected state cleared. -/
structure StartedClear (r : Role) (img : RawImage) (s t : State) : Prop where
  slots : t.tie.slotA = none ∧ t.tie.slotB = none
  sums : t.mu.worksRem = 0 ∧ t.mu.purchRem = 0 ∧ t.mu.minuteAcc = 0
  noPeriod : r ≠ .exportTie → t.tie.openPeriod = none
  noInterval : r ≠ .townheat → t.mu.openInterval = none
  opened : Opened r img s t partialStart

theorem startUnit_changed (hk : k ≠ .unchanged) (h : UnitsAs r img s x) :
    (startUnit k (protectedAtStart k x)).rs = x.rs ∧
      StartedClear r img s (startUnit k (protectedAtStart k x)) := by
  rw [protectedAtStart_changed hk]
  by_cases htie : r = .exportTie
  · subst htie
    rw [startUnit_tie (x := cleared x) h.role, tieStart_changed hk]
    have ho := openPeriod_opens partialStart (cleared x)
    rw [show (cleared x).dc.time = s.dc.time from h.time,
      show (cleared x).dc.quality = s.dc.quality from h.quality] at ho
    rw [show (cleared x).dc.time = s.dc.time from h.time]
    exact ⟨rfl, ⟨rfl, rfl⟩, ⟨rfl, rfl, rfl⟩, fun hn => absurd rfl hn, fun _ => rfl, .of_tie rfl ho⟩
  · by_cases htown : r = .townheat
    · subst htown
      rw [startUnit_town (x := cleared x) h.role, meterStart_changed hk]
      have ho := openIntervalAt_opens partialStart (recomputeFraction (cleared x))
      rw [show (recomputeFraction (cleared x)).dc.time = s.dc.time from h.time,
        show (recomputeFraction (cleared x)).dc.quality = s.dc.quality from h.quality,
        show (recomputeFraction (cleared x)).mc.config = configOf .townheat img from h.config] at ho
      rw [show (cleared x).dc.time = s.dc.time from h.time]
      exact ⟨rfl, ⟨rfl, rfl⟩, ⟨rfl, rfl, rfl⟩, fun _ => rfl, fun hn => absurd rfl hn, .of_town rfl ho⟩
    · obtain ⟨ht, hm, hrs⟩ := startUnit_other (k := k) (x := cleared x) h.role htie htown
      exact ⟨hrs, ⟨by rw [ht]; rfl, by rw [ht]; rfl⟩, ⟨by rw [hm]; rfl, by rw [hm]; rfl, by rw [hm]; rfl⟩,
        fun _ => by rw [ht]; rfl, fun _ => by rw [hm]; rfl, fun h => absurd h htie, fun h => absurd h htown⟩

/-! ### At an unchanged tag (R131, R149) -/

theorem meterStart_kept (i : Interval) (ho : x.mu.openInterval = some i) : meterStart .unchanged x =
    takenUp i (keptInterval i (recomputeFraction x)) (keptAcc (recomputeFraction x)) (recomputeFraction x) := by
  have hr : (recomputeFraction x).mu.openInterval = some i := ho
  simp only [meterStart, hr, resumeInterval_eq]

theorem meterStart_none (ho : x.mu.openInterval = none) : meterStart .unchanged x =
    openIntervalAt x.dc.time partialAfterReset (recomputeFraction x) := by
  have hr : (recomputeFraction x).mu.openInterval = none := ho
  simp only [meterStart, hr]
  rfl

theorem tieStart_kept (p : Period) (ho : x.tie.openPeriod = some p) :
    tieStart .unchanged x = resumePeriod p x := by
  simp only [tieStart, ho]

theorem tieStart_none (ho : x.tie.openPeriod = none) : tieStart .unchanged x =
    openPeriod x.dc.time partialAfterReset (emptySlots x) := by
  simp only [tieStart, ho]

/-- What a start at an unchanged tag leaves as it was: the remainders, and the unit of another role. -/
theorem startUnit_unchanged (hr : x.mc.config.role = some r) :
    let u := startUnit .unchanged x
    u.mu.worksRem = x.mu.worksRem ∧ u.mu.purchRem = x.mu.purchRem ∧ (r ≠ .exportTie → u.tie = x.tie) ∧
      (r ≠ .townheat → u.mu = x.mu) ∧ (r ≠ .exportTie → r ≠ .townheat → u.rs = x.rs) := by
  intro u
  by_cases htie : r = .exportTie
  · subst htie
    have hu : u = tieStart .unchanged x := startUnit_tie hr
    have hm : u.mu = x.mu := by rw [hu]; simp
    exact ⟨by rw [hm], by rw [hm], fun h => absurd rfl h, fun _ => hm, fun h => absurd rfl h⟩
  · by_cases htown : r = .townheat
    · subst htown
      have hu : u = meterStart .unchanged x := startUnit_town hr
      have hrem : u.mu.worksRem = x.mu.worksRem ∧ u.mu.purchRem = x.mu.purchRem := by
        rw [hu]
        cases ho : x.mu.openInterval with
        | none => rw [meterStart_none ho]; simp
        | some i =>
          obtain ⟨hw, hp, -⟩ := takenUp_keeps (i := i) (j := keptInterval i (recomputeFraction x))
            (acc := keptAcc (recomputeFraction x)) (s := recomputeFraction x)
          rw [meterStart_kept i ho, hw, hp]
          exact ⟨rfl, rfl⟩
      exact ⟨hrem.1, hrem.2, fun _ => by rw [hu]; simp, fun h => absurd rfl h, fun _ h => absurd rfl h⟩
    · obtain ⟨ht, hm, hrs⟩ := startUnit_other (k := .unchanged) hr htie htown
      exact ⟨by rw [hm], by rw [hm], fun _ => ht, fun _ => hm, fun _ _ => hrs⟩

/-! ### A span kept over the reset -/

/-- The missing seconds of a kept period (R131). -/
def missedPeriod (p : Period) (s : State) : Nat :=
  saturate16 (p.missing + Nat.min (sinceReset s) (periodEnd p - posNumber s.dc.resetTime))

theorem resumedPeriod_eq (p : Period) (n : Nat) (s : State) : resumedPeriod p n s = { p with
    missing := n, quality := lowerQuality p.quality s.dc.quality, flags := { p.flags with resetDuring := true } } := rfl

theorem keptPeriod_as (h : UnitsAs r img s x) (p : Period) : keptPeriod p x = { p with
    missing := missedPeriod p s, quality := lowerQuality p.quality s.dc.quality
    flags := { p.flags with resetDuring := true } } := by
  rw [keptPeriod, resumedPeriod_eq, h.since, h.reset, h.quality, missedPeriod]

/-- The kept interval as it is taken up: its missing seconds, and the peak minute after a minute boundary (R149). -/
def resumedAs (i : Interval) (missing peak : Nat) (quality : Quality) : Interval := { i with
  missing := missing, peak := peak, quality := lowerQuality i.quality quality
  flags := { i.flags with resetDuring := true } }

theorem resumedAs_fields (i : Interval) (n m : Nat) (q : Quality) : (resumedAs i n m q).planned = i.planned ∧
    (resumedAs i n m q).quality = lowerQuality i.quality q := ⟨rfl, rfl⟩

/-- A minute boundary lies between the reset and now (R149). -/
abbrev MinuteSince (s : State) : Prop := 60 ≤ s.dc.resetTime.sec % 60 + sinceReset s

theorem minuteSince_iff (s : State) : minuteSince s = true ↔ MinuteSince s := decide_eq_true_iff

/-- The peak of a kept interval (R141, R149). -/
def peakSince (i : Interval) (s : State) : Nat :=
  if MinuteSince s then Nat.max i.peak (s.mu.minuteAcc / kwhUnit) else i.peak

theorem resumedInterval_eq (i : Interval) (n m : Nat) (s : State) :
    resumedInterval i n m s = resumedAs i n m s.dc.quality := rfl

section
variable (h : UnitsAs r img s x)
include h

theorem sinceReset_fraction : sinceReset (recomputeFraction x) = sinceReset s := h.since

theorem minuteSince_fraction : minuteSince (recomputeFraction x) = true ↔ MinuteSince s := by
  rw [minuteSince_iff, MinuteSince, sinceReset_fraction h, show (recomputeFraction x).dc.resetTime = _ from h.reset]

theorem keptInterval_as (i : Interval) : keptInterval i (recomputeFraction x) =
    resumedAs i (missingSince i s) (peakSince i s) s.dc.quality := by
  have hq : (recomputeFraction x).dc.quality = s.dc.quality := h.quality
  have hacc : (recomputeFraction x).mu.minuteAcc = s.mu.minuteAcc := by
    rw [← h.meter]
    rfl
  have hpeak : (lowerInterval i (recomputeFraction x)).peak = i.peak := rfl
  have hmissing : missingSince i (recomputeFraction x) = missingSince i s := by
    rw [missingSince, sinceReset_fraction h, show (recomputeFraction x).dc.resetTime = _ from h.reset, missingSince]
  rw [keptInterval, resumedInterval_eq, hq, hmissing, hacc, hpeak, peakSince]
  simp only [minuteSince_fraction h]

theorem keptAcc_as : keptAcc (recomputeFraction x) = if MinuteSince s then 0 else s.mu.minuteAcc := by
  have hacc : (recomputeFraction x).mu.minuteAcc = s.mu.minuteAcc := by
    rw [← h.meter]
    rfl
  rw [keptAcc, hacc]
  simp only [minuteSince_fraction h]

/-- With no period kept, one opens. -/
theorem startTie_none (hr : r = .exportTie) (ho : s.tie.openPeriod = none) :
    (startUnit .unchanged x).rs = x.rs ∧ Opened r img s (startUnit .unchanged x) partialAfterReset := by
  subst hr
  have hx : x.tie.openPeriod = none := by rw [h.tie, ho]
  rw [startUnit_tie h.role, tieStart_none hx]
  have hopen := openPeriod_opens partialAfterReset (emptySlots x)
  rw [show (emptySlots x).dc = x.dc from rfl, h.time, h.quality] at hopen
  rw [h.time]
  exact ⟨by simp, .of_tie rfl hopen⟩

/-- With no interval kept, one opens. -/
theorem startTown_none (hr : r = .townheat) (ho : s.mu.openInterval = none) :
    (startUnit .unchanged x).rs = x.rs ∧ Opened r img s (startUnit .unchanged x) partialAfterReset := by
  subst hr
  have hx : x.mu.openInterval = none := by rw [h.meter, ho]
  have hopen := openIntervalAt_opens partialAfterReset (recomputeFraction x)
  rw [show (recomputeFraction x).dc.time = s.dc.time from h.time,
    show (recomputeFraction x).dc.quality = s.dc.quality from h.quality,
    show (recomputeFraction x).mc.config = configOf .townheat img from h.config] at hopen
  rw [startUnit_town h.role, meterStart_none hx, h.time]
  exact ⟨by simp, .of_town rfl hopen⟩

/-- A kept period goes on before its end. -/
theorem startTie_open (hr : r = .exportTie) {p : Period} (ho : s.tie.openPeriod = some p)
    (hlt : sinceReset s < periodEnd p - posNumber s.dc.resetTime) :
    let u := startUnit .unchanged x
    u.rs = x.rs ∧ u.tie.slotA = s.tie.slotA ∧ u.tie.slotB = s.tie.slotB ∧
      u.tie.openPeriod = some { p with
        missing := missedPeriod p s, quality := lowerQuality p.quality s.dc.quality
        flags := { p.flags with resetDuring := true } } ∧
      u.dc.spanStart = some p.start := by
  subst hr
  have hx : x.tie.openPeriod = some p := by rw [h.tie, ho]
  have hlt : sinceReset x < periodEnd p - posNumber x.dc.resetTime := by rwa [h.since, h.reset]
  intro u
  have hu : u = resumePeriod p x := (startUnit_tie h.role).trans (tieStart_kept p hx)
  rw [hu, resumePeriod_open hlt, ← keptPeriod_as h, ← h.tie]
  exact ⟨rfl, rfl, rfl, rfl, rfl⟩

/-- A kept period past its end is settled, and one opens. -/
theorem startTie_past (hr : r = .exportTie) {p : Period} (ho : s.tie.openPeriod = some p)
    (hge : periodEnd p - posNumber s.dc.resetTime ≤ sinceReset s) :
    let u := startUnit .unchanged x
    Opened r img s u partialAfterReset ∧ (StoreRoom x.rs → ∃ y, u.rs = handedTo (.settle y) x.rs ∧
      y.seq = x.rs.nextSeq ∧ y.start = p.start ∧ y.length = p.planned ∧ y.commitment = p.commitment ∧
      y.energyC = p.commitment * p.planned / 36 ∧ y.energyE = p.energyE ∧ y.missing = missedPeriod p s ∧
      y.quality = lowerQuality p.quality s.dc.quality ∧
      GapMarked x.rs { p.flags with resetDuring := true } y.flags) := by
  subst hr
  have hx : x.tie.openPeriod = some p := by rw [h.tie, ho]
  have hge : periodEnd p - posNumber x.dc.resetTime ≤ sinceReset x := by rwa [h.since, h.reset]
  intro u
  have hu : u = resumePeriod p x := (startUnit_tie h.role).trans (tieStart_kept p hx)
  have hopen := resumePeriod_opens hge
  rw [h.time, h.quality] at hopen
  have hmissing : (keptPeriod p x).missing = missedPeriod p s := by rw [keptPeriod_as h]
  rw [hu]
  refine ⟨.of_tie rfl hopen, fun hroom => ?_⟩
  have hsettles := resumePeriod_settles hge hroom
  rwa [hmissing, h.quality] at hsettles

/-- A kept interval goes on before its end. -/
theorem startTown_open (hr : r = .townheat) {i : Interval} (ho : s.mu.openInterval = some i)
    (hlt : sinceReset s < intervalEnd i - posNumber s.dc.resetTime) :
    let u := startUnit .unchanged x
    u.rs = x.rs ∧ u.mu.openInterval = some (resumedAs i (missingSince i s) (peakSince i s) s.dc.quality) ∧
      u.mu.minuteAcc = (if MinuteSince s then 0 else s.mu.minuteAcc) ∧ u.dc.spanStart = some i.start := by
  subst hr
  have hx : x.mu.openInterval = some i := by rw [h.meter, ho]
  have hlt : sinceReset (recomputeFraction x) < intervalEnd i - posNumber (recomputeFraction x).dc.resetTime := by
    rwa [sinceReset_fraction h, show (recomputeFraction x).dc.resetTime = _ from h.reset]
  intro u
  have hu : u = _ := (startUnit_town h.role).trans ((meterStart_kept i hx).trans (takenUp_open hlt))
  rw [hu, keptInterval_as h, keptAcc_as h]
  exact ⟨rfl, rfl, rfl, rfl⟩

/-- A kept interval past its end is billed, and one opens. -/
theorem startTown_past (hr : r = .townheat) {i : Interval} (ho : s.mu.openInterval = some i)
    (hge : intervalEnd i - posNumber s.dc.resetTime ≤ sinceReset s) :
    let u := startUnit .unchanged x
    let j := resumedAs i (missingSince i s) (peakSince i s) s.dc.quality
    Opened r img s u partialAfterReset ∧ (StoreRoom x.rs → ∃ g, GapMarked x.rs j.flags g ∧
      u.rs = handedTo (.bill ⟨x.rs.nextSeq, j.start, j.planned, j.band, j.quality, j.works, j.purchased, j.peak,
        j.missing, j.reverse, j.overRange, g⟩) x.rs) := by
  subst hr
  have hx : x.mu.openInterval = some i := by rw [h.meter, ho]
  have hge : intervalEnd i - posNumber (recomputeFraction x).dc.resetTime ≤ sinceReset (recomputeFraction x) := by
    rwa [sinceReset_fraction h, show (recomputeFraction x).dc.resetTime = _ from h.reset]
  intro u j
  have hu : u = _ := (startUnit_town h.role).trans (meterStart_kept i hx)
  rw [keptInterval_as h] at hu
  have hopen := takenUp_opens (j := j) (acc := keptAcc (recomputeFraction x)) hge
  rw [show (recomputeFraction x).dc.time = s.dc.time from h.time,
    show (recomputeFraction x).dc.quality = s.dc.quality from h.quality,
    show (recomputeFraction x).mc.config = configOf .townheat img from h.config] at hopen
  rw [hu]
  refine ⟨.of_town rfl hopen, fun hroom => ?_⟩
  obtain ⟨g, hg, hrs⟩ := takenUp_bills (s := recomputeFraction x) (j := j)
    (acc := keptAcc (recomputeFraction x)) hge hroom
  obtain ⟨hplanned, hquality⟩ := resumedAs_fields i (missingSince i s) (peakSince i s) s.dc.quality
  have hlow : lowerQuality j.quality s.dc.quality = j.quality := by
    rw [hquality]
    exact qualityLowered_twice _ _
  rw [show (recomputeFraction x).dc.quality = s.dc.quality from h.quality, hlow, ← hplanned] at hrs
  exact ⟨g, hg, hrs⟩
end

end Sys2Proof.Machine
end

section
/-! The statement about the units at the end of LOADING (R131, R148, R149, R169, R172, R179). -/

namespace Sys2Proof.Machine

variable {s t u x b z : State} {r : Role} {img : RawImage} {k : StartKind}

/-! ### The station before the unit starts -/

/-- The station with the image's configuration, in LISTEN-IN, its timers running. -/
def loadBase (r : Role) (img : RawImage) (z : State) : State :=
  startRoleTimers (enterListenIn (raiseLoadFaults
    (z.setMc { z.mc with config := configOf r img, rememberedTag := some img.computed })))

theorem loaded_base (r : Role) (img : RawImage) (z : State) :
    loaded r img z = restartAndStart (startKind img.computed z.mc) (loadBase r img z) := rfl

@[simp] theorem startRoleTimers_resetTime (x : State) : (startRoleTimers x).dc.resetTime = x.dc.resetTime := by
  simp only [startRoleTimers]
  split <;> rfl

/-- The entry to LISTEN-IN leaves the store, the units and the clock as they were. -/
theorem loadBase_units (r : Role) (img : RawImage) (z : State) : UnitsAs r img z (loadBase r img z) ∧
    (loadBase r img z).rs = z.rs ∧ (loadBase r img z).mc.supplyLow = z.mc.supplyLow ∧
    (loadBase r img z).mc.mode = .listenIn := by
  let w := raiseLoadFaults (z.setMc { z.mc with config := configOf r img, rememberedTag := some img.computed })
  have he := enterListenIn_enters w
  have hmc := he.modes
  refine ⟨⟨?_, ?_, ?_, ?_, ?_, ?_⟩, ?_, ?_, ?_⟩
  · simp [loadBase, hmc, w]
  · simp [loadBase]
  · simp [loadBase]
  · simp [loadBase]
  · simp [loadBase]
  · simp [loadBase]
  · simp [loadBase]
  · simp [loadBase, hmc, w]
  · simp [loadBase, hmc, w]

/-! ### The restart of a held commit beside the unit's start (R169) -/

/-- No record is handed over: an empty hold queue leaves the store as it was, of a kept one the head's commit
restarts. -/
def NoRecord (s t : State) : Prop :=
  (s.rs.holdQueue = [] → t.rs = s.rs) ∧
    ∀ y rest, s.rs.holdQueue = y :: rest → s.rs.inFlight = false → t.rs = { s.rs with
      inFlight := true, slots := assocErase ((recordSeq y + 1023) % 1024) s.rs.slots }

theorem noRecord_of_restart (h : s.rs.holdQueue ≠ []) (ht : t.rs = startIfIdle s.rs) : NoRecord s t := by
  refine ⟨fun hq => absurd hq h, fun y rest hq hidle => ?_⟩
  rw [ht, startIfIdle_starts hidle (by rw [hq]; rfl)]

theorem startAndTell_quiet (h : x.mc.supplyLow = false) : startAndTell k x = startUnit k (protectedAtStart k x) := by
  simp only [startAndTell]
  rw [if_neg (by simp [h])]

/-- The unit's start as the end of LOADING has it: from a state that differs in the store and the free numbers alone,
before or after the restart of a held commit. -/
structure UnitStarted (k : StartKind) (b t x u : State) : Prop where
  started : u = startUnit k (protectedAtStart k x)
  config : x.mc = b.mc
  tie : x.tie = b.tie
  meter : x.mu = b.mu
  clock : x.dc = b.dc
  sameTie : t.tie = u.tie
  sameMeter : t.mu = u.mu
  sameClock : t.dc = u.dc
  empty : b.rs.holdQueue = [] → x.rs = b.rs ∧ t.rs = u.rs
  quiet : u.rs = x.rs → NoRecord b t

theorem restartAndStart_unit (k : StartKind) (hlow : b.mc.supplyLow = false) :
    ∃ x u, UnitStarted k b (restartAndStart k b) x u := by
  by_cases hq : b.rs.holdQueue = []
  · have ht : restartAndStart k b = startUnit k (protectedAtStart k b) := by
      rw [restartAndStart, if_pos (by simp [hq]), startAndTell_quiet hlow]
    exact ⟨b, _, rfl, rfl, rfl, rfl, rfl, by rw [ht], by rw [ht], by rw [ht], fun _ => ⟨rfl, by rw [ht]⟩,
      fun hu => ⟨fun _ => by rw [ht, hu], fun y rest hy => absurd (hq.symm.trans hy) (by simp)⟩⟩
  · have hne : ¬b.rs.holdQueue.isEmpty = true := by simpa using hq
    by_cases hf : freeNumber b % 2 = 0
    · have ht : restartAndStart k b = startUnit k (protectedAtStart k (restartCommit (drawn b))) := by
        rw [restartAndStart, if_neg hne, if_pos hf, startAndTell_quiet (by simpa using hlow)]
      exact ⟨restartCommit (drawn b), _, rfl, rfl, rfl, rfl, rfl, by rw [ht], by rw [ht], by rw [ht],
        fun h => absurd h hq, fun hu => noRecord_of_restart hq (by rw [ht, hu]; rfl)⟩
    · have ht : restartAndStart k b = restartCommit (startUnit k (protectedAtStart k (drawn b))) := by
        rw [restartAndStart, if_neg hne, if_neg hf, startAndTell_quiet (x := drawn b) hlow]
      refine ⟨drawn b, _, rfl, rfl, rfl, rfl, rfl, by rw [ht]; simp, by rw [ht]; simp, by rw [ht]; simp,
        fun h => absurd h hq, fun hu => noRecord_of_restart hq ?_⟩
      rw [ht]
      exact congrArg startIfIdle hu

theorem UnitStarted.unitsAs (h : UnitStarted k b t x u) (hb : UnitsAs r img s b) : UnitsAs r img s x where
  config := by rw [h.config, hb.config]
  tie := by rw [h.tie, hb.tie]
  meter := by rw [h.meter, hb.meter]
  time := by rw [h.clock, hb.time]
  quality := by rw [h.clock, hb.quality]
  reset := by rw [h.clock, hb.reset]

theorem UnitStarted.opened {f : RecordFlags} (h : UnitStarted k b t x u) (ho : Opened r img s u f) :
    Opened r img s t f := by
  obtain ⟨htie, htown⟩ := ho
  constructor
  · intro hr
    obtain ⟨hp, hs⟩ := htie hr
    exact ⟨by rw [h.sameTie]; exact hp, by rw [h.sameClock]; exact hs⟩
  · intro hr
    obtain ⟨ha, hi, hs⟩ := htown hr
    exact ⟨by rw [h.sameMeter]; exact ha, by rw [h.sameMeter]; exact hi, by rw [h.sameClock]; exact hs⟩

/-- What a span opened at the end of LOADING is, field by field. -/
theorem Opened.parts {f : RecordFlags} (h : Opened r img s t f) :
    (r = .exportTie → ∃ q, t.tie.openPeriod = some q ∧ t.tie.mark = false ∧ q.start = s.dc.time ∧
      q.planned = 1800 * (s.dc.time.sec / 1800 + 1) - s.dc.time.sec ∧ q.energyE = 0 ∧ q.missing = 0 ∧
      q.energyC = q.commitment * q.planned / 36 ∧ q.quality = s.dc.quality ∧
      q.flags = { f with noSchedule := q.flags.noSchedule }) ∧
    (r = .townheat → t.mu.minuteAcc = 0 ∧ t.mu.openInterval =
      some (intervalFrom (configOf r img).tariff s.dc.time s.dc.quality f)) ∧
    (r = .exportTie ∨ r = .townheat → t.dc.spanStart = some s.dc.time) := by
  obtain ⟨htie, htown⟩ := h
  exact ⟨fun hr => (htie hr).period, fun hr => ⟨(htown hr).acc, (htown hr).interval⟩,
    fun hr => hr.elim (fun hr => (htie hr).span) fun hr => (htown hr).span⟩

/-! ### The kind of start (R172) -/

theorem startKind_unchanged_iff {tag : Nat} {mc : ModeController} :
    startKind tag mc = .unchanged ↔ mc.cause ≠ .powerOn ∧ mc.rememberedTag = some tag := by
  by_cases hc : mc.cause = .powerOn
  · simp [startKind, hc]
  · by_cases ht : mc.rememberedTag = some tag <;> simp [startKind, hc, ht]

/-! ### The end of LOADING with SUPPLY LOW released -/

theorem effect_loadedImage {strap : Node} {bytes : List Byte} (hm : s.mc.mode = .loading)
    (himg : rawImage bytes = some img) (hok : outcomeOf strap img = .ok) (hrole : imageRole img = some r) :
    effect (.loadComplete strap (some bytes)) s = loaded r img (loadCommon strap .ok (some img) s) := by
  rw [effect_loadComplete, if_pos hm, Option.bind_some, himg]
  simp only [load, loadOutcomeOf, hok, hrole]

/-- The units at the end of LOADING as from the state before it. -/
theorem loadBase_unitsAs (r : Role) (img : RawImage) (strap : Node) (s : State) :
    UnitsAs r img s (loadBase r img (loadCommon strap .ok (some img) s)) := by
  obtain ⟨h, -⟩ := loadBase_units r img (loadCommon strap .ok (some img) s)
  exact ⟨h.config, h.tie, h.meter, h.time, h.quality, h.reset⟩

/-- The first part of O6: the input stands released. -/
structure StartedAsStated (r : Role) (img : RawImage) (s t : State) : Prop where
  changed : ¬(s.mc.cause ≠ .powerOn ∧ s.mc.rememberedTag = some img.computed) →
    StartedClear r img s t ∧ NoRecord s t
  unchanged : s.mc.cause ≠ .powerOn ∧ s.mc.rememberedTag = some img.computed →
    t.mu.worksRem = s.mu.worksRem ∧ t.mu.purchRem = s.mu.purchRem ∧ (r ≠ .exportTie → t.tie = s.tie) ∧
      (r ≠ .townheat → t.mu = s.mu) ∧ (r ≠ .exportTie → r ≠ .townheat → NoRecord s t) ∧
      (r = .exportTie → s.tie.openPeriod = none → NoRecord s t ∧ Opened r img s t partialAfterReset) ∧
      (r = .townheat → s.mu.openInterval = none → NoRecord s t ∧ Opened r img s t partialAfterReset) ∧
      (∀ p, r = .exportTie → s.tie.openPeriod = some p →
        (sinceReset s < periodEnd p - posNumber s.dc.resetTime → NoRecord s t ∧ t.tie.slotA = s.tie.slotA ∧
          t.tie.slotB = s.tie.slotB ∧ t.tie.openPeriod = some { p with
            missing := missedPeriod p s, quality := lowerQuality p.quality s.dc.quality
            flags := { p.flags with resetDuring := true } } ∧ t.dc.spanStart = some p.start) ∧
        (periodEnd p - posNumber s.dc.resetTime ≤ sinceReset s → Opened r img s t partialAfterReset ∧
          (StoreRoom s.rs → ∃ y, t.rs = handedTo (.settle y) s.rs ∧ y.seq = s.rs.nextSeq ∧ y.start = p.start ∧
            y.length = p.planned ∧ y.commitment = p.commitment ∧ y.energyC = p.commitment * p.planned / 36 ∧
            y.energyE = p.energyE ∧ y.missing = missedPeriod p s ∧
            y.quality = lowerQuality p.quality s.dc.quality ∧
            GapMarked s.rs { p.flags with resetDuring := true } y.flags))) ∧
      (∀ i, r = .townheat → s.mu.openInterval = some i →
        let j := resumedAs i (missingSince i s) (peakSince i s) s.dc.quality
        (sinceReset s < intervalEnd i - posNumber s.dc.resetTime → NoRecord s t ∧ t.mu.openInterval = some j ∧
          t.mu.minuteAcc = (if MinuteSince s then 0 else s.mu.minuteAcc) ∧ t.dc.spanStart = some i.start) ∧
        (intervalEnd i - posNumber s.dc.resetTime ≤ sinceReset s → Opened r img s t partialAfterReset ∧
          (StoreRoom s.rs → ∃ g, GapMarked s.rs j.flags g ∧ t.rs = handedTo (.bill ⟨s.rs.nextSeq, j.start, j.planned,
            j.band, j.quality, j.works, j.purchased, j.peak, j.missing, j.reverse, j.overRange, g⟩) s.rs)))

theorem UnitStarted.asStated (h : UnitStarted (startKind img.computed s.mc) b t x u) (hb : UnitsAs r img s b)
    (hrs : b.rs = s.rs) : StartedAsStated r img s t where
  changed hc := by
    have hk : startKind img.computed s.mc ≠ .unchanged := mt startKind_unchanged_iff.1 hc
    obtain ⟨hstore, hclear⟩ := startUnit_changed hk (h.unitsAs hb)
    rw [← h.started] at hstore hclear
    obtain ⟨⟨ha, hs⟩, ⟨hw, hp, hacc⟩, hnp, hni, ho⟩ := hclear
    have hno := h.quiet hstore
    rw [NoRecord, hrs] at hno
    exact ⟨⟨by rw [h.sameTie]; exact ⟨ha, hs⟩, by rw [h.sameMeter]; exact ⟨hw, hp, hacc⟩,
      fun hr => by rw [h.sameTie]; exact hnp hr, fun hr => by rw [h.sameMeter]; exact hni hr, h.opened ho⟩, hno⟩
  unchanged hc := by
    have hk : startKind img.computed s.mc = .unchanged := startKind_unchanged_iff.2 hc
    have hx := h.unitsAs hb
    have hu : u = startUnit .unchanged x := by
      rw [h.started, hk]
      rfl
    have hquiet : u.rs = x.rs → NoRecord s t := fun hq => by
      have hno := h.quiet hq
      rwa [NoRecord, hrs] at hno
    have hroom : StoreRoom s.rs → x.rs = s.rs ∧ t.rs = u.rs := fun hroom => by
      rw [← hrs]
      exact h.empty (by rw [hrs]; exact hroom.empty)
    obtain ⟨hw, hp, htie, hmeter, hother⟩ := startUnit_unchanged (x := x) hx.role
    rw [← hu, hx.meter] at hw hp hmeter
    rw [← hu, hx.tie] at htie
    rw [← hu] at hother
    refine ⟨by rw [h.sameMeter, hw], by rw [h.sameMeter, hp], fun hr => by rw [h.sameTie, htie hr],
      fun hr => by rw [h.sameMeter, hmeter hr], fun h1 h2 => hquiet (hother h1 h2), fun hr ho => ?_, fun hr ho => ?_,
      fun p hr ho => ⟨fun hlt => ?_, fun hge => ?_⟩, fun i hr ho => ⟨fun hlt => ?_, fun hge => ?_⟩⟩
    · obtain ⟨hq, hopen⟩ := startTie_none hx hr ho
      rw [← hu] at hq hopen
      exact ⟨hquiet hq, h.opened hopen⟩
    · obtain ⟨hq, hopen⟩ := startTown_none hx hr ho
      rw [← hu] at hq hopen
      exact ⟨hquiet hq, h.opened hopen⟩
    · obtain ⟨hq, ha, hs, hperiod, hspan⟩ := startTie_open hx hr ho hlt
      rw [← hu] at hq ha hs hperiod hspan
      rw [h.sameTie, h.sameClock]
      exact ⟨hquiet hq, ha, hs, hperiod, hspan⟩
    · obtain ⟨hopen, hrec⟩ := startTie_past hx hr ho hge
      rw [← hu] at hopen hrec
      refine ⟨h.opened hopen, fun hrm => ?_⟩
      obtain ⟨hxs, hts⟩ := hroom hrm
      rw [hxs] at hrec
      rw [hts]
      exact hrec hrm
    · obtain ⟨hq, hint, hacc, hspan⟩ := startTown_open hx hr ho hlt
      rw [← hu] at hq hint hacc hspan
      rw [h.sameMeter, h.sameClock]
      exact ⟨hquiet hq, hint, hacc, hspan⟩
    · obtain ⟨hopen, hrec⟩ := startTown_past hx hr ho hge
      rw [← hu] at hopen hrec
      refine ⟨h.opened hopen, fun hrm => ?_⟩
      obtain ⟨hxs, hts⟩ := hroom hrm
      rw [hxs] at hrec
      rw [hts]
      exact hrec hrm

end Sys2Proof.Machine
end

section
/-! SUPPLY LOW at the end of LOADING: it is no input of the load, and the unit is told of it after its start (R179). -/

namespace Sys2Proof.Machine

variable {s t u x b z : State} {r : Role} {img : RawImage} {k : StartKind} {v : Bool}

/-! ### The input plays no part in the load -/

/-- The station with SUPPLY LOW standing so. -/
def withSupply (v : Bool) (x : State) : State := x.setMc { x.mc with supplyLow := v }

theorem rebuildWant_withSupply (x : State) : rebuildWant (withSupply v x) = withSupply v (rebuildWant x) := by
  have heff : effectiveWant (withSupply v x) = effectiveWant x := rfl
  cases h : wantMain x.mc.config with
  | none =>
    have hv : wantMain (withSupply v x).mc.config = none := h
    simp only [rebuildWant, h, hv]
  | some m =>
    have hv : wantMain (withSupply v x).mc.config = some m := h
    have hse : (withSupply v x).se = x.se := rfl
    simp only [rebuildWant, h, hv, heff, hse]
    split <;> rfl

theorem enqueueHello_withSupply {a : Option Role} {m p n : Nat} (x : State) :
    enqueue (.hello a m p n) (withSupply v x) = withSupply v (enqueue (.hello a m p n) x) := by
  have hm : (withSupply v x).mc.mode = x.mc.mode := rfl
  simp only [enqueue, hm]
  split <;> rfl

theorem enterFallback_withSupply (x : State) : enterFallback (withSupply v x) = withSupply v (enterFallback x) := by
  rw [enterFallback_eq, enterFallback_eq]
  rfl

theorem markPending_withSupply (x : State) : markPending (withSupply v x) = withSupply v (markPending x) := rfl

theorem enterListenIn_withSupply (x : State) : enterListenIn (withSupply v x) = withSupply v (enterListenIn x) := by
  let w := x.setMc { x.mc with mode := .listenIn }
  let y := w.setFp { w.fp with statusTimer := none }
  let line := fun (z : State) => z.setSe { z.se with roundTimer := some z.mc.config.period, roundCount := 0 }
  have hstart : enterListenIn (withSupply v x) = rebuildWant (markPending (enterFallback (line
      (enqueue (configuredHello w.mc.config) (withSupply v y))))) := rfl
  have hline : ∀ z, line (withSupply v z) = withSupply v (line z) := fun _ => rfl
  rw [hstart, configuredHello, enqueueHello_withSupply, hline, enterFallback_withSupply, markPending_withSupply,
    rebuildWant_withSupply]
  rfl

theorem raiseLoadFaults_withSupply (x : State) :
    raiseLoadFaults (withSupply v x) = withSupply v (raiseLoadFaults x) := by
  let ks := loadFaults x.mc.config x.dc.quality
  have hsev : ∀ n : State, ∀ k ∈ freeOrder ks n, faultSeverity k ≠ .failed := by
    intro n k hk
    rcases mem_loadFaults.1 ((freeOrder_perm ks n).mem_iff.1 hk) with ⟨rfl, -⟩ | ⟨rfl, -⟩ <;> decide
  have hdrawn : orderDrawn ks (withSupply v x) = withSupply v (orderDrawn ks x) := by
    simp only [orderDrawn]
    split <;> rfl
  have horder : freeOrder ks (withSupply v x) = freeOrder ks x := rfl
  have hleft : raiseLoadFaults (withSupply v x) =
      raiseAll (freeOrder ks (withSupply v x)) (orderDrawn ks (withSupply v x)) := rfl
  have hright : raiseLoadFaults x = raiseAll (freeOrder ks x) (orderDrawn ks x) := rfl
  rw [hleft, hright, horder, hdrawn, raiseAll_eq _ _ (hsev x), raiseAll_eq _ _ (hsev x)]
  rfl

theorem startRoleTimers_withSupply (x : State) :
    startRoleTimers (withSupply v x) = withSupply v (startRoleTimers x) := by
  have hc : (withSupply v x).mc.config = x.mc.config := rfl
  simp only [startRoleTimers, hc]
  split <;> rfl

theorem loadBase_withSupply (z : State) : loadBase r img (withSupply v z) = withSupply v (loadBase r img z) := by
  have hset : (withSupply v z).setMc
      { (withSupply v z).mc with config := configOf r img, rememberedTag := some img.computed } =
      withSupply v (z.setMc { z.mc with config := configOf r img, rememberedTag := some img.computed }) := rfl
  rw [loadBase, hset, raiseLoadFaults_withSupply, enterListenIn_withSupply, startRoleTimers_withSupply, loadBase]

theorem protectedAtStart_withSupply (x : State) :
    protectedAtStart k (withSupply v x) = withSupply v (protectedAtStart k x) := by
  cases k <;> rfl

theorem handOver_withSupply (y : StoreRecord) (x : State) :
    handOver y (withSupply v x) = withSupply v (handOver y x) := by
  have hrs : (withSupply v x).rs = x.rs := rfl
  have hfree : freeNumber (withSupply v x) = freeNumber x := rfl
  simp only [handOver, hrs, hfree]
  split <;> rfl

theorem closePeriod_withSupply (p : Period) (n : Nat) (x : State) :
    closePeriod p n (withSupply v x) = withSupply v (closePeriod p n x) := by
  have hrecord : settleRecord (lowerPeriod p (withSupply v x)) n (withSupply v x).mc.config.tolerance =
      settleRecord (lowerPeriod p x) n x.mc.config.tolerance := rfl
  simp only [closePeriod, hrecord, handOver_withSupply]
  rfl

theorem closeInterval_withSupply (i : Interval) (n : Nat) (x : State) :
    closeInterval i n (withSupply v x) = withSupply v (closeInterval i n x) := by
  have hrecord : billRecord (lowerInterval i (withSupply v x)) n = billRecord (lowerInterval i x) n := rfl
  simp only [closeInterval, hrecord, handOver_withSupply]
  rfl

theorem openPeriod_withSupply (a : TimePos) (f : RecordFlags) (x : State) :
    openPeriod a f (withSupply v x) = withSupply v (openPeriod a f x) := rfl

theorem openIntervalAt_withSupply (a : TimePos) (f : RecordFlags) (x : State) :
    openIntervalAt a f (withSupply v x) = withSupply v (openIntervalAt a f x) := rfl

theorem emptySlots_withSupply (x : State) : emptySlots (withSupply v x) = withSupply v (emptySlots x) := rfl

theorem sinceReset_withSupply (x : State) : sinceReset (withSupply v x) = sinceReset x ∧
    (withSupply v x).dc = x.dc ∧ (withSupply v x).tie = x.tie ∧ (withSupply v x).mu = x.mu := ⟨rfl, rfl, rfl, rfl⟩

theorem resumePeriod_withSupply (p : Period) (x : State) :
    resumePeriod p (withSupply v x) = withSupply v (resumePeriod p x) := by
  obtain ⟨hsince, hdc, -, -⟩ := sinceReset_withSupply (v := v) x
  have hkept : keptPeriod p (withSupply v x) = keptPeriod p x := by
    rw [keptPeriod, hsince, hdc, resumedPeriod_eq, hdc, keptPeriod, resumedPeriod_eq]
  by_cases h : sinceReset x < periodEnd p - posNumber x.dc.resetTime
  · have hv : sinceReset (withSupply v x) < periodEnd p - posNumber (withSupply v x).dc.resetTime := by
      rwa [hsince, hdc]
    rw [resumePeriod_open h, resumePeriod_open hv, hkept]
    rfl
  · have h := Nat.not_lt.1 h
    have hv : periodEnd p - posNumber (withSupply v x).dc.resetTime ≤ sinceReset (withSupply v x) := by
      rwa [hsince, hdc]
    rw [resumePeriod_past h, resumePeriod_past hv, hkept, closePeriod_withSupply, emptySlots_withSupply,
      openPeriod_withSupply, hdc]

theorem tieStart_withSupply (x : State) : tieStart k (withSupply v x) = withSupply v (tieStart k x) := by
  by_cases hk : k = .unchanged
  · subst hk
    cases ho : x.tie.openPeriod with
    | none => rw [tieStart_none ho, tieStart_none (x := withSupply v x) ho]; rfl
    | some p => rw [tieStart_kept p ho, tieStart_kept p (x := withSupply v x) ho, resumePeriod_withSupply]
  · rw [tieStart_changed hk, tieStart_changed hk]
    rfl

theorem takenUp_withSupply (i j : Interval) (n : Nat) (x : State) :
    takenUp i j n (withSupply v x) = withSupply v (takenUp i j n x) := by
  obtain ⟨hsince, hdc, -, -⟩ := sinceReset_withSupply (v := v) x
  have hwith : withInterval j n (withSupply v x) = withSupply v (withInterval j n x) := rfl
  by_cases h : sinceReset x < intervalEnd i - posNumber x.dc.resetTime
  · have hv : sinceReset (withSupply v x) < intervalEnd i - posNumber (withSupply v x).dc.resetTime := by
      rwa [hsince, hdc]
    rw [takenUp_open h, takenUp_open hv, hwith]
    rfl
  · have h := Nat.not_lt.1 h
    have hv : intervalEnd i - posNumber (withSupply v x).dc.resetTime ≤ sinceReset (withSupply v x) := by
      rwa [hsince, hdc]
    rw [takenUp_past h, takenUp_past hv, hwith, closeInterval_withSupply, openIntervalAt_withSupply, hdc]

theorem keptInterval_withSupply (i : Interval) (x : State) :
    keptInterval i (withSupply v x) = keptInterval i x ∧ keptAcc (withSupply v x) = keptAcc x := by
  obtain ⟨hsince, hdc, -, hmu⟩ := sinceReset_withSupply (v := v) x
  have hminute : minuteSince (withSupply v x) = minuteSince x := by rw [minuteSince, hsince, hdc, minuteSince]
  have hmissing : missingSince i (withSupply v x) = missingSince i x := by
    rw [missingSince, hsince, hdc, missingSince]
  have hlow : lowerInterval i (withSupply v x) = lowerInterval i x := rfl
  refine ⟨?_, by rw [keptAcc, hminute, hmu, keptAcc]⟩
  rw [keptInterval, hminute, hmissing, hlow, hmu, resumedInterval_eq, hdc, keptInterval, resumedInterval_eq]

theorem meterStart_withSupply (x : State) : meterStart k (withSupply v x) = withSupply v (meterStart k x) := by
  have hfraction : recomputeFraction (withSupply v x) = withSupply v (recomputeFraction x) := rfl
  by_cases hk : k = .unchanged
  · subst hk
    cases ho : x.mu.openInterval with
    | none => rw [meterStart_none ho, meterStart_none (x := withSupply v x) ho]; rfl
    | some i =>
      obtain ⟨hkept, hacc⟩ := keptInterval_withSupply (v := v) i (recomputeFraction x)
      rw [meterStart_kept i ho, meterStart_kept i (x := withSupply v x) ho, hfraction, hkept, hacc,
        takenUp_withSupply]
  · rw [meterStart_changed hk, meterStart_changed hk]
    rfl

theorem startUnit_withSupply (x : State) : startUnit k (withSupply v x) = withSupply v (startUnit k x) := by
  have hc : (withSupply v x).mc.config = x.mc.config := rfl
  have hturbine : recomputeTurbine (withSupply v x) = withSupply v (recomputeTurbine x) :=
    rebuildWant_withSupply (x.setTurbine (turbineFrom (gapUsed x.peers)
      (capacitySum x.mc.config.electricCapacity x.peers) x.mc.config.electricCapacity x.mc.config.steamRate))
  simp only [startUnit, hc, meterStart_withSupply, tieStart_withSupply, hturbine]
  split <;> rfl

end Sys2Proof.Machine
end

section
/-! The statement about the units at the end of LOADING, with SUPPLY LOW released and asserted (R131, R148, R149, R162,
R169, R179). -/

namespace Sys2Proof.Machine

variable {s t u x y b z : State} {r : Role} {img : RawImage} {k : StartKind} {now : TimePos} {quality : Quality}
  {f g : RecordFlags}

/-! ### A span closed at its own start (R128, R146, R179) -/

theorem spanLength_self (limit : Nat) (a : TimePos) : spanLength limit a a = 0 := by
  have hzero : secondsFrom a a = 0 := by rw [secondsFrom, Nat.add_sub_cancel_left, Nat.mod_self]
  rw [spanLength, hzero]
  exact ite_self 0

theorem lowerQuality_self (a : Quality) : lowerQuality a a = a := ite_self a

/-- A flag other than GAP is as it was before the hand-over. -/
theorem GapMarked.noSchedule (h : GapMarked s.rs f g) : g.noSchedule = f.noSchedule := by
  by_cases hn : noneLost s.rs
  · rw [h.1 hn]
  · rw [h.2 hn]

/-- What SUPPLY LOW makes of a period opened at the same second. -/
theorem tiePowerFail_closes (h : TieOpened now quality f y) (hnow : y.dc.time = now) (hq : y.dc.quality = quality)
    (hroom : StoreRoom y.rs) :
    let t := tiePowerFail y
    t.tie.openPeriod = none ∧ t.tie.gap = 0 ∧ t.dc.spanStart = none ∧
      ∃ x, t.rs = handedTo (.settle x) y.rs ∧ x.seq = y.rs.nextSeq ∧ x.start = now ∧ x.length = 0 ∧ x.energyC = 0 ∧
        x.energyE = 0 ∧ x.missing = 0 ∧ x.quality = quality ∧
        GapMarked y.rs { f with powerFail := true, noSchedule := x.flags.noSchedule } x.flags := by
  obtain ⟨⟨p, ho, -, hstart, -, he, hm, -, hpq, hflags⟩, -⟩ := h
  let q : Period := { p with flags := { p.flags with powerFail := true } }
  obtain ⟨g, hg, hc⟩ := closePeriod_marked hroom q 0
  have hclose : tiePowerFail y = recomputeGap (closePeriod q 0 y) := by
    have hlen : spanLength 1800 q.start y.dc.time = 0 := by
      rw [hnow, show q.start = now from hstart, spanLength_self]
    simp only [tiePowerFail, ho, closePeriodNow]
    rw [show spanLength 1800 p.start y.dc.time = 0 from hlen]
  intro t
  have ht : t = _ := hclose.trans (congrArg recomputeGap hc)
  rw [ht]
  refine ⟨rfl, rfl, rfl, _, rfl, rfl, hstart, rfl, ?_, he, hm, ?_, ?_⟩
  · show p.commitment * 0 / 36 = 0
    rw [Nat.mul_zero, Nat.zero_div]
  · show lowerQuality p.quality y.dc.quality = quality
    rw [hpq, hq, lowerQuality_self]
  · have hns : g.noSchedule = p.flags.noSchedule := hg.noSchedule
    have hpf : q.flags = { f with powerFail := true, noSchedule := p.flags.noSchedule } := by
      show { p.flags with powerFail := true } = _
      rw [hflags]
    show GapMarked y.rs { f with powerFail := true, noSchedule := g.noSchedule } g
    rwa [hns, ← hpf]

/-- What SUPPLY LOW makes of an interval opened at the same second. -/
theorem meterPowerFail_closes {tariff : List Nat} (h : TownOpened tariff now quality f y) (hnow : y.dc.time = now)
    (hq : y.dc.quality = quality) (hroom : StoreRoom y.rs) :
    let t := meterPowerFail y
    t.mu.openInterval = none ∧ t.mu.minuteAcc = 0 ∧ t.dc.spanStart = none ∧
      ∃ g, GapMarked y.rs { f with powerFail := true } g ∧ t.rs = handedTo (.bill
        ⟨y.rs.nextSeq, now, 0, tariff.getD (now.sec / 3600) 0, quality, 0, 0, 0, 0, 0, 0, g⟩) y.rs := by
  obtain ⟨hacc, ho, -⟩ := h
  let i := intervalFrom tariff now quality { f with powerFail := true }
  have hflag : flagInterval setPowerFail (minuteCheck y) =
      y.setMu { y.mu with openInterval := some i, minuteAcc := 0 } := by
    rw [minuteCheck_open ho, hacc]
    rfl
  obtain ⟨g, hg, hc⟩ :=
    closeInterval_marked (s := y.setMu { y.mu with openInterval := some i, minuteAcc := 0 }) hroom i 0
  have hlen : spanLength 3600 i.start y.dc.time = 0 := by
    rw [hnow, show i.start = now from rfl, spanLength_self]
  have hclose : meterPowerFail y =
      closeInterval i 0 (y.setMu { y.mu with openInterval := some i, minuteAcc := 0 }) := by
    simp only [meterPowerFail, ho, hflag, closeIntervalNow, setMu_mu, setMu_dc, hlen]
  have hlow : lowerQuality quality y.dc.quality = quality := by rw [hq, lowerQuality_self]
  intro t
  have ht : t = _ := hclose.trans hc
  rw [ht]
  refine ⟨rfl, rfl, rfl, g, hg, ?_⟩
  show handedTo (.bill ⟨y.rs.nextSeq, now, 0, tariff.getD (now.sec / 3600) 0, lowerQuality quality y.dc.quality,
    0, 0, 0, 0, 0, 0, g⟩) y.rs = _
  rw [hlow]

/-- A span opened at the end of LOADING, closed at once (R179). -/
structure ClosedAtOnce (r : Role) (img : RawImage) (s t : State) (f : RecordFlags) : Prop where
  tie : r = .exportTie → t.tie.openPeriod = none ∧ t.tie.gap = 0 ∧ t.dc.spanStart = none ∧
    ∃ x, t.rs = handedTo (.settle x) s.rs ∧ x.seq = s.rs.nextSeq ∧ x.start = s.dc.time ∧ x.length = 0 ∧
      x.energyC = 0 ∧ x.energyE = 0 ∧ x.missing = 0 ∧ x.quality = s.dc.quality ∧
      GapMarked s.rs { f with powerFail := true, noSchedule := x.flags.noSchedule } x.flags
  town : r = .townheat → t.mu.openInterval = none ∧ t.mu.minuteAcc = 0 ∧ t.dc.spanStart = none ∧
    ∃ g, GapMarked s.rs { f with powerFail := true } g ∧ t.rs = handedTo (.bill
      ⟨s.rs.nextSeq, s.dc.time, 0, (configOf r img).tariff.getD (s.dc.time.sec / 3600) 0, s.dc.quality,
        0, 0, 0, 0, 0, 0, g⟩) s.rs

theorem Opened.closedAtOnce (ho : Opened r img s y f) (hrole : y.mc.config.role = some r)
    (htime : y.dc.time = s.dc.time) (hq : y.dc.quality = s.dc.quality) (hrs : y.rs = s.rs) (hroom : StoreRoom s.rs) :
    ClosedAtOnce r img s (tellAsserted y) f where
  tie hr := by
    have htell : tellAsserted y = tiePowerFail y := by simp only [tellAsserted, hrole, hr]
    rw [htell, ← hrs]
    exact tiePowerFail_closes (ho.1 hr) htime hq (by rw [hrs]; exact hroom)
  town hr := by
    have htell : tellAsserted y = meterPowerFail y := by simp only [tellAsserted, hrole, hr]
    rw [htell, ← hrs]
    exact meterPowerFail_closes (ho.2 hr) htime hq (by rw [hrs]; exact hroom)

theorem Opened.withSupply {v : Bool} (h : Opened r img s u f) : Opened r img s (withSupply v u) f :=
  ⟨fun hr => ⟨(h.1 hr).period, (h.1 hr).span⟩, fun hr => ⟨(h.2 hr).acc, (h.2 hr).interval, (h.2 hr).span⟩⟩

/-! ### The two ends of LOADING -/

/-- With SUPPLY LOW released the units start (R131, R148, R149). -/
theorem loadComplete_starts {strap : Node} {bytes : List Byte} (hm : s.mc.mode = .loading)
    (himg : rawImage bytes = some img) (hok : outcomeOf strap img = .ok) (hrole : imageRole img = some r)
    (hlow : s.mc.supplyLow = false) :
    ∃ t, exec (.loadComplete strap (some bytes)) s = .next t ∧ StartedAsStated r img s t := by
  let z := loadCommon strap .ok (some img) s
  obtain ⟨-, hrs, hsupply, -⟩ := loadBase_units r img z
  obtain ⟨x, u, hu⟩ := restartAndStart_unit (b := loadBase r img z) (startKind img.computed s.mc) (hsupply.trans hlow)
  exact ⟨_, congrArg Host.Outcome.next (effect_loadedImage hm himg hok hrole),
    hu.asStated (loadBase_unitsAs r img strap s) hrs⟩

/-- With SUPPLY LOW asserted and nothing held, the load is the one with the input released and its assertion after
it (R179). -/
theorem loadComplete_tells {strap : Node} {bytes : List Byte} (hm : s.mc.mode = .loading)
    (himg : rawImage bytes = some img) (hok : outcomeOf strap img = .ok) (hrole : imageRole img = some r)
    (hlow : s.mc.supplyLow = true) (hq : s.rs.holdQueue = []) :
    ∃ u, exec (.loadComplete strap (some bytes)) { s with mc := { s.mc with supplyLow := false } } = .next u ∧
      exec .supplyLowAsserted u = .next (tellAsserted (withSupply true u)) ∧
      exec (.loadComplete strap (some bytes)) s = .next (tellAsserted (withSupply true u)) ∧
      StartedAsStated r img s u ∧ u.mc.config.role = some r ∧ u.dc.time = s.dc.time ∧
      u.dc.quality = s.dc.quality := by
  let s' : State := { s with mc := { s.mc with supplyLow := false } }
  let z := loadCommon strap .ok (some img) s'
  let k := startKind img.computed s.mc
  let b := loadBase r img z
  let u := startUnit k (protectedAtStart k b)
  obtain ⟨hb, hrs, hsupply, hmode⟩ := loadBase_units r img z
  have hqb : b.rs.holdQueue.isEmpty = true := by
    rw [show b.rs = s.rs from hrs, hq]
    rfl
  have hload : loaded r img z = u := (if_pos hqb).trans (startAndTell_quiet hsupply)
  have hs : s = withSupply true s' := by
    show s = { s with mc := { s.mc with supplyLow := true } }
    rw [← hlow]
  have hbase : loadBase r img (loadCommon strap .ok (some img) s) = withSupply true b := by
    have hz : loadCommon strap .ok (some img) (withSupply true s') = withSupply true z := rfl
    rw [hs, hz, loadBase_withSupply]
  have htold : loaded r img (loadCommon strap .ok (some img) s) = tellAsserted (withSupply true u) := by
    have hstart : restartAndStart k (withSupply true b) = startAndTell k (withSupply true b) := if_pos hqb
    have hkind : startKind img.computed (loadCommon strap .ok (some img) s).mc = k := rfl
    rw [loaded_base, hkind, hbase, hstart]
    simp only [startAndTell, protectedAtStart_withSupply, startUnit_withSupply]
    exact if_pos rfl
  have humc : u.mc = b.mc := by simp [u]
  obtain ⟨t, ht, hstarted⟩ := loadComplete_starts (s := s') hm himg hok hrole rfl
  have hexec : exec (.loadComplete strap (some bytes)) s' = .next u :=
    congrArg Host.Outcome.next ((effect_loadedImage (s := s') hm himg hok hrole).trans hload)
  have htu : t = u := Host.Outcome.next.inj (ht.symm.trans hexec)
  rw [htu] at hstarted
  refine ⟨u, hexec, exec_supplyLowAsserted (by rw [humc, hmode]; decide) (by rw [humc]; exact hsupply),
    congrArg Host.Outcome.next ((effect_loadedImage hm himg hok hrole).trans htold), ?_, ?_, ?_, ?_⟩
  · refine ⟨fun hc => ?_, hstarted.unchanged⟩
    obtain ⟨hclear, hno⟩ := hstarted.changed hc
    exact ⟨{ hclear with }, hno⟩
  · rw [humc]
    exact hb.role
  · rw [show u.dc.time = b.dc.time by simp [u], show b.dc.time = z.dc.time from hb.time]
    rfl
  · rw [show u.dc.quality = b.dc.quality by simp [u], show b.dc.quality = z.dc.quality from hb.quality]
    rfl

/-! ### The kept span, in the numbers of the statement -/

theorem missedPeriod_eq (p : Period) (s : State) : missedPeriod p s =
    Nat.min (p.missing + Nat.min (secondsFrom s.dc.resetTime s.dc.time)
      (posNumber p.start + p.planned - posNumber s.dc.resetTime)) 65535 := by
  rw [missedPeriod, saturate16, sinceReset, periodEnd]

theorem missingSince_eq (i : Interval) (s : State) : missingSince i s =
    Nat.min (i.missing + Nat.min (secondsFrom s.dc.resetTime s.dc.time)
      (posNumber i.start + i.planned - posNumber s.dc.resetTime)) 65535 := by
  rw [missingSince, saturate16, sinceReset, intervalEnd]

theorem ite_minuteSince (s : State) (a b : Nat) : (if MinuteSince s then a else b) =
    if 60 ≤ s.dc.resetTime.sec % 60 + secondsFrom s.dc.resetTime s.dc.time then a else b := by
  have hs : sinceReset s = secondsFrom s.dc.resetTime s.dc.time := by rw [sinceReset]
  by_cases h : MinuteSince s
  · rw [if_pos h, if_pos (by rw [← hs]; exact h)]
  · rw [if_neg h, if_neg (by rw [← hs]; exact h)]

theorem peakSince_eq (i : Interval) (s : State) : peakSince i s =
    if 60 ≤ s.dc.resetTime.sec % 60 + secondsFrom s.dc.resetTime s.dc.time then
      Nat.max i.peak (s.mu.minuteAcc / 360000000)
    else i.peak := by
  rw [peakSince, ite_minuteSince, kwhUnit]

/-- Settles O6. -/
theorem unitsStartAtTheEndOfLoading : Obligations.UnitsStartAtTheEndOfLoading := by
  intro strap bytes img r s hm himg hok hrole now since n room handed gapped noRecord unchanged opened part partReset
    closed
  have hparts : ∀ {t f}, Opened r img s t f → opened t f := fun h => h.parts
  have hclosed : ∀ {t f}, ClosedAtOnce r img s t f → closed t f := fun h => ⟨h.tie, h.town⟩
  have hstore : room → StoreRoom s.rs := fun ⟨hq, hidle, hnext⟩ => ⟨hq, hidle, hnext⟩
  refine ⟨fun hlow => ?_, fun hlow hq => ?_⟩
  · obtain ⟨t, hexec, hchanged, hunchanged⟩ := loadComplete_starts hm himg hok hrole hlow
    refine ⟨t, hexec, fun hc => ?_, fun hc => ?_⟩
    · obtain ⟨⟨⟨ha, hb⟩, ⟨hw, hp, hacc⟩, hnp, hni, ho⟩, hno⟩ := hchanged hc
      exact ⟨ha, hb, hw, hp, hacc, hnp, hni, hno, hparts ho⟩
    · obtain ⟨hw, hp, htie, hmu, hother, htn, hmn, htk, hmk⟩ := hunchanged hc
      refine ⟨hw, hp, htie, hmu, hother, fun hr ho => (htn hr ho).imp_right hparts,
        fun hr ho => (hmn hr ho).imp_right hparts, fun p hr ho => ?_, fun i hr ho => ?_⟩
      · obtain ⟨hopen, hpast⟩ := htk p hr ho
        rw [missedPeriod_eq, sinceReset, periodEnd] at hopen
        rw [missedPeriod_eq, sinceReset, periodEnd] at hpast
        refine ⟨hopen, fun hge => ?_⟩
        obtain ⟨hnew, hrecord⟩ := hpast hge
        exact ⟨hparts hnew, fun hroom => hrecord (hstore hroom)⟩
      · intro left checked kept
        have hkept : resumedAs i (missingSince i s) (peakSince i s) s.dc.quality = kept := by
          rw [missingSince_eq, peakSince_eq, resumedAs]
        obtain ⟨hopen, hpast⟩ := hmk i hr ho
        rw [hkept, ite_minuteSince, sinceReset, intervalEnd] at hopen
        rw [hkept, sinceReset, intervalEnd] at hpast
        refine ⟨hopen, fun hge => ?_⟩
        obtain ⟨hnew, hrecord⟩ := hpast hge
        exact ⟨hparts hnew, fun hroom => hrecord (hstore hroom)⟩
  · obtain ⟨u, hreleased, hasserted, hload, ⟨hchanged, hunchanged⟩, hurole, hutime, huquality⟩ :=
      loadComplete_tells hm himg hok hrole hlow hq
    have hkept : ∀ {f}, NoRecord s u → Opened r img s u f → room →
        ClosedAtOnce r img s (tellAsserted (withSupply true u)) f := fun hno ho hroom =>
      ho.withSupply.closedAtOnce (y := withSupply true u) hurole hutime huquality (hno.1 hq) (hstore hroom)
    refine ⟨_, u, hreleased, hasserted, hload, fun h1 h2 => ?_, fun hroom hc => ?_, fun hroom hc htie htown => ?_⟩
    · have hquiet : tellAsserted (withSupply true u) = withSupply true u :=
        Accountless.tellAsserted ⟨fun h => h2 (Option.some.inj (hurole.symm.trans h)),
          fun h => h1 (Option.some.inj (hurole.symm.trans h))⟩
      have hno : NoRecord s u := by
        by_cases hc : unchanged
        · obtain ⟨-, -, -, -, hother, -⟩ := hunchanged hc
          exact hother h1 h2
        · exact (hchanged hc).2
      rw [hquiet]
      exact hno.1 hq
    · obtain ⟨hclear, hno⟩ := hchanged hc
      exact hclosed (hkept hno hclear.opened hroom)
    · obtain ⟨-, -, -, -, hother, htn, hmn, -, -⟩ := hunchanged hc
      by_cases hr : r = .exportTie
      · obtain ⟨hno, ho⟩ := htn hr (htie hr)
        exact hclosed (hkept hno ho hroom)
      · by_cases hr' : r = .townheat
        · obtain ⟨hno, ho⟩ := hmn hr' (htown hr')
          exact hclosed (hkept hno ho hroom)
        · exact ⟨fun h => absurd h hr, fun h => absurd h hr'⟩

end Sys2Proof.Machine
end
